-- ==== Sys2Proof/Word.lean ====
section
/-! DEFINITION. The word types of the block: bytes, register words and 64-bit addresses (spec/00_scope.md R7). -/

namespace Sys2Proof

/-- One byte of Marrow or of host data. -/
abbrev Byte := BitVec 8

/-- One 32-bit register of the control window (spec/19_register_pages.md R439). -/
abbrev Word := BitVec 32

/-- One 64-bit address or time value. -/
abbrev DWord := BitVec 64

end Sys2Proof
end

