-- ==== Sys2Proof/Syntax.lean ====
section
/-! DEFINITION. The commands of the block: one constructor per row of spec/opcode_table.json, with the
operands the rule of the row names. Operand choices are logged in notes/assumptions/1.md. -/

namespace Sys2Proof

/-- Kind of a memory-port answer (spec/18_ports_and_signals.md Table 18-2, spec/11 Table 11-2); `timeout` stands for an
answer that did not come within 16 us (R272). -/
inductive RspKind where
  | okay | poison | fault | error | timeout
  deriving DecidableEq, Repr, Inhabited

/-- What the memory ports answer to the reads that one step makes: the worst kind among the answers, the
bytes read in address order, and the lowest faulting page. -/
structure HostRead where
  kind : RspKind
  bytes : List Byte
  addr : DWord
  deriving DecidableEq, Repr, Inhabited

/-- The fields of a 64-byte submission entry other than `OPCODE` (spec/03_work_rings.md Table 3-1). -/
structure EntryBody where
  eflags : BitVec 8
  job : BitVec 8
  rsv03 : BitVec 8
  tag : BitVec 32
  srcAddr : BitVec 64
  srcLen : BitVec 32
  stream : BitVec 16
  epoch : BitVec 16
  sampleIndex : BitVec 64
  dstAddr : BitVec 64
  dstLen : BitVec 32
  arg : BitVec 32
  augAddr : BitVec 64
  arg2 : BitVec 32
  rsv3c : BitVec 32
  deriving DecidableEq, Repr, Inhabited

/-- Outcome of one start-up step (spec/17_bringup_and_reset.md Table 17-4): what the fuse array and the
firmware store answer, which physical Pods fail, and whether the shared domain fails. `fuses` gives, for each
of the 64 words, 32 data bits below the parity bit (R435); the slots are the bytes read (R385). -/
structure StepResult where
  fuses : List (BitVec 33)
  storeKind : RspKind
  slotA : List Byte
  slotB : List Byte
  podFails : List (Fin 100)
  sharedFail : Bool
  deriving DecidableEq, Repr, Inhabited

/-- A register with a ring behind it: a submission ring, or a completion ring with its `MASK` bit. -/
inductive RingSel where
  | sq (n : BitVec 12)
  | cq (c : BitVec 10) (mask : Bool)
  deriving DecidableEq, Repr, Inhabited

/-- What a memory-port answer belongs to: an outstanding request by port and tag (R425), or the read of the
submission slot at a ring's fetch index (R459). -/
inductive RspTarget where
  | req (port : BitVec 4) (tag : BitVec 10)
  | slot (sq : BitVec 12)
  deriving DecidableEq, Repr, Inhabited

/-- What the checks on the gates say of an operation (spec/14_result_integrity.md R339, R341, R343): all passed, or one kind of
check failed. -/
inductive VerdictResult where
  | pass
  | checksum (info : BitVec 32)
  | residue (info : BitVec 32)
  | parity (info : BitVec 32)
  | chard (info : BitVec 32)
  deriving DecidableEq, Repr, Inhabited

/-- Result of a Pod test (spec/14_result_integrity.md R352, R457). -/
inductive PodTestResult where
  | pass
  | fail (step : BitVec 4) (pack : BitVec 16)
  deriving DecidableEq, Repr, Inhabited

/-- Unit, operation and sensor fields that an error event carries into its Wayside record
(spec/15_fault_collector.md Table 15-3). -/
structure EventCtx where
  kind : BitVec 8
  opcode : BitVec 8
  tag : BitVec 32
  node : BitVec 16
  temp : BitVec 16
  volt : BitVec 16
  deriving DecidableEq, Repr, Inhabited

/-- Readings of the block's sensors at one sampling (spec/16_steward.md, Sensors and telemetry): hottest
temperature in signed eighths of a degree, powers in watts, current in amperes, and per physical Pod the
temperature, rail voltage, current, power and busy fraction that Table 16-5 carries. -/
structure Sensors where
  hottest : BitVec 16
  power10us : BitVec 16
  avgPower : BitVec 16
  avgPowerMw : BitVec 32
  powerMw : BitVec 32
  current : BitVec 16
  currentMa : BitVec 32
  podTemp : List (BitVec 16)
  podVolt : List (BitVec 16)
  podCurrent : List (BitVec 32)
  podPower : List (BitVec 32)
  podBusy : List (BitVec 32)
  blockBusy : BitVec 32
  deriving DecidableEq, Repr, Inhabited

/-- A buffer-pool answer (spec/11_marrow_and_streaming.md R286). -/
inductive PoolAnswer where
  | empty
  | addr (a : DWord)
  deriving DecidableEq, Repr, Inhabited

/-- What `TST_INJ` injects (spec/15_fault_collector.md R381): a pair pattern for 1 to 255 M-cycles, or flips of
bits of one word of a Marrow line (data bits 0 to 63, check bits 64 to 71). -/
inductive Injection where
  | pair (source : BitVec 5) (inst : BitVec 7) (t f : Bool) (cycles : BitVec 8)
  | flip (pod : Fin 100) (line : BitVec 17) (word : BitVec 3) (mask : BitVec 72)
  deriving DecidableEq, Repr, Inhabited

/-- The commands of the block, in the order of spec/opcode_table.json. -/
inductive Instr where
  | coldResetAssert
  | coldResetRelease
  | pllLock
  | pllLockLoss
  | powerLoss
  | warmResetAssert
  | warmResetRelease
  | startUpStepDone (r : StepResult)
  | aliveTick (refreshed : Bool)
  | registerWrite (addr : BitVec 22) (data : Word) (par : BitVec 4)
  | pageEnableSet (page : BitVec 12)
  | pageEnableClear (page : BitVec 12)
  | pageDrain (page : BitVec 12)
  | bind (job : BitVec 8) (route : HostRead)
  | unbind (job : BitVec 8)
  | save (job : BitVec 8) (atStage : Bool)
  | restore (job : BitVec 8) (route : HostRead)
  | jobCommandStart (job : BitVec 8) (image : HostRead)
  | jobLoadComplete (job : BitVec 8)
  | drainComplete (pod : Fin 100)
  | saveCommit (job : BitVec 8)
  | sqDoorbell (sq : BitVec 12) (data : Word)
  | ringOn (ring : RingSel)
  | cqOff (cq : BitVec 10) (mask : Bool)
  | ringDrain (sq : BitVec 12)
  | ringDrainDone (sq : BitVec 12) (walk : List EntryBody) (last : RspKind)
  | retry (sq : BitVec 12)
  | skip (sq : BitVec 12)
  | dropBatch (sq : BitVec 12)
  | cqHeadWrite (cq : BitVec 10) (data : Word)
  | cqMaskWrite (cq : BitVec 10) (mask : Bool)
  | slotRescanTimer (sq : BitVec 12)
  | entrySample (sq : BitVec 12) (opcode : BitVec 8) (e : EntryBody) (aug : HostRead)
  | entryFrame (sq : BitVec 12) (e : EntryBody) (aug : HostRead)
  | entryEndStream (sq : BitVec 12) (e : EntryBody)
  | entryTensor (sq : BitVec 12) (e : EntryBody)
  | entryFence (sq : BitVec 12) (e : EntryBody)
  | entryMilepostSet (sq : BitVec 12) (e : EntryBody)
  | entryMilepostClear (sq : BitVec 12) (e : EntryBody)
  | entryMilepostWait (sq : BitVec 12) (e : EntryBody)
  | entryMilepostTake (sq : BitVec 12) (e : EntryBody)
  | entryNop (sq : BitVec 12) (e : EntryBody)
  | fenceRelease (sq : BitVec 12)
  | milepostTimeout (sq : BitVec 12) (slot : BitVec 16)
  | completionWrite (cq : BitVec 10)
  | coalTimerExpire (cq : BitVec 10)
  | ingestTileOp (pod : Fin 100)
  | decodeTileOp (pod : Fin 100)
  | motionTileOp (pod : Fin 100)
  | shapeTileOp (pod : Fin 100)
  | layoutTileOp (pod : Fin 100)
  | tokeniseTileOp (pod : Fin 100)
  | packTileOp (pod : Fin 100)
  | matrixTileOp (pod : Fin 100)
  | vectorTileOp (pod : Fin 100)
  | sampleTileOp (pod : Fin 100)
  | digestTileOp (pod : Fin 100)
  | replicaLateTimer (group : BitVec 5)
  | transferTileOp (pod : Fin 100)
  | emitTileOp (pod : Fin 100)
  | batchEmit (sq : BitVec 12) (dir : HostRead)
  | batchFlushTimer (sq : BitVec 12)
  | dirSlotRetry (sq : BitVec 12) (dir : HostRead)
  | verdict (pod : Fin 100) (op : Nat) (r : VerdictResult)
  | scrubLine (pod : Fin 100)
  | memResponse (target : RspTarget) (kind : RspKind) (data : BitVec 512) (parityOk : Bool)
  | memTimeout (port : BitVec 4) (tag : BitVec 10)
  | mergeHoldExpire (pod : Fin 100)
  | multicastDeadline (pod : Fin 100) (op : Nat)
  | writeFaultRetry
  | xferResume (xfer : BitVec 12)
  | poolResponse (a : PoolAnswer)
  | poolRetryTimer (cls : BitVec 6)
  | poolTimeout
  | milepostSet (id : BitVec 18)
  | milepostClear (id : BitVec 18)
  | misuseZero (id : BitVec 18)
  | mpDump
  | arrive (gate : BitVec 8) (gen : Bool)
  | recover (gate : BitVec 8)
  | fail (gate : BitVec 8)
  | tgCfgWrite (gate : BitVec 8) (data : Word)
  | tollgateRelease (gate : BitVec 8)
  | halfEn (port : BitVec 3) (half : BitVec 3) (cfg : Word)
  | portReset (port : BitVec 3)
  | halfResume (port : BitVec 3) (half : BitVec 3)
  | heartbeatTimer
  | heartbeat (port : BitVec 3) (peer : BitVec 16)
  | portLost (port : BitVec 3)
  | write (port : BitVec 3) (ch : BitVec 2) (slot : BitVec 6) (line : BitVec 32)
      (prov pois : BitVec 4) (data : List (BitVec 512))
  | poison (port : BitVec 3) (ch : BitVec 2) (slot : BitVec 6) (line : BitVec 32) (mask : BitVec 64)
  | set (port : BitVec 3) (ch : BitVec 2) (slot : BitVec 6)
  | cwyArrive (port : BitVec 3) (ch : BitVec 2) (gate : BitVec 8)
  | credit (port : BitVec 3) (ch : BitVec 2) (slot : BitVec 6)
  | ack (port : BitVec 3) (ch : BitVec 2) (slot : BitVec 6)
  | abort (port : BitVec 3) (ch : BitVec 2) (code : BitVec 16)
  | cwyBind (port : BitVec 3) (ch : BitVec 2) (depth : BitVec 7) (lines : BitVec 25)
  | courierSend (port : BitVec 3) (ch : BitVec 2)
  | courierForwardLine (port : BitVec 3) (ch : BitVec 2)
  | fedCredit (port : BitVec 3) (ch : BitVec 2)
  | fedTakeTimeout (port : BitVec 3) (ch : BitVec 2)
  | suspectDrainDone
  | mapOutDone (pod : Fin 100)
  | podTestDone (pod : Fin 100) (r : PodTestResult)
  | rollTimer
  | swapCopyStart
  | swapCopyDone
  | load (image : HostRead)
  | remove (pack : BitVec 16)
  | faultEvent (source : BitVec 5) (inst : BitVec 7) (info : BitVec 32) (ctx : EventCtx)
  | wireFault (source : BitVec 5) (inst : BitVec 7) (high : Bool) (ctx : EventCtx)
  | wireFaultClear (source : BitVec 5) (inst : BitVec 7)
  | fltSevereClear (mask : Word)
  | fltCfgWrite (addr : BitVec 10) (data : Word)
  | freeze (on : Bool)
  | freezeTimeout
  | factory
  | tstInj (i : Injection)
  | ping (tag : BitVec 16)
  | telemNow (tag : BitVec 16) (sensors : Sensors)
  | logFlush (tag : BitVec 16)
  | shutdown (tag : BitVec 16)
  | fwUpdate (tag : BitVec 16) (addr : DWord) (xlat : Word) (size : Word) (image : HostRead) (storeOk : Bool)
  | fwQuery (tag : BitVec 16)
  | pop
  | logFlushTimer
  | telemetrySnapshot (sensors : Sensors)
  | throttleTick (sensors : Sensors)
  | rootStep
  | pwrVreqAck
  | pwrSwAck (pod : Fin 100) (level : Bool) (copyOk : Bool)
  | switchTimeout (pod : Fin 100)
  | idleGateTimer (pod : Fin 100)
  | pwrIlimReq (level : BitVec 2)
  | pwrIlimReqFall
  | pwrNMaxWrite (data : Word)
  | droopDetect (pod : Fin 100) (mv : BitVec 16)
  | droopRecover (pod : Fin 100)
  | droopCapExpire
  | rngProbe (ctrl : Word)
  | registerRead (addr : BitVec 22)
  | blockResetRelease
  | sparePodTestDue (pod : Fin 100)
  | illegalFlit (port : BitVec 3) (flit : BitVec 256) (parityOk : Bool)
  deriving DecidableEq, Repr, Inhabited

end Sys2Proof
end

