-- ==== Sys2Proof/Decode.lean ====
section
/-! DEFINITION. The command that a word of spec/opcode_table.json spells. The table gives no row any bits, so no
word spells a command. -/

namespace Sys2Proof

/-- The rows of the opcode table that have bits, as width, mask, match and command: there are none. -/
def tableRows : List (Nat × Nat × Nat × Instr) := []

/-- The command that a word of `nbits` bits spells by the opcode table. -/
def decodeTableWord (nbits w : Nat) : Option Instr :=
  (tableRows.find? fun r => decide (r.1 = nbits) && decide (w &&& r.2.1 = r.2.2.1)).map fun r => r.2.2.2

end Sys2Proof
end

