-- ==== Sys2Proof/Config.lean ====
section
/-! DEFINITION. What the spec leaves open: free values, as constants without a body. Each stands in
notes/assumptions/3.md or in the entry its docstring names. -/

namespace Sys2Proof.Config

/-- Free value: nearest-sensor temperature of an event that the block itself raises (Table 15-3); the argument
counts draws. -/
opaque sensorTemp : Nat → BitVec 16

/-- Free value: Pod rail voltage of an event that the block itself raises (Table 15-3). -/
opaque sensorVolt : Nat → BitVec 16

/-- Free value: path code of a parity error (Table 15-1, "Vangid's own"). -/
opaque pathCode : Nat → BitVec 8

/-- Free value: bytes of a persistent-log record with the given sequence number (R391: the layout is no
interface). -/
opaque logBytes : Nat → List (BitVec 8)

/-- Free value: what host memory answers to the read that a command written through the control port makes when the
command itself carries no answer (log 12); the arguments count draws and give the address. -/
opaque hostRead : Nat → Nat → HostRead

/-- Free value: sensor readings of a `TELEM_NOW` written through the control port (log 12). -/
opaque sensors : Nat → Sensors

/-- Implementation constant: whether an ECDSA P-384 signature (r then s, 96 bytes) over a SHA-384 hash (48 bytes)
verifies against the key in boot ROM (R385, R356). -/
opaque sigValid : List (BitVec 8) → List (BitVec 8) → Bool

/-- Free value: an unstated arithmetic result. The arguments are the operation and its operand patterns. -/
opaque unstated : Nat → List Nat → Nat

/-! ## External coding standards

What H.264, HEVC, VVC, AV1 and JPEG prescribe stands outside spec/ (R93). `codec` is what they give for the units of one
entry that the decoder keeps (R95), as data; every rule of spec/04 about that data is modelled in Machine/Decoder.lean. -/

/-- Free value: the orientation, 1 to 8, in an Exif segment (R106). -/
opaque exifOrient : List (BitVec 8) → Nat

/-- Samples of a picture as a coding standard reconstructs it, cropped: Table 4-10 fields, planes in raster order, and one
motion record a luma block of 16 x 16 for `MOTION` (R136): x, y and order distance tb of the first list, then of the second,
with tb 0 for a list not used; empty for an intra block. -/
structure Coded where
  width : Nat
  height : Nat
  format : Nat
  depthL : Nat
  depthC : Nat
  order : Int
  grain : Bool
  intra : Bool
  planes : List (List Nat)
  motion : List (List Int)
  deriving DecidableEq, Repr, Inhabited

/-- Profiles that Table 4-1 names, and any other. -/
inductive Profile where
  | h264ConstrainedBaseline | h264Main | h264High | h264High10 | hevcMain | hevcMain10 | hevcMain422x10 | vvcMain10 | av1Main
  | jpegBaseline | jpegExtended8 | jpegProgressive | other
  deriving DecidableEq, Repr, Inhabited

/-- Coding tools that Table 4-3 names. -/
inductive Tool where
  | fieldCoding | separatePlanes | losslessBypass | resampledReference | jpegFrame | jpeg12Bit
  deriving DecidableEq, Repr, Inhabited

/-- What a bitstream presents, in bitstream order: what R93 and R94 judge, parameter sets that arrive, a claimed size with the
offsets of its width element and of its header (R117), the complete headers of a picture (R113), and the corruptions of Table
4-13 with the place that each reports; `whole` if the picture's own headers are unusable (R123). -/
inductive CodecEvent where
  | profile (p : Profile)
  | format (chroma depthL depthC : Nat)
  | components (n : Nat)
  | sampling (f : Nat)
  | tool (t : Tool)
  | slices (n : Nat)
  | tiles (n : Nat)
  | buffers (n : Nat)
  | set (kind ident : Nat) (bytes : List (BitVec 8))
  | claim (w h ofs hdr : Nat)
  | header (w h format : Nat)
  | badSyntax (element : Nat) (whole : Bool)
  | entropy (byte : Nat)
  | truncated
  | paramMissing (header : Nat) (whole : Bool)
  | refMissing (header : Nat)
  | marker (unit : Nat) (whole : Bool)
  | overlap (slice : Nat)
  | gap
  | store (unit : Nat)
  deriving DecidableEq, Repr, Inhabited

/-- Kinds of resynchronisation points (Table 4-14). -/
inductive Resync where
  | slice | entryPoint | independentSlice | tile | obu | restart | scan
  deriving DecidableEq, Repr, Inhabited

/-- Damage in coded picture data (R120): the coding block, in decode order, in which it was found, and the points after it:
kind, byte offset and first block. -/
structure Break where
  block : Nat
  points : List (Resync × Nat × Nat)
  deriving DecidableEq, Repr, Inhabited

/-- A record of the DPB after the entry, in decode order: an earlier buffer or a picture of this entry by its index, or a
substitute (R123); with the reference flags of Table 4-9. -/
inductive DpbNext where
  | keep (i : Nat) (short long : Bool)
  | pic (i : Nat) (short long : Bool)
  | substitute
  deriving DecidableEq, Repr, Inhabited

/-- A picture of an entry, in decode order. `output`: primary (H.264), pic_output_flag (HEVC, VVC), shown (AV1); `rasl`: a RASL
picture of R103; `existing`: the DPB record that show_existing_frame names. `blocks` are the coding blocks (x, y, w, h) in decode
order, `breaks` the damage in them (R120), `vectors` the first-list vector of each decoded inter unit, `substRead` the units
predicted from a substitute; `tileCols`, `wavefront` and `slices` its partitionings (R109); `reads` the reference blocks that
its prediction reads, by band, DPB record and block (R116); `refBands` the bands of the previous picture among them (R110). -/
structure CodecPic where
  coded : Coded
  output : Bool
  rasl : Bool
  existing : Option Nat
  blocks : List (Nat × Nat × Nat × Nat)
  breaks : List Break
  vectors : List (Option (Int × Int))
  substRead : List Nat
  tileCols : List Nat
  wavefront : Nat
  slices : List (Nat × Nat × Nat × Nat)
  reads : List (Nat × Nat × Nat)
  refBands : List Nat
  deriving DecidableEq, Repr, Inhabited

/-- A parameter set: kind (VPS, SPS, PPS, APS, AV1 sequence header), identifier and parsed bytes (R101). -/
structure ParamSet where
  kind : Nat
  ident : Nat
  bytes : List (BitVec 8)
  deriving DecidableEq, Repr, Inhabited

/-- What the decoder is given: `DECODE` opcode, whether the entry is a still, its own state of the stream, the
parameter sets held and readable, the pictures of the DPB, and the units kept (R95) with their offsets. -/
structure CodecIn where
  opcode : Nat
  still : Bool
  state : List Nat
  params : List (Nat × ParamSet)
  dpb : List Coded
  units : List (Nat × List (BitVec 8))
  deriving DecidableEq, Repr, Inhabited

/-- What a coding standard gives for an entry (R93, R103). `colour` is the coded colour description (matrix, full range) if any,
`activates` the parameter-set slots that its pictures activate (R102), `hintBits` AV1's OrderHintBits. -/
structure CodecOut where
  events : List CodecEvent
  pics : List CodecPic
  colour : Option (Nat × Bool)
  dpb : List DpbNext
  activates : List Nat
  state : List Nat
  hintBits : Nat
  deriving DecidableEq, Repr, Inhabited

/-- Implementation constant: the decoder of an external coding standard. -/
opaque codec : CodecIn → CodecOut

end Sys2Proof.Config
end

