-- ==== Sys2Proof/Machine/Bits.lean ====
section
/-! DEFINITION. Byte order, bit fields and the check functions that the spec names: CRC-32 of IEEE 802.3 (R40),
CRC-64 of ECMA-182 (R124, R359), SHA-256 and SHA-384 (R241, R385). -/

namespace Sys2Proof.Machine

/-- The number that a little-endian byte list spells (R7). -/
def leNat : List Byte → Nat
  | [] => 0
  | b :: bs => b.toNat + 256 * leNat bs

/-- The `n` low bytes of a number, lowest first (R7). -/
def leBytes : Nat → Nat → List Byte
  | 0, _ => []
  | n + 1, v => BitVec.ofNat 8 v :: leBytes n (v / 256)

/-- Bytes `o` to `o + n - 1` of a list, read as zero past its end. -/
def slice (bs : List Byte) (o n : Nat) : List Byte :=
  let r := (bs.drop o).take n
  r ++ List.replicate (n - r.length) 0

/-- The little-endian field of `n` bytes at offset `o`. -/
def fieldLe (bs : List Byte) (o n : Nat) : Nat := leNat (slice bs o n)

/-- Bits [hi:lo] of a number. -/
def bits (v hi lo : Nat) : Nat := (v >>> lo) % 2 ^ (hi + 1 - lo)

/-- Bit `i` of a number. -/
def bitN (v i : Nat) : Bool := v.testBit i

/-- 1 or 0. -/
def b2n (b : Bool) : Nat := if b then 1 else 0

/-- The signed value of the low `n` bits of `v`. -/
def sext (n v : Nat) : Int := let w := v % 2 ^ n; if w < 2 ^ (n - 1) then w else (w : Int) - 2 ^ n

/-- The two's-complement `n`-bit pattern of an integer. -/
def ofInt (n : Nat) (v : Int) : Nat := (v % (2 ^ n : Int)).toNat

/-- The least integer not below `a / b`. -/
def ceilDiv (a b : Nat) : Nat := (a + b - 1) / b

/-- Even parity of the low `n` bits of `v`: the parity bit that makes their count of ones even (R338). -/
def evenPar : Nat → Nat → Bool
  | 0, _ => false
  | n + 1, v => xor (v % 2 = 1) (evenPar n (v / 2))

/-- Even byte parity of a 32-bit word (R427). -/
def wordPar (w : Word) : BitVec 4 :=
  BitVec.ofNat 4 ((List.range 4).foldl (fun a i => a + 2 ^ i * b2n (evenPar 8 (w.toNat >>> (8 * i)))) 0)

/-- The 32-bit words of a byte list, each little-endian. -/
def toWords : Nat → List Byte → List Nat
  | 0, _ => []
  | n + 1, bs => fieldLe bs 0 4 :: toWords n (bs.drop 4)

/-- A word as its four bytes. -/
def wordBytes (w : Word) : List Byte := leBytes 4 w.toNat

/-- One byte step of the reflected CRC-32 of IEEE 802.3. -/
def crc32Step (c : Nat) (b : Byte) : Nat :=
  (List.range 8).foldl (fun a _ => if a % 2 = 1 then (a / 2) ^^^ 0xEDB88320 else a / 2) (c ^^^ b.toNat)

/-- CRC-32 of IEEE 802.3. -/
def crc32 (bs : List Byte) : Nat := (bs.foldl crc32Step 0xFFFFFFFF) ^^^ 0xFFFFFFFF

/-- One byte step of the CRC-64 of ECMA-182: most significant bit first, generator 0x42F0E1EBA9EA3693. -/
def crc64Step (c : Nat) (b : Byte) : Nat :=
  (List.range 8).foldl
    (fun a _ => if a ≥ 2 ^ 63 then ((2 * a) % 2 ^ 64) ^^^ 0x42F0E1EBA9EA3693 else 2 * a)
    (c ^^^ (b.toNat * 2 ^ 56))

/-- CRC-64 of ECMA-182, initial value and final exclusive-or 0. -/
def crc64 (bs : List Byte) : Nat := bs.foldl crc64Step 0

/-- Rotation right of an `n`-bit word. -/
def rotr (n x k : Nat) : Nat := (x >>> k) ||| ((x <<< (n - k)) % 2 ^ n)

/-- First fractional bits of the cube roots of the first 80 primes, 64 bits each (the SHA-384 constants; their
high halves are the SHA-256 constants). -/
def shaK : List Nat :=
  [0x428A2F98D728AE22, 0x7137449123EF65CD, 0xB5C0FBCFEC4D3B2F, 0xE9B5DBA58189DBBC,
   0x3956C25BF348B538, 0x59F111F1B605D019, 0x923F82A4AF194F9B, 0xAB1C5ED5DA6D8118,
   0xD807AA98A3030242, 0x12835B0145706FBE, 0x243185BE4EE4B28C, 0x550C7DC3D5FFB4E2,
   0x72BE5D74F27B896F, 0x80DEB1FE3B1696B1, 0x9BDC06A725C71235, 0xC19BF174CF692694] ++
  [0xE49B69C19EF14AD2, 0xEFBE4786384F25E3, 0x0FC19DC68B8CD5B5, 0x240CA1CC77AC9C65,
   0x2DE92C6F592B0275, 0x4A7484AA6EA6E483, 0x5CB0A9DCBD41FBD4, 0x76F988DA831153B5,
   0x983E5152EE66DFAB, 0xA831C66D2DB43210, 0xB00327C898FB213F, 0xBF597FC7BEEF0EE4,
   0xC6E00BF33DA88FC2, 0xD5A79147930AA725, 0x06CA6351E003826F, 0x142929670A0E6E70] ++
  [0x27B70A8546D22FFC, 0x2E1B21385C26C926, 0x4D2C6DFC5AC42AED, 0x53380D139D95B3DF,
   0x650A73548BAF63DE, 0x766A0ABB3C77B2A8, 0x81C2C92E47EDAEE6, 0x92722C851482353B,
   0xA2BFE8A14CF10364, 0xA81A664BBC423001, 0xC24B8B70D0F89791, 0xC76C51A30654BE30,
   0xD192E819D6EF5218, 0xD69906245565A910, 0xF40E35855771202A, 0x106AA07032BBD1B8] ++
  [0x19A4C116B8D2D0C8, 0x1E376C085141AB53, 0x2748774CDF8EEB99, 0x34B0BCB5E19B48A8,
   0x391C0CB3C5C95A63, 0x4ED8AA4AE3418ACB, 0x5B9CCA4F7763E373, 0x682E6FF3D6B2B8A3,
   0x748F82EE5DEFB2FC, 0x78A5636F43172F60, 0x84C87814A1F0AB72, 0x8CC702081A6439EC,
   0x90BEFFFA23631E28, 0xA4506CEBDE82BDE9, 0xBEF9A3F7B2C67915, 0xC67178F2E372532B] ++
  [0xCA273ECEEA26619C, 0xD186B8C721C0C207, 0xEADA7DD6CDE0EB1E, 0xF57D4F7FEE6ED178,
   0x06F067AA72176FBA, 0x0A637DC5A2C898A6, 0x113F9804BEF90DAE, 0x1B710B35131C471B,
   0x28DB77F523047D84, 0x32CAAB7B40C72493, 0x3C9EBE0A15C9BEBC, 0x431D67C49C100D4C,
   0x4CC5D4BECB3E42B6, 0x597F299CFC657E2A, 0x5FCB6FAB3AD6FAEC, 0x6C44198C4A475817]

/-- A byte list as big-endian words of `w` bytes. -/
def beWords (w : Nat) : Nat → List Byte → List Nat
  | 0, _ => []
  | n + 1, bs => (slice bs 0 w).foldl (fun a b => a * 256 + b.toNat) 0 :: beWords w n (bs.drop w)

/-- The two functions of the message schedule and the two of the rounds, by word width. -/
def shaSig (n x : Nat) (a b c : Nat) (shift : Bool) : Nat :=
  rotr n x a ^^^ rotr n x b ^^^ (if shift then x >>> c else rotr n x c)

/-- The message schedule of one block, newest word first. -/
def shaSched (n : Nat) : Nat → List Nat → List Nat
  | 0, w => w
  | k + 1, w =>
    let s1 := let x := w.getD 1 0; if n = 32 then shaSig 32 x 17 19 10 true else shaSig 64 x 19 61 6 true
    let s0 := let x := w.getD 14 0; if n = 32 then shaSig 32 x 7 18 3 true else shaSig 64 x 1 8 7 true
    shaSched n k (((s1 + w.getD 6 0 + s0 + w.getD 15 0) % 2 ^ n) :: w)

/-- One round on the eight working words. -/
def shaRound (n : Nat) (v : List Nat) (kw : Nat × Nat) : List Nat :=
  match v with
  | [a, b, c, d, e, f, g, h] =>
    let s1 := if n = 32 then shaSig 32 e 6 11 25 false else shaSig 64 e 14 18 41 false
    let ch := (e &&& f) ^^^ ((2 ^ n - 1 - e) &&& g)
    let t1 := h + s1 + ch + kw.1 + kw.2
    let s0 := if n = 32 then shaSig 32 a 2 13 22 false else shaSig 64 a 28 34 39 false
    let mj := (a &&& b) ^^^ (a &&& c) ^^^ (b &&& c)
    [(t1 + s0 + mj) % 2 ^ n, a, b, c, (d + t1) % 2 ^ n, e, f, g]
  | _ => v

/-- One block of the compression function. -/
def shaBlock (n rounds : Nat) (h : List Nat) (block : List Byte) : List Nat :=
  let w := (shaSched n (rounds - 16) (beWords (n / 8) 16 block).reverse).reverse
  let ks := if n = 32 then (shaK.take 64).map (· >>> 32) else shaK
  let v := (ks.zip w).foldl (shaRound n) h
  (h.zip v).map fun p => (p.1 + p.2) % 2 ^ n

/-- Blocks of `len` bytes. -/
def shaBlocks (n rounds len : Nat) : Nat → List Nat → List Byte → List Nat
  | 0, h, _ => h
  | k + 1, h, bs => shaBlocks n rounds len k (shaBlock n rounds h (bs.take len)) (bs.drop len)

/-- A big-endian number of `n` bytes. -/
def beBytes (n v : Nat) : List Byte := (leBytes n v).reverse

/-- The padded message: 0x80, zeros, and the bit length in the last `lenBytes` bytes of a block. -/
def shaPad (len lenBytes : Nat) (bs : List Byte) : List Byte :=
  let z := (len - (bs.length + 1 + lenBytes) % len) % len
  bs ++ [0x80] ++ List.replicate z 0 ++ beBytes lenBytes (8 * bs.length)

/-- SHA-256. -/
def sha256 (bs : List Byte) : List Byte :=
  let m := shaPad 64 8 bs
  let h := shaBlocks 32 64 64 (m.length / 64)
    [0x6A09E667, 0xBB67AE85, 0x3C6EF372, 0xA54FF53A, 0x510E527F, 0x9B05688C, 0x1F83D9AB, 0x5BE0CD19] m
  h.flatMap (beBytes 4)

/-- SHA-384. -/
def sha384 (bs : List Byte) : List Byte :=
  let m := shaPad 128 16 bs
  let h := shaBlocks 64 80 128 (m.length / 128)
    [0xCBBB9D5DC1059ED8, 0x629A292A367CD507, 0x9159015A3070DD17, 0x152FECD8F70E5939,
     0x67332667FFC00B31, 0x8EB44A8768581511, 0xDB0C2E0D64F98FA7, 0x47B5481DBEFA4FA4] m
  (h.take 6).flatMap (beBytes 8)

end Sys2Proof.Machine
end

