-- ==== Sys2Proof/Machine/Smap.lean ====
section
/-! DEFINITION. Sparse tables: lists of key and value pairs in strictly rising key order without default values,
and sets of numbers as strictly rising lists. Every sparse piece of State is read and written through these. -/

namespace Sys2Proof.Machine

variable {α : Type}

/-- Inserts `x` before the first element that it does not follow. -/
def putSorted (le : α → α → Bool) (x : α) : List α → List α
  | [] => [x]
  | y :: l => if le x y then x :: y :: l else y :: putSorted le x l

/-- Sorts a list by `le`; equal elements keep their order. -/
def sortBy (l : List α) (le : α → α → Bool) : List α := l.foldr (putSorted le) []

/-- The value at key `k`, if listed. -/
def sget? : List (Nat × α) → Nat → Option α
  | [], _ => none
  | (j, v) :: m, k => if j = k then some v else sget? m k

/-- The value at key `k`, or `d` where the key is not listed. -/
def sgetD (m : List (Nat × α)) (k : Nat) (d : α) : α := (sget? m k).getD d

/-- Lists `v` at `k`, replacing what `k` held. -/
def sput : List (Nat × α) → Nat → α → List (Nat × α)
  | [], k, v => [(k, v)]
  | (j, w) :: m, k, v =>
    if k < j then (k, v) :: (j, w) :: m
    else if k = j then (k, v) :: m
    else (j, w) :: sput m k v

/-- Takes `k` out of the table. -/
def sdel : List (Nat × α) → Nat → List (Nat × α)
  | [], _ => []
  | (j, w) :: m, k => if k = j then m else (j, w) :: sdel m k

/-- Writes `v` at `k`; the default `d` is never listed. -/
def sset [DecidableEq α] (m : List (Nat × α)) (k : Nat) (v d : α) : List (Nat × α) :=
  if v = d then sdel m k else sput m k v

/-- Changes the value at `k` by `f`, starting from `d` where it is not listed. -/
def supd (m : List (Nat × α)) (k : Nat) (d : α) (f : α → α) : List (Nat × α) := sput m k (f (sgetD m k d))

/-- Changes the listed value at `k` by `f`; an unlisted key stays unlisted. -/
def smod (m : List (Nat × α)) (k : Nat) (f : α → α) : List (Nat × α) :=
  m.map fun e => if e.1 = k then (e.1, f e.2) else e

/-- Adds `k` to a rising list of numbers. -/
def nins : List Nat → Nat → List Nat
  | [], k => [k]
  | j :: m, k => if k < j then k :: j :: m else if k = j then j :: m else j :: nins m k

/-- Takes `k` out of a list of numbers. -/
def ndel (m : List Nat) (k : Nat) : List Nat := m.filter (· ≠ k)

/-- Adds or takes out `k`. -/
def nset (m : List Nat) (k : Nat) (b : Bool) : List Nat := if b then nins m k else ndel m k

/-- Keys strictly rise. -/
def rising : List (Nat × α) → Bool
  | [] => true
  | [_] => true
  | (j, _) :: (k, w) :: m => decide (j < k) && rising ((k, w) :: m)

/-- Numbers strictly rise. -/
def nrising : List Nat → Bool
  | [] => true
  | [_] => true
  | j :: k :: m => decide (j < k) && nrising (k :: m)

/-- The canonical form of a sparse table with default `d`: rising keys and no default value listed. -/
def canon [DecidableEq α] (m : List (Nat × α)) (d : α) : Bool := rising m && m.all fun e => decide (e.2 ≠ d)

end Sys2Proof.Machine
end

