-- ==== Sys2Proof/Machine/State.lean ====
section
/-! DEFINITION. The state of the block as plain data: every register, buffer, counter, mode and pin that the
spec names, the queue of waiting commands, and the state after reset. INVENTORY.md lists each piece with its
rule. Sparse tables are lists of key and value pairs in rising key order without default values. -/

namespace Sys2Proof.Machine

/-- Block states, codes 0 to 6 of spec/17_bringup_and_reset.md Table 17-1. -/
inductive BlockState where
  | cold | selfTest | roadside | ready | running | draining | halted
  deriving DecidableEq, Repr, Inhabited

/-- Pod states, codes 0 to 8 of spec/02_routes_and_stations.md Table 2-10. -/
inductive PodState where
  | off | test | idle | bound | draining | saving | restoring | suspect | mappedOut
  deriving DecidableEq, Repr, Inhabited

/-- Job states, codes 0 to 8 of spec/02_routes_and_stations.md Table 2-8. -/
inductive JobState where
  | none | binding | bound | draining | saving | saved | restoring | unbinding | failed
  deriving DecidableEq, Repr, Inhabited

/-- Submission-ring states, codes 0 to 3 of spec/03_work_rings.md Table 3-13. -/
inductive RingState where
  | disabled | active | stopped | draining
  deriving DecidableEq, Repr, Inhabited

/-- Job commands, `OP` 1 to 4 of spec/02_routes_and_stations.md Table 2-7. -/
inductive JobOp where
  | bind | unbind | save | restore
  deriving DecidableEq, Repr, Inhabited

/-- Which reset input or internal reset holds the block (spec/17 R410, R411). -/
inductive ResetKind where
  | none | cold | warm | block
  deriving DecidableEq, Repr, Inhabited

/-- Pins of the block level and the last answer of the control port (spec/18_ports_and_signals.md). -/
structure Pins where
  coldN : Bool
  warmN : Bool
  present : Bool
  alive : Bool
  rstReq : Bool
  ctlData : Word
  ctlErr : Bool
  deriving DecidableEq, Repr, Inhabited

/-- Block state and start-up record (spec/17 Tables 17-2, 17-10; spec/03 Table 3-17). -/
structure Block where
  st : BlockState
  shut : Bool
  step : Nat
  lastRst : Nat
  resetBy : ResetKind
  bootCode : Nat
  bootMapped : Nat
  readyTime : Nat
  warmCnt : Nat
  blockCnt : Nat
  haltWhere : Word
  haltWhy : Word
  haltTime : Nat
  haltEntry : List Word
  deriving DecidableEq, Repr, Inhabited

/-- Stored words and counters of the control window, keyed by word address (page x 1,024 + offset / 4).
`rsv` is the record of R456, `live` and `latched` the 64-bit counters keyed by the address of the low live
word, `hi` the high words latched by reads of RL counters (R12). -/
structure RegFile where
  words : List (Nat × Word)
  rsv : List Nat
  live : List (Nat × Nat)
  latched : List (Nat × Nat)
  hi : List (Nat × Word)
  deriving DecidableEq, Repr, Inhabited

/-- Why a Pod is in `TEST` (spec/14 R348, R352 to R354; spec/17 R406). -/
inductive TestWhy where
  | none | startUp | spareFor (logical : Nat) | spareDue | prepared | swapped | rebind
  deriving DecidableEq, Repr, Inhabited

/-- One physical Pod (spec/01 Table 1-1, spec/02 Tables 2-12, 2-13, spec/14 Table 14-9, spec/16 R393, R396). -/
structure Pod where
  role : Nat
  logical : Nat
  st : PodState
  gated : Bool
  job : Nat
  bindValid : Bool
  member : Nat
  tests : Nat
  cause : Nat
  testTime : Nat
  copyOk : Bool
  swReq : Bool
  swAck : Bool
  isolated : Bool
  droop : Bool
  droops : Nat
  tempMax : BitVec 16
  voltMin : BitVec 16
  scrub : Nat
  why : TestWhy
  due : Bool
  deriving DecidableEq, Repr, Inhabited

/-- Marrow and accumulator stores of all Pods (spec/11 R261, R262; spec/09 R228). Byte key: physical Pod x
6,291,456 + local address; line key: byte key / 64; word key: byte key / 8; accumulator key: (physical Pod x 8
+ tile) x 4,096 + element. -/
structure Marrow where
  bytes : List Host.Cell
  poison : List Nat
  prov : List Nat
  ecc : List (Nat × BitVec 72)
  acc : List (Nat × Word)
  accPoison : List Nat
  deriving DecidableEq, Repr, Inhabited

/-- Source of a Milepost or Tollgate operation (spec/12 R295, Table 12-4). -/
inductive MpSource where
  | pod (logical kind : Nat)
  | ring (sq slot : Nat)
  | control
  | cwy (port ch : Nat)
  | steward
  deriving DecidableEq, Repr, Inhabited

/-- One Milepost record (spec/12 Table 12-4) without the parts computed from elsewhere. -/
structure MpRec where
  value : Bool
  consumed : Bool
  setTime : Nat
  misSet : Nat
  misClr : Nat
  misTake : Nat
  lastSrc : Nat
  lastOp : Nat
  deriving DecidableEq, Repr, Inhabited

/-- A pending `WAIT` or `TAKE` (spec/12 R293). `seq` ranks waiters of one source by age. -/
structure Waiter where
  id : Nat
  take : Bool
  src : MpSource
  seq : Nat
  deriving DecidableEq, Repr, Inhabited

/-- Milepost bank, waiters and dump (spec/12 R292 to R309). -/
structure MpBank where
  recs : List (Nat × MpRec)
  waiters : List Waiter
  seq : Nat
  dumpState : Nat
  dumpSevere : Bool
  dumpSkipped : Bool
  dumpUnit : Nat
  dumpT0 : Nat
  dumpT1 : Nat
  deriving DecidableEq, Repr, Inhabited

/-- One block Tollgate (spec/12 R310 to R316). `members` and `externals` hold the arrivals of the open
generation; `count` is the number of the open generation, and `unseen` says that the host arrived for the last one and has not yet
observed its release (R313). -/
structure Gate where
  assigned : Bool
  job : Nat
  index : Nat
  gen : Bool
  broken : Bool
  ext : BitVec 9
  extNext : Option (BitVec 9)
  members : List Nat
  externals : List Nat
  parts : Nat
  count : Nat
  misuse : Nat
  misuser : Nat
  unseen : Bool
  deriving DecidableEq, Repr, Inhabited

/-- Route node (spec/02 Table 2-2). -/
structure Node where
  kind : Nat
  opcode : Nat
  flags : Nat
  inFirst : Nat
  inCount : Nat
  outCount : Nat
  outFirst : Nat
  descFirst : Nat
  descCount : Nat
  accTiles : Nat
  tollgate : Nat
  paramOfs : Nat
  paramSize : Nat
  scratch : Nat
  rsv : Nat
  deriving DecidableEq, Repr, Inhabited

/-- Route edge (spec/02 Table 2-3). -/
structure Edge where
  producer : Nat
  consumer : Nat
  bufLocal : Nat
  bufGranules : Nat
  depth : Nat
  sync : Nat
  mpBase : Nat
  rsv : Nat
  deriving DecidableEq, Repr, Inhabited

/-- Tensor descriptor (spec/07 Table 7-1). -/
structure Desc where
  dtype : Nat
  rank : Nat
  space : Nat
  dflags : Nat
  blockDim : Nat
  rsv5 : Nat
  edge : Nat
  base : Nat
  scaleBase : Nat
  pad : Nat
  rsv1c : Nat
  size : List Nat
  stride : List Int
  rsv70 : Nat
  deriving DecidableEq, Repr, Inhabited

/-- A parsed route image (spec/02 R40, R41). -/
structure Route where
  magic : Nat
  version : Nat
  hdrSize : Nat
  imageSize : Nat
  crc : Nat
  nodeCount : Nat
  edgeCount : Nat
  descCount : Nat
  podsMin : Nat
  podsMax : Nat
  localMin : Nat
  mpPer : Nat
  tollgates : Nat
  nodeOfs : Nat
  edgeOfs : Nat
  descOfs : Nat
  paramOfs : Nat
  paramSize : Nat
  accMax : Nat
  flags : Nat
  maxTasks : Nat
  rsv3c : Nat
  crcComputed : Nat
  nodes : List Node
  edges : List Edge
  descs : List Desc
  params : List Byte
  deriving DecidableEq, Repr, Inhabited

/-- An accepted job command (spec/02 R44 to R50): the Pods it names and has not yet started on, the gates it
reserved, and its arguments. -/
structure JobCmd where
  op : JobOp
  atStage : Bool
  pods : List Nat
  unstarted : List Nat
  gates : List Nat
  route : Route
  window : Nat
  seed : Nat
  imageAddr : Nat
  imageSize : Nat
  deriving DecidableEq, Repr, Inhabited

/-- A band: 64 luma rows of a partition, the last of a partition may be shorter (spec/04 R107). -/
structure Band where
  part : Nat
  x : Nat
  y : Nat
  w : Nat
  rows : Nat
  deriving DecidableEq, Repr, Inhabited

/-- What a tile slot of an edge holds: the entry rank and task it serves, its number among the hand-offs of the entry,
whether it is the last of them, the stage it belongs to, and for a band of a `DECODE` node its area. -/
structure Fill where
  rank : Nat
  task : Nat
  band : Nat
  last : Bool
  stage : Nat
  area : Option Band
  deriving DecidableEq, Repr, Inhabited

/-- State of one edge on one member (spec/12 R297): fresh marks, fills, next slot of each end, and the slots
filled and not yet released on a stage edge. -/
structure EdgeSt where
  fresh : List Nat
  fills : List (Nat × Fill)
  prodNext : Nat
  consNext : Nat
  staged : List Nat
  deriving DecidableEq, Repr, Inhabited

/-- The work a node has begun: the entry rank and task it serves, its next tile operation, their number, and
the edge slots (member x 4,096 + edge, slot) it reads and writes. -/
structure Work where
  rank : Nat
  task : Nat
  tile : Nat
  total : Nat
  ins : List (Nat × Nat)
  outs : List (Nat × Nat)
  deriving DecidableEq, Repr, Inhabited

/-- State of one node on one member: works begun in task order, pictures of an open tubelet group (spec/08 R199),
and for a `FURLONG` node (spec/14 R359, R360) the releases counted, the digests due, the partial sum of the digest
under way and whether this member's part of it is done; `units` names, by the rank that completed a token record, the
ranks of its group (spec/08 R205); `failed` are the ranks of `MOTION` and `SHAPE` records of which an operation failed its
verdict (spec/05 R143, spec/06 R165). -/
structure NodeSt where
  works : List Work
  group : List Nat
  relCount : Nat
  digDue : Nat
  sum : Nat
  done : Bool
  units : List (Nat × List Nat)
  failed : List Nat
  deriving DecidableEq, Repr, Inhabited

/-- A job (spec/02 R44, R48, R49, R57; spec/10 R248; spec/12 R310). `phase` is the progress of a save: 1 COMMIT 0
sent, 2 granules, 3 COMMIT sent, 4 acknowledged. `gateCounts` holds the open generation of each gate across a save
(R310). `nodes` is keyed member x 1,024 + node,
`edges` member x 4,096 + edge. -/
structure Job where
  st : JobState
  members : List Nat
  resizable : Bool
  reason : Nat
  queued : List JobCmd
  active : Option JobCmd
  route : Route
  window : Nat
  seed : Nat
  slotPos : List Nat
  nextTask : Nat
  nextRank : Nat
  stage : Nat
  gates : List Nat
  gateCounts : List Nat
  nodes : List (Nat × NodeSt)
  edges : List (Nat × EdgeSt)
  ctxAddr : Nat
  ctxSize : Nat
  ctxCrc : Nat
  srcPods : Nat
  saveTime : Nat
  phase : Nat
  deriving DecidableEq, Repr, Inhabited

/-- Life of a fetched entry before its final completion (spec/03 R65 to R84). -/
inductive EntryState where
  | queued | running | waiting | suspended | stopped | done
  deriving DecidableEq, Repr, Inhabited

/-- A fetched entry without its final completion written (spec/03 Table 3-1, R67, R86; spec/10 R249).
`hash` is the CRC-64 of its source bytes (spec/04 R124), `srcPoison` whether its host record was not answered `OKAY`; `refusal`
is the code of a refusal that waits for the end of a stop (R81), 0 for none. -/
structure Entry where
  sq : Nat
  slot : Nat
  rank : Nat
  opcode : Nat
  body : EntryBody
  job : Nat
  task : Nat
  member : Nat
  stage : Nat
  st : EntryState
  aug : List Byte
  bases : List (Nat × Nat)
  srcPoison : Bool
  hash : Nat
  placed : Nat
  concealed : Nat
  sinks : List Nat
  stopKind : Nat
  stopOfs : Nat
  refusal : Nat
  deriving DecidableEq, Repr, Inhabited

/-- What a memory request is for. Numbers name transfers, rings, jobs, streams, ports and halves. -/
inductive Purpose where
  | transfer (num tile op ofs : Nat)
  | completion (cq sq slot : Nat) (xfer : Option Nat)
  | message (who : Nat)
  | buffer (move tile : Nat)
  | directory (sq : Nat)
  | context (stream job rank : Nat)
  | param (stream slot quarter : Nat)
  | log
  | telemetry
  | dump (id : Nat)
  | saveGran (job member gran : Nat)
  | restoreGran (job member gran : Nat)
  | commit (job : Nat) (final : Bool)
  | aperture (port half slot line : Nat)
  | nibble (op : Nat)
  | firmware
  deriving DecidableEq, Repr, Inhabited

/-- A memory request: held for merging, outstanding on a port, or kept for repetition (spec/11 R270 to R275,
R282; spec/18 R423 to R425). `mask` has one bit a byte, `pois` one bit a line, `cls` 0 read, 1 write, 2 remote,
`also` what else a merged request is for; `beats`, `worst` (0 okay, 1 poison, 2 error, 3 fault), `got` and `gotPois`
the answer so far; `again` marks a write that was faulted. A nibble read (R458) carries the nibble in `data` and its bits in `mask`. -/
structure MemReq where
  port : Nat
  tag : Nat
  write : Bool
  addr : Nat
  lines : Nat
  data : List Byte
  mask : Nat
  pois : Nat
  xlat : Nat
  cls : Nat
  pod : Nat
  purpose : Purpose
  also : List Purpose
  beats : Nat
  worst : Nat
  got : List Byte
  gotPois : Nat
  again : Bool
  deriving DecidableEq, Repr, Inhabited

/-- A reference block that is read from a buffer (spec/04 R116): buffer, unit-map bytes, block, its units, `XLAT_CTX`. -/
structure BlockRead where
  buf : Nat
  map : Nat
  block : Nat
  units : Nat
  xlat : Nat
  deriving DecidableEq, Repr, Inhabited

/-- What the end of a buffer transfer does: nothing more, it gives an operation its reference data, or a batch is visible. -/
inductive MoveEnd where
  | write
  | fetch (op : Nat)
  | batch (sq : Nat)
  deriving DecidableEq, Repr, Inhabited

/-- A fetch or write-back of a picture, motion-reference or batch buffer (spec/11 R282): its transfer (none while it waits for
a context), the member whose `TRANSFER` runs it and the work it serves, its 4 KiB tiles, the tile under way, whether that tile's
requests are out, the blocks to check at its end, and the bytes and poisoned host lines read. -/
structure BufMove where
  id : Nat
  num : Option Nat
  job : Nat
  member : Nat
  node : Nat
  rank : Nat
  tiles : List (List MemReq)
  next : Nat
  out : Bool
  ends : MoveEnd
  blocks : List BlockRead
  got : List (Nat × Byte)
  gotPois : List Nat
  deriving DecidableEq, Repr, Inhabited

/-- A tile operation in flight: issued and not yet retired by its verdict (spec/02 R36, R39, R51; spec/14 R341).
`pod` is the physical Pod whose station runs it and `member` the home member of its task. `lines` are the Marrow
lines it wrote, `ins` and `outs` the edge slots (member x 4,096 + edge, slot) that its verdict releases and
announces with the `fills` they carry, `last` whether it ends its node's work on `rank`; `sent` its memory requests, `awaiting` those not yet
answered, `got` the bytes answered by host address and `gotPois` the poisoned host lines; `dropped` the receivers a
multicast has not served; `after` the tiles of the buffer write-back that follows its passed verdict (R342); `excluded` and `failing` what its row and column
checksums give: lines excluded, and a line that fails (R340). -/
structure TileOp where
  id : Nat
  pod : Nat
  job : Nat
  member : Nat
  node : Nat
  kind : Nat
  opcode : Nat
  rank : Nat
  task : Nat
  tile : Nat
  lines : List Nat
  awaiting : Nat
  ins : List (Nat × Nat)
  outs : List (Nat × Nat)
  fills : List (Nat × Nat × Fill)
  last : Bool
  xfer : Option Nat
  dropped : List Nat
  sent : List MemReq
  got : List (Nat × Byte)
  gotPois : List Nat
  after : List (List MemReq)
  excluded : Nat
  failing : Option Nat
  deriving DecidableEq, Repr, Inhabited

/-- A completion that is due and not yet written (spec/03 Tables 3-3, 3-4, R76). -/
structure Due where
  sq : Nat
  slot : Nat
  tag : Nat
  status : Nat
  final : Bool
  detail : Nat
  count : Nat
  info : Nat
  reserved : Bool
  irqNow : Bool
  xfer : Option Nat
  deriving DecidableEq, Repr, Inhabited

/-- One packing unit placed in a batch (spec/08 R205, R206): the entries of its group, its place, the T of its
positions and its token-record header. Its tokens lie in the assembly area of its batch (R204). -/
structure BatchUnit where
  ranks : List Nat
  time : Nat
  row : Nat
  first : Nat
  count : Nat
  header : List Byte
  deriving DecidableEq, Repr, Inhabited

/-- Progress of a closed batch (spec/08 R208, R209). -/
inductive BatchPhase where
  | needBuf | asked | haveBuf | writing | written | dirWait | dirWriting
  deriving DecidableEq, Repr, Inhabited

/-- A batch, open or closed (spec/08 Tables 8-5, 8-7). -/
structure Batch where
  number : Nat
  row : Nat
  rowUsed : Nat
  units : List BatchUnit
  close : Nat
  closeTime : Nat
  phase : BatchPhase
  buf : Nat
  firstTime : Nat
  deriving DecidableEq, Repr, Inhabited

/-- Assembly state of a submission ring (spec/08 R204 to R207): its slot, open and closed batches, the ranks placed,
and the ranks passed over or removed. -/
structure Assembly where
  slot : Option Nat
  openB : Batch
  closed : List Batch
  placed : List Nat
  removed : List Nat
  deriving DecidableEq, Repr, Inhabited

/-- A submission ring (spec/03 R68 to R84). `drainStatus` is the status of the final completions of a drain,
`cause` the rank of the entry that caused it and its status (Table 3-7). -/
structure Sq where
  st : RingState
  rescan : Bool
  scan : Bool
  backoff : Bool
  stopSlot : Nat
  fetch : Nat
  phase : Bool
  fence : Option Nat
  drainStatus : Nat
  walked : Bool
  asm : Assembly
  deriving DecidableEq, Repr, Inhabited

/-- A completion ring (spec/03 R76 to R79). -/
structure Cq where
  on : Bool
  tail : Nat
  phase : Bool
  irqPend : Bool
  reserved : Nat
  since : Nat
  timing : Bool
  due : List Due
  deriving DecidableEq, Repr, Inhabited

/-- The fetch arbiter (spec/03 R73): ring being served, entries left of its burst, credit spent this round. -/
structure Arbiter where
  cur : Nat
  burst : Nat
  spent : List (Nat × Nat)
  deriving DecidableEq, Repr, Inhabited

/-- Inputs of the picture pipeline that one picture needs later: its descriptor fields (spec/04 Table 4-10) and
its planes, each a list of samples in raster order with the plane's width and height. -/
structure Picture where
  width : Nat
  height : Nat
  format : Nat
  depthL : Nat
  depthC : Nat
  matrix : Nat
  range : Nat
  frameNo : Nat
  order : Int
  srcHash : Nat
  concealed : Nat
  pflags : Nat
  stream : Nat
  planes : List (List Nat)
  motion : List (List Int)
  deriving DecidableEq, Repr, Inhabited

/-- A picture buffer in the reference store (spec/04 R112 to R116): its address, `DFLAGS` of Table 4-9, and the picture
whose reference units it holds. -/
structure DpbRec where
  buf : Nat
  frameNo : Nat
  dflags : Nat
  pic : Picture
  deriving DecidableEq, Repr, Inhabited

/-- The motion reference of a stream (spec/05 R132, R134): its buffer, the picture, the stored field. -/
structure MotionRef where
  buf : Nat
  pic : Picture
  vectors : List (Int × Int)
  td : Int
  present : Bool
  deriving DecidableEq, Repr, Inhabited

/-- A stream context (spec/04 Tables 4-8, 4-9). `runHash` is the running hash up to the last picture started and `doneHash`
after the last completed entry, `prev` the previous forwarded picture (R123), `codecState` what the coding standard carries
besides, `hintBits` AV1's OrderHintBits (spec/05 R136); `pool` is the class of its picture buffers, `asked` the entry for which
the parameter-set slots `slotGot` are read back (R102), `sampled` whether a `SAMPLE` was the previous forwarded picture (spec/05
R135). -/
structure Stream where
  cstate : Nat
  job : Nat
  codec : Nat
  policy : Nat
  sq : Nat
  task : Nat
  lastErr : Nat
  frameNo : Nat
  concealed : Nat
  params : List (Nat × Config.ParamSet)
  runHash : Nat
  doneHash : Nat
  openTime : Nat
  lastTime : Nat
  width : Nat
  height : Nat
  format : Nat
  depth : Nat
  dpb : List DpbRec
  prev : Option Picture
  mref : Option MotionRef
  codecState : List Nat
  hintBits : Nat
  pool : Nat
  asked : Option Nat
  slotGot : List (Nat × List Byte)
  sampled : Bool
  deriving DecidableEq, Repr, Inhabited

/-- One entry of the decoded-sample cache (spec/04 R124 to R127). -/
structure CacheEnt where
  slot : Nat
  stream : Nat
  frameNo : Nat
  hash : Nat
  job : Nat
  codec : Nat
  last : Nat
  pic : Picture
  deriving DecidableEq, Repr, Inhabited

/-- A picture of an entry at its `DECODE` node (spec/04 R103, R107, R110, R116): its bands, the buffer it goes to and the one
it is read back from (address, `XLAT_CTX`), and the reference blocks that its bands read. -/
structure PicWork where
  pic : Picture
  bands : List Band
  store : Option (Nat × Nat)
  source : Option (Nat × Nat)
  reads : List (Nat × BlockRead)
  deriving DecidableEq, Repr, Inhabited

/-- A `DECODE` tile operation (spec/04 R107): its picture of the entry, its partition, and the bands it begins and ends. -/
structure PlanOp where
  pic : Nat
  part : Nat
  starts : List Nat
  ends : List Nat
  deriving DecidableEq, Repr, Inhabited

/-- What a node holds of the pictures of an entry. At a `DECODE` node: the source bytes taken in, the forwarded picture, whether
it is served from the cache, the cache slot that it reads or fills, whether it is poisoned (R116), the pictures with the index of the forwarded one, the
planned operations, those not yet issued, and the bands (picture, band) announced; `whole` once all of them are. At a `MOTION`, `SHAPE` or `TOKENISE` node: what
the node has collected of the picture, with its bands; at a `MOTION` node also the motion reference it searches, the vectors
found by block, and the motion reference that the verified field becomes (spec/05 R134). -/
structure DecodeJob where
  job : Nat
  member : Nat
  node : Nat
  rank : Nat
  pic : Picture
  bands : List Band
  cached : Bool
  slot : Option Nat
  poisoned : Bool
  src : List (Nat × Byte)
  works : List PicWork
  shown : Option Nat
  plan : List PlanOp
  left : List Nat
  announced : List (Nat × Nat)
  whole : Bool
  ref : Option MotionRef
  field : List (Nat × (Int × Int))
  next : Option MotionRef
  deriving DecidableEq, Repr, Inhabited

/-- A transfer holding a context (spec/11 R282 to R284): state 1 running, 2 paused, 3 paused with its `RESUME` taken
before `FAULT_PENDING` was posted; the work it serves, the restart cursor and faulting page, whether a request of
it was faulted since it last started, and the buffer transfer that it carries, if any. -/
structure Xfer where
  num : Nat
  state : Nat
  job : Nat
  rank : Nat
  node : Nat
  member : Nat
  cursor : Nat
  page : Nat
  faulted : Bool
  move : Option Nat
  deriving DecidableEq, Repr, Inhabited

/-- Who asked the buffer pool (spec/11 R286; spec/04 R112; spec/05 R132; spec/08 R208). -/
inductive PoolUser where
  | picture (stream : Nat)
  | motion (stream : Nat)
  | batch (sq : Nat)
  deriving DecidableEq, Repr, Inhabited

/-- The read that the last command to carry an answer of host memory stands for: its first byte address, its lines, its
`XLAT_CTX` and its answer (R88, R271). -/
structure DirectRead where
  addr : Nat
  lines : Nat
  xlat : Nat
  kind : RspKind
  deriving DecidableEq, Repr, Inhabited

/-- Memory ports, transfers, buffer transfers and pools (spec/11, spec/18). `direct` is the last read whose answer a command carried. -/
structure Mem where
  reqs : List MemReq
  held : List MemReq
  retry : List MemReq
  xfers : List Xfer
  moves : List BufMove
  poolAsk : List (Nat × PoolUser)
  poolWait : List (Nat × PoolUser)
  poolHeld : List (Nat × List Nat)
  poolGot : List (PoolUser × Nat)
  poolLate : List Nat
  poolRejected : List (Nat × Nat)
  poolFrees : List (Nat × Nat)
  direct : Option DirectRead
  deriving DecidableEq, Repr, Inhabited

/-- States of a Causeway half, codes 0 to 4 of spec/13 Table 13-6. -/
inductive HalfState where
  | unbound | active | parked | faulted | stopped
  deriving DecidableEq, Repr, Inhabited

/-- A line waiting in the channel buffer of a memory aperture (spec/13 R326). -/
structure ApLine where
  slot : Nat
  line : Nat
  data : List Byte
  prov : Bool
  pois : Bool
  sent : Bool
  deriving DecidableEq, Repr, Inhabited

/-- A bound half (spec/13 R324 to R330). `credits` are the slots whose credit is outstanding, `next` the slot of
the next `TAKE`, `wrote` the lines (slot, line) that the producer has written for the next `SET`, `sent` those of them already
forwarded, `sets` the slots announced and not yet acknowledged, `buffer` the channel buffer, `bufSets` the slots (or 1000 + a
gate) announced behind it, each with the number of buffered lines before it. A half that feeds bands counts them: `band` the next, `bands`
those of the picture. -/
structure Half where
  st : HalfState
  job : Nat
  member : Nat
  edge : Nat
  depth : Nat
  lines : Nat
  slot : Nat
  credits : List Nat
  next : Nat
  peer : Bool
  waiting : Bool
  wrote : List (Nat × Nat)
  sent : List (Nat × Nat)
  sets : List Nat
  buffer : List ApLine
  bufSets : List (Nat × Nat)
  band : Nat
  bands : Nat
  deriving DecidableEq, Repr, Inhabited

/-- A flit handed to a link: port, header fields and payload (spec/13 Table 13-1). -/
structure Flit where
  kind : Nat
  ch : Nat
  slot : Nat
  line : Nat
  prov : Nat
  pois : Nat
  data : List Byte
  deriving DecidableEq, Repr, Inhabited

/-- A Causeway port (spec/13 R322, R331 to R336): state 0 DOWN, 1 UP, 2 LOST; `tx` the flits issued in order that wait for the
link, `turn` the channel whose turn is next, `link` the flits and write groups that the link has taken, in its order. -/
structure CPort where
  st : Nat
  peerId : Nat
  halves : List (Nat × Half)
  tx : List Flit
  turn : Nat
  link : List Flit
  deriving DecidableEq, Repr, Inhabited

/-- Counting state of one source in one instance (spec/15 R367, R370); instance 127 is the block. -/
structure Inst where
  count : Nat
  start : Nat
  severe : Bool
  wired : Bool
  deriving DecidableEq, Repr, Inhabited

/-- A Wayside record (spec/15 Table 15-3) with the instance and window it belongs to (R377); `waitN` merges with the
reactions `waitRf` wait for the end of a freeze (R378). -/
structure Wayside where
  time : Nat
  page : Nat
  phys : Nat
  logical : Nat
  source : Nat
  rflags : Nat
  kind : Nat
  opcode : Nat
  tag : Nat
  node : Nat
  temp : Nat
  volt : Nat
  count : Nat
  info : Word
  inst : Nat
  window : Nat
  closed : Bool
  waitN : Nat
  waitRf : Nat
  deriving DecidableEq, Repr, Inhabited

/-- The fault collector (spec/15). `log` is keyed by slot, newest at `newest`; `hold` is the hold queue. -/
structure Collector where
  insts : List (Nat × Inst)
  log : List (Nat × Wayside)
  newest : Nat
  written : Nat
  freeze : Bool
  hold : List Wayside
  irqPend : Bool
  active : Word
  severe : Word
  wire : Word
  errLatch : Bool
  replaced : Bool
  deriving DecidableEq, Repr, Inhabited

/-- A firmware slot as the boot ROM found it (spec/16 R385, R386). -/
structure FwSlot where
  valid : Bool
  ver : Nat
  seq : Nat
  deriving DecidableEq, Repr, Inhabited

/-- A record of the persistent log that start-up reads again (spec/16 R391): a field map-out, a spare that took
a logical ID, an installed or removed pack, a firmware commit, a shutdown. -/
inductive LogRec where
  | mapOut (phys : Nat)
  | assign (phys logical : Nat)
  | pack (id ver : Nat)
  | unpack (id : Nat)
  | fw (ver seq : Nat)
  | shutdown
  | wayside (source : Nat)
  deriving DecidableEq, Repr, Inhabited

/-- Steward: firmware, mailboxes, persistent log, telemetry (spec/16). `active` 0 slot A, 1 slot B, 2 boot ROM. -/
structure Steward where
  active : Nat
  slotA : FwSlot
  slotB : FwSlot
  storeBase : Nat
  log : List LogRec
  logNext : List LogRec
  logSeq : Nat
  mbx : List (List Word)
  replies : List (List Word)
  dropped : Nat
  telemSeq : Nat
  tempMax : BitVec 16
  deriving DecidableEq, Repr, Inhabited

/-- Clocks and power (spec/01 Table 1-8, spec/16 R393 to R398). Caps are the present multiplier limits of
Table 16-6; counters hold the 10 us samples since a cap last moved. -/
structure Power where
  rootN : Nat
  targetN : Nat
  slewing : Bool
  slewUp : Bool
  locked : Bool
  vreq : Nat
  vreqReq : Bool
  vreqAck : Bool
  capTherm : Nat
  capPower : Nat
  capDroop : Option Nat
  thermTick : Nat
  powerTick : Nat
  caps : BitVec 5
  ilimLvl : Nat
  ilimWant : Nat
  ilimReq : Bool
  ilimAck : Bool
  fusedGuard : Nat
  power : Nat
  avgPower : Nat
  current : Nat
  critical : Bool
  overI : Bool
  deriving DecidableEq, Repr, Inhabited

/-- Chard table (spec/10 R241, R242, R259). -/
structure Rng where
  table : List Word
  digest : List Byte
  tableOk : Bool
  reloading : Bool
  deriving DecidableEq, Repr, Inhabited

/-- An installed Roadwork pack (spec/14 R356 to R358). -/
structure Pack where
  id : Nat
  ver : Nat
  stations : Nat
  pflags : Nat
  runUs : Nat
  minFw : Nat
  passed : Nat
  failed : Nat
  deriving DecidableEq, Repr, Inhabited

/-- A replica group (spec/14 R361): pending digests by job, members, last result, comparisons, and whether the
comparison under way was reported late. -/
structure Group where
  pending : List (Nat × Nat)
  members : List Nat
  result : Nat
  comparisons : Nat
  late : Bool
  deriving DecidableEq, Repr, Inhabited

/-- Rolling test, packs and replica groups (spec/14 R351 to R364). `lastDig` holds the last `FURLONG` digest of each
job (Table 14-11). -/
structure Integrity where
  packs : List Pack
  rollPod : Nat
  rollPhase : Nat
  rollSpare : Option Nat
  rollHead : Option Nat
  rollLast : Nat
  copied : Bool
  swaps : Nat
  abandoned : Nat
  groups : List (Nat × Group)
  factory : Bool
  shipped : Bool
  needSpare : List (Nat × Nat)
  lastDig : List (Nat × Nat)
  deriving DecidableEq, Repr, Inhabited

/-- The state of the block and its queue of waiting commands. `free` counts the free values drawn. -/
structure State where
  pins : Pins
  blk : Block
  time : Nat
  regs : RegFile
  pods : List Pod
  marrow : Marrow
  mps : MpBank
  gates : List (Nat × Gate)
  jobs : List (Nat × Job)
  entries : List Entry
  ops : List TileOp
  nextOp : Nat
  sqs : List (Nat × Sq)
  cqs : List (Nat × Cq)
  arb : Arbiter
  streams : List (Nat × Stream)
  cache : List CacheEnt
  decodes : List DecodeJob
  mem : Mem
  cwy : List (Nat × CPort)
  flt : Collector
  stw : Steward
  pwr : Power
  rng : Rng
  itg : Integrity
  free : Nat
  pending : List Instr
  deriving DecidableEq, Repr, Inhabited

/-- Why a command stops the model. -/
inductive Fault where
  /-- Raised by a meaning whose command is not well-formed (`Instr.wf` is false: a byte list of a length that
  no such port answer has). Safe: no such command exists on the hardware. -/
  | illFormed
  deriving DecidableEq, Repr, Inhabited

/-- Why a command has no meaning. -/
inductive Refusal where
  /-- Raised only by an arm of `exec` that has no meaning yet. Safe: the model stops. -/
  | notModelled (mnemonic : String)
  deriving DecidableEq, Repr, Inhabited

/-- A physical Pod before start-up (spec/02 R53, Table 2-12; spec/01 Table 1-1 for the map, log 4). -/
def Pod.reset : Pod where
  role := 0
  logical := 127
  st := .off
  gated := true
  job := 0
  bindValid := false
  member := 0
  tests := 0
  cause := 0
  testTime := 0
  copyOk := false
  swReq := false
  swAck := false
  isolated := true
  droop := false
  droops := 0
  tempMax := 0x8000
  voltMin := 0xFFFF
  scrub := 0
  why := .none
  due := false

/-- The state right after reset: cold reset asserted, block `COLD` (spec/17 R403, R412; spec/18 R421). -/
def State.reset : State where
  pins := { coldN := false, warmN := true, present := false, alive := false, rstReq := false,
            ctlData := 0, ctlErr := false }
  blk := { st := .cold, shut := false, step := 0, lastRst := 0, resetBy := .cold, bootCode := 0, bootMapped := 0,
           readyTime := 0, warmCnt := 0, blockCnt := 0, haltWhere := 0, haltWhy := 0, haltTime := 0,
           haltEntry := [] }
  time := 0
  regs := { words := [], rsv := [], live := [], latched := [], hi := [] }
  pods := List.replicate 100 Pod.reset
  marrow := { bytes := [], poison := [], prov := [], ecc := [], acc := [], accPoison := [] }
  mps := { recs := [], waiters := [], seq := 0, dumpState := 0, dumpSevere := false, dumpSkipped := false,
           dumpUnit := 0, dumpT0 := 0, dumpT1 := 0 }
  gates := []
  jobs := []
  entries := []
  ops := []
  nextOp := 0
  sqs := []
  cqs := []
  arb := { cur := 0, burst := 0, spent := [] }
  streams := []
  cache := []
  decodes := []
  mem := { reqs := [], held := [], retry := [], xfers := [], moves := [], poolAsk := [], poolWait := [], poolHeld := [],
           poolGot := [], poolLate := [], poolRejected := [], poolFrees := [], direct := none }
  cwy := []
  flt := { insts := [], log := [], newest := 0, written := 0, freeze := false, hold := [], irqPend := false,
           active := 0, severe := 0, wire := 0, errLatch := false, replaced := false }
  stw := { active := 0, slotA := ⟨false, 0, 0⟩, slotB := ⟨false, 0, 0⟩, storeBase := 0, log := [], logNext := [],
           logSeq := 0, mbx := [], replies := [], dropped := 0, telemSeq := 0, tempMax := 0x8000 }
  pwr := { rootN := 48, targetN := 48, slewing := false, slewUp := false, locked := false, vreq := 0, vreqReq := false,
           vreqAck := false, capTherm := 48, capPower := 48, capDroop := none, thermTick := 0, powerTick := 0,
           caps := 0, ilimLvl := 0, ilimWant := 0, ilimReq := false, ilimAck := false, fusedGuard := 0,
           power := 0, avgPower := 0, current := 0, critical := false, overI := false }
  rng := { table := [], digest := [], tableOk := false, reloading := false }
  itg := { packs := [], rollPod := 127, rollPhase := 0, rollSpare := none, rollHead := none, rollLast := 0,
           copied := false, swaps := 0, abandoned := 0, groups := [], factory := false, shipped := false,
           needSpare := [], lastDig := [] }
  free := 0
  pending := []

end Sys2Proof.Machine
end

