-- ==== Sys2Proof/Machine/Regs.lean ====
section
/-! DEFINITION. The control window: page map, common header, stored registers with their reserved bits and reset
values, refusals, page errors and counters (spec/19_register_pages.md; spec/00_scope.md R10 to R12, R456). -/

namespace Sys2Proof.Machine

/-- Kind of page `p`; none where no chapter assigns the page (Table 19-1). -/
def pageKind (p : Nat) : Option Nat :=
  if p ≤ 0x003 then some p
  else if 0x008 ≤ p ∧ p ≤ 0x00C then some p
  else if 0x00D ≤ p ∧ p ≤ 0x014 then some 0x0D
  else if p = 0x020 then some 0x30
  else if 0x040 ≤ p ∧ p ≤ 0x0A3 then some 0x40
  else if 0x100 ≤ p ∧ p ≤ 0x1FF then some 0x10
  else if 0x200 ≤ p ∧ p ≤ 0x23F then some 0x20
  else if 0x400 ≤ p ∧ p ≤ 0x5FF then some 0x50
  else if p = 0xF00 then some 0xF0
  else none

/-- Instance of page `p` within its kind (Table 19-1). -/
def pageInst (p : Nat) : Nat :=
  if 0x00D ≤ p ∧ p ≤ 0x014 then p - 0x00D
  else if 0x040 ≤ p ∧ p ≤ 0x0A3 then p - 0x040
  else if 0x100 ≤ p ∧ p ≤ 0x1FF then p - 0x100
  else if 0x200 ≤ p ∧ p ≤ 0x23F then p - 0x200
  else if 0x400 ≤ p ∧ p ≤ 0x5FF then p - 0x400
  else 0

/-- `PAGE_CAPS` [3:0] of page `p` (Table 19-1). -/
def pageCaps (p : Nat) : Nat :=
  match pageKind p with
  | some 0x01 | some 0x02 | some 0x0B | some 0x0D | some 0x30 | some 0x40 => 0x8
  | some 0x03 | some 0x08 | some 0x0A => 0xD
  | some 0x09 => 0x9
  | some 0x0C => 0x5
  | some 0x10 => 0xB
  | some 0x20 => 0x1
  | some 0x50 => if p = 0x580 then 0xD else 0x0
  | _ => 0x0

/-- `PAGE_CAPS.POSITIONS` of page `p` (Table 19-1). -/
def pagePositions (p : Nat) : Nat :=
  match pageKind p with
  | some 0x0D => 8
  | some 0x10 | some 0x20 => 16
  | some 0x50 => if p < 0x580 then 512 else 1
  | _ => 1

/-- Word address of offset `o` of page `p` (R439). -/
def wa (p o : Nat) : Nat := p * 1024 + o / 4

/-- A stored register: bits that a write sets, reserved bits that R456 records, and the reset value. -/
structure RegFmt where
  rw : Nat
  rsv : Nat
  reset : Nat
  deriving DecidableEq, Repr

/-- A stored register whose bits outside `rw` are reserved. -/
def fmt (rw : Nat) (reset : Nat := 0) : RegFmt := ⟨rw, 0xFFFFFFFF - rw, reset⟩

/-- Reset value of `FLT_CFG`s (Table 15-1). -/
def fltCfgReset (s : Nat) : Nat :=
  let row (n w nm sv : Nat) := n + w * 2 ^ 8 + nm * 2 ^ 16 + sv * 2 ^ 24
  match s with
  | 2 => row 16 10 0 0x03
  | 3 | 9 | 12 | 14 | 16 => row 1 0 0 0x03
  | 4 | 8 => row 4 6 0x01 0x13
  | 11 => row 64 10 0x01 0x03
  | 13 => row 16 10 0 0x01
  | 17 => row 1 0 0 0x01
  | 18 => row 8 4 0 0x03
  | 20 => row 4 10 0 0x03
  | 21 => row 1 0 0 0x19
  | 23 => row 1 0 0 0x15
  | _ => if s < 24 then row 1 0 0 0x13 else 0

/-- Stored registers of the Steward page (Tables 14-11, 16-7). -/
def fmtStw (o : Nat) : Option RegFmt :=
  if o = 0x600 then some (fmt 0x3FFF)
  else if o = 0x610 then some (fmt 0xFFFFFFC0)
  else if o = 0x614 then some (fmt 0xFFFFFFFF)
  else if o = 0x618 then some (fmt 0xFFFFF)
  else if o = 0x61C then some ⟨0x3FFFF, 0x3FFC0000, 0⟩
  else if o = 0x620 then some (fmt 0xF)
  else if 0x700 ≤ o ∧ o < 0x800 ∧ o % 8 = 0 then some (fmt 0xFF01)
  else if o = 0x800 then some (fmt 0xFF)
  else if 0x900 ≤ o ∧ o < 0x920 then some (fmt 0xFFFFFFFF)
  else if o = 0x984 then some (fmt 0xF)
  else if o = 0x988 then some (fmt 0xFFFFFFFC)
  else if o = 0x98C ∨ o = 0x990 then some (fmt 0xFFFFFFFF)
  else if o = 0x994 then some (fmt 0xFFFFF)
  else if o = 0xA00 then some (fmt 0xFFFFF000)
  else if o = 0xA04 then some (fmt 0xFFFFFFFF)
  else if o = 0xA08 then some (fmt 0x800FFFFF)
  else if o = 0xA0C then some (fmt 0xFFFFF)
  else none

/-- Stored registers of the fault page (Tables 15-6, 15-7). -/
def fmtFlt (o : Nat) : Option RegFmt :=
  if o = 0x034 then some (fmt 0x7F1F)
  else if o = 0x048 then some (fmt 0x1)
  else if 0x400 ≤ o ∧ o < 0x460 then some (fmt 0x1F1F1FFF (fltCfgReset ((o - 0x400) / 4)))
  else if o = 0x480 then some (fmt 0xF)
  else if o = 0x484 then some (fmt 0xFFFFFFFC)
  else if o = 0x488 ∨ o = 0x48C then some (fmt 0xFFFFFFFF)
  else if o = 0x490 then some (fmt 0xFFFFF)
  else none

/-- Stored registers of the power page (Table 16-8). -/
def fmtPwr (o : Nat) : Option RegFmt :=
  if o = 0x400 ∨ o = 0x404 then some (fmt 0xFFFFFFFF)
  else if o = 0x408 then some (fmt 0xFFFF)
  else if o = 0x40C then some (fmt 0x3F 48)
  else if o = 0x410 then some (fmt 0x3F3F3F)
  else if o = 0x414 ∨ o = 0x418 then some (fmt 0xFFFF)
  else none

/-- Stored registers of the Intake page (Tables 2-6, 2-7, 11-7). -/
def fmtInk (o : Nat) : Option RegFmt :=
  if o = 0x080 ∨ o = 0x088 then some (fmt 0xFFF)
  else if 0x400 ≤ o ∧ o < 0x800 then
    if o % 16 = 0 then some ⟨0xFFFFFFF1, 0xE, 0⟩
    else if o % 16 = 4 ∨ o % 16 = 8 then some (fmt 0xFFFFFFFF)
    else none
  else if o = 0x800 then some ⟨0x107FF, 0x3FFEF800, 0⟩
  else if o = 0x804 then some (fmt 0xFFFFF000)
  else if o = 0x810 then some (fmt 0xFFFFFFC0)
  else if o = 0x824 then some (fmt 0x3FFFF)
  else if 0x808 ≤ o ∧ o ≤ 0x82C then some (fmt 0xFFFFFFFF)
  else if 0x840 ≤ o ∧ o < 0x880 then some (fmt 0x1F1F1F)
  else if o = 0x880 then some ⟨0xFFF, 0x3FFFF000, 0⟩
  else none

/-- Stored registers of the Decode page (Table 4-15). -/
def fmtDec (o : Nat) : Option RegFmt :=
  if o = 0x028 then some (fmt 0x3FF)
  else if o = 0x400 ∨ o = 0x40C then some (fmt 0xFFFF0000)
  else if o = 0x404 ∨ o = 0x410 then some (fmt 0xFFFFFFFF)
  else if o = 0x408 ∨ o = 0x418 then some (fmt 0xFFFFF)
  else if o = 0x414 then some (fmt 0x0FFF7FFF)
  else none

/-- Stored registers of the Layout page (Tables 7-16, 8-11, 8-12). -/
def fmtLay (o : Nat) : Option RegFmt :=
  if o = 0x028 then some (fmt 0xFFF)
  else if o = 0x400 then some (fmt 0xFFFFF000)
  else if o = 0x404 then some (fmt 0xFFFFFFFF)
  else if o = 0x408 then some (fmt 0xF)
  else if o = 0x40C then some (fmt 0xFFFFF)
  else none

/-- Stored registers of the randomness page (Tables 10-8, 10-10). -/
def fmtRng (o : Nat) : Option RegFmt :=
  if o = 0x024 then some (fmt 0x3FFF)
  else if o = 0x800 then some ⟨0x3, 0x3FFFFFFC, 0⟩
  else if o = 0x814 then some ⟨0xFFFF03FF, 0xFC00, 0⟩
  else if o = 0x818 then some (fmt 0xFFFF)
  else if 0x804 ≤ o ∧ o ≤ 0x820 then some (fmt 0xFFFFFFFF)
  else if o = 0x830 then some (fmt 0x3FF)
  else none

/-- Stored registers of a Causeway port page (Tables 13-6, 13-7). -/
def fmtPort (o : Nat) : Option RegFmt :=
  if o = 0x024 then some ⟨0x1C, 0xBFFFFFE0, 0⟩
  else if 0x400 ≤ o ∧ o < 0x500 then
    match (o - 0x400) % 0x20 with
    | 0x00 => some ⟨0x0FFFFF0F, 0xF00000F0, 0⟩
    | 0x04 => some ⟨0x00FFFF7F, 0xFF000080, 0⟩
    | 0x08 => some ⟨0xFFFF07FF, 0x0000F800, 0⟩
    | 0x0C => some ⟨0x7F01FFFF, 0x80FE0000, 0⟩
    | 0x10 => some (fmt 0xFFFFF000)
    | 0x14 => some (fmt 0xFFFFFFFF)
    | 0x18 => some (fmt 0xFFFFF)
    | _ => none
  else none

/-- Stored registers of a submission ring page (Tables 3-9, 3-11, 3-12). -/
def fmtSq (o : Nat) : Option RegFmt :=
  if 0x400 ≤ o ∧ o < 0x800 then
    match (o - 0x400) % 0x40 with
    | 0x00 => some ⟨0, 0xFFFFFF8C, 0⟩
    | 0x04 => some ⟨0x03FFFF7F, 0xFC000080, 0⟩
    | 0x08 | 0x18 | 0x20 => some (fmt 0xFFFFF000)
    | 0x0C | 0x1C | 0x24 => some (fmt 0xFFFFFFFF)
    | 0x10 => some (fmt 0x7FFF)
    | 0x14 => some (fmt 0x3FFF3FFF)
    | 0x28 => some (fmt 0xFFFFF)
    | _ => some (fmt 0)
  else none

/-- Stored registers of a completion ring page (Tables 3-10, 3-15). -/
def fmtCq (o : Nat) : Option RegFmt :=
  if 0x020 ≤ o ∧ o < 0x060 then some (fmt 0x1FFFF)
  else if 0x400 ≤ o ∧ o < 0x800 then
    match (o - 0x400) % 0x40 with
    | 0x00 => some ⟨0x2, 0xFFFFFFFC, 0⟩
    | 0x04 => some (fmt 0x3FF)
    | 0x08 => some (fmt 0xFFFFF000)
    | 0x0C | 0x10 | 0x18 | 0x1C => some (fmt 0xFFFFFFFF)
    | 0x14 => some (fmt 0xFFFFFFFC)
    | 0x20 => some (fmt 0xFFFFF)
    | _ => some (fmt 0)
  else none

/-- Stored registers of the Milepost control page (Tables 12-8, 12-9). -/
def fmtMp (o : Nat) : Option RegFmt :=
  if o = 0x020 then some ⟨0xFFFFF, 0x3FF00000, 0⟩
  else if o = 0x024 then some (fmt 0x3FFFF)
  else if o = 0x400 then some (fmt 0xFFFFF000)
  else if o = 0x404 then some (fmt 0xFFFFFFFF)
  else if o = 0x408 then some (fmt 0xFFFFF)
  else if o = 0x40C then some (fmt 0x1)
  else none

/-- The stored register at offset `o` of page `p`, if one lies there. `PAGE_ERR_MASK` lies on every page. -/
def regFmt (p o : Nat) : Option RegFmt :=
  match pageKind p with
  | none => none
  | some k =>
    if o = 0x018 then some (fmt 0xFFFFFFFF)
    else match k with
      | 0x00 => fmtStw o
      | 0x01 => fmtFlt o
      | 0x02 => fmtPwr o
      | 0x03 => fmtInk o
      | 0x08 => fmtDec o
      | 0x09 => if o = 0x028 then some (fmt 0xFFF) else none
      | 0x0A => fmtLay o
      | 0x0B => fmtRng o
      | 0x0C => if o = 0x024 then some (fmt 0xFF) else if o = 0x400 then some (fmt 0xFFFF) else none
      | 0x0D => fmtPort o
      | 0x30 => if o = 0x020 then some ⟨0xFFF, 0x3FFFF000, 0⟩ else if o = 0x024 then some (fmt 0xFF) else none
      | 0x10 => fmtSq o
      | 0x20 => fmtCq o
      | 0x50 => if p = 0x580 then fmtMp o else none
      | _ => none

/-- Reset value of the word at offset `o` of page `p` (log 2 for those the spec leaves to firmware). -/
def resetWord (p o : Nat) : Word :=
  match regFmt p o with
  | some f => BitVec.ofNat 32 f.reset
  | none => 0

/-- The stored word at offset `o` of page `p`. -/
def rgw (s : State) (p o : Nat) : Word := sgetD s.regs.words (wa p o) (resetWord p o)

/-- The stored word as a number. -/
def rg (s : State) (p o : Nat) : Nat := (rgw s p o).toNat

/-- Bits [hi:lo] of a stored word. -/
def rgf (s : State) (p o hi lo : Nat) : Nat := bits (rg s p o) hi lo

/-- A 64-bit value in two stored words, low word first. -/
def rg64 (s : State) (p o : Nat) : Nat := rg s p o + 2 ^ 32 * rg s p (o + 4)

/-- Stores a word. -/
def wrg (s : State) (p o v : Nat) : State :=
  { s with regs := { s.regs with words := sset s.regs.words (wa p o) (BitVec.ofNat 32 v) (resetWord p o) } }

/-- Whether the last write to the register set a reserved bit (R456). -/
def rsvSet (s : State) (p o : Nat) : Bool := s.regs.rsv.contains (wa p o)

/-- R456's record of a write of `w`: whether it set a reserved bit, be the write applied or refused. -/
def noteRsv (s : State) (p o w : Nat) : State :=
  match regFmt p o with
  | none => s
  | some f => { s with regs := { s.regs with rsv := nset s.regs.rsv (wa p o) (w &&& f.rsv ≠ 0) } }

/-- A software write of a stored register: the `rw` bits take the written value and R456's record is made. -/
def storeReg (s : State) (p o w : Nat) : State :=
  match regFmt p o with
  | none => s
  | some f => noteRsv (wrg s p o ((w &&& f.rw) ||| (rg s p o &&& (0xFFFFFFFF - f.rw)))) p o w

/-- Writes a refusal to `PAGE_REFUSE` of page `p` (R446). -/
def refuse (s : State) (p code o : Nat) : State :=
  let old := rg s p 0x010
  let ov := b2n (bitN old 31 || bitN old 30)
  wrg s p 0x010 (code + 2 ^ 16 * (o % 4096) + 2 ^ 30 * ov + 2 ^ 31)

/-- Sets bit `i` of `PAGE_ERR` of page `p`. -/
def pageErr (s : State) (p i : Nat) : State := wrg s p 0x014 (rg s p 0x014 ||| 2 ^ i)

/-- Adds `n` to live counter `k` of page `p` (R451). Counters of eight bytes lie at 0x200 + 8k. -/
def bump (s : State) (p k : Nat) (n : Nat := 1) : State :=
  if n = 0 then s
  else { s with regs := { s.regs with
    live := sset s.regs.live (wa p (0x200 + 8 * k)) ((sgetD s.regs.live (wa p (0x200 + 8 * k)) 0 + n) % 2 ^ 64) 0 } }

/-- Adds `n` to the 32-bit live count at offset `o` of page `p` (Table 3-9). -/
def bump32 (s : State) (p o : Nat) (n : Nat := 1) : State :=
  if n = 0 then s
  else { s with regs := { s.regs with live := sset s.regs.live (wa p o) ((sgetD s.regs.live (wa p o) 0 + n) % 2 ^ 32) 0 } }

/-- A period boundary over word addresses `lo` to `hi` of live counters of page `p`: latched counters take the
live values, live counters restart, `PAGE_SEQ` rises (R451). -/
def latchRange (s : State) (p lo hi : Nat) : State :=
  let inR (k : Nat) : Bool := decide (wa p lo ≤ k ∧ k < wa p hi)
  let moved := s.regs.live.filter (fun e => inR e.1)
  let keep := s.regs.latched.filter (fun e => !inR (e.1 + 64))
  let s := { s with regs := { s.regs with
    live := s.regs.live.filter (fun e => !inR e.1)
    latched := moved.foldl (fun m e => sput m (e.1 - 64) e.2) keep } }
  wrg s p 0x01C ((rg s p 0x01C + 1) % 2 ^ 32)

/-- A period boundary of a whole page. -/
def latchPage (s : State) (p : Nat) : State := latchRange s p 0x200 0x300

/-- Whether the stored `ENABLE` bit of page `p` reads 1. -/
def enabled (s : State) (p : Nat) : Bool := bitN (rg s p 0x008) 0

/-- Writes the stored `ENABLE` bit. -/
def setEnable (s : State) (p : Nat) (b : Bool) : State := wrg s p 0x008 (b2n b)

/-- The page and position of a submission ring (R63). -/
def sqPage (n : Nat) : Nat := 0x100 + n / 16

/-- The page of a completion ring (R63). -/
def cqPage (c : Nat) : Nat := 0x200 + c / 16

/-- Offset of register `r` of ring position `i` (Tables 3-9, 3-10). -/
def ringOfs (n r : Nat) : Nat := 0x400 + 0x40 * (n % 16) + r

/-- A stored register of submission ring `n`. -/
def sqr (s : State) (n r : Nat) : Nat := rg s (sqPage n) (ringOfs n r)

/-- A stored register of completion ring `c`. -/
def cqr (s : State) (c r : Nat) : Nat := rg s (cqPage c) (ringOfs c r)

/-- `SQ_MODE.JOB`. -/
def sqJob (s : State) (n : Nat) : Nat := bits (sqr s n 0x04) 15 8
/-- `SQ_MODE.CQ`. -/
def sqCq (s : State) (n : Nat) : Nat := bits (sqr s n 0x04) 25 16
/-- Slots of submission ring `n`. -/
def sqSize (s : State) (n : Nat) : Nat := 2 ^ bits (sqr s n 0x04) 4 0
/-- 1 on a CONCEAL ring, 0 on a STRICT ring. -/
def sqConceal (s : State) (n : Nat) : Bool := bitN (sqr s n 0x04) 5
/-- `SQ_XLAT.XLAT_CTX`. -/
def sqXlat (s : State) (n : Nat) : Nat := sqr s n 0x28
/-- Slots of completion ring `c`. -/
def cqSize (s : State) (c : Nat) : Nat := 2 ^ bits (cqr s c 0x04) 4 0

/-- Page of physical Pod `p`. -/
def podPage (p : Nat) : Nat := 0x040 + p

end Sys2Proof.Machine
end

