-- ==== Sys2Proof/Machine/Ops.lean ====
section
/-! DEFINITION. Shared operations over State: Pods, memory requests, messages, completions, mailboxes, the
persistent log. Each instruction's meaning is written with these. -/

namespace Sys2Proof.Machine

/-- Physical Pod `p`. -/
def podAt (s : State) (p : Nat) : Pod := s.pods.getD p Pod.reset

/-- Changes physical Pod `p`. -/
def modPod (s : State) (p : Nat) (f : Pod → Pod) : State := { s with pods := s.pods.modify p f }

/-- Sets the state of Pod `p` (Table 2-10). -/
def setPodSt (s : State) (p : Nat) (x : PodState) : State := modPod s p fun q => { q with st := x }

/-- Physical IDs in ascending order. -/
def allPods : List Nat := List.range 100

/-- Whether physical Pod `p` is in service (R16). -/
def inService (s : State) (p : Nat) : Bool := decide ((podAt s p).role = 0 ∧ (podAt s p).logical < 96)

/-- The physical Pod that holds logical ID `l`, if it is in service (R16, R18). -/
def physOf (s : State) (l : Nat) : Option Nat := allPods.find? fun p => inService s p && decide ((podAt s p).logical = l)

/-- Pods in service (`STW_PODS.ACTIVE`). -/
def activeCount (s : State) : Nat := (allPods.filter (inService s)).length

/-- Spares (`STW_PODS.SPARES`). -/
def spareCount (s : State) : Nat := (allPods.filter fun p => (podAt s p).role = 1).length

/-- Pods mapped out (`STW_PODS.MAPPED_OUT`): those neither in service nor spare, so that the three counts add up to 100
before the map is loaded too (R23, log 55). -/
def outCount (s : State) : Nat := 100 - activeCount s - spareCount s

/-- `STW_PODS` (Table 1-2). -/
def stwPods (s : State) : Nat :=
  activeCount s + 2 ^ 8 * spareCount s + 2 ^ 16 * outCount s + 2 ^ 24 * b2n s.flt.replaced

/-- Mesh hops between physical Pods (R15, R267). -/
def hops (p q : Nat) : Nat :=
  let d (a b : Nat) : Nat := if a < b then b - a else a - b
  d (p % 10) (q % 10) + d (p / 10) (q / 10)

/-- Changes the block record. -/
def modBlk (s : State) (f : Block → Block) : State := { s with blk := f s.blk }

/-- Job `j`. -/
def emptyRoute : Route := ⟨0, 0, 0, 0, 0, 0, 0, 0, 0, 0, 0, 0, 0, 0, 0, 0, 0, 0, 0, 0, 0, 0, 0, [], [], [], []⟩

/-- A job in `NONE`. -/
def Job.empty : Job where
  st := .none
  members := []
  resizable := false
  reason := 0
  queued := []
  active := none
  route := emptyRoute
  window := 0
  seed := 0
  slotPos := []
  nextTask := 0
  nextRank := 0
  stage := 0
  gates := []
  gateCounts := []
  nodes := []
  edges := []
  ctxAddr := 0
  ctxSize := 0
  ctxCrc := 0
  srcPods := 0
  saveTime := 0
  phase := 0

/-- Job `j`. -/
def job (s : State) (j : Nat) : Job := sgetD s.jobs j Job.empty

/-- Changes job `j`. -/
def modJob (s : State) (j : Nat) (f : Job → Job) : State := { s with jobs := supd s.jobs j Job.empty f }

/-- Whether a job keeps the block in `RUNNING` (Table 17-1). -/
def JobState.active : JobState → Bool
  | .binding | .bound | .draining | .saving | .restoring | .unbinding => true
  | .none | .saved | .failed => false

/-- Code of a job state (Table 2-8). -/
def JobState.code : JobState → Nat
  | .none => 0 | .binding => 1 | .bound => 2 | .draining => 3 | .saving => 4 | .saved => 5 | .restoring => 6
  | .unbinding => 7 | .failed => 8

/-- Code of a block state (Table 17-1). -/
def BlockState.code : BlockState → Nat
  | .cold => 0 | .selfTest => 1 | .roadside => 2 | .ready => 3 | .running => 4 | .draining => 5 | .halted => 6

/-- Code of a Pod state (Table 2-10). -/
def PodState.code : PodState → Nat
  | .off => 0 | .test => 1 | .idle => 2 | .bound => 3 | .draining => 4 | .saving => 5 | .restoring => 6
  | .suspect => 7 | .mappedOut => 8

/-- Code of a ring state (Table 3-13). -/
def RingState.code : RingState → Nat
  | .disabled => 0 | .active => 1 | .stopped => 2 | .draining => 3

/-- `OP` of a job command (Table 2-7). -/
def JobOp.code : JobOp → Nat
  | .bind => 1 | .unbind => 2 | .save => 3 | .restore => 4

/-- Whether any job keeps the block in `RUNNING`. -/
def anyActive (s : State) : Bool := s.jobs.any fun e => e.2.st.active

/-- Keeps `READY` and `RUNNING` in step with the jobs (Table 17-3). -/
def syncBlock (s : State) : State :=
  match s.blk.st with
  | .ready => if anyActive s then modBlk s fun b => { b with st := .running } else s
  | .running => if anyActive s then s else modBlk s fun b => { b with st := .ready }
  | _ => s

/-- Member index of logical ID `l` in job `j` (R37). -/
def memberOf (s : State) (j l : Nat) : Option Nat := (job s j).members.findIdx? (· = l)

/-- Physical Pod of member `m` of job `j`. -/
def memberPod (s : State) (j m : Nat) : Option Nat :=
  match (job s j).members[m]? with
  | some l => physOf s l
  | none => none

/-- Whether the block executes jobs and rings at present (Table 17-1). -/
def working (s : State) : Bool := decide (s.blk.st = .ready ∨ s.blk.st = .running) && !s.blk.shut

/-! ## Memory requests -/

/-- Port of address `a` (R270). -/
def portOf (a : Nat) : Nat := (a / 4096) % 16

/-- Tag value of a request that waits for a free tag (R424: at most 1,024 outstanding per port). -/
def tagWait : Nat := 1024
/-- Tag value of a request held for merging (R275). -/
def tagMerge : Nat := 1025
/-- Tag value of a message held behind the completions it covers (R79, R299). -/
def tagFence : Nat := 1026

/-- Lowest tag of port `j` with nothing outstanding (R424; log 6). -/
def freeTag (s : State) (j : Nat) : Option Nat :=
  (List.range 1024).find? fun t => !(s.mem.reqs.any fun r => decide (r.port = j ∧ r.tag = t))

/-- Changes the memory-port state. -/
def modMem (s : State) (f : Mem → Mem) : State := { s with mem := f s.mem }

/-- Counts the lines a request puts on a port: 0 read, 1 write, 2 remote (Table 11-7). -/
def countLines (s : State) (r : MemReq) : State := bump s 3 r.cls r.lines

/-- Puts a request on its port, or lets it wait for a tag. -/
def sendReq (s : State) (r : MemReq) : State :=
  let j := portOf r.addr
  match freeTag s j with
  | some t => modMem (countLines s r) fun m => { m with reqs := m.reqs ++ [{ r with port := j, tag := t, beats := 0, worst := 0, got := [], gotPois := 0 }] }
  | none => modMem s fun m => { m with held := m.held ++ [{ r with port := j, tag := tagWait }] }

/-- A write of `data` at byte address `a` within one 256-byte block, for `pu` of Pod `pod` (0x7F: none). -/
def writeReq (a : Nat) (data : List Byte) (xlat cls pod pois : Nat) (pu : Purpose) : MemReq :=
  let base := a / 64 * 64
  let pad := a - base
  let lines := ceilDiv (pad + data.length) 64
  { port := portOf a, tag := 0, write := true, addr := base, lines := lines,
    data := List.replicate pad 0 ++ data ++ List.replicate (64 * lines - pad - data.length) 0,
    mask := (2 ^ data.length - 1) * 2 ^ pad, pois := pois, xlat := xlat, cls := cls, pod := pod, purpose := pu,
    also := [], beats := 0, worst := 0, got := [], gotPois := 0, again := false }

/-- A read of the lines that hold bytes `a` to `a + n - 1`. -/
def readReq (a n xlat cls pod : Nat) (pu : Purpose) : MemReq :=
  let base := a / 64 * 64
  { port := portOf a, tag := 0, write := false, addr := base, lines := ceilDiv (a - base + n) 64, data := [],
    mask := 0, pois := 0, xlat := xlat, cls := cls, pod := pod, purpose := pu, also := [], beats := 0, worst := 0, got := [],
    gotPois := 0, again := false }

/-- The ring or area of a write that is repeated after `FAULT` (R282). -/
def Purpose.area : Purpose → Option (Nat × Nat)
  | .completion c _ _ _ => some (0, c)
  | .message w => some (1, w)
  | .directory n => some (2, n)
  | .context k _ _ | .param k _ _ => some (3, k)
  | .commit j _ => some (4, j)
  | _ => none

/-- Whether the repetition of a faulted write of area `a` is under way. -/
def repeating (s : State) (a : Option (Nat × Nat)) : Bool :=
  let mine (r : MemReq) : Bool := r.again && r.purpose.area = a
  s.mem.reqs.any mine || s.mem.held.any mine

/-- Whether a later write of area `a` is held behind a faulted one (R282). -/
def behind (s : State) (a : Option (Nat × Nat)) : Bool :=
  a.isSome && (s.mem.retry.any (fun r => r.purpose.area = a) || repeating s a)

/-- Sends a write, or holds it behind a faulted write of its ring or area (R282). -/
def sendWrite (s : State) (r : MemReq) : State :=
  if behind s r.purpose.area then modMem s fun m => { m with retry := m.retry ++ [r] } else sendReq s r

/-- Sends a kept write again. -/
def resend (s : State) (r : MemReq) : State :=
  sendReq (modMem s fun m => { m with retry := m.retry.erase r }) { r with again := true }

/-- Sends a write of `data`. -/
def memWrite (s : State) (a : Nat) (data : List Byte) (xlat cls pod : Nat) (pu : Purpose) : State :=
  sendWrite s (writeReq a data xlat cls pod 0 pu)

/-- Lets requests that wait for a tag go out, in order. -/
def pumpTags (s : State) : State :=
  let w := s.mem.held.filter fun r => r.tag = tagWait
  w.foldl sendReq (modMem s fun m => { m with held := m.held.filter fun r => r.tag ≠ tagWait })

/-! ## Completions -/

/-- An empty batch that will carry number `n`. -/
def Batch.fresh (n : Nat) : Batch := ⟨n, 0, 0, [], 0, 0, .needBuf, 0, 0⟩

/-- A disabled submission ring. -/
def Sq.empty : Sq where
  st := .disabled
  rescan := false
  scan := false
  backoff := false
  stopSlot := 0
  fetch := 0
  phase := false
  fence := none
  drainStatus := 3
  walked := false
  asm := { slot := none, openB := Batch.fresh 0, closed := [], placed := [], removed := [] }

/-- A completion ring that is off. -/
def Cq.empty : Cq := ⟨false, 0, false, false, 0, 0, false, []⟩

/-- Submission ring `n`. -/
def sqAt (s : State) (n : Nat) : Sq := sgetD s.sqs n Sq.empty
/-- Completion ring `c`. -/
def cqAt (s : State) (c : Nat) : Cq := sgetD s.cqs c Cq.empty
/-- Changes submission ring `n`. -/
def modSq (s : State) (n : Nat) (f : Sq → Sq) : State := { s with sqs := supd s.sqs n Sq.empty f }
/-- Changes completion ring `c`. -/
def modCq (s : State) (c : Nat) (f : Cq → Cq) : State := { s with cqs := supd s.cqs c Cq.empty f }

/-- Position of the tail on the double-length circle, with the wrap as its upper half (R77). -/
def cqTailLin (s : State) (c : Nat) : Nat :=
  let q := cqAt s c
  q.tail + (if q.phase then 0 else cqSize s c)

/-- Position of `CQ_HEAD` on the double-length circle (R77). -/
def cqHeadLin (s : State) (c : Nat) : Nat :=
  let h := rg s (cqPage c) (0x020 + 4 * (c % 16))
  bits h 15 0 + (if bitN h 16 then cqSize s c else 0)

/-- Completions written and not yet read. -/
def cqUsed (s : State) (c : Nat) : Nat :=
  (cqTailLin s c + 2 * cqSize s c - cqHeadLin s c) % (2 * cqSize s c)

/-- Slots of a completion ring that hold no unread completion. -/
def cqFree (s : State) (c : Nat) : Nat := cqSize s c - cqUsed s c

/-- Whether a due completion may be written: a reserved slot is there for it, or a free slot is not reserved
(R76). -/
def dueReady (s : State) (c : Nat) (d : Due) : Bool :=
  decide (if d.reserved then 0 < cqFree s c else (cqAt s c).reserved < cqFree s c)

/-- The due completion that is written next: the first that has a slot and no earlier completion of its entry
before it (R75, R76). -/
def nextDue (s : State) (c : Nat) : Option Due :=
  let q := cqAt s c
  let rec go (seen : List (Nat × Nat)) : List Due → Option Due
    | [] => none
    | d :: ds =>
      if dueReady s c d && !seen.contains (d.sq, d.slot) then some d else go ((d.sq, d.slot) :: seen) ds
  go [] q.due

/-! ## The fetch arbiter -/

/-- Whether a completion ring has an unreserved slot and no unreserved completion waits for one (R72, R76). -/
def cqOpen (s : State) (c : Nat) : Bool :=
  (cqAt s c).on && decide ((cqAt s c).reserved < cqFree s c) && !((cqAt s c).due.any fun d => !d.reserved)

/-- Whether a job's state lets its rings fetch (R72). -/
def jobFetches (s : State) (j : Nat) : Bool :=
  let x := (job s j).st
  x = .bound || x = .none || x = .failed

/-- Whether ring `n` is eligible for fetch (R72). -/
def eligible (s : State) (n : Nat) : Bool :=
  let q := sqAt s n
  working s && q.st = .active && q.scan && q.fence.isNone && jobFetches s (sqJob s n) && cqOpen s (sqCq s n)

/-- Eligible rings in ascending order. -/
def eligibleRings (s : State) : List Nat := (s.sqs.filter fun e => eligible s e.1).map (·.1)

/-- With no ring eligible a pass fetches nothing, and the credits start anew (R73). -/
def restRound (s : State) : State :=
  if (eligibleRings s).isEmpty then { s with arb := { s.arb with burst := 0, spent := [] } } else s

/-- A ring that has stopped being eligible ends its burst (R73). -/
def arbSettle (s : State) : State :=
  restRound (if eligible s s.arb.cur then s else { s with arb := { s.arb with burst := 0 } })

/-- Sets a job's state and the block state that follows from it; rings that it holds end their bursts (R72, R73). -/
def setJobSt (s : State) (j : Nat) (x : JobState) : State := arbSettle (syncBlock (modJob s j fun b => { b with st := x }))

/-- Adds a due completion to the completion ring of submission ring `d.sq`; an unreserved one stops fetches (R72, R76). -/
def addDue (s : State) (d : Due) : State :=
  let s := modCq s (sqCq s d.sq) fun q => { q with due := q.due ++ [d] }
  if d.reserved then s else arbSettle s

/-- The final completion of an entry. -/
def finalDue (e : Entry) (status detail count info : Nat) : Due where
  sq := e.sq
  slot := e.slot
  tag := e.body.tag.toNat
  status := status
  final := true
  detail := detail
  count := count
  info := info
  reserved := true
  irqNow := bitN e.body.eflags.toNat 1
  xfer := none

/-- Changes the entry of a slot. -/
def modEntry (s : State) (sq slot : Nat) (f : Entry → Entry) : State :=
  { s with entries := s.entries.map fun e => if e.sq = sq ∧ e.slot = slot then f e else e }

/-- The fetched entry of a slot. -/
def entryAt (s : State) (sq slot : Nat) : Option Entry := s.entries.find? fun e => decide (e.sq = sq ∧ e.slot = slot)

/-- The entry of rank `r` of job `j`. -/
def entryRank (s : State) (j r : Nat) : Option Entry := s.entries.find? fun e => decide (e.job = j ∧ e.rank = r)

/-- `INFO` of a completion that places nothing and has no batch (Table 3-4). -/
def plainInfo (status : Nat) : Nat := if status ≤ 1 then 2 ^ 32 * 0xFFFFFFFF else 0

/-- Ends an entry: its final completion becomes due, once (R75). -/
def finish (s : State) (e : Entry) (status : Nat) (detail : Nat := 0) (count : Nat := 0) (info : Nat := plainInfo status) : State :=
  match entryAt s e.sq e.slot with
  | some x =>
    if x.st = .done then s
    else addDue (modEntry s e.sq e.slot fun y => { y with st := .done }) (finalDue x status detail count info)
  | none => s

/-- Status codes of Table 3-4. -/
def stOk : Nat := 0
def stConcealed : Nat := 1
def stCorrupt : Nat := 2
def stAborted : Nat := 3
def stPoisoned : Nat := 4
def stFault : Nat := 5
def stRefused : Nat := 6
def stSplit : Nat := 7
def stTimeout : Nat := 8

/-- The 32 bytes of a completion entry (Table 3-3). -/
def completionBytes (d : Due) (phase : Bool) (time : Nat) : List Byte :=
  leBytes 4 d.tag ++ leBytes 1 d.status ++ leBytes 1 (b2n phase + 2 * b2n d.final) ++ leBytes 2 d.sq ++
  leBytes 2 d.slot ++ leBytes 2 d.detail ++ leBytes 4 d.count ++ leBytes 8 d.info ++ leBytes 8 time

/-! ## Messages, mailboxes and the persistent log -/

/-- Sender number of the fault page's interrupt message. -/
def whoFlt : Nat := 2000
/-- Sender number of the mailbox interrupt message. -/
def whoStw : Nat := 2001

/-- A 32-bit message write (R79, R375). -/
def sendMsg (s : State) (who addr data xlat : Nat) : State :=
  memWrite s addr (leBytes 4 data) xlat 1 127 (.message who)

/-- Whether a completion of ring `c` is still unanswered. -/
def cqUnanswered (s : State) (c : Nat) : Bool :=
  let mine (r : MemReq) : Bool := match r.purpose with
    | .completion c' _ _ _ => c' = c
    | _ => false
  s.mem.reqs.any mine || s.mem.held.any mine || s.mem.retry.any mine

/-- The interrupt message of completion ring `c`, held behind the completions it covers (R79, R299). -/
def cqMessage (s : State) (c : Nat) : State :=
  let a := cqr s c 0x14 + 2 ^ 32 * cqr s c 0x18
  let r := writeReq a (leBytes 4 (cqr s c 0x1C)) (cqr s c 0x20) 1 127 0 (.message c)
  if behind s r.purpose.area then sendWrite s r
  else if cqUnanswered s c then modMem s fun m => { m with held := m.held ++ [{ r with tag := tagFence }] }
  else sendReq s r

/-- Sends the messages whose completions are all answered. -/
def pumpFence (s : State) : State :=
  let go (r : MemReq) : Bool := match r.purpose with
    | .message c => r.tag = tagFence && !cqUnanswered s c
    | _ => false
  (s.mem.held.filter go).foldl sendReq (modMem s fun m => { m with held := m.held.filter fun r => !go r })

/-- Issues the interrupt of completion ring `c` (R79). -/
def cqInterrupt (s : State) (c : Nat) : State :=
  if bits (cqr s c 0x04) 6 5 = 1 then cqMessage s c else s

/-- Completion ring `c` signals: `IRQ_PEND` is set, both counts restart, the interrupt is issued unless masked
(R78). -/
def cqSignal (s : State) (c : Nat) : State :=
  let s := modCq s c fun q => { q with irqPend := true, since := 0, timing := false }
  if bitN (cqr s c 0x00) 1 then s else cqInterrupt s c

/-- Changes the Steward's state. -/
def modStw (s : State) (f : Steward → Steward) : State := { s with stw := f s.stw }

/-- The interrupt of the outbound mailbox when it stops being empty (R389). -/
def stwInterrupt (s : State) : State :=
  if rgf s 0 0x984 1 0 = 1 then sendMsg s whoStw (rg64 s 0 0x988) (rg s 0 0x990) (rg s 0 0x994) else s

/-- Queues an outbound message of 16 words. -/
def mbxPush (s : State) (m : List Word) : State :=
  let was := s.stw.mbx.isEmpty
  let s := modStw s fun t => { t with mbx := t.mbx ++ [m] }
  if was then stwInterrupt s else s

/-- A notice: dropped and counted when the queue holds eight messages (R389). `words` are words 2 to 15. -/
def mbxNotice (s : State) (mkind : Nat) (words : List Word) : State :=
  if s.stw.mbx.length ≥ 8 then modStw s fun t => { t with dropped := t.dropped + 1 }
  else
    let w0 : Word := BitVec.ofNat 32 mkind
    mbxPush (if mkind = 2 then modStw s fun t => { t with dropped := 0 } else s) (w0 :: 0 :: words)

/-- A reply: it waits for queue space (R389). -/
def mbxReply (s : State) (opcode status tag : Nat) (results : List Nat) : State :=
  let m := [BitVec.ofNat 32 (1 + 2 ^ 8 * opcode + 2 ^ 16 * status), BitVec.ofNat 32 tag] ++
    (results ++ List.replicate (14 - results.length) 0).map (BitVec.ofNat 32)
  if s.stw.mbx.length ≥ 8 then modStw s fun t => { t with replies := t.replies ++ [m] } else mbxPush s m

/-- Writes one persistent-log record: the next sequence number, at its place in the ring (R384, R391). -/
def logWrite (s : State) (r : LogRec) : State :=
  let q := s.stw.logSeq + 1
  let s := modStw s fun t => { t with log := t.log ++ [r], logSeq := q }
  memWrite s (s.stw.storeBase + 16 * 2 ^ 20 + (q % 131072) * 64) (slice (Config.logBytes q) 0 64) 0 1 127 .log

/-- A flush of the persistent log: failed log writes go out again, then the waiting records; the fault page's
counters latch (R391, R451). -/
def logFlush (s : State) : State :=
  let s := latchPage s 1
  let old := s.mem.retry.filter fun r => r.purpose = .log
  let s := old.foldl sendReq (modMem s fun m => { m with retry := m.retry.filter fun r => r.purpose ≠ .log })
  let s := s.stw.logNext.foldl logWrite s
  modStw s fun t => { t with logNext := [] }

/-- A record for the next flush (R391). -/
def logLater (s : State) (r : LogRec) : State := modStw s fun t => { t with logNext := t.logNext ++ [r] }

/-- Draws a free value's number. -/
def draw (s : State) : State := { s with free := s.free + 1 }

end Sys2Proof.Machine
end

