-- ==== Sys2Proof/Machine/JobOps.lean ====
section
/-! DEFINITION. Shared operations on jobs, rings, Causeway halves and Pods: draining a ring (R84), ending a job
(R85, R345, R348), zeroising a Pod (R34), marking a Pod suspect (R347), and what the resets clear (R410 to R413). -/

namespace Sys2Proof.Machine

/-- Marrow byte key of local byte `a` of physical Pod `p` (R261). -/
def mkey (p a : Nat) : Nat := p * 6291456 + a

/-- Zeroises the Marrow slice and the accumulator store of physical Pod `p` (R34, R262). -/
def zeroiseMarrow (m : Marrow) (p : Nat) : Marrow :=
  let inB (k : Nat) : Bool := decide (k / 6291456 = p)
  let inL (k : Nat) : Bool := decide (k / 98304 = p)
  let inW (k : Nat) : Bool := decide (k / 786432 = p)
  let inA (k : Nat) : Bool := decide (k / 32768 = p)
  { bytes := m.bytes.filter fun e => !inB e.1
    poison := m.poison.filter fun k => !inL k
    prov := m.prov.filter fun k => !inL k
    ecc := m.ecc.filter fun e => !inW e.1
    acc := m.acc.filter fun e => !inA e.1
    accPoison := m.accPoison.filter fun k => !inA k }

/-- Takes every Milepost record of logical Pod `l` back to 0 (R34, R308). -/
def clearMps (s : State) (l : Nat) : State :=
  { s with mps := { s.mps with recs := s.mps.recs.filter fun e => e.1 / 2048 ≠ l } }

/-- Zeroisation of physical Pod `p` (R34). -/
def zeroise (s : State) (p : Nat) : State :=
  let s := { s with marrow := zeroiseMarrow s.marrow p }
  if inService s p then clearMps s (podAt s p).logical else s

/-- Whether an accepted command names logical ID `l` and has not started on it (R46). -/
def named (s : State) (l : Nat) : Bool :=
  s.jobs.any fun e => e.2.queued.any (fun c => c.unstarted.contains l) ||
    (match e.2.active with
     | some c => c.unstarted.contains l
     | none => false)

/-- Isolates Pod `p` and lowers `PWR_SW_REQ[p]` (R393). -/
def powerDown (s : State) (p : Nat) : State := modPod s p fun q => { q with isolated := true, swReq := false }

/-- Pod `p` becomes `IDLE`; with `GATE_US` 0 it is gated at once unless an accepted command names it (R394). -/
def toIdle (s : State) (p : Nat) : State :=
  let s := setPodSt s p .idle
  if rgf s 2 0x418 15 0 = 0 ∧ named s (podAt s p).logical = false then powerDown s p else s

/-- A Pod is released from its job, zeroised, and becomes `IDLE`, or `TEST` when it is due for test (R354,
Table 2-11). -/
def releasePod (s : State) (p : Nat) : State :=
  let s := zeroise s p
  let s := modPod s p fun q => { q with bindValid := false, job := 0, member := 0 }
  if (podAt s p).due then modPod s p fun q => { q with st := .test, why := .rebind } else toIdle s p

/-! ## Causeway halves -/

/-- A Causeway port that is down. -/
def CPort.empty : CPort := ⟨0, 0, [], [], 0, []⟩

/-- An unbound half. -/
def Half.empty : Half where
  st := .unbound
  job := 0
  member := 0
  edge := 0
  depth := 0
  lines := 0
  slot := 0
  credits := []
  next := 0
  peer := false
  waiting := false
  wrote := []
  sent := []
  sets := []
  buffer := []
  bufSets := []
  band := 0
  bands := 1

/-- Causeway port `k`. -/
def portAt (s : State) (k : Nat) : CPort := sgetD s.cwy k CPort.empty
/-- Changes Causeway port `k`. -/
def modPort (s : State) (k : Nat) (f : CPort → CPort) : State := { s with cwy := supd s.cwy k CPort.empty f }
/-- Half `h` of port `k` (R322). -/
def halfAt (s : State) (k h : Nat) : Half := sgetD (portAt s k).halves h Half.empty
/-- Changes half `h` of port `k`. -/
def modHalf (s : State) (k h : Nat) (f : Half → Half) : State :=
  modPort s k fun c => { c with halves := supd c.halves h Half.empty f }
/-- Page of Causeway port `k`. -/
def cwyPage (k : Nat) : Nat := 0x00D + k

/-- Hands a flit to the link of port `k` (R322) and counts it (Table 13-6). -/
def sendFlit (s : State) (k : Nat) (f : Flit) : State :=
  let n := if f.kind = 2 then f.data.length / 64 else 0
  let s := bump s (cwyPage k) 0 (1 + 2 * n)
  let s := bump s (cwyPage k) 2 n
  modPort s k fun c => { c with tx := c.tx ++ [f] }

/-- A flit without lines. -/
def plainFlit (kind ch slot line : Nat) : Flit := ⟨kind, ch, slot, line, 0, 0, []⟩

/-- Every bound half, as port, half index and half. -/
def halves (s : State) : List (Nat × Nat × Half) :=
  s.cwy.flatMap fun e => (e.2.halves.filter fun h => h.2.st ≠ .unbound).map fun h => (e.1, h.1, h.2)

/-- The halves of an ended job send `ABORT` with 0x0D13 and return to `UNBOUND` (Table 13-3). -/
def abortHalves (s : State) (j : Nat) : State :=
  let mine (w : Waiter) : Bool := match w.src with
    | .cwy k c => (halfAt s k (4 + c)).job = j && (halfAt s k (4 + c)).st ≠ .unbound
    | _ => false
  let s := { s with mps := { s.mps with waiters := s.mps.waiters.filter fun w => !mine w } }
  (halves s).foldl (fun s e =>
    if e.2.2.job = j then
      modHalf (sendFlit s e.1 (plainFlit 8 (e.2.1 % 4) 0 0x0D13)) e.1 e.2.1 fun _ => Half.empty
    else s) s

/-! ## Rings -/

/-- Takes the buffers held for `u` back to their pools (R286). -/
def freePoolOf (s : State) (cls addr : Nat) : State :=
  modMem s fun m => { m with
    poolFrees := m.poolFrees ++ [(cls, addr)]
    poolHeld := m.poolHeld.map fun e => if e.1 = cls then (e.1, e.2.filter (· ≠ addr)) else e }

/-- Ends every transfer that serves rank `r` of job `j` (Table 11-5). -/
def endXfers (s : State) (j r : Nat) : State :=
  modMem s fun m => { m with
    xfers := m.xfers.filter fun x => !(x.job = j && x.rank = r), moves := m.moves.filter fun b => !(b.job = j && b.rank = r) }

/-- Parameter fields of node `n` of a route: `n` bytes at offset `o` of its block. -/
def nodeParam (r : Route) (n o k : Nat) : Nat :=
  match r.nodes[n]? with
  | some x => fieldLe r.params (x.paramOfs + o) k
  | none => 0

/-- The `PACK` node of a route, if it has one (R203). -/
def packNode (r : Route) : Option Nat := r.nodes.findIdx? fun n => n.kind = 4 ∧ n.opcode = 0x11

/-- The user that stands in a request whose asker is gone: its buffer goes back at once. -/
def noUser : PoolUser := .batch 4096

/-- Requests of users `f` lose their asker, and buffers granted to them return to class `c`. -/
def forgetAsks (s : State) (c : Nat) (f : PoolUser → Bool) : State :=
  let got := s.mem.poolGot.filter fun e => f e.1
  let s := got.foldl (fun s e => freePoolOf s c e.2) s
  modMem s fun m => { m with
    poolAsk := m.poolAsk.map fun e => if f e.2 then (e.1, noUser) else e
    poolWait := m.poolWait.filter fun e => !f e.2
    poolGot := m.poolGot.filter fun e => !f e.1 }

/-- Takes a ring's held batches away: an open one is discarded with its contents, and a closed one gives its
buffer back to the pool (R84, R212). The number of an open batch is not consumed. -/
def dropBatches (s : State) (n : Nat) : State :=
  let a := (sqAt s n).asm
  let r := (job s (sqJob s n)).route
  let cls := match packNode r with
    | some k => nodeParam r k 0x0C 1
    | none => 0
  let s := a.closed.foldl (fun s b =>
    match b.phase with
    | .haveBuf | .writing => freePoolOf s cls b.buf
    | _ => s) s
  let s := modMem (forgetAsks s cls fun u => u = .batch n) fun m => { m with moves := m.moves.filter fun b => b.ends ≠ .batch n }
  modSq s n fun q => { q with asm := { q.asm with
    slot := none, openB := Batch.fresh q.asm.openB.number, closed := [], placed := [], removed := [] } }

/-- The header of a stream-context image and its 17 DPB records (spec/04 Tables 4-8, 4-9), 400 bytes. -/
def streamImage (s : State) (k : Nat) (t : Stream) : List Byte :=
  leBytes 4 0x58435342 ++ leBytes 2 1 ++ leBytes 2 k ++ leBytes 1 t.job ++ leBytes 1 t.codec ++ leBytes 1 t.cstate ++
  leBytes 1 t.policy ++ leBytes 2 t.sq ++ leBytes 2 t.lastErr ++ leBytes 4 t.frameNo ++ leBytes 4 t.concealed ++
  leBytes 8 (t.params.foldl (fun a e => a ||| 2 ^ e.1) 0) ++ leBytes 8 t.doneHash ++ leBytes 8 t.openTime ++
  leBytes 8 s.time ++ leBytes 2 t.width ++ leBytes 2 t.height ++ leBytes 1 t.format ++ leBytes 1 t.depth ++
  leBytes 1 t.dpb.length ++ List.replicate 65 (0 : Byte) ++
  (List.range 17).flatMap fun i => match t.dpb[i]? with
    | some d => leBytes 8 d.buf ++ leBytes 4 d.frameNo ++ leBytes 4 d.dflags
    | none => List.replicate 16 (0 : Byte)

/-- Host address of byte `o` of the image of context `k` (R101). -/
def streamAddr (s : State) (k o : Nat) : Nat := rg64 s 8 0x400 + k * 65536 + o

/-- Writes the header and DPB records of context `k` to host memory on behalf of the entry of rank `r` (R101); the area is
set up once the page is enabled (R129). -/
def writeStream (s : State) (k : Nat) (t : Stream) (r : Nat := 2 ^ 65) : State :=
  if enabled s 8 = false then s else
  let b := streamImage s k t
  let put (s : State) (o n : Nat) : State := memWrite s (streamAddr s k o) (slice b o n) (rg s 8 0x408) 1 127 (.context k t.job r)
  put (put s 0 256) 256 144

/-- The pool buffers that DPB records hold: a cache slot is none, and a substitute shares the buffer of its reference (R100,
R123). -/
def heldBufs (l : List DpbRec) : List Nat := ((l.filter fun d => !bitN d.dflags 3 && d.buf ≠ 0).map (·.buf)).dedup

/-- The class of the motion-reference buffers of job `j`: that of its first `MOTION` node (log 60). -/
def motionPool (s : State) (j : Nat) : Nat :=
  let r := (job s j).route
  match r.nodes.findIdx? fun n => n.kind = 2 with
  | some n => nodeParam r n 3 1
  | none => 0

/-- Closes streams, `cs` being the `CSTATE` of their images (R100, R101): their picture and motion buffers return to
their pools. -/
def closeSome (s : State) (f : Nat × Stream → Bool) (cs : Nat := 0) : State :=
  let gone := s.streams.filter f
  let s := gone.foldl (fun s e =>
    let s := (heldBufs e.2.dpb).foldl (fun s a => freePoolOf s e.2.pool a) s
    let s := match e.2.mref with
      | some m => freePoolOf s (motionPool s e.2.job) m.buf
      | none => s
    let s := forgetAsks s e.2.pool fun u => u = .picture e.1
    let s := forgetAsks s (motionPool s e.2.job) fun u => u = .motion e.1
    writeStream s e.1 { e.2 with cstate := cs, dpb := [], lastTime := s.time }) s
  { s with streams := s.streams.filter fun e => !(f e) }

/-- Closes the streams of job `j` (R100) and invalidates its cache entries (R127). -/
def closeStreams (s : State) (j : Nat) : State :=
  let s := closeSome s fun e => e.2.job = j
  { s with cache := s.cache.filter fun c => c.job ≠ j }

/-- Ends the fetched entries of ring `n` that have no final completion yet. -/
def endRingEntries (s : State) (n status : Nat) (cause : List Nat) : State :=
  (s.entries.filter fun e => e.sq = n ∧ e.st ≠ .done).foldl
    (fun s e => endXfers (finish s e (if cause.contains e.rank then stPoisoned else status)) e.job e.rank) s

/-- Drains submission ring `n` (R84): it fetches nothing more, its tasks and held batches are discarded, its
fetched entries end with `status`, and the streams it opened close; the walk of step 3 ends the drain. A `DISABLED` or draining ring is unchanged
but for `cause`. -/
def drainRing (s : State) (n status : Nat) (cause : List Nat := []) : State :=
  match (sqAt s n).st with
  | .disabled | .draining => s
  | _ =>
    let s := modSq s n fun q => { q with st := .draining, drainStatus := status, scan := false, rescan := false,
                                         backoff := false, fence := none, walked := false }
    let s := { s with mps := { s.mps with waiters := s.mps.waiters.filter fun w => match w.src with
      | .ring m _ => m ≠ n
      | _ => true } }
    arbSettle (closeSome (dropBatches (endRingEntries s n status cause) n) fun e => e.2.sq = n)

/-- Submission rings that are not `DISABLED` and serve job `j`. -/
def jobRings (s : State) (j : Nat) : List Nat :=
  (s.sqs.filter fun e => e.2.st ≠ .disabled ∧ sqJob s e.1 = j).map (·.1)

/-- Drains every ring of job `j` (R85). -/
def drainJobRings (s : State) (j status : Nat) (cause : List Nat := []) : State :=
  (jobRings s j).foldl (fun s n => drainRing s n status cause) s

/-! ## Jobs -/

/-- A gate that is free (R311). -/
def Gate.empty : Gate := ⟨false, 0, 0, false, false, 0, none, [], [], 0, 0, 0, 0, false⟩

/-- Block Tollgate `b`. -/
def gateAt (s : State) (b : Nat) : Gate := sgetD s.gates b Gate.empty
/-- Changes block Tollgate `b`. -/
def modGate (s : State) (b : Nat) (f : Gate → Gate) : State := { s with gates := supd s.gates b Gate.empty f }

/-- Frees the gates of job `j` (R50); `MISUSE` and its participant stay readable. -/
def freeGates (s : State) (j : Nat) : State :=
  { s with gates := s.gates.map fun e =>
      if e.2.assigned ∧ e.2.job = j then (e.1, { Gate.empty with misuse := e.2.misuse, misuser := e.2.misuser })
      else e }

/-- A replica group without members. -/
def Group.empty : Group := ⟨[], [], 0, 0, false⟩
/-- Replica group `g`. -/
def groupAt (s : State) (g : Nat) : Group := sgetD s.itg.groups g Group.empty
/-- Changes replica group `g`. -/
def modGroup (s : State) (g : Nat) (f : Group → Group) : State :=
  { s with itg := { s.itg with groups := supd s.itg.groups g Group.empty f } }

/-- A job leaves its replica group and loses its pending digest (R361). -/
def leaveGroups (s : State) (j : Nat) : State :=
  { s with itg := { s.itg with groups := s.itg.groups.map fun e =>
      (e.1, { e.2 with pending := e.2.pending.filter fun d => d.1 ≠ j, members := ndel e.2.members j }) } }

/-- What a Pod of an ended job does: it drains, or it is zeroised and becomes `IDLE` at once (Table 2-11). -/
def endPod (s : State) (p : Nat) : State :=
  match (podAt s p).st with
  | .bound => setPodSt s p .draining
  | .saving | .restoring => releasePod s p
  | _ => s

/-- Physical Pods bound to job `j`. -/
def jobPods (s : State) (j : Nat) : List Nat :=
  allPods.filter fun p => (podAt s p).bindValid && decide ((podAt s p).job = j)

/-- Abandons a copy; the spare stays prepared (R353 step 4). -/
def abandonSwap (s : State) : State :=
  let s := match s.itg.rollSpare with
    | some p => zeroise s p
    | none => s
  { s with itg := { s.itg with abandoned := min 65535 (s.itg.abandoned + 1), rollPhase := 2, copied := false } }

/-- A copy of a member of job `j` is abandoned when the job leaves `BOUND` (R353 step 4). -/
def endCopy (s : State) (j : Nat) : State :=
  if s.itg.rollPhase = 3 ∧ (podAt s s.itg.rollPod).bindValid ∧ (podAt s s.itg.rollPod).job = j then abandonSwap s else s

/-- Everything that ends with a job except its state: rings drain with `status` (entries whose rank is in
`cause` end `POISONED`), halves abort, gates are freed, streams close, transfers end, its Pods drain. -/
def endWork (s : State) (j status : Nat) (cause : List Nat := []) : State :=
  let s := endCopy (drainJobRings s j status cause) j
  let s := abortHalves s j
  let s := freeGates s j
  let s := closeStreams s j
  let s := leaveGroups s j
  let s := modMem s fun m => { m with xfers := m.xfers.filter fun x => x.job ≠ j, moves := m.moves.filter fun b => b.job ≠ j }
  let s := modJob { s with decodes := s.decodes.filter fun d => d.job ≠ j } j fun b =>
    { b with queued := [], active := none, nodes := [], edges := [] }
  let s := { s with ops := s.ops.filter fun o => !(o.job = j && o.pod = 127) }
  (jobPods s j).foldl endPod s

/-- Job `j` becomes `FAILED` with a reason code (Table 3-7, Table 2-8); replica groups are not compared yet. In `HALTED` Pod
and job states freeze (Table 2-17). -/
def failOne (s : State) (j reason status : Nat) (cause : List Nat := []) : State :=
  let x := (job s j).st
  if x = .none ∨ x = .failed ∨ x = .saved ∨ s.blk.st = .halted then s
  else
    let s := endWork s j status cause
    setJobSt (modJob s j fun b => { b with reason := reason }) j .failed

/-! ## Replica comparisons -/

/-- The region that `FURLONG` node `n` of a route digests: first window granule and count (R360). -/
def furlongRegion (r : Route) (n : Nat) : Nat × Nat :=
  match (r.nodes[n]?).bind fun x => r.descs[x.descFirst]? with
  | some d => (d.base / 4096, d.size.getD 0 0 / 4096)
  | none => (0, 0)

/-- Indices within the region of node `n` whose granules lie on member `m` of `p` (R49, R359). -/
def memberGranules (r : Route) (n p m : Nat) : List Nat :=
  let a := furlongRegion r n
  (List.range a.2).filter fun k => (a.1 + k) % max 1 p = m

/-- The region that a route digests for group `g`. -/
def digestRegion (r : Route) (g : Nat) : Nat × Nat :=
  match r.nodes.findIdx? fun x => x.kind = 8 && x.opcode = 1 && fieldLe r.params x.paramOfs 1 = g with
  | some n => furlongRegion r n
  | none => (0, 0)

/-- Every line of the digested region of job `j` is poisoned, on every member (R362). -/
def splitPoison (s : State) (j g : Nat) : State :=
  let b := job s j
  let p := max 1 b.members.length
  let a := digestRegion b.route g
  let lines := (List.range a.2).flatMap fun k =>
    let w := a.1 + k
    match memberPod s j (w % p) with
    | some q => (List.range 64).map fun i => q * 98304 + w / p * 64 + i
    | none => []
  { s with marrow := { s.marrow with poison := lines.foldl nins s.marrow.poison } }

/-- Whether every member of a group holds a pending digest (R361). -/
def groupReady (x : Group) : Bool :=
  !x.members.isEmpty && x.members.all fun j => x.pending.any fun d => d.1 = j

/-- The result of a comparison and the jobs that split: 1 agreed, 2 majority, 3 split (R361, Table 14-11). -/
def judge (ds : List (Nat × Nat)) : Nat × List Nat :=
  let votes (v : Nat) : Nat := (ds.filter fun d => d.2 = v).length
  if ds.all fun d => votes d.2 = ds.length then (1, [])
  else match if 3 ≤ ds.length then ds.find? fun d => decide (ds.length < 2 * votes d.2) else none with
    | some w => (2, (ds.filter fun d => d.2 ≠ w.2).map (·.1))
    | none => (3, ds.map (·.1))

/-- Compares the pending digests of group `g`, which all clear; jobs that split end (R361, R362). -/
def compareGroup (s : State) (g : Nat) : State :=
  let v := judge (groupAt s g).pending
  let s := modGroup s g fun x => { x with pending := [], result := v.1, comparisons := min 65535 (x.comparisons + 1), late := false }
  v.2.foldl (fun s j => failOne (splitPoison s j g) j 0x4043 stSplit) s

/-- Compares every group whose members all hold a digest. A comparison adds no digest, so one pass a group ends it. -/
def settle : Nat → State → State
  | 0, s => s
  | n + 1, s => match s.itg.groups.find? fun e => groupReady e.2 with
    | some e => settle n (compareGroup s e.1)
    | none => s

/-- The comparisons that are due (R361). -/
def settleGroups (s : State) : State := settle s.itg.groups.length s

/-- Job `j` becomes `FAILED` with a reason code; its replica groups go on without it (Table 3-7, R361). -/
def failJob (s : State) (j reason status : Nat) (cause : List Nat := []) : State :=
  settleGroups (failOne s j reason status cause)

/-- Whether a `SAVE` of job `j` is under way: accepted and not yet `SAVED` (R348). -/
def saveUnderWay (s : State) (j : Nat) : Bool :=
  let b := job s j
  b.st = .saving || b.queued.any (fun c => c.op = .save) || (match b.active with | some c => c.op = .save | none => false)

/-- Whether an `UNBIND` of job `j` is under way. -/
def unbindUnderWay (s : State) (j : Nat) : Bool :=
  let b := job s j
  b.st = .unbinding || (match b.active with | some c => c.op = .unbind | none => false)

/-- A Pod becomes `SUSPECT` (R347, R348): only from `BOUND`, `DRAINING`, `SAVING` or `RESTORING`. The block
drains from `READY` or `RUNNING`, and the Pod's job ends; in `HALTED` the Pod is only marked (R349). -/
def markSuspect (s : State) (p cause : Nat) : State :=
  let q := podAt s p
  match q.st with
  | .bound | .draining | .saving | .restoring =>
    let s := modPod s p fun q => { q with st := .suspect, cause := cause }
    let s := if s.itg.rollPhase = 3 then abandonSwap s else s
    match s.blk.st with
    | .ready | .running | .draining =>
      let j := q.job
      let s := if q.bindValid then
          if saveUnderWay s j then failJob s j 0x0354 stAborted
          else if unbindUnderWay s j then s
          else failJob s j 0x4041 stAborted
        else s
      arbSettle (modBlk s fun b => { b with st := .draining })
    | _ => s
  | _ => s

/-! ## Resets -/

/-- Within 100 ns of a reset input: no request stays open, the presence and power outputs fall (R410). -/
def quiesce (s : State) : State :=
  let s := modMem s fun m => { m with reqs := [], held := [], retry := [], poolAsk := [], poolWait := [], poolFrees := [] }
  let s := { s with pods := s.pods.map fun (q : Pod) => { q with swReq := false, isolated := true } }
  let s := { s with pwr := { s.pwr with ilimAck := false, vreqReq := false } }
  { s with pins := { s.pins with present := false, alive := false } }

/-- The pages whose contents a warm or block reset keeps (Table 17-6): the fault page. -/
def keepsWarm (k : Nat) : Bool := decide (k / 1024 = 1)

/-- A job after a warm or block reset (R413). -/
def resetJob (b : Job) : Job :=
  match b.st with
  | .saving | .saved => { Job.empty with st := .saved, resizable := b.resizable, ctxAddr := b.ctxAddr,
                                          ctxSize := b.ctxSize, ctxCrc := b.ctxCrc, srcPods := b.srcPods,
                                          window := b.window }
  | _ => Job.empty

/-- A Pod after a warm or block reset: it holds no job and is `OFF`, or stays `SUSPECT` until it is mapped out
(R349, Table 17-6). -/
def resetPod (q : Pod) : Pod :=
  { q with st := if q.st = .suspect then .suspect else .off, bindValid := false, job := 0, member := 0,
           copyOk := false, why := .none }

/-- What a warm or block reset clears (Table 17-6). Counts and severities of the collector are cleared by a warm
reset only. -/
def clearForReset (s : State) (warm : Bool) : State :=
  let s := { s with
    regs := { words := s.regs.words.filter fun e => keepsWarm e.1, rsv := s.regs.rsv.filter keepsWarm,
              live := s.regs.live.filter fun e => keepsWarm e.1,
              latched := s.regs.latched.filter fun e => keepsWarm e.1, hi := s.regs.hi.filter fun e => keepsWarm e.1 },
    sqs := [], cqs := [], arb := ⟨0, 0, []⟩, entries := [], ops := [], decodes := [],
    jobs := (s.jobs.map fun e => (e.1, resetJob e.2)).filter fun e => e.2.st ≠ .none,
    streams := [], cache := [], gates := [], cwy := [],
    marrow := { bytes := [], poison := [], prov := [], ecc := [], acc := [], accPoison := [] },
    mps := State.reset.mps, mem := State.reset.mem,
    pods := s.pods.map resetPod,
    blk := { s.blk with haltWhere := 0, haltWhy := 0, haltTime := 0, haltEntry := [],
                        shut := false, bootCode := 0, bootMapped := 0 },
    stw := { s.stw with mbx := [], replies := [], dropped := 0, telemSeq := 0, tempMax := 0x8000 },
    itg := { s.itg with rollPod := 127, rollPhase := 0, rollSpare := none, rollHead := none, copied := false,
                        swaps := 0, abandoned := 0, groups := [], lastDig := [] } }
  if warm then
    { s with flt := { s.flt with insts := s.flt.insts.map fun e => (e.1, { e.2 with count := 0, severe := false }),
                                 severe := 0, log := s.flt.log.map fun e => (e.1, { e.2 with closed := true }),
                                 hold := s.flt.hold.map fun w => { w with closed := true } } }
  else s

/-- A block reset starts (R411): it acts as a warm reset but keeps `BLK_RST_REQ`; in `COLD`, `SELF_TEST`,
`ROADSIDE` and `HALTED` it is ignored and counted. A request made while one is under way joins it. -/
def startBlockReset (s : State) : State :=
  match s.blk.resetBy with
  | .none =>
    let s := modBlk s fun b => { b with blockCnt := min 65535 (b.blockCnt + 1) }
    match s.blk.st with
    | .cold | .selfTest | .roadside | .halted => s
    | _ =>
      let s := bump (quiesce s) 1 7
      modBlk s fun b => { b with st := .selfTest, resetBy := .block, step := 0 }
  | _ => s

end Sys2Proof.Machine
end

