-- ==== Sys2Proof/Machine/Arbiter.lean ====
section
/-! DEFINITION. The fetch arbiter: which submission ring is served next (spec/03_work_rings.md R72, R73). -/

namespace Sys2Proof.Machine

/-- Credit left to ring `n` in this round (R73). -/
def credit (s : State) (n : Nat) : Nat := bits (sqr s n 0x10) 7 0 - sgetD s.arb.spent n 0

/-- The ring served next, and whether a new round begins with it (R73). -/
def nextRing (s : State) : Option (Nat × Bool) :=
  let el := eligibleRings s
  let rich := el.filter fun n => decide (0 < credit s n)
  let a := s.arb
  if a.spent.isEmpty then (el.head?).map fun n => (n, true)
  else if 0 < a.burst ∧ rich.contains a.cur then some (a.cur, false)
  else match rich.find? fun n => decide (a.cur < n) with
    | some n => some (n, false)
    | none => match rich.head? with
      | some n => some (n, false)
      | none => (el.head?).map fun n => (n, true)

/-- Ring `n` has fetched one entry (R73). -/
def takeTurn (s : State) (n : Nat) (fresh : Bool) : State :=
  let a := s.arb
  let spent := if fresh then [] else a.spent
  let more := !fresh && decide (0 < a.burst) && a.cur = n
  let left := if more then a.burst else min (bits (sqr s n 0x10) 14 8) (bits (sqr s n 0x10) 7 0 - sgetD spent n 0)
  { s with arb := { cur := n, burst := left - 1, spent := supd spent n 0 (· + 1) } }

/-- Ring `n`'s scan has stopped: its burst ends (R73). -/
def endBurst (s : State) (n : Nat) : State :=
  restRound (if s.arb.cur = n then { s with arb := { s.arb with burst := 0 } } else s)

end Sys2Proof.Machine
end

