-- ==== Sys2Proof/Machine/PowerOps.lean ====
section
/-! DEFINITION. Shared operations of the power control: supply requests, caps and the root multiplier
(spec/16_steward.md R393 to R398; spec/01 R31, R32). -/

namespace Sys2Proof.Machine

/-- Changes the power state. -/
def modPwr (s : State) (f : Power → Power) : State := { s with pwr := f s.pwr }

/-- `VGUARD` in force. -/
def vguard (s : State) : Nat := rgf s 2 0x408 7 0

/-- The supply code for multiplier `n`: ceil((Vreq - 600) / 2.5), in quarter millivolts (R395). -/
def vreqCode (guard n : Nat) : Nat := ceilDiv (min 1000 (25 * (n - 24) + 4 * guard)) 10

/-- Requests Vreq(n) from the PMU (R395). -/
def requestV (s : State) (n : Nat) : State :=
  modPwr s fun p => { p with vreq := vreqCode (vguard s) n, vreqReq := true, vreqAck := false }

/-- The cap of current-limit level `l` (R398). -/
def ilimCap (s : State) (l : Nat) : Nat :=
  match l with
  | 1 => rgf s 2 0x410 5 0
  | 2 => rgf s 2 0x410 13 8
  | 3 => rgf s 2 0x410 21 16
  | _ => 48

/-- Caps in force, bits of Table 16-6. -/
def capBits (s : State) : BitVec 5 :=
  BitVec.ofNat 5 (b2n (rgf s 2 0x40C 5 0 < 48) + 2 * b2n (s.pwr.capTherm < 48) + 4 * b2n (s.pwr.capPower < 48) +
    8 * b2n (s.pwr.ilimLvl ≠ 0) + 16 * b2n s.pwr.capDroop.isSome)

/-- The least of the caps, within 24 to 48 (R31, R397). -/
def leastCap (s : State) : Nat :=
  let p := s.pwr
  max 24 (min 48 (min (rgf s 2 0x40C 5 0) (min p.capTherm (min p.capPower (min (ilimCap s p.ilimLvl) (p.capDroop.getD 48))))))

/-- `PWR_CLK_STATUS` (Table 1-8). -/
def clkStatus (s : State) : Nat :=
  s.pwr.rootN % 64 + 2 ^ 8 * (s.pwr.targetN % 64) + 2 ^ 14 * b2n s.pwr.slewing + 2 ^ 15 * b2n s.pwr.locked

/-- `PWR_STATUS` (Table 16-8). -/
def pwrStatus (s : State) : Nat :=
  s.pwr.caps.toNat + 2 ^ 5 * (s.pwr.ilimLvl % 4) + 2 ^ 8 * (s.pwr.vreq % 128) + 2 ^ 15 * b2n s.pwr.vreqAck

/-- Starts the next one-step change, if one is due: down at once, up once Vreq(N + 1) is acknowledged (R395). -/
def advanceRoot (s : State) : State :=
  let p := s.pwr
  if p.slewing ∨ p.rootN = p.targetN then s
  else if p.targetN < p.rootN then modPwr s fun p => { p with slewing := true, slewUp := false }
  else if p.vreqReq then s
  else if p.vreqAck ∧ vreqCode (vguard s) (p.rootN + 1) ≤ p.vreq then
    modPwr s fun p => { p with slewing := true, slewUp := true }
  else requestV s (p.rootN + 1)

/-- Raises `PWR_ILIM_ACK` once `ROOT_N` is within the level's cap (R398). -/
def ilimAnswer (s : State) : State :=
  let p := s.pwr
  if p.ilimReq ∧ ¬ p.ilimAck ∧ p.rootN ≤ ilimCap s p.ilimLvl then
    bump (modPwr s fun p => { p with ilimAck := true }) 2 2
  else s

/-- Evaluates the caps: `TARGET_N` becomes the least of them, and a change of the caps in force queues a power
notice (R397). -/
def retarget (s : State) : State :=
  let c := capBits s
  let t := leastCap s
  let changed := decide (c ≠ s.pwr.caps)
  let s := modPwr s fun p => { p with targetN := t, caps := c }
  let s := if changed then
      mbxNotice s 3 ([BitVec.ofNat 32 (pwrStatus s), BitVec.ofNat 32 (clkStatus s)] ++ List.replicate 12 0)
    else s
  ilimAnswer (advanceRoot s)

/-- Takes the level on `PWR_ILIM_LVL` (R398, and at entry to `READY`). -/
def takeIlim (s : State) (lvl : Nat) : State :=
  retarget (modPwr s fun p => { p with ilimLvl := lvl, ilimWant := lvl, ilimReq := true })

/-- Raises `PWR_SW_REQ[p]` (R393). -/
def powerUp (s : State) (p : Nat) : State := modPod s p fun q => { q with swReq := true }

end Sys2Proof.Machine
end

