-- ==== Sys2Proof/Machine/Collector.lean ====
section
/-! DEFINITION. The fault collector: classification, Wayside log and reactions (spec/15_fault_collector.md R366
to R383), and the Milepost dump that a severe event starts (spec/12 R309). -/

namespace Sys2Proof.Machine

/-- Changes the collector. -/
def modFlt (s : State) (f : Collector → Collector) : State := { s with flt := f s.flt }

/-- An instance without events. -/
def Inst.empty : Inst := ⟨0, 0, false, false⟩

/-- Key of source `src` in instance `i` (127: the block). -/
def instKey (src i : Nat) : Nat := src * 128 + i

/-- Counting state of source `src` in instance `i`. -/
def instAt (s : State) (src i : Nat) : Inst := sgetD s.flt.insts (instKey src i) Inst.empty

/-- Sources with one instance per Pod; source 0 belongs to either (Table 15-1). -/
def podSource (src : Nat) : Bool := [2, 3, 4, 5, 6, 7, 13, 18, 22].contains src

/-- Length of the counting window in ticks of 10 ns (R370). -/
def windowTicks (k : Nat) : Nat := if k ≤ 21 then 2 ^ k * 100000 else 3600000 * 100000

/-- Page, physical ID and logical ID of an event's unit (R460). `src` is the source that names a block unit,
`pod` the requesting or misusing Pod (127: none), `info` the event's `INFO`. -/
def unitFields (s : State) (src i pod info : Nat) : Nat × Nat × Nat :=
  if i < 100 then (0x040 + i, i, (podAt s i).logical)
  else
    let lg := if pod < 100 then (podAt s pod).logical else 127
    match src with
    | 1 => (0x003, 127, 127)
    | 8 => (0x001, 127, 127)
    | 9 | 10 | 11 | 12 => (0x003, pod, lg)
    | 14 => (0x020, pod, lg)
    | 15 | 16 => (0x00D + info % 8, 127, 127)
    | 19 | 20 | 23 => (0x002, 127, 127)
    | _ => (0x000, 127, 127)

/-- The 32 bytes of a Wayside record (Table 15-3). -/
def waysideBytes (w : Wayside) : List Byte :=
  leBytes 8 w.time ++ leBytes 2 w.page ++ leBytes 1 w.phys ++ leBytes 1 w.logical ++ leBytes 1 w.source ++
  leBytes 1 w.rflags ++ leBytes 1 w.kind ++ leBytes 1 w.opcode ++ leBytes 4 w.tag ++ leBytes 2 w.node ++
  leBytes 2 w.temp ++ leBytes 2 w.volt ++ leBytes 2 w.count ++ wordBytes w.info

/-- Whether an event of class `severe` in instance `x` may merge into record `w` (R377). -/
def mayMerge (w : Wayside) (src i : Nat) (severe : Bool) (x : Inst) : Bool :=
  w.source = src && w.inst = i && w.rflags % 2 = b2n severe && !bitN w.rflags 1 && !w.closed &&
  (severe || w.window = x.start)

/-- The newest record of a source and instance, held records first, as a position: `true` for the hold queue. -/
def newestRecord (s : State) (src i : Nat) : Option (Bool × Nat × Wayside) :=
  let mine (w : Wayside) : Bool := decide (w.source = src ∧ w.inst = i)
  match s.flt.hold.reverse.findIdx? mine with
  | some k =>
    let n := s.flt.hold.length - 1 - k
    (s.flt.hold[n]?).map fun w => (true, n, w)
  | none =>
    let slots := (List.range 32).map fun d => (s.flt.newest + 32 - d) % 32
    let rec look : List Nat → Option (Bool × Nat × Wayside)
      | [] => none
      | k :: ks => match sget? s.flt.log k with
        | some w => if mine w then some (false, k, w) else look ks
        | none => look ks
    look slots

/-- Adds one event and its reactions to a record. -/
def mergeInto (fired : Nat) (w : Wayside) : Wayside :=
  { w with count := min 65535 (w.count + 1), rflags := w.rflags ||| (8 * fired) }

/-- A merge into a record of a frozen log waits (R378). -/
def mergeLater (fired : Nat) (w : Wayside) : Wayside := { w with waitN := w.waitN + 1, waitRf := w.waitRf ||| (8 * fired) }

/-- The waiting merges of a record take effect. -/
def mergeWaiting (w : Wayside) : Wayside :=
  { w with count := min 65535 (w.count + w.waitN), rflags := w.rflags ||| w.waitRf, waitN := 0, waitRf := 0 }

/-- Puts a record into the slot after the newest (R376). -/
def logPut (s : State) (w : Wayside) : State :=
  let slot := if s.flt.log.isEmpty then 0 else (s.flt.newest + 1) % 32
  let s := modFlt s fun c => { c with log := sput c.log slot w, newest := slot, written := (c.written + 1) % 65536 }
  bump s 1 3

/-- Puts a record into the log, or into the hold queue while the log is frozen (R378). -/
def recordNew (s : State) (w : Wayside) : State :=
  if s.flt.freeze then
    if s.flt.hold.length ≥ 32 then
      bump (pageErr (modFlt s fun c => { c with hold := c.hold.drop 1 ++ [w] }) 1 1) 1 5
    else modFlt s fun c => { c with hold := c.hold ++ [w] }
  else logPut s w

/-- Writes or merges the Wayside record of an event (R377). -/
def recordEvent (s : State) (w : Wayside) (x : Inst) (severe wire : Bool) (fired : Nat) : State :=
  let s := logLater s (.wayside w.source)
  let fresh := recordNew s { w with rflags := w.rflags ||| (8 * fired), window := x.start }
  if wire then fresh
  else match newestRecord s w.source w.inst with
    | some (held, k, old) =>
      if mayMerge old w.source w.inst severe x then
        let s := bump s 1 4
        if held then modFlt s fun c => { c with hold := c.hold.modify k (mergeInto fired) }
        else modFlt s fun c => { c with log := smod c.log k (if c.freeze then mergeLater fired else mergeInto fired) }
      else fresh
    | none => fresh

/-- Takes the waiting merges and the held records into the log, in order (R378). -/
def unfreeze (s : State) : State :=
  let h := s.flt.hold
  let s := modFlt s fun c => { c with freeze := false, hold := [], log := c.log.map fun e => (e.1, mergeWaiting e.2) }
  h.foldl logPut (wrg s 1 0x048 0)

/-- Sends the record block of dump unit `u`: 256 records of 16 bytes in 16 writes (R309). Filled by
`Machine/MpOps`, whose record bytes are passed in. -/
def dumpUnit (s : State) (u : Nat) (bytes : List Byte) : State :=
  let base := rg s 0x580 0x400 + 2 ^ 32 * rg s 0x580 0x404 + 4096 * u
  (List.range 16).foldl (fun s k =>
    memWrite s (base + 256 * k) (slice bytes (256 * k) 256) (rg s 0x580 0x408) 1 127 (.dump u)) s

/-- Whether a waiter belongs to Milepost records now: while its job is away from its Pods it is pending at block level
only, until the `RESTORE` gives it its Milepost again (Table 12-5). -/
def attached (s : State) (w : Waiter) : Bool :=
  let here (j : Nat) : Bool := (job s j).st ≠ .saved && (job s j).st ≠ .restoring
  match w.src with
  | .ring n slot => (entryAt s n slot).all fun e => here e.job
  | .cwy k c => here (halfAt s k (4 + c)).job
  | _ => true

/-- A Milepost that no operation has touched. -/
def MpRec.empty : MpRec := ⟨false, false, 0, 0, 0, 0, 0, 0⟩

/-- The record of Milepost `id`. -/
def mpAt (s : State) (id : Nat) : MpRec := sgetD s.mps.recs id MpRec.empty

/-- Whether a station of Pod `p` waits on Milepost `id` of its member: it is the clear full Milepost of the slot that a node takes
next, or the clear empty Milepost of the slot that a node fills next, and an entry homed on the member has not ended at that node
(Table 12-4; DEDUCED, log 69). -/
def stationWaits (s : State) (p id : Nat) : Bool :=
  let q := podAt s p
  let b := job s q.job
  let open' (n : Nat) : Bool := s.entries.any fun e =>
    e.job = q.job && e.member = q.member && e.st = .running && [1, 2, 4].contains e.opcode && !e.sinks.contains n
  let here (e : Nat) (out : Bool) : Bool := (halves s).all fun x =>
    !(x.2.2.job = q.job && x.2.2.member = q.member && x.2.2.edge = e && decide (x.2.1 < 4) = out)
  q.st = .bound && !(mpAt s id).value && b.route.edges.zipIdx.any fun x =>
    let t := sgetD b.edges (q.member * 4096 + x.2) ⟨List.range x.1.depth, [], 0, 0, []⟩
    (id % 2048 = x.1.mpBase + t.consNext && here x.2 true && open' x.1.consumer) ||
      (id % 2048 = x.1.mpBase + x.1.depth + t.prodNext && !t.fresh.contains t.prodNext && here x.2 false && open' x.1.producer)

/-- Distinct waiting agents on Milepost `id` (Table 12-4). -/
def waiterCount (s : State) (id : Nat) : Nat :=
  min 255 ((s.mps.waiters.filter fun w => w.id = id && attached s w).length +
    match physOf s (id / 2048) with
    | some p => b2n (stationWaits s p id)
    | none => 0)

/-- Whether Milepost `id` is owned: its Pod is bound to a job and its index is below `MP_PER_MEMBER` (R292). -/
def mpOwned (s : State) (id : Nat) : Bool :=
  match physOf s (id / 2048) with
  | some p => (podAt s p).bindValid && decide (id % 2048 < (job s (podAt s p).job).route.mpPer)
  | none => false

/-- Whether Milepost `id` has a record other than zeros: its Pod is in service and powered (R308, R309). -/
def mpLive (s : State) (id : Nat) : Bool :=
  match physOf s (id / 2048) with
  | some p => !(podAt s p).gated
  | none => false

/-- The 16 bytes of a Milepost record (Table 12-4). -/
def mpBytes (s : State) (id : Nat) : List Byte :=
  if !mpLive s id then List.replicate 16 0
  else
    let r := mpAt s id
    let st := b2n r.value + 2 * b2n r.consumed + 4 * b2n (mpOwned s id)
    leBytes 8 r.setTime ++ leBytes 1 st ++ leBytes 1 (waiterCount s id) ++ leBytes 1 r.misSet ++
    leBytes 1 r.misClr ++ leBytes 1 r.misTake ++ leBytes 1 r.lastSrc ++ leBytes 1 r.lastOp ++ [0]

/-- The records of dump unit `u`. -/
def dumpBytes (s : State) (u : Nat) : List Byte := (List.range 256).flatMap fun k => mpBytes s (256 * u + k)

/-- Starts a Milepost dump (R309). -/
def dumpStart (s : State) (severe : Bool) : State :=
  let s := { s with mps := { s.mps with dumpState := 1, dumpSevere := severe, dumpUnit := 0, dumpT0 := s.time, dumpT1 := s.time } }
  dumpUnit (bump s 0x580 5) 0 (dumpBytes s 0)

/-- A source became severe: the dump starts when `AUTO` is 1, or is skipped (R309, R371). -/
def dumpOnSevere (s : State) : State :=
  if bitN (rg s 0x580 0x40C) 0 then
    if s.mps.dumpState = 1 ∨ enabled s 0x580 = false then { s with mps := { s.mps with dumpSkipped := true } }
    else dumpStart s true
  else s

/-- Issues the interrupt of the fault page (R375). -/
def fltInterrupt (s : State) : State :=
  let s := bump s 1 6
  if rgf s 1 0x480 1 0 = 1 then sendMsg s whoFlt (rg64 s 1 0x484) (rg s 1 0x48C) (rg s 1 0x490) else s

/-- Fires the reactions of an event in the order E, I, T, C, B (Table 15-2). `rd` is its Wayside record. -/
def react (s : State) (mask : Nat) (rd : Wayside) : State :=
  let s := if bitN mask 4 then modFlt s fun c => { c with errLatch := true } else s
  let s := if bitN mask 0 then
      if s.flt.irqPend then s else fltInterrupt (modFlt s fun c => { c with irqPend := true })
    else s
  let s := if bitN mask 1 then
      logFlush (mbxNotice s 2 ([BitVec.ofNat 32 s.stw.dropped] ++ List.replicate 5 0 ++
        (toWords 8 (waysideBytes rd)).map (BitVec.ofNat 32)))
    else s
  let s := if bitN mask 3 then { s with pins := { s.pins with rstReq := true } } else s
  if bitN mask 2 then startBlockReset s else s

/-- What follows when an instance becomes severe, whatever its reactions (R371, R396): Pod parity and corrected
ECC make the Pod suspect, droop applies the droop cap, and a dump may start. -/
def onSevere (s : State) (src i : Nat) : State :=
  let s := if src = 4 then markSuspect s i 3 else if src = 2 then markSuspect s i 4 else s
  let s := if src = 18 then retarget (modPwr s fun p => { p with capDroop := some (p.rootN - 2) }) else s
  dumpOnSevere s

/-- Whether the collector hears source `src` of Pod `i`: not while the Pod is in `TEST`, except events that the
Steward raises (R368). -/
def hears (s : State) (src i : Nat) : Bool :=
  decide (s.blk.st ≠ .cold) && !(decide (i < 100 ∧ (podAt s i).st = .test) && !(decide (src = 22 ∨ src = 18)))

/-- One event of source `src` in instance `i` (R370 to R377). `pod` is the requesting or misusing Pod for
Table 15-10, `wire` marks the event of a wire fault, `unit` the source that names the unit of a block pair. -/
def raiseAs (s : State) (src i : Nat) (info : Word) (ctx : EventCtx) (pod : Nat) (wire : Bool) (unit : Nat) : State :=
  if hears s src i = false then s
  else
    let cfg := rg s 1 (0x400 + 4 * src)
    let old := instAt s src i
    let w := windowTicks (bits cfg 12 8)
    let restart := !old.severe && (old.count = 0 || decide (s.time - old.start ≥ w))
    let x := if old.severe then old
      else if restart then { old with start := s.time, count := 1 } else { old with count := old.count + 1 }
    let nowSevere := x.severe || decide (x.count ≥ bits cfg 7 0)
    let becomes := nowSevere && !old.severe
    let x := { x with severe := nowSevere }
    let mask0 := if nowSevere then bits cfg 28 24 else bits cfg 20 16
    let mask := if src = 21 then mask0 &&& 0x1D else mask0
    let uf := unitFields s unit i pod info.toNat
    let rd : Wayside :=
      { time := s.time, page := uf.1, phys := uf.2.1, logical := uf.2.2, source := src,
        rflags := b2n nowSevere + 2 * b2n wire + 4, kind := ctx.kind.toNat, opcode := ctx.opcode.toNat,
        tag := ctx.tag.toNat, node := ctx.node.toNat, temp := ctx.temp.toNat,
        volt := if i < 100 then ctx.volt.toNat else 0, count := 1, info := info, inst := i, window := x.start,
        closed := false, waitN := 0, waitRf := 0 }
    let bit : Word := BitVec.ofNat 32 (2 ^ src)
    let s := modFlt s fun c => { c with
      insts := sput c.insts (instKey src i) x
      active := c.active ||| bit
      severe := if nowSevere then c.severe ||| bit else c.severe }
    let s := bump s 1 0
    let s := if nowSevere then bump s 1 1 else s
    let s := recordEvent s rd x nowSevere wire mask
    let s := if becomes then onSevere s src i else s
    react s mask { rd with rflags := rd.rflags ||| (8 * mask) }

/-- The context of an event that the block itself raises: no operation, and sensor readings that the spec leaves
to the sensors at that moment (free values, log 3). -/
def noCtx (s : State) : EventCtx :=
  ⟨0xFF, 0, 0, 0xFFFF, Config.sensorTemp s.free, Config.sensorVolt s.free⟩

/-- An event that the block raises outside any tile operation. -/
def raise (s : State) (src i : Nat) (info : Nat) (pod : Nat := 127) : State :=
  raiseAs (draw s) src i (BitVec.ofNat 32 info) (noCtx s) pod false src

/-- The read of `n` bytes at `a` whose answer `i` a command carries: its lines are counted, and an answer other than data
raises its source (Table 11-2, R272, R283). -/
def hostRead (s : State) (a n xlat : Nat) (i : HostRead) : State :=
  let lines := if n = 0 then 0 else (a + n - 1) / 64 + 1 - a / 64
  let s := modMem (bump s 3 0 lines) fun m => { m with direct := some ⟨a, lines, xlat, i.kind⟩ }
  match i.kind with
  | .fault => raise s 11 127 (bits i.addr.toNat 43 12)
  | .error => raise s 9 127 (bits a 43 12)
  | .timeout => raise s 10 127 (bits a 43 12)
  | _ => s

/-- The operation fields of a tile operation in an event's record (Table 15-3). -/
def opCtx (s : State) (o : TileOp) : EventCtx :=
  let tag := match entryRank s o.job o.rank with
    | some e => e.body.tag
    | none => 0
  ⟨BitVec.ofNat 8 o.kind, BitVec.ofNat 8 o.opcode, tag, BitVec.ofNat 16 o.node, Config.sensorTemp s.free,
    Config.sensorVolt s.free⟩

/-- An event that a tile operation raises. -/
def raiseOp (s : State) (src i info : Nat) (o : TileOp) : State :=
  raiseAs (draw s) src i (BitVec.ofNat 32 info) (opCtx s o) o.pod false src

end Sys2Proof.Machine
end

