-- ==== Sys2Proof/Machine/MpOps.lean ====
section
/-! DEFINITION. Shared operations on Mileposts, edges, Tollgates and Causeway halves (spec/12, spec/13). -/

namespace Sys2Proof.Machine

/-! ## Mileposts -/

/-- Changes the Milepost bank. -/
def modMps (s : State) (f : MpBank → MpBank) : State := { s with mps := f s.mps }

/-- `LAST_SRC` of a source (Table 12-4). -/
def MpSource.code : MpSource → Nat
  | .pod l _ => l
  | .ring _ _ => 0x60
  | .control => 0x61
  | .steward => 0x62
  | .cwy k _ => 0x70 + k

/-- Station `KIND` of a source, 0xF when it is no station (Table 12-4). -/
def MpSource.kind : MpSource → Nat
  | .pod _ k => k
  | _ => 0xF

/-- Arbitration rank of a source; the age ranks within one source (R295). -/
def MpSource.rank : MpSource → Nat
  | .pod l k => l * 16 + k
  | .ring _ _ => 10000
  | .control => 20000
  | .cwy k c => 30000 + 4 * k + c
  | .steward => 40000

/-- Writes the record of Milepost `id`. -/
def putMp (s : State) (id : Nat) (r : MpRec) : State := modMps s fun b => { b with recs := sset b.recs id r MpRec.empty }

/-- Misuse of Milepost `id`: kind 0 set-while-set, 1 clear-while-clear, 2 take timeout (R307). -/
def mpMisuse (s : State) (id kind : Nat) : State :=
  let r := mpAt s id
  let up (n : Nat) : Nat := min 255 (n + 1)
  let r := match kind with
    | 0 => { r with misSet := up r.misSet }
    | 1 => { r with misClr := up r.misClr }
    | _ => { r with misTake := up r.misTake }
  let s := bump (pageErr (putMp s id r) 0x580 0) 0x580 4
  match physOf s (id / 2048) with
  | some p => raise s 13 p (id + 2 ^ 18 * kind) p
  | none => s

/-- The half that a fed `TAKE` belongs to goes on: it holds the slot and sends `CREDIT` (R325). -/
def fedTook (s : State) (k c : Nat) : State :=
  let h := halfAt s k (4 + c)
  let slot := h.next
  let s := modHalf s k (4 + c) fun h => { h with waiting := false, credits := nins h.credits slot,
                                                 next := if slot + 1 < h.depth then slot + 1 else 0 }
  sendFlit s k (plainFlit 6 c slot 0)

/-- A pending operation completes. -/
def resolveWaiter (s : State) (w : Waiter) : State :=
  match w.src with
  | .ring n slot => match entryAt s n slot with
    | some e => finish s e stOk
    | none => s
  | .cwy k c => fedTook s k c
  | _ => s

/-- `SET` of Milepost `id` (Table 12-1, R294). Nothing happens on one that is not owned (R292). -/
def mpSet (s : State) (id : Nat) (src : MpSource) : State :=
  if mpOwned s id = false then s
  else
    let s := bump s 0x580 0
    let r := { mpAt s id with lastSrc := src.code, lastOp := src.kind }
    if r.value then mpMisuse (putMp s id r) id 0
    else
      let mine := s.mps.waiters.filter fun w => w.id = id && attached s w
      let waits := mine.filter fun w => !w.take
      let takes := sortBy (mine.filter fun w => w.take) fun a b =>
        decide (a.src.rank < b.src.rank) || (a.src.rank = b.src.rank && decide (a.seq ≤ b.seq))
      let first := takes.head?
      let gone := waits ++ first.toList
      let r := { r with value := first.isNone, consumed := first.isSome, setTime := s.time }
      let s := putMp s id r
      let s := modMps s fun b => { b with waiters := b.waiters.filter fun w => !gone.contains w }
      let s := if first.isSome then bump s 0x580 2 else s
      gone.foldl resolveWaiter s

/-- `CLEAR` of Milepost `id` (Table 12-1). -/
def mpClear (s : State) (id : Nat) (src : MpSource) : State :=
  if mpOwned s id = false then s
  else
    let s := bump s 0x580 1
    let r := { mpAt s id with lastSrc := src.code, lastOp := src.kind + 16 }
    if r.value then putMp s id { r with value := false } else mpMisuse (putMp s id r) id 1

/-- `TAKE` of a set Milepost: it consumes the last set (R293, Table 12-4; log 1). -/
def mpTakeNow (s : State) (id : Nat) : State := bump (putMp s id { mpAt s id with value := false, consumed := true }) 0x580 2

/-- Adds a waiter. -/
def addWaiter (s : State) (id : Nat) (take : Bool) (src : MpSource) : State :=
  modMps s fun b => { b with waiters := b.waiters ++ [⟨id, take, src, b.seq⟩], seq := b.seq + 1 }

/-- Zeroes the misuse counters of a Milepost (Table 12-9). -/
def mpZero (s : State) (id : Nat) : State :=
  if mpOwned s id then putMp s id { mpAt s id with misSet := 0, misClr := 0, misTake := 0 } else s

/-! ## Edges -/

/-- Edge `e` of job `j`'s route. -/
def edgeOf (s : State) (j e : Nat) : Edge := (job s j).route.edges.getD e ⟨0, 0, 0, 0, 0, 0, 0, 0⟩

/-- Node `n` of job `j`'s route. -/
def nodeOf (s : State) (j n : Nat) : Node := (job s j).route.nodes.getD n ⟨0, 0, 0, 0, 0, 0, 0, 0, 0, 0, 0, 0, 0, 0, 0⟩

/-- An edge right after a rewind: every slot fresh (R297). -/
def EdgeSt.fresh0 (depth : Nat) : EdgeSt := ⟨List.range depth, [], 0, 0, []⟩

/-- State of edge `e` on member `m` of job `j`. -/
def edgeAt (s : State) (j m e : Nat) : EdgeSt := sgetD (job s j).edges (m * 4096 + e) (EdgeSt.fresh0 (edgeOf s j e).depth)

/-- Changes edge `e` on member `m` of job `j`. -/
def modEdge (s : State) (j m e : Nat) (f : EdgeSt → EdgeSt) : State :=
  let x := f (edgeAt s j m e)
  modJob s j fun b => { b with edges := sput b.edges (m * 4096 + e) x }

/-- Milepost ID of index `k` on member `m` of job `j` (R50). -/
def mpId (s : State) (j m k : Nat) : Nat := (job s j).members.getD m 0 * 2048 + k

/-- Full Milepost of slot `x` (R297). -/
def fullId (s : State) (j m e x : Nat) : Nat := mpId s j m ((edgeOf s j e).mpBase + x)

/-- Empty Milepost of slot `x` (R297). -/
def emptyId (s : State) (j m e x : Nat) : Nat := mpId s j m ((edgeOf s j e).mpBase + (edgeOf s j e).depth + x)

/-- Whether slot `x` may be written: it is fresh or its empty Milepost is set (R39, R297). -/
def slotEmpty (s : State) (j m e x : Nat) : Bool :=
  (edgeAt s j m e).fresh.contains x || (mpAt s (emptyId s j m e x)).value

/-- Whether slot `x` may be read (R39). -/
def slotFull (s : State) (j m e x : Nat) : Bool := (mpAt s (fullId s j m e x)).value

/-- Takes the empty Milepost of slot `x`, or its fresh mark (R297). -/
def takeEmpty (s : State) (j m e x : Nat) : State :=
  if (edgeAt s j m e).fresh.contains x then modEdge s j m e fun t => { t with fresh := ndel t.fresh x }
  else mpTakeNow s (emptyId s j m e x)

/-- Bytes of one slot of edge `e` (Table 7-3). -/
def slotBytes (e : Edge) : Nat := e.bufGranules * 4096 / (max 1 e.depth * 64) * 64

/-- Local byte address of slot `x` of edge `e` in the slice of its member. -/
def slotAddr (e : Edge) (x : Nat) : Nat := e.bufLocal * 4096 + x * slotBytes e

/-- Whether a half holds the consumer's part (outbound) or producer's part (inbound) of edge `e` on member `m`
(R324, R325). -/
def halfOn (s : State) (j m e : Nat) (outbound : Bool) : Option (Nat × Nat) :=
  (halves s).findSome? fun x =>
    let h := x.2.2
    if h.job = j ∧ h.member = m ∧ h.edge = e ∧ decide (x.2.1 < 4) = outbound ∧
        bitN (rg s (cwyPage x.1) (0x400 + 0x20 * x.2.1)) 1 = false then some (x.1, x.2.1) else none

/-- Announces slot `x`: its full Milepost is set, or on a stage edge it waits for the release; a first fill removes the fresh mark
(R297). -/
def announce (s : State) (j m e x : Nat) (f : Fill) (src : MpSource) : State :=
  let s := modEdge s j m e fun t => { t with fills := t.fills.filter (·.1 ≠ x) ++ [(x, f)], fresh := ndel t.fresh x }
  if (edgeOf s j e).sync = 1 then modEdge s j m e fun t => { t with staged := nins t.staged x }
  else mpSet s (fullId s j m e x) src

/-- The consumer lets slot `x` go: `CLEAR` full, then `SET` empty (R297). -/
def releaseSlot (s : State) (j m e x : Nat) (src : MpSource) : State :=
  let s := modEdge s j m e fun t => { t with fills := t.fills.filter (·.1 ≠ x) }
  mpSet (mpClear s (fullId s j m e x) src) (emptyId s j m e x) src

/-- Writes the value of a Milepost without an operation (rewind, restore, discard). -/
def mpForce (s : State) (id : Nat) (v : Bool) : State := putMp s id { mpAt s id with value := v }

/-- Takes the fill of slot `x` out of its edge: the slot reads empty (a discarded task, R84). -/
def discardSlot (s : State) (j m e x : Nat) : State :=
  let s := modEdge s j m e fun t => { t with fills := t.fills.filter (·.1 ≠ x), staged := ndel t.staged x }
  mpForce (mpForce s (fullId s j m e x) false) (emptyId s j m e x) true

/-- A node instance without work. -/
def NodeSt.empty : NodeSt := ⟨[], [], 0, 0, 0, false, [], []⟩

/-- State of node `n` on member `m` of job `j`. -/
def nodeAt (s : State) (j m n : Nat) : NodeSt := sgetD (job s j).nodes (m * 1024 + n) NodeSt.empty

/-- Changes node `n` on member `m` of job `j`. -/
def modNode (s : State) (j m n : Nat) (f : NodeSt → NodeSt) : State :=
  modJob s j fun b => { b with nodes := supd b.nodes (m * 1024 + n) NodeSt.empty f }

/-- The halves of edge `e` on member `m` begin anew with slot 0; a `TAKE` that waits on an old slot is made again (R297, R324,
R325). -/
def rewindHalves (s : State) (j m e : Nat) : State :=
  (halves s).foldl (fun s x =>
    if x.2.2.job = j ∧ x.2.2.member = m ∧ x.2.2.edge = e then
      let s := modMps s fun b => { b with waiters := b.waiters.filter fun w => !(x.2.1 ≥ 4 && w.src = .cwy x.1 (x.2.1 - 4)) }
      modHalf s x.1 x.2.1 fun y => { y with next := 0, waiting := false, wrote := [], sent := [], band := 0 }
    else s) s

/-- Rewinds edge `e` on member `m` if it holds no full slot (R297). -/
def rewindEdge (s : State) (j m e : Nat) : State :=
  let d := (edgeOf s j e).depth
  if (edgeAt s j m e).fills.isEmpty && (List.range d).all fun x => !slotFull s j m e x then
    let s := (List.range d).foldl (fun s x => mpForce (mpForce s (fullId s j m e x) false) (emptyId s j m e x) false) s
    rewindHalves (modEdge s j m e fun _ => EdgeSt.fresh0 d) j m e
  else s

/-- Rewinds every edge of job `j` on every member. -/
def rewindJob (s : State) (j : Nat) : State :=
  let b := job s j
  (List.range b.members.length).foldl (fun s m =>
    (List.range b.route.edges.length).foldl (fun s e => rewindEdge s j m e) s) s

/-- Whether an entry rank of job `j` still has a task; 2^64 marks a fed fill that waits for its task. -/
def rankLive (s : State) (j r : Nat) : Bool := decide (r = 2 ^ 64) || s.entries.any fun e => e.job = j ∧ e.rank = r ∧ e.st ≠ .done

/-- Whether an operation of node `n` on member `m` for rank `r` of job `j` is in flight. -/
def opInFlight (s : State) (j m n r : Nat) : Bool :=
  s.ops.any fun o => o.job = j ∧ o.member = m ∧ o.node = n ∧ o.rank = r

/-- Discards the work `w` that node `n` on member `m` has begun: its last operation in flight keeps its slots until its
verdict, and without one they read empty at once. -/
def dropWork (s : State) (j m n : Nat) (w : Work) : State :=
  let s := modNode s j m n fun x => { x with works := x.works.filter fun v => v.rank ≠ w.rank }
  let mine := s.ops.filter fun o => o.job = j ∧ o.member = m ∧ o.node = n ∧ o.rank = w.rank
  match mine.getLast? with
  | some q =>
    { s with ops := s.ops.map fun o => if o.id = q.id then
        { o with outs := (o.outs ++ w.outs).dedup, ins := (o.ins ++ w.ins).dedup, last := true } else o }
  | none => w.outs.foldl (fun s o => discardSlot s j (o.1 / 4096) (o.1 % 4096) o.2) s

/-- Discards what the entries of job `j` whose rank satisfies `f` left in nodes and edges (R84, step 2). A slot that an
operation in flight reads stays with it until its verdict. -/
def purgeWhere (s : State) (j : Nat) (f : Nat → Bool) : State :=
  let s := { s with
    ops := s.ops.filter fun o => !(o.job = j && o.pod = 127 && f o.rank)
    mem := { s.mem with
      moves := s.mem.moves.filter fun b => !(b.job = j && f b.rank)
      xfers := s.mem.xfers.filter fun x => !(x.move.isSome && x.job = j && f x.rank) }
    decodes := s.decodes.filter fun d => !(d.job = j && f d.rank) }
  let s := (job s j).nodes.foldl (fun s x =>
    let s := (x.2.works.filter fun w => f w.rank).foldl (fun s w => dropWork s j (x.1 / 1024) (x.1 % 1024) w) s
    modNode s j (x.1 / 1024) (x.1 % 1024) fun t => { t with
      group := t.group.filter fun r => !f r, units := t.units.filter fun u => !f u.1, failed := t.failed.filter fun r => !f r }) s
  let held (k x : Nat) : Bool := s.ops.any fun o => o.job = j && o.ins.contains (k, x)
  (job s j).edges.foldl (fun s x =>
    (x.2.fills.filter fun g => f g.2.rank && !held x.1 g.1).foldl
      (fun s g => discardSlot s j (x.1 / 4096) (x.1 % 4096) g.1) s) s

/-- Discards what ended entries of job `j` left in edges and nodes (R84, step 2). -/
def purge (s : State) (j : Nat) : State := purgeWhere s j fun r => !rankLive s j r

/-- Discards the tasks of entry rank `r` of job `j`, operations in flight included: their verdicts announce nothing. -/
def clearRank (s : State) (j r : Nat) : State :=
  let s := purgeWhere s j fun q => q = r
  { s with ops := s.ops.map fun o => if o.job = j ∧ o.rank = r then { o with rank := 2 ^ 65 } else o }

/-! ## Causeway protocol -/

/-- A protocol fault on half `h` of port `k`: the half stops, `ABORT` goes out, its job fails, the source is raised
(Table 13-3). -/
def protocolFault (s : State) (k h : Nat) : State :=
  let x := halfAt s k h
  let s := bump s (cwyPage k) 4
  let info := k + 2 ^ 4 * h + 2 ^ 16 * 0x0D12
  if x.st = .unbound then
    raise (sendFlit s k (plainFlit 8 (h % 4) 0 0x0D12)) 16 127 info
  else
    let s := sendFlit s k (plainFlit 8 (h % 4) 0 0x0D12)
    let s := modHalf s k h fun x => { x with st := .stopped, job := 256 }
    let s := failJob s x.job 0x0D12 stAborted
    let s := modHalf s k h fun y => { y with job := x.job }
    raise s 16 127 info

/-! ## Tollgates -/

/-- `EXPECT` of a gate: members and external participants (R311). -/
def gateExpect (g : Gate) : Nat := g.parts + ((List.range 9).filter fun i => g.ext.getLsbD i).length

/-- `ARRIVED` of a gate. -/
def gateArrived (g : Gate) : Nat := g.members.length + g.externals.length

/-- Misuse of gate `b` by `who`, coded as `TG_AUX` (R315); `break_` also breaks the gate. -/
def gateMisuse (s : State) (b who : Nat) (break_ : Bool) : State :=
  let s := modGate s b fun g => { g with misuse := min 255 (g.misuse + 1), misuser := who, broken := g.broken || break_ }
  let s := bump (pageErr s 0x020 0) 0x020 3
  let g := gateAt s b
  let pod := if who < 0x60 then (memberPod s g.job who).getD 127 else 127
  raise s 14 127 (b + 2 ^ 8 * who) pod

/-- Counts an arrival at gate `b`, and whether the host had not yet observed the release before (Table 12-10). -/
def countArrival (s : State) (b : Nat) : State := bump (bump s 0x020 1) 0x020 2 (b2n (gateAt s b).unseen)

/-- An external participant (0 the host, 1 to 8 Causeway ports) arrives at gate `b` (R311, R313, R315). -/
def gateArriveExt (s : State) (b i : Nat) : State :=
  let g := gateAt s b
  if g.externals.contains i then gateMisuse s b (if i = 0 then 0x60 else 0x6F + i) true
  else countArrival (modGate s b fun g => { g with externals := nins g.externals i, unseen := g.unseen && decide (i ≠ 0) }) b

/-- Member `m` arrives at gate `b` (R312). -/
def gateArriveMember (s : State) (b m : Nat) : State :=
  let g := gateAt s b
  if g.members.contains m then gateMisuse s b m true
  else countArrival (modGate s b fun g => { g with members := nins g.members m }) b

end Sys2Proof.Machine
end

