-- ==== Sys2Proof/Machine/Operands.lean ====
section
/-! DEFINITION. Operand forms: submission entries as bytes (spec/03 Table 3-1), route images (spec/02 R40, R41),
tensor descriptors, their addresses, footprints and enumeration orders (spec/07 R169 to R173, R187), window
addresses (R49) and the placement of scratch (R47). -/

namespace Sys2Proof.Machine

/-- The 64 bytes of an entry (Table 3-1). -/
def entryBytes (op : Nat) (e : EntryBody) : List Byte :=
  leBytes 1 op ++ leBytes 1 e.eflags.toNat ++ leBytes 1 e.job.toNat ++ leBytes 1 e.rsv03.toNat ++
  leBytes 4 e.tag.toNat ++ leBytes 8 e.srcAddr.toNat ++ leBytes 4 e.srcLen.toNat ++ leBytes 2 e.stream.toNat ++
  leBytes 2 e.epoch.toNat ++ leBytes 8 e.sampleIndex.toNat ++ leBytes 8 e.dstAddr.toNat ++
  leBytes 4 e.dstLen.toNat ++ leBytes 4 e.arg.toNat ++ leBytes 8 e.augAddr.toNat ++ leBytes 4 e.arg2.toNat ++
  leBytes 4 e.rsv3c.toNat

/-- Node entry (Table 2-2). -/
def parseNode (b : List Byte) : Node where
  kind := fieldLe b 0 1
  opcode := fieldLe b 1 1
  flags := fieldLe b 2 2
  inFirst := fieldLe b 4 2
  inCount := fieldLe b 6 1
  outCount := fieldLe b 7 1
  outFirst := fieldLe b 8 2
  descFirst := fieldLe b 10 2
  descCount := fieldLe b 12 1
  accTiles := fieldLe b 13 1
  tollgate := fieldLe b 14 2
  paramOfs := fieldLe b 16 4
  paramSize := fieldLe b 20 4
  scratch := fieldLe b 24 4
  rsv := fieldLe b 28 4

/-- Edge entry (Table 2-3). -/
def parseEdge (b : List Byte) : Edge where
  producer := fieldLe b 0 2
  consumer := fieldLe b 2 2
  bufLocal := fieldLe b 4 4
  bufGranules := fieldLe b 8 2
  depth := fieldLe b 10 1
  sync := fieldLe b 11 1
  mpBase := fieldLe b 12 2
  rsv := fieldLe b 14 2

/-- Tensor descriptor (Table 7-1). -/
def parseDesc (b : List Byte) : Desc where
  dtype := fieldLe b 0 1
  rank := fieldLe b 1 1
  space := fieldLe b 2 1
  dflags := fieldLe b 3 1
  blockDim := fieldLe b 4 1
  rsv5 := fieldLe b 5 1
  edge := fieldLe b 6 2
  base := fieldLe b 8 8
  scaleBase := fieldLe b 16 8
  pad := fieldLe b 24 4
  rsv1c := fieldLe b 28 4
  size := (List.range 8).map fun k => fieldLe b (0x20 + 4 * k) 4
  stride := (List.range 8).map fun k => sext 48 (fieldLe b (0x40 + 6 * k) 6)
  rsv70 := fieldLe b 0x70 16

/-- `n` records of `w` bytes from offset `o`. -/
def records {α : Type} (f : List Byte → α) (b : List Byte) (o w n : Nat) : List α :=
  (List.range n).map fun k => f (slice b (o + k * w) w)

/-- A route image (Table 2-1). Tables are taken only up to the limits of Table 2-1. -/
def parseRoute (b : List Byte) : Route :=
  let nc := fieldLe b 0x10 2
  let ec := fieldLe b 0x12 2
  let dc := fieldLe b 0x14 2
  let no := fieldLe b 0x20 4
  let eo := fieldLe b 0x24 4
  let d := fieldLe b 0x28 4
  let po := fieldLe b 0x2C 4
  let ps := fieldLe b 0x30 4
  let size := fieldLe b 8 4
  let img := slice b 0 (min size 262144)
  { magic := fieldLe b 0 4, version := fieldLe b 4 2, hdrSize := fieldLe b 6 2, imageSize := size,
    crc := fieldLe b 12 4, nodeCount := nc, edgeCount := ec, descCount := dc, podsMin := fieldLe b 0x16 1,
    podsMax := fieldLe b 0x17 1, localMin := fieldLe b 0x18 4, mpPer := fieldLe b 0x1C 2,
    tollgates := fieldLe b 0x1E 2, nodeOfs := no, edgeOfs := eo, descOfs := d, paramOfs := po, paramSize := ps,
    accMax := fieldLe b 0x34 1, flags := fieldLe b 0x35 1, maxTasks := fieldLe b 0x36 2, rsv3c := fieldLe b 0x3C 4,
    crcComputed := crc32 (img.take 12 ++ [0, 0, 0, 0] ++ img.drop 16),
    nodes := records parseNode b no 32 (min nc 1024), edges := records parseEdge b eo 16 (min ec 4096),
    descs := records parseDesc b d 128 (min dc 1024), params := slice b po (min ps 262144) }

/-- The parameter block of node `x`. -/
def nodeBlock (r : Route) (x : Node) : List Byte := slice r.params x.paramOfs x.paramSize

/-- Descriptor `k` of node `x` (role order of the owning chapter). -/
def nodeDesc (r : Route) (x : Node) (k : Nat) : Desc :=
  r.descs.getD (x.descFirst + k) ⟨0, 1, 0, 0, 0, 0, 0, 0, 0, 0, 0, List.replicate 8 1, List.replicate 8 0, 0⟩

/-- Input edges of node `x`. -/
def inEdges (x : Node) : List Nat := (List.range x.inCount).map (x.inFirst + ·)
/-- Output edges of node `x`. -/
def outEdges (x : Node) : List Nat := (List.range x.outCount).map (x.outFirst + ·)

/-- Span width of a node (Table 2-2, R36). -/
def spanWidth (x : Node) : Nat := if bitN x.flags 0 then bits x.flags 3 1 + 1 else 1

/-! ## Descriptors -/

/-- Element width in bits (Table 7-2). -/
def dtBits (t : Nat) : Nat :=
  match t with
  | 0 | 4 => 4
  | 1 | 2 | 5 | 6 => 8
  | 3 | 7 | 8 => 16
  | _ => 32

/-- Whether `SCALED` is allowed (Table 7-2). -/
def dtScalable (t : Nat) : Bool := t = 1 || t = 4 || t = 5 || t = 6

/-- Flags of a descriptor (Table 7-1). -/
def Desc.reads (d : Desc) : Bool := bitN d.dflags 0
def Desc.writes (d : Desc) : Bool := bitN d.dflags 1
def Desc.scaled (d : Desc) : Bool := bitN d.dflags 2

/-- Size of dimension `k`. -/
def Desc.sz (d : Desc) (k : Nat) : Nat := d.size.getD k 1
/-- Stride of dimension `k`. -/
def Desc.st (d : Desc) (k : Nat) : Int := d.stride.getD k 0

/-- Elements of a descriptor. -/
def Desc.count (d : Desc) : Nat := (List.range d.rank).foldl (fun a k => a * d.sz k) 1

/-- The index of position `p` in canonical order (R169). -/
def Desc.index (d : Desc) (p : Nat) : List Nat :=
  ((List.range 8).foldl (fun (a : List Nat × Nat) k => (a.1 ++ [a.2 % d.sz k], a.2 / d.sz k)) ([], p)).1

/-- The position of an index in canonical order. -/
def Desc.pos (d : Desc) (i : List Nat) : Nat :=
  ((List.range 8).foldl (fun (a : Nat × Nat) k => (a.1 + i.getD k 0 * a.2, a.2 * d.sz k)) (0, 1)).1

/-- Whether an index is inside (R174). -/
def Desc.inside (d : Desc) (i : List Int) : Bool :=
  (List.range 8).all fun k => decide (0 ≤ i.getD k 0 ∧ i.getD k 0 < d.sz k)

/-- Element offset of an index (R171). -/
def Desc.ofs (d : Desc) (i : List Int) : Int := (List.range 8).foldl (fun a k => a + i.getD k 0 * d.st k) 0

/-- Bit address of an element within its space (R171). -/
def Desc.bitAddr (d : Desc) (i : List Int) : Nat := (8 * (d.base : Int) + d.ofs i * dtBits d.dtype).toNat

/-- Sizes of the scale grid (R173). -/
def Desc.scaleSz (d : Desc) (k : Nat) : Nat := if k = d.blockDim then ceilDiv (d.sz k) 32 else d.sz k

/-- Scales of a descriptor. -/
def Desc.scaleCount (d : Desc) : Nat := (List.range d.rank).foldl (fun a k => a * d.scaleSz k) 1

/-- Byte address of the scale of an element (R173). -/
def Desc.scaleAddr (d : Desc) (i : List Nat) : Nat :=
  d.scaleBase + ((List.range 8).foldl (fun (a : Nat × Nat) k =>
    let v := if k = d.blockDim then i.getD k 0 / 32 else i.getD k 0
    (a.1 + v * a.2, a.2 * d.scaleSz k)) (0, 1)).1

/-- Element footprint [lo, hi) (R172). -/
def Desc.foot (d : Desc) : Int × Int :=
  let term (k : Nat) : Int := ((d.sz k : Int) - 1) * d.st k
  let emin := (List.range 8).foldl (fun a k => a + min 0 (term k)) (0 : Int)
  let emax := (List.range 8).foldl (fun a k => a + max 0 (term k)) (0 : Int)
  let b : Int := dtBits d.dtype
  (d.base + emin * b / 8, d.base + ((emax + 1) * b + 7) / 8)

/-- Scale footprint [lo, hi); empty when unscaled (R172, R173). -/
def Desc.scaleFoot (d : Desc) : Int × Int :=
  if d.scaled then ((d.scaleBase : Int), (d.scaleBase : Int) + d.scaleCount) else (0, 0)

/-- Extent of a descriptor's space (Table 7-3). -/
def extent (r : Route) (window srcLen dstLen : Nat) (d : Desc) : Nat :=
  match d.space with
  | 0 => window * 4096
  | 1 => srcLen
  | 2 => dstLen
  | _ => slotBytes (r.edges.getD d.edge ⟨0, 0, 0, 0, 1, 0, 0, 0⟩)

/-- Whether both footprints lie within the extent (R172). -/
def footInside (d : Desc) (ext : Nat) : Bool :=
  let f := d.foot
  decide (0 ≤ f.1 ∧ f.2 ≤ ext) && (!d.scaled || decide (d.scaleFoot.2 ≤ ext))

/-! ## Run dimension and segments -/

/-- The destination run dimension (R185). -/
def Desc.runDim (d : Desc) : Nat :=
  ((List.range d.rank).find? fun k => decide (1 < d.sz k) && decide (d.st k = 1 ∨ d.st k = -1)).getD 0

/-- Segments of up to 64 elements along dimension `rd`, those along it fastest, then the other dimensions in canonical order: the
first index and length of segment `s` (R187). -/
def Desc.segment (d : Desc) (rd s : Nat) : List Nat × Nat :=
  let per := ceilDiv (d.sz rd) 64
  let first := s % per * 64
  let rest := s / per
  let idx := ((List.range 8).foldl (fun (a : List Nat × Nat) k =>
    if k = rd then (a.1 ++ [first], a.2) else (a.1 ++ [a.2 % d.sz k], a.2 / d.sz k)) ([], rest)).1
  (idx, min 64 (d.sz rd - first))

/-- Segments of a descriptor along dimension `rd` (R187). -/
def Desc.segments (d : Desc) (rd : Nat) : Nat :=
  ceilDiv (d.sz rd) 64 * ((List.range d.rank).foldl (fun a k => if k = rd then a else a * d.sz k) 1)

/-- Indices of a segment. -/
def Desc.segIndices (d : Desc) (rd s : Nat) : List (List Nat) :=
  let g := d.segment rd s
  (List.range g.2).map fun t => g.1.set rd (g.1.getD rd 0 + t)

/-! ## Addresses of a job -/

/-- Pods of job `j`. -/
def jobP (s : State) (j : Nat) : Nat := (job s j).members.length

/-- Logical window byte `a` of job `j` as physical Pod and local byte (R49). -/
def winPlace (s : State) (j a : Nat) : Option (Nat × Nat) :=
  let p := max 1 (jobP s j)
  let g := a / 4096
  match memberPod s j (g % p) with
  | some q => some (q, g / p * 4096 + a % 4096)
  | none => none

/-- First local granule after the edge buffers (R47). -/
def scratchBase (r : Route) : Nat := r.edges.foldl (fun a e => max a (e.bufLocal + e.bufGranules)) 0

/-- First local granule of the scratch of node `n` (R47). -/
def scratchOf (r : Route) (n : Nat) : Nat := scratchBase r + ((r.nodes.take n).map (·.scratch)).sum

/-- Where byte `a` of the space of descriptor `d` lies for member `m` of job `j`, the slot held on its edge being
`slot` (Table 7-3); none for host spaces. -/
def spacePlace (s : State) (j m slot : Nat) (d : Desc) (a : Nat) : Option (Nat × Nat) :=
  match d.space with
  | 0 => winPlace s j a
  | 3 => match memberPod s j m with
    | some q => some (q, slotAddr (edgeOf s j d.edge) slot + a)
    | none => none
  | _ => none

end Sys2Proof.Machine
end

