-- ==== Sys2Proof/Machine/Marrow.lean ====
section
/-! DEFINITION. Marrow lines: checked reads, full and masked writes, poison and provisional bits, host-side line
bytes (spec/11_marrow_and_streaming.md R261 to R266; R458), and the accumulator store (spec/09 R228). -/

namespace Sys2Proof.Machine

/-- Changes the Marrow. -/
def modMarrow (s : State) (f : Marrow → Marrow) : State := { s with marrow := f s.marrow }

/-- Line key of line `n` of physical Pod `p`. -/
def lkey (p n : Nat) : Nat := p * 98304 + n

/-- Byte `k` of the Marrow without its error mask; an unlisted byte is 0 (R34). -/
def Marrow.byte (m : Marrow) (k : Nat) : Byte := sgetD m.bytes k 0

/-- Writes byte `k`. -/
def Marrow.setByte (m : Marrow) (k : Nat) (b : Byte) : Marrow := { m with bytes := sset m.bytes k b 0 }

/-- Bits set in the low `n` bits of `v`. -/
def popCount : Nat → Nat → Nat
  | 0, _ => 0
  | n + 1, v => v % 2 + popCount n (v / 2)

/-- Bits in error in word `w` of line `l`. -/
def Marrow.wordErr (m : Marrow) (l w : Nat) : Nat := popCount 72 (sgetD m.ecc (l * 8 + w) 0).toNat

/-- Raises an event of Pod `p`, with the fields of a tile operation if one is given. -/
def raiseFor (s : State) (src p info : Nat) (o : Option TileOp) : State :=
  match o with
  | some x => raiseOp s src p info x
  | none => raise s src p info p

/-- Checks one word of line `n` of Pod `p` (R263): one bit in error is corrected and counted. -/
def checkWord (o : Option TileOp) (p n : Nat) (s : State) (w : Nat) : State :=
  if s.marrow.wordErr (lkey p n) w = 1 then
    let s := modMarrow s fun m => { m with ecc := sdel m.ecc (lkey p n * 8 + w) }
    raiseFor (bump s (podPage p) 4) 2 p (n + 2 ^ 17 * w) o
  else s

/-- Checks every word of a line (R263). A word with more bits in error poisons the line. -/
def checkLine (s : State) (p n : Nat) (o : Option TileOp := none) : State :=
  let s := (List.range 8).foldl (checkWord o p n) s
  match (List.range 8).find? fun w => 2 ≤ s.marrow.wordErr (lkey p n) w with
  | none => s
  | some w =>
    let s := if s.marrow.poison.contains (lkey p n) then s
      else bump (modMarrow s fun m => { m with poison := nins m.poison (lkey p n) }) (podPage p) 5
    raiseFor s 3 p (n + 2 ^ 17 * w) o

/-- Byte `i` of a line as read: an uncorrectable word is returned as it stands, errors included. -/
def lineByte (m : Marrow) (l i : Nat) : Byte :=
  m.byte (l * 64 + i) ^^^ BitVec.ofNat 8 ((sgetD m.ecc (l * 8 + i / 8) 0).toNat >>> (8 * (i % 8)))

/-- The lines that bytes `a` to `a + n - 1` of a slice touch. -/
def linesOf (a n : Nat) : List Nat := if n = 0 then [] else (List.range ((a + n - 1) / 64 + 1 - a / 64)).map (a / 64 + ·)

/-- A reader of Marrow: the state, whether poison was read, whether a provisional line was met (R265), and the
poisoned lines met. -/
structure Rd where
  st : State
  pois : Bool
  hit : Bool
  lines : Nat

/-- Starts reading. -/
def Rd.start (s : State) : Rd := ⟨s, false, false, 0⟩

/-- Checks line `n` of Pod `p` and notes its bits. -/
def Rd.line (r : Rd) (o : Option TileOp) (p n : Nat) : Rd :=
  let s := checkLine r.st p n o
  let bad := s.marrow.poison.contains (lkey p n)
  ⟨s, r.pois || bad, r.hit || s.marrow.prov.contains (lkey p n), r.lines + b2n bad⟩

/-- Reads `n` bytes at local byte `a` of Pod `p`. -/
def Rd.bytes (r : Rd) (o : Option TileOp) (p a n : Nat) : Rd × List Byte :=
  let r := (linesOf a n).foldl (fun r l => r.line o p l) r
  (r, (List.range n).map fun i => lineByte r.st.marrow ((p * 6291456 + a + i) / 64) ((a + i) % 64))

/-- Whether a line of Pod `p` is poisoned. -/
def linePois (s : State) (p n : Nat) : Bool := s.marrow.poison.contains (lkey p n)

/-- One byte of a write: byte key, value, and the bits it changes (0xFF, or one nibble). -/
structure WByte where
  key : Nat
  val : Byte
  mask : Byte
  deriving DecidableEq, Repr

/-- Writes the bytes of one line (R264): all 64 bytes give the line the poison of the data; a masked write checks
the old line first, keeps its poison, and stores fresh check bytes. -/
def writeLine (s : State) (p n : Nat) (ws : List WByte) (pois : Bool) (o : Option TileOp := none) : State :=
  let l := lkey p n
  let full := (List.range 64).all fun i => ws.any fun w => w.key = l * 64 + i ∧ w.mask = 0xFF
  let s := if full then s else checkLine s p n o
  let old := s.marrow
  let base (i : Nat) : Byte := if full then 0 else lineByte old l i
  let merged (i : Nat) : Byte :=
    ws.foldl (fun b w => if w.key = l * 64 + i then (b &&& ~~~ w.mask) ||| (w.val &&& w.mask) else b) (base i)
  let p' := pois || (!full && old.poison.contains l)
  modMarrow s fun m =>
    let m := (List.range 64).foldl (fun m i => m.setByte (l * 64 + i) (merged i)) m
    { m with ecc := m.ecc.filter (fun e => decide (e.1 / 8 ≠ l)), poison := nset m.poison l p' }

/-- The lines of a write, in ascending order. -/
def wLines (ws : List WByte) : List Nat := ws.foldl (fun a w => nins a (w.key / 64)) []

/-- Writes scattered bytes, `pois` naming the line keys that receive poisoned data. -/
def writeAll (s : State) (ws : List WByte) (pois : List Nat) (o : Option TileOp := none) : State :=
  (wLines ws).foldl (fun s l =>
    writeLine s (l / 98304) (l % 98304) (ws.filter fun w => w.key / 64 = l) (pois.contains l) o) s

/-- The bytes of a contiguous write at local byte `a` of Pod `p`. -/
def wBytes (p a : Nat) (bs : List Byte) : List WByte :=
  bs.zipIdx.map fun b => ⟨p * 6291456 + a + b.2, b.1, 0xFF⟩

/-- Marks lines provisional, or clears the mark (R265). -/
def setProv (s : State) (ls : List Nat) (b : Bool) : State :=
  modMarrow s fun m => { m with prov := ls.foldl (fun a l => nset a l b) m.prov }

/-- Poisons lines (a failed verdict, R343). -/
def poisonLines (s : State) (ls : List Nat) : State :=
  modMarrow s fun m => { m with poison := ls.foldl nins m.poison }

/-! ## Accumulators -/

/-- Element `i` of accumulator tile `t` of Pod `p` (R228). -/
def akey (p t i : Nat) : Nat := (p * 8 + t % 8) * 4096 + i

/-- Reads an accumulator element. -/
def accAt (s : State) (p t i : Nat) : Word := sgetD s.marrow.acc (akey p t i) 0

/-- Writes an accumulator element. -/
def setAcc (s : State) (p t i : Nat) (w : Word) : State :=
  modMarrow s fun m => { m with acc := sset m.acc (akey p t i) w 0 }

/-- Poison of an accumulator tile, kept per tile (R228, R345). -/
def accPois (s : State) (p t : Nat) : Bool := s.marrow.accPoison.contains (p * 32768 + t % 8 * 4096)

/-- Sets the poison of an accumulator tile. -/
def setAccPois (s : State) (p t : Nat) (b : Bool) : State :=
  modMarrow s fun m => { m with accPoison := nset m.accPoison (p * 32768 + t % 8 * 4096) b }

/-- Zeroes an accumulator tile. -/
def clearAcc (s : State) (p t : Nat) : State :=
  modMarrow (setAccPois s p t false) fun m => { m with acc := m.acc.filter fun e => e.1 / 4096 ≠ p * 8 + t % 8 }

end Sys2Proof.Machine
end

