-- ==== Sys2Proof/Machine/Rng.lean ====
section
/-! DEFINITION. The Chard table and the word function (spec/10_randomness_and_sampling.md R241 to R250, R259). -/

namespace Sys2Proof.Machine

/-- The seed string "Vangid Bilith Chard" (R241). -/
def chardSeed : List Byte :=
  [0x56, 0x61, 0x6E, 0x67, 0x69, 0x64, 0x20, 0x42, 0x69, 0x6C, 0x69, 0x74, 0x68, 0x20, 0x43, 0x68, 0x61, 0x72, 0x64]

/-- The master table (R241). -/
def chardTable : List Word :=
  (List.range 128).flatMap fun b => (toWords 8 (sha256 (chardSeed ++ leBytes 4 b))).map (BitVec.ofNat 32)

/-- SHA-256 over the table stored little-endian (R242). -/
def tableDigest (t : List Word) : List Byte := sha256 (t.flatMap wordBytes)

/-- Rotation left of a 32-bit word. -/
def rotl (x : Word) (n : Nat) : Word := x.rotateLeft n

/-- The eight mixing rounds of R246 on the halves `a` and `b` of the position. -/
def chardRounds : List Word → Word → Word → Word × Word
  | [], a, b => (a, b)
  | k :: ks, a, b =>
    let a' := ((a.rotateRight 8) + b) ^^^ k
    chardRounds ks a' (rotl b 3 ^^^ a')

/-- The hash of key words `k` and position `p`, as its halves a and b (R246). -/
def chardHash (k : List Word) (p : Nat) : Word × Word :=
  chardRounds k (BitVec.ofNat 32 (p / 2 ^ 32)) (BitVec.ofNat 32 p)

/-- The word of a hash (R246). -/
def chardPick (t : List Word) (h : Word × Word) : Word :=
  let b := h.2.toNat
  t.getD (b % 1024) 0 ^^^ rotl (t.getD (b / 2 ^ 10 % 1024) 0) (b / 2 ^ 20 % 32) ^^^ h.1

/-- Key words of the keyed class (Table 10-1). -/
def keyedKey (seed index k4 op : Nat) : List Word :=
  [seed, seed / 2 ^ 32, index, index / 2 ^ 32, k4, 0x01000000 + op % 65536, 0x9E3779B9, 0x7F4A7C15].map (BitVec.ofNat 32)

/-- Key words of the slot class (Table 10-1). -/
def slotKey (seed : Nat) : List Word :=
  [seed, seed / 2 ^ 32, 0, 0, 0, 0x02000000, 0x9E3779B9, 0x7F4A7C15].map (BitVec.ofNat 32)

/-- k4 of an entry (Table 10-1). -/
def entryK4 (e : EntryBody) : Nat := 2 ^ 16 * e.epoch.toNat + e.stream.toNat % 1024

/-- A keyed word of entry `e` on node `node` at element `i` of a job with seed `seed` (R247). -/
def keyedWord (t : List Word) (seed : Nat) (e : EntryBody) (node i : Nat) : Word :=
  chardPick t (chardHash (keyedKey seed e.sampleIndex.toNat (entryK4 e) node) i)

/-- A slot word (R248). -/
def slotWord (t : List Word) (seed p : Nat) : Word := chardPick t (chardHash (slotKey seed) p)

/-- Position `n` draws past `p` within slot `p div 2^48` (R248). -/
def slotAdvance (p n : Nat) : Nat := p / 2 ^ 48 * 2 ^ 48 + (p % 2 ^ 48 + n) % 2 ^ 48

/-- Whether the advance wraps the slot's offset (R250). -/
def slotWraps (p n : Nat) : Bool := decide (p % 2 ^ 48 + n ≥ 2 ^ 48)

/-- The probe of `RNG_PROBE_CTRL` (R259): refused while there is no checked table (0x0B03), then for an illegal class, a
reserved bit or a slot-class probe with keyed fields set (0x0B02). -/
def doProbe (s : State) (ctrl : Nat) : State :=
  let P := 0x00B
  let s := storeReg s P 0x800 ctrl
  if bitN ctrl 31 = false then s
  else
    let cls := bits ctrl 1 0
    let keyedSet := rg s P 0x80C ≠ 0 ∨ rg s P 0x810 ≠ 0 ∨ rg s P 0x814 ≠ 0 ∨ rg s P 0x818 ≠ 0
    let bad := decide (cls = 0 ∨ cls = 3) || bits ctrl 29 2 ≠ 0 || rsvSet s P 0x814 || rsvSet s P 0x818 ||
      (cls = 2 && decide keyedSet)
    let ref (code : Nat) : State := refuse (wrg s P 0x800 (rg s P 0x800 ||| 2 ^ 30)) P code 0x800
    if s.rng.tableOk = false then ref 0x0B03
    else if bad then ref 0x0B02
    else
      let key := if cls = 1 then keyedKey (rg64 s P 0x804) (rg64 s P 0x80C) (rg s P 0x814) (rg s P 0x818)
        else slotKey (rg64 s P 0x804)
      let h := chardHash key (rg64 s P 0x81C)
      let s := wrg s P 0x800 (rg s P 0x800 &&& 0x3)
      let s := wrg (wrg s P 0x824 h.2.toNat) P 0x828 h.1.toNat
      wrg s P 0x82C (chardPick s.rng.table h).toNat

end Sys2Proof.Machine
end

