-- ==== Sys2Proof/WellFormed.lean ====
section
/-! DEFINITION. Which commands are well-formed: the byte lists and sensor lists have the lengths that the port or
the sensor set gives them (spec/18 R423, R435; spec/11 R270; spec/16 Sensors and telemetry). -/

namespace Sys2Proof

/-- An answered read carries bytes only if every beat carried data (R271). -/
def HostRead.wf (r : HostRead) : Bool :=
  match r.kind with
  | .okay | .poison => true
  | .fault | .error | .timeout => r.bytes.isEmpty

/-- One reading for each physical Pod. -/
def Sensors.wf (x : Sensors) : Bool :=
  x.podTemp.length == 100 && x.podVolt.length == 100 && x.podCurrent.length == 100 && x.podPower.length == 100 &&
  x.podBusy.length == 100

/-- A fuse load answers all 64 words (R435), and an unreadable firmware store gives no slot bytes. -/
def StepResult.wf (r : StepResult) : Bool :=
  r.fuses.length == 64 && (r.storeKind == .okay || (r.slotA.isEmpty && r.slotB.isEmpty))

/-- An injected flip touches one to three bits (R381), and a driven pair does not read (0,1). -/
def Injection.wf : Injection → Bool
  | .pair src _ t f c => decide (src.toNat < 24) && (t || !f) && decide (1 ≤ c.toNat)
  | .flip _ _ _ m => let n := ((List.range 72).filter m.getLsbD).length; decide (1 ≤ n ∧ n ≤ 3)

/-- A command is well-formed. -/
def Instr.wf : Instr → Bool
  | .startUpStepDone r => r.wf
  | .bind _ r | .restore _ r | .jobCommandStart _ r | .load r => r.wf
  | .entrySample _ _ _ a | .entryFrame _ _ a => a.wf
  | .batchEmit _ d | .dirSlotRetry _ d => d.wf
  | .fwUpdate _ _ _ _ r _ => r.wf
  | .telemNow _ x | .telemetrySnapshot x | .throttleTick x => x.wf
  | .write _ _ _ _ _ _ d => decide (1 ≤ d.length ∧ d.length ≤ 4)
  | .tstInj x => x.wf
  | .faultEvent src _ _ _ | .wireFault src _ _ _ | .wireFaultClear src _ => decide (src.toNat < 24)
  | _ => true

end Sys2Proof
end

