-- ==== Sys2Proof/Machine/Reset.lean ====
section
/-! DEFINITION. Resets, start-up and presence (spec/17_bringup_and_reset.md; fuses: spec/18 R435, R436; firmware
slots: spec/16 R384 to R386). -/

namespace Sys2Proof.Machine

/-- A Pod right after a cold reset: the PMU's acknowledgement and the rail it reports stand (R410). -/
def coldPod (q : Pod) : Pod := { Pod.reset with swAck := q.swAck, gated := q.gated }

/-- What a cold reset leaves: everything at its reset value but the host's input pins and the firmware store with
its persistent log (Table 17-6). -/
def coldState (s : State) : State :=
  { State.reset with
    pins := { State.reset.pins with warmN := s.pins.warmN }
    pods := s.pods.map coldPod
    stw := { State.reset.stw with log := s.stw.log, logSeq := s.stw.logSeq }
    pwr := { State.reset.pwr with ilimReq := s.pwr.ilimReq, ilimWant := s.pwr.ilimWant }
    free := s.free
    pending := s.pending }

/-- COLD_RESET_ASSERT (R404, R410, R412). -/
def doColdAssert (s : State) : State := coldState s

/-- COLD_RESET_RELEASE: the time base restarts at 0 and the block stays `COLD` until the PLL locks (R8, R404). -/
def doColdRelease (s : State) : State :=
  if s.pins.coldN then s
  else modBlk { s with pins := { s.pins with coldN := true }, time := 0 } fun b =>
    { b with resetBy := if s.pins.warmN then .none else .warm, lastRst := 0 }

/-- PLL_LOCK: `LOCKED` sets and `COLD` goes to `SELF_TEST`, step 1 (R404, R405). -/
def doPllLock (s : State) : State :=
  if s.pins.coldN ∧ s.blk.st = .cold then
    modBlk (modPwr s fun p => { p with locked := true }) fun b => { b with st := .selfTest, step := 1 }
  else s

/-- PLL_LOCK_LOSS while `LOCKED` reads 1 raises `CLOCK` (R421); `LOCKED` stays 1 (Table 1-8). -/
def doPllLoss (s : State) : State := if s.pwr.locked then raise s 23 127 0 else s

/-- POWER_LOSS: the block goes to `COLD` and all state is gone; no Pod keeps its rail (R404). -/
def doPowerLoss (s : State) : State :=
  let s := coldState s
  { s with pods := s.pods.map fun _ => Pod.reset }

/-- WARM_RESET_ASSERT: ports quiesce, `BLK_RST_REQ` is released (R410). -/
def doWarmAssert (s : State) : State :=
  if s.pins.coldN = false then { s with pins := { s.pins with warmN := false } }
  else
    let s := quiesce s
    modBlk { s with pins := { s.pins with warmN := false, rstReq := false } } fun b => { b with resetBy := .warm }

/-- Leaves the logical ID of Pod `p` without a Pod, and `p` mapped out in the field and in state `x` (R17, R18, R348). -/
def mapOutTo (s : State) (p : Nat) (x : PodState) : State :=
  let l := (podAt s p).logical
  let was := inService s p
  let s := modPod s p fun q => { q with role := 3, logical := 127, st := x, due := false, why := .none }
  let s := modFlt s fun c => { c with replaced := true }
  let s := if was then { s with itg := { s.itg with needSpare := sput s.itg.needSpare l p } } else s
  logWrite s (.mapOut p)

/-- Maps out Pod `p`, which is `OFF` from then on and gated (R21, R34). -/
def mapOut (s : State) (p : Nat) : State := powerDown (mapOutTo s p .off) p

/-- Takes a Pod into its start-up self-test: it is in `TEST`, and its switch closes (R21, Table 2-11). -/
def testPod (s : State) (p : Nat) : State := powerUp (modPod s p fun q => { q with st := .test, why := .startUp }) p

/-- Maps out the Pods that were `SUSPECT` at a warm or block reset, in ascending physical ID; they count among the
map-outs of the start-up (R349, R406). -/
def mapOutSuspects (s : State) : State :=
  (allPods.filter fun p => (podAt s p).st = .suspect).foldl
    (fun s p => modBlk (mapOut s p) fun b => { b with bootMapped := b.bootMapped + 1 }) s

/-- The release of a warm or block reset: what Table 17-6 clears, then steps 3 to 6; a block whose boot ROM serves
runs none of them (R405, R409, R412, R413, R416). -/
def releaseInto (s : State) (warm : Bool) : State :=
  let early := decide (s.blk.st = .selfTest ∧ 1 ≤ s.blk.step ∧ s.blk.step < 3)
  let step := if s.stw.active = 2 then 2 else if early then s.blk.step else 3
  let s := clearForReset s warm
  let s := { s with pins := { s.pins with present := true, alive := false }, itg := { s.itg with factory := false } }
  let s := modBlk s fun b => { b with st := .selfTest, step := step, resetBy := .none,
                                      lastRst := if warm then 1 else 2,
                                      warmCnt := if warm then min 65535 (b.warmCnt + 1) else b.warmCnt }
  let s := mapOutSuspects s
  if step = 3 then (allPods.filter fun p => (podAt s p).role ≤ 1).foldl testPod s else s

/-- WARM_RESET_RELEASE (R412). -/
def doWarmRelease (s : State) : State :=
  if s.pins.warmN then s
  else
    let s := { s with pins := { s.pins with warmN := true } }
    if s.pins.coldN = false then s
    else if s.blk.st = .cold then modBlk s fun b => { b with resetBy := .none }
    else releaseInto s true

/-- BLOCK_RESET_RELEASE (R411). -/
def doBlockRelease (s : State) : State := if s.blk.resetBy = .block then releaseInto s false else s

/-- ALIVE_TICK: `BLK_ALIVE` changes level while the Steward is alive, in the states of R417. -/
def doAliveTick (s : State) (refreshed : Bool) : State :=
  match s.blk.st with
  | .cold | .selfTest => s
  | _ =>
    if refreshed ∧ s.blk.resetBy = .none then { s with pins := { s.pins with alive := !s.pins.alive } } else s

/-! ## Start-up -/

/-- Data word `i` of a fuse load. -/
def fuseWord (f : List (BitVec 33)) (i : Nat) : Nat := (f.getD i 0).toNat % 2 ^ 32

/-- The 224-bit role field of words 3 to 9 (Table 18-9). -/
def fuseRoles (f : List (BitVec 33)) : Nat :=
  (List.range 7).foldl (fun a i => a + fuseWord f (3 + i) * 2 ^ (32 * i)) 0

/-- Fused role of physical Pod `p` (Table 18-9). -/
def fuseRole (f : List (BitVec 33)) (p : Nat) : Nat := fuseRoles f >>> (2 * p) % 4

/-- Whether a fuse load passes R436. -/
def fusesOk (f : List (BitVec 33)) : Bool :=
  let parity := (List.range 64).all fun i => bitN (f.getD i 0).toNat 32 = evenPar 32 (fuseWord f i)
  let crc := crc32 ((List.range 13).flatMap fun i => leBytes 4 (fuseWord f i)) = fuseWord f 13
  let roles := allPods.all fun p => fuseRole f p ≠ 3
  let count := (allPods.filter fun p => fuseRole f p = 0).length = 96
  parity && crc && roles && count && decide (bits (fuseWord f 11) 15 8 ≤ 100)

/-- Applies one persistent-log record to the logical map (R16): a Pod whose logical ID a spare took, and that was not mapped
out, is a spare itself (R353). -/
def applyLog (s : State) (r : LogRec) : State :=
  match r with
  | .mapOut p =>
    let l := (podAt s p).logical
    let s := if inService s p then { s with itg := { s.itg with needSpare := sput s.itg.needSpare l p } } else s
    modPod s p fun q => { q with role := 3, logical := 127 }
  | .assign p l =>
    let s := { s with itg := { s.itg with needSpare := sdel s.itg.needSpare l }
                      pods := s.pods.map fun q => if q.role = 0 ∧ q.logical = l then { q with role := 1, logical := 127 } else q }
    modPod s p fun q => { q with role := 0, logical := l }
  | _ => s

/-- Loads the map from fuses and log (R16, R436). -/
def loadMap (s : State) (f : List (BitVec 33)) : State :=
  let fused (p : Nat) : Pod → Pod := fun q =>
    let role := fuseRole f p
    let l := if role = 0 then (allPods.filter fun k => k < p ∧ fuseRole f k = 0).length else 127
    { q with role := role, logical := l, st := .off }
  let s := allPods.foldl (fun s p => modPod s p (fused p)) s
  let s := s.stw.log.foldl applyLog s
  let out := s.stw.log.any fun r => match r with
    | .mapOut _ => true
    | _ => false
  let s := modFlt s fun c => { c with replaced := out }
  let base := bits (fuseWord f 10) 31 0 * 2 ^ 24 + bits (fuseWord f 11) 7 0 * 2 ^ 56
  let s := modStw s fun t => { t with storeBase := base }
  let s := modPwr s fun p => { p with fusedGuard := bits (fuseWord f 11) 15 8 }
  { s with itg := { s.itg with shipped := bitN (fuseWord f 12) 0 } }

/-- Reads one firmware slot: header, commit word, signature and body hash (R385). -/
def readSlot (b : List Byte) : FwSlot :=
  let size := fieldLe b 0x0C 4
  let ver := fieldLe b 0x08 4
  let seq := fieldLe b 0xF8 4
  let ok := fieldLe b 0 4 = 0x49574642 && fieldLe b 4 2 = 1 && fieldLe b 6 2 = 256 && decide (1 ≤ ver ∧ ver ≤ 0xFFFFFFFE) &&
    size % 64 = 0 && decide (64 ≤ size ∧ size ≤ 8388352) && (slice b 0xA0 88).all (· = 0) && seq ≠ 0 &&
    fieldLe b 0xFC 4 = seq ^^^ 0x4649524D && Config.sigValid (slice b 0x40 96) (sha384 (slice b 0 0x40)) &&
    slice b 0x10 48 = sha384 (slice b 256 size)
  ⟨ok, ver, seq⟩

/-- Which slot runs: 0 A, 1 B, 2 the boot ROM (R386). -/
def chooseSlot (a b : FwSlot) : Nat :=
  match a.valid, b.valid with
  | true, true => if a.ver > b.ver ∨ (a.ver = b.ver ∧ a.seq ≥ b.seq) then 0 else 1
  | true, false => 0
  | false, true => 1
  | false, false => 2

/-- Enters `ROADSIDE` with a code of Table 17-5; every Pod is gated (R407, R409). -/
def enterRoadside (s : State) (code : Nat) : State :=
  let s := modBlk s fun b => { b with st := .roadside, bootCode := code, readyTime := s.time }
  { s with pods := s.pods.map fun q => { q with swReq := false, isolated := true, st := .off } }

/-- Physical Pods that start-up tests: those not mapped out. -/
def testedPods (s : State) : List Nat := allPods.filter fun p => (podAt s p).role ≤ 1

/-- A Pod fails start-up step `k` (R406). -/
def failStartUp (k : Nat) (s : State) (p : Nat) : State :=
  if (podAt s p).role ≤ 1 then
    let s := raise s 22 p (k - 2)
    let s := mapOut s p
    modBlk (modPod s p fun q => { q with cause := 7 }) fun b => { b with bootMapped := b.bootMapped + 1 }
  else s

/-- The best usable spare for a Pod at physical position `p`: fewest hops, then lowest physical ID, among `cand`
(R348, step 6). -/
def bestSpare (p : Nat) (cand : List Nat) : Option Nat :=
  cand.foldl (fun b c => match b with
    | none => some c
    | some d => if hops p c < hops p d then some c else some d) none

/-- Gives logical ID `l` to physical Pod `p` and logs it (R17, R391). -/
def assignId (s : State) (p l : Nat) : State :=
  let s := modPod s p fun q => { q with role := 0, logical := l }
  let s := { s with itg := { s.itg with needSpare := sdel s.itg.needSpare l } }
  logWrite s (.assign p l)

/-- Logical IDs without a Pod, each with the Pod that held it, in ascending physical ID (R349). -/
def vacant (s : State) : List (Nat × Nat) := sortBy s.itg.needSpare fun a b => decide (a.2 ≤ b.2)

/-- Fills the logical IDs left empty from the spares that passed (R406). -/
def fillEmpty (s : State) : State :=
  (vacant s).foldl (fun s v =>
    match bestSpare v.2 (allPods.filter fun p => (podAt s p).role = 1) with
    | some p => assignId s p v.1
    | none => s) s

/-- Register defaults that the Steward writes before `READY` (Table 0-5 "fw"; Tables 11-10, 14-11, 16-8). -/
def fwDefaults (s : State) : State :=
  let s := wrg s 2 0x400 (400 + 460 * 2 ^ 16)
  let s := wrg s 2 0x404 (760 + 840 * 2 ^ 16)
  let s := wrg s 2 0x408 (s.pwr.fusedGuard + 50 * 2 ^ 8)
  let s := wrg s 2 0x410 (42 + 36 * 2 ^ 8 + 30 * 2 ^ 16)
  let s := wrg s 2 0x414 620
  let s := wrg s 0 0x600 24
  let s := (List.range 16).foldl (fun s j => wrg s 3 (0x840 + 4 * j) (18 + 10 * 2 ^ 8 + 4 * 2 ^ 16)) s
  setEnable (setEnable (setEnable s 2 true) 3 true) 0x020 true

/-- Entry to `READY` (R16, R406, R418, Table 17-4 step 7). -/
def enterReady (s : State) : State :=
  let s := fillEmpty s
  if activeCount s = 0 then enterRoadside s 0x0066
  else
    let s := fwDefaults s
    let s := modBlk s fun b => { b with st := .ready, step := 7, readyTime := s.time }
    let s := allPods.foldl (fun s p =>
      if inService s p then toIdle (modPod s p fun q => { q with why := .none }) p
      else if (podAt s p).role = 1 then
        powerDown (modPod s p fun q => { q with st := .off, tests := min 255 (q.tests + 1), testTime := s.time, why := .none }) p
      else s) s
    if s.pwr.ilimReq then takeIlim s s.pwr.ilimWant else retarget s

/-- START_UP_STEP_DONE: the step in progress completes (R405 to R407). -/
def doStepDone (s : State) (r : StepResult) : State :=
  if s.blk.st ≠ .selfTest ∨ s.blk.resetBy ≠ .none then s
  else
    let cold := decide (s.blk.lastRst = 0)
    match s.blk.step with
    | 1 =>
      let s := { s with pins := { s.pins with present := true } }
      if fusesOk r.fuses then modBlk (loadMap s r.fuses) fun b => { b with step := 2 }
      else enterRoadside s 0x0068
    | 2 =>
      if s.stw.active = 2 ∧ ¬ cold then enterRoadside s 0x0060
      else if r.storeKind ≠ .okay then enterRoadside (modStw s fun t => { t with active := 2 }) 0x0061
      else
        let a := readSlot r.slotA
        let b := readSlot r.slotB
        let s := modStw s fun t => { t with slotA := a, slotB := b, active := chooseSlot a b }
        if s.stw.active = 2 then enterRoadside s 0x0060
        else (testedPods s).foldl testPod (modBlk s fun b => { b with step := 3 })
    | 3 =>
      if r.sharedFail ∧ cold then enterRoadside s 0x0062
      else
        let s := (r.podFails.map Fin.val).foldl (failStartUp 3) s
        if (testedPods s).isEmpty then enterRoadside s 0x0066 else modBlk s fun b => { b with step := 4 }
    | 4 =>
      if r.sharedFail ∧ cold then enterRoadside s 0x0063
      else
        let s := (r.podFails.map Fin.val).foldl (failStartUp 4) s
        if (testedPods s).isEmpty then enterRoadside s 0x0066 else modBlk s fun b => { b with step := 5 }
    | 5 =>
      let s := if s.rng.table.isEmpty then
          let t := chardTable
          { s with rng := { s.rng with table := t, digest := tableDigest t } }
        else s
      if r.sharedFail then enterRoadside s 0x0064
      else
        let s := setEnable { s with rng := { s.rng with tableOk := true } } 0x00B true
        let s := (r.podFails.map Fin.val).foldl (failStartUp 5) s
        if (testedPods s).isEmpty then enterRoadside s 0x0066
        else (testedPods s).foldl (fun s p => modPod s p fun q => { q with copyOk := true })
          (modBlk s fun b => { b with step := 6 })
    | 6 =>
      if r.sharedFail then enterRoadside s 0x0065
      else
        let s := (r.podFails.map Fin.val).foldl (failStartUp 6) s
        if (testedPods s).isEmpty then enterRoadside s 0x0066 else enterReady s
    | _ => s

/-- The meaning of COLD_RESET_ASSERT. -/
def execColdResetAssert (s : State) : Host.Outcome State Fault Refusal := .next (doColdAssert s)
/-- The meaning of COLD_RESET_RELEASE. -/
def execColdResetRelease (s : State) : Host.Outcome State Fault Refusal := .next (doColdRelease s)
/-- The meaning of PLL_LOCK. -/
def execPllLock (s : State) : Host.Outcome State Fault Refusal := .next (doPllLock s)
/-- The meaning of PLL_LOCK_LOSS. -/
def execPllLockLoss (s : State) : Host.Outcome State Fault Refusal := .next (doPllLoss s)
/-- The meaning of POWER_LOSS. -/
def execPowerLoss (s : State) : Host.Outcome State Fault Refusal := .next (doPowerLoss s)
/-- The meaning of WARM_RESET_ASSERT. -/
def execWarmResetAssert (s : State) : Host.Outcome State Fault Refusal := .next (doWarmAssert s)
/-- The meaning of WARM_RESET_RELEASE. -/
def execWarmResetRelease (s : State) : Host.Outcome State Fault Refusal := .next (doWarmRelease s)
/-- The meaning of START_UP_STEP_DONE. -/
def execStartUpStepDone (r : StepResult) (s : State) : Host.Outcome State Fault Refusal :=
  if r.wf then .next (doStepDone s r) else .fault .illFormed
/-- The meaning of ALIVE_TICK. -/
def execAliveTick (refreshed : Bool) (s : State) : Host.Outcome State Fault Refusal := .next (doAliveTick s refreshed)
/-- The meaning of BLOCK_RESET_RELEASE. -/
def execBlockResetRelease (s : State) : Host.Outcome State Fault Refusal := .next (doBlockRelease s)

end Sys2Proof.Machine
end

