-- ==== Sys2Proof/Machine/Steward.lean ====
section
/-! DEFINITION. Mailbox commands, the persistent log, telemetry and firmware update (spec/16_steward.md), and
Roadwork packs (spec/14_result_integrity.md R356 to R358). -/

namespace Sys2Proof.Machine

/-- Whether the block serves the control port's writes and the mailboxes: not in `COLD` or `SELF_TEST` (R388, R408). -/
def portOpen (s : State) : Bool := decide (s.blk.st ≠ .cold ∧ s.blk.st ≠ .selfTest ∧ s.blk.resetBy = .none)

/-- `FW_VER` of the active slot; 0 while the boot ROM serves (Table 16-7). -/
def fwVer (s : State) : Nat :=
  match s.stw.active with
  | 0 => s.stw.slotA.ver
  | 1 => s.stw.slotB.ver
  | _ => 0

/-- The `SEQ` of the active slot. -/
def fwSeq (s : State) : Nat :=
  match s.stw.active with
  | 0 => s.stw.slotA.seq
  | 1 => s.stw.slotB.seq
  | _ => 0

/-- Serves a mailbox command: nothing in `COLD` and `SELF_TEST`; refused 0x0012 when only the boot ROM serves and
`rom` is false (R386, R388). -/
def mbxServe (s : State) (opcode : Nat) (tag : BitVec 16) (rom : Bool) (f : State → State) : State :=
  if portOpen s = false then s
  else if s.stw.active = 2 ∧ rom = false then mbxReply s opcode 0x0012 tag.toNat []
  else f s

/-- PING (Table 16-4). -/
def doPing (s : State) (tag : BitVec 16) : State :=
  mbxServe s 1 tag true fun s => mbxReply s 1 0 tag.toNat [fwVer s, stwPods s]

/-- One telemetry record (Table 16-5): the fields in order after `SEQ`, as width and value. -/
def telemRecord (seq : Nat) (fields : List (Nat × Nat)) : List Byte :=
  leBytes 4 seq ++ fields.flatMap (fun f => leBytes f.1 f.2) ++ leBytes 4 seq

/-- The record of physical Pod `p` (Table 16-5). -/
def telemPod (s : State) (x : Sensors) (seq p : Nat) : List Byte :=
  let q := podAt s p
  let on (n : Nat) : Nat := if q.gated then 0 else n
  let temp := x.podTemp.getD p 0
  let hi := if q.tempMax.toInt < temp.toInt then temp else q.tempMax
  let volt := x.podVolt.getD p 0
  let lo := if q.gated then q.voltMin else if volt.toNat < q.voltMin.toNat then volt else q.voltMin
  telemRecord seq
    [(1, p), (1, q.logical), (1, q.st.code), (1, b2n q.gated + 2 * b2n (q.droops ≠ 0)), (8, s.time),
     (2, temp.toNat), (2, hi.toNat), (2, on volt.toNat), (2, lo.toNat), (4, on (x.podCurrent.getD p 0).toNat),
     (4, on (x.podPower.getD p 0).toNat), (4, (x.podBusy.getD p 0).toNat), (2, min 65535 q.droops), (2, 0), (4, 0),
     (1, 0), (1, 0), (14, 0)]

/-- The block record (Table 16-5). -/
def telemBlock (s : State) (x : Sensors) (seq : Nat) : List Byte :=
  let hi := if s.stw.tempMax.toInt < x.hottest.toInt then x.hottest else s.stw.tempMax
  let lows := allPods.map fun p =>
    let q := podAt s p
    let v := (x.podVolt.getD p 0).toNat
    if q.gated then q.voltMin.toNat else min v q.voltMin.toNat
  telemRecord seq
    [(1, 127), (1, 127), (1, s.pwr.rootN), (1, 2 * s.pwr.targetN), (8, s.time), (2, x.hottest.toNat), (2, hi.toNat),
     (2, 600 + s.pwr.vreq * 5 / 2), (2, lows.foldl min 65535), (4, x.currentMa.toNat), (4, x.powerMw.toNat),
     (4, x.blockBusy.toNat), (2, min 65535 ((allPods.map fun p => (podAt s p).droops).sum)), (2, 0),
     (4, x.avgPowerMw.toNat), (1, s.pwr.caps.toNat), (1, s.pwr.ilimLvl), (14, 0)]

/-- Writes one telemetry snapshot: 101 records of 64 bytes, and a period boundary of the power page (R392, R401). -/
def telemWrite (s : State) (x : Sensors) : State :=
  let seq := s.stw.telemSeq + 1
  let s := modStw s fun t => { t with telemSeq := seq }
  let base := rg64 s 0 0xA00
  let put (s : State) (k : Nat) (b : List Byte) : State := memWrite s (base + 64 * k) b (rg s 0 0xA0C) 1 127 .telemetry
  let recs := telemBlock s x seq :: allPods.map (telemPod s x seq)
  let s := (List.range 101).foldl (fun s k => put s k (recs.getD k [])) s
  let s := { s with pods := s.pods.map fun (q : Pod) => { q with tempMax := 0x8000, voltMin := 0xFFFF, droops := 0 } }
  latchPage (modStw s fun t => { t with tempMax := 0x8000 }) 2

/-- Whether telemetry is on (R392). -/
def telemOn (s : State) : Bool := bitN (rg s 0 0xA08) 31

/-- TELEM_NOW (R389, R392). -/
def doTelemNow (s : State) (tag : BitVec 16) (x : Sensors) : State :=
  mbxServe s 2 tag false fun s =>
    if telemOn s then
      let s := telemWrite s x
      mbxReply s 2 0 tag.toNat [s.stw.telemSeq]
    else mbxReply s 2 0x001B tag.toNat []

/-- TELEMETRY_SNAPSHOT: the period of `STW_TELEM_CFG` has passed (R392). -/
def doSnapshot (s : State) (x : Sensors) : State :=
  if portOpen s && telemOn s && !s.blk.shut then telemWrite s x else s

/-- LOG_FLUSH (R391). -/
def doLogFlush (s : State) (tag : BitVec 16) : State :=
  mbxServe s 3 tag false fun s =>
    let s := logFlush s
    mbxReply s 3 0 tag.toNat [s.stw.logSeq % 2 ^ 32]

/-- LOG_FLUSH_TIMER: once per second of the time base (R391). -/
def doLogTimer (s : State) : State := if portOpen s && !s.blk.shut && s.stw.active ≠ 2 then logFlush s else s

/-- SHUTDOWN (R390). -/
def doShutdown (s : State) (tag : BitVec 16) : State :=
  mbxServe s 4 tag false fun s =>
    let busy := anyActive s || allPods.any fun p => (podAt s p).st = .test
    match s.blk.st with
    | .ready | .running | .draining =>
      if busy then mbxReply s 4 0x001A tag.toNat [] else go s
    | _ => go s
where
  go (s : State) : State :=
    let s := logWrite (logFlush s) .shutdown
    let s := (allPods.filter fun p => (podAt s p).st = .off ∨ (podAt s p).st = .idle).foldl powerDown s
    mbxReply (modBlk s fun b => { b with shut := true }) 4 0 tag.toNat []

/-- Whether the header of a submitted firmware image is legal (R385, R387). -/
def fwHeaderOk (b : List Byte) (size : Nat) : Bool :=
  let body := fieldLe b 0x0C 4
  let ver := fieldLe b 0x08 4
  fieldLe b 0 4 = 0x49574642 && fieldLe b 4 2 = 1 && fieldLe b 6 2 = 256 && decide (1 ≤ ver ∧ ver ≤ 0xFFFFFFFE) &&
  body % 64 = 0 && decide (64 ≤ body ∧ body ≤ 8388352) && (slice b 0xA0 96).all (· = 0) && size = body + 256

/-- FW_UPDATE, steps 1 to 6 (R387). -/
def doFwUpdate (s : State) (tag : BitVec 16) (addr : DWord) (xlat size : Word) (r : HostRead) (storeOk : Bool) : State :=
  mbxServe s 5 tag true fun s =>
    let no (s : State) (code : Nat) : State := mbxReply s 5 code tag.toNat []
    let b := r.bytes
    if bits xlat.toNat 31 20 ≠ 0 then no s 0x0011
    else
      let s := hostRead s addr.toNat size.toNat xlat.toNat r
      if r.kind = .fault then no s 0x0014
      else if fwHeaderOk b size.toNat = false then no s 0x0015
      else if s.stw.active ≠ 2 ∧ fieldLe b 8 4 ≤ fwVer s then no s 0x0018
      else if slice b 0x10 48 ≠ sha384 (slice b 256 (fieldLe b 0x0C 4)) then no s 0x0017
      else if Config.sigValid (slice b 0x40 96) (sha384 (slice b 0 0x40)) = false then no s 0x0016
      else
        let toB := decide (s.stw.active = 0)
        let put (s : State) (x : FwSlot) : State :=
          modStw s fun t => if toB then { t with slotB := x } else { t with slotA := x }
        if storeOk = false then no (put s ⟨false, fieldLe b 8 4, 0⟩) 0x0019
        else
          let x : FwSlot := ⟨true, fieldLe b 8 4, fwSeq s + 1⟩
          mbxReply (logWrite (put s x) (.fw x.ver x.seq)) 5 0 tag.toNat [x.ver, x.seq]

/-- FW_QUERY (Table 16-4). -/
def doFwQuery (s : State) (tag : BitVec 16) : State :=
  mbxServe s 6 tag true fun s =>
    let t := s.stw
    mbxReply s 6 0 tag.toNat [t.slotA.ver, t.slotA.seq, t.slotB.ver, t.slotB.seq,
      b2n (t.active = 1) + 2 * b2n t.slotA.valid + 4 * b2n t.slotB.valid]

/-- POP: the head message goes, and a reply that waits for space enters (R389). -/
def doPop (s : State) : State :=
  if portOpen s = false then s
  else
    let s := modStw s fun t => { t with mbx := t.mbx.drop 1 }
    match s.stw.replies with
    | [] => s
    | m :: ms => mbxPush (modStw s fun t => { t with replies := ms }) m

/-! ## Roadwork packs -/

/-- Whether a pack header is legal (Table 14-6). -/
def packHeaderOk (b : List Byte) : Bool :=
  let id := fieldLe b 8 2
  let body := fieldLe b 0x0C 4
  let pf := fieldLe b 0x12 2
  let us := fieldLe b 0x14 4
  fieldLe b 0 4 = 0x4B575242 && fieldLe b 4 2 = 1 && fieldLe b 6 2 = 128 && decide (1 ≤ id ∧ id ≤ 0xFFFE) &&
  decide (1 ≤ fieldLe b 0x0A 2) && body % 64 = 0 && decide (64 ≤ body ∧ body ≤ 1048320) && decide (fieldLe b 0x10 2 < 2048) &&
  decide (pf = 1 ∨ pf = 2 ∨ pf = 3) && decide (1 ≤ us ∧ us ≤ 20000) && fieldLe b 0x1C 4 = 0 && (slice b 0x60 32).all (· = 0) &&
  (slice b (128 + body + 96) 32).all (· = 0)

/-- The first check of R357 that a pack image fails. An address that is not 64-byte aligned set reserved bits of `STW_RW_ADDR_LO`
(R456). -/
def packCheck (s : State) (b : List Byte) : Option Nat :=
  let body := fieldLe b 0x0C 4
  let id := fieldLe b 8 2
  let old := s.itg.packs.find? fun p => p.id = id
  if rsvSet s 0 0x610 ∨ packHeaderOk b = false then some 0x0041
  else if Config.sigValid (slice b (128 + body) 96) (sha384 (slice b 0 128)) = false then some 0x0042
  else if slice b 0x30 48 ≠ sha384 (slice b 128 body) then some 0x0043
  else if fieldLe b 0x18 4 > fwVer s then some 0x0044
  else if (match old with | some p => decide (fieldLe b 0x0A 2 ≤ p.ver) | none => false) then some 0x0045
  else if old.isNone ∧ s.itg.packs.length ≥ 16 then some 0x0046
  else none

/-- Refuses a `STW_RW_CMD` command (R446). -/
def rwRefuse (s : State) (code : Nat) : State := refuse (wrg s 0 0x61C (rg s 0 0x61C ||| 2 ^ 30)) 0 code 0x61C

/-- Clears `STW_RW_CMD.REFUSED` after an accepted command. -/
def rwDone (s : State) : State := wrg s 0 0x61C (rg s 0 0x61C &&& 0x3FFFF)

/-- Installs a pack, in ascending `PACK_ID` (R357). -/
def packInstall (s : State) (b : List Byte) : State :=
  let p : Pack := ⟨fieldLe b 8 2, fieldLe b 0x0A 2, fieldLe b 0x10 2, fieldLe b 0x12 2, fieldLe b 0x14 4,
    fieldLe b 0x18 4, 0, 0⟩
  let rest := s.itg.packs.filter fun q => q.id ≠ p.id
  let packs := (rest.filter fun q => q.id < p.id) ++ [p] ++ rest.filter fun q => q.id > p.id
  logLater { s with itg := { s.itg with packs := packs } } (.pack p.id p.ver)

/-- LOAD (R357). -/
def doLoad (s : State) (r : HostRead) : State :=
  if portOpen s = false then s
  else
    let s := hostRead (storeReg s 0 0x61C 0x10000) (rg64 s 0 0x610) (max 128 r.bytes.length) (rg s 0 0x618 % 2 ^ 20) r
    if r.kind = .fault then rwRefuse s 0x0047
    else match packCheck s r.bytes with
      | some code => rwRefuse s code
      | none => rwDone (packInstall s r.bytes)

/-- REMOVE (R358). -/
def doRemove (s : State) (id : BitVec 16) : State :=
  if portOpen s = false then s
  else
    let s := storeReg s 0 0x61C (0x20000 + id.toNat)
    if id = 0 ∨ (s.itg.packs.any fun p => p.id = id.toNat) = false then rwRefuse s 0x0046
    else rwDone (logLater { s with itg := { s.itg with packs := s.itg.packs.filter fun p => p.id ≠ id.toNat } }
      (.unpack id.toNat))

/-- The meaning of PING. -/
def execPing (tag : BitVec 16) (s : State) : Host.Outcome State Fault Refusal := .next (doPing s tag)
/-- The meaning of TELEM_NOW. -/
def execTelemNow (tag : BitVec 16) (x : Sensors) (s : State) : Host.Outcome State Fault Refusal :=
  if x.wf then .next (doTelemNow s tag x) else .fault .illFormed
/-- The meaning of TELEMETRY_SNAPSHOT. -/
def execTelemetrySnapshot (x : Sensors) (s : State) : Host.Outcome State Fault Refusal :=
  if x.wf then .next (doSnapshot s x) else .fault .illFormed
/-- The meaning of LOG_FLUSH. -/
def execLogFlush (tag : BitVec 16) (s : State) : Host.Outcome State Fault Refusal := .next (doLogFlush s tag)
/-- The meaning of LOG_FLUSH_TIMER. -/
def execLogFlushTimer (s : State) : Host.Outcome State Fault Refusal := .next (doLogTimer s)
/-- The meaning of SHUTDOWN. -/
def execShutdown (tag : BitVec 16) (s : State) : Host.Outcome State Fault Refusal := .next (doShutdown s tag)
/-- The meaning of FW_UPDATE. -/
def execFwUpdate (tag : BitVec 16) (addr : DWord) (xlat size : Word) (r : HostRead) (ok : Bool) (s : State) :
    Host.Outcome State Fault Refusal :=
  if r.wf then .next (doFwUpdate s tag addr xlat size r ok) else .fault .illFormed
/-- The meaning of FW_QUERY. -/
def execFwQuery (tag : BitVec 16) (s : State) : Host.Outcome State Fault Refusal := .next (doFwQuery s tag)
/-- The meaning of POP. -/
def execPop (s : State) : Host.Outcome State Fault Refusal := .next (doPop s)
/-- The meaning of LOAD. -/
def execLoad (r : HostRead) (s : State) : Host.Outcome State Fault Refusal :=
  if r.wf then .next (doLoad s r) else .fault .illFormed
/-- The meaning of REMOVE. -/
def execRemove (id : BitVec 16) (s : State) : Host.Outcome State Fault Refusal := .next (doRemove s id)

end Sys2Proof.Machine
end

