-- ==== Sys2Proof/Machine/Faults.lean ====
section
/-! DEFINITION. Commands of the fault collector and of fault injection (spec/15_fault_collector.md). -/

namespace Sys2Proof.Machine

/-- The instance of a pair: the Pod for a Pod source, the block otherwise; none where the Pod does not exist.
Source 0 belongs to either. -/
def pairInst (src i : Nat) : Option Nat :=
  if podSource src then (if i < 100 then some i else none)
  else if src = 0 ∧ i < 100 then some i else some 127

/-- Whether isolation holds the pair at (0,1): a Pod's own pair while the Pod is isolated or gated (R368, R393). -/
def pairQuiet (s : State) (src i : Nat) : Bool :=
  decide (i < 100) && ((podAt s i).isolated || (podAt s i).gated) && !(decide (src = 18 ∨ src = 22))

/-- What the unit of an event does about it, whatever the masks hold (R343, R347, R373): a checksum, residue or
Chard parity error makes the Pod suspect, and the Pod's `PAGE_ERR` bits are set (Table 14-9). -/
def unitAction (s : State) (src i : Nat) : State :=
  match src with
  | 4 => pageErr s (podPage i) 3
  | 5 => markSuspect (pageErr s (podPage i) 2) i 1
  | 6 => markSuspect (pageErr s (podPage i) 4) i 2
  | 7 => markSuspect s i 5
  | _ => s

/-- FAULT_EVENT (R370). -/
def doFaultEvent (s : State) (src i : Nat) (info : Word) (ctx : EventCtx) : State :=
  match pairInst src i with
  | none => s
  | some k =>
    if pairQuiet s src k || (instAt s src k).wired || hears s src k = false then s
    else unitAction (raiseAs s src k info ctx (if i < 100 then i else 127) false src) src k

/-- WIRE_FAULT: entry to the wire-fault condition (R367). -/
def doWireFault (s : State) (src i : Nat) (high : Bool) (ctx : EventCtx) : State :=
  match pairInst src i with
  | none => s
  | some k =>
    if pairQuiet s src k || (instAt s src k).wired || hears s src k = false then s
    else
      let s := modFlt s fun c => { c with
        insts := supd c.insts (instKey src k) Inst.empty fun x => { x with wired := true }
        wire := c.wire ||| BitVec.ofNat 32 (2 ^ src) }
      let s := bump s 1 2
      let s := raiseAs s 0 k (BitVec.ofNat 32 (src + 256 * b2n high)) ctx 127 false src
      let s := raiseAs s src k 0 ctx 127 true src
      if k < 100 then { s with itg := { s.itg with rollHead := some k } } else s

/-- WIRE_FAULT_CLEAR (R367). -/
def doWireClear (s : State) (src i : Nat) : State :=
  match pairInst src i with
  | none => s
  | some k =>
    if (instAt s src k).wired then
      modFlt s fun c => { c with insts := supd c.insts (instKey src k) Inst.empty fun x => { x with wired := false } }
    else s

/-- A W1C write to `FLT_SEVERE`: the severity and the count of every instance of each named source are cleared
(R371). -/
def doSevereClear (s : State) (mask : Word) : State :=
  if s.blk.st = .cold then s
  else
    let hit (src : Nat) : Bool := mask.getLsbD src
    modFlt s fun c => { c with
      severe := c.severe &&& ~~~ mask
      insts := c.insts.map fun e => if hit (e.1 / 128) then (e.1, { e.2 with count := 0, severe := false }) else e
      log := c.log.map fun e => if hit e.2.source then (e.1, { e.2 with closed := true }) else e
      hold := c.hold.map fun w => if hit w.source then { w with closed := true } else w }

/-- The refusal code of a live fault-page write, in the order of Table 15-9 (R382, R383). -/
def fltRefusal (s : State) (o w : Nat) : Option Nat :=
  if 0x400 ≤ o ∧ o < 0x480 then
    if o < 0x460 then
      if bits w 7 0 = 0 ∨ bits w 12 8 > 22 ∨ w &&& 0xE0E0E000 ≠ 0 then some 0x0101 else none
    else if w ≠ 0 then some 0x0101 else none
  else if o = 0x480 then
    if bits w 1 0 = 3 ∨ bits w 31 4 ≠ 0 ∨ (bits w 1 0 = 1 ∧ rg64 s 1 0x484 = 0) then some 0x0102 else none
  else if o = 0x034 then
    let src := bits w 4 0
    let p := bits w 14 8
    let scope := if podSource src then decide (p < 100) else if src = 0 then true else p = 0x7F
    if src ≥ 24 ∨ (p > 99 ∧ p ≠ 0x7F) ∨ scope = false then some 0x0103
    else if bits w 7 5 ≠ 0 ∨ bits w 31 15 ≠ 0 then some 0x0104 else none
  else if o = 0x048 then (if bits w 31 1 ≠ 0 then some 0x0104 else none)
  else if o = 0x484 then (if bits w 1 0 ≠ 0 then some 0x0104 else none)
  else if o = 0x490 then (if bits w 31 20 ≠ 0 then some 0x0104 else none)
  else none

/-- Refuses a fault-page write: it is ignored, bit 0 of `PAGE_ERR` is set (R382). -/
def fltRefuse (s : State) (code o : Nat) : State := refuse (pageErr s 1 0) 1 code o

/-- A live write of a fault-page register (R382). The Steward-trap bit of source 21 reads 0 (R372). -/
def fltWrite (s : State) (o w : Nat) : State :=
  match fltRefusal s o w with
  | some code => fltRefuse (noteRsv s 1 o w) code o
  | none => storeReg s 1 o (if o = 0x400 + 4 * 21 then w &&& 0xFDFDFFFF else w)

/-- Whether fault-page writes are applied: not in `COLD` or `SELF_TEST` (R408, R449). -/
def doFltCfg (s : State) (addr : BitVec 10) (w : Word) : State :=
  let o := 4 * addr.toNat
  if portOpen s = false then s
  else if o = 0x034 ∨ (0x400 ≤ o ∧ o < 0x484) then fltWrite s o w.toNat else s

/-- FREEZE: a write of `FLT_LOG_CTRL.FREEZE` (R378). -/
def doFreeze (s : State) (on : Bool) : State :=
  if portOpen s = false then s
  else if on then modFlt (wrg s 1 0x048 1) fun c => { c with freeze := true }
  else unfreeze s

/-- FREEZE_TIMEOUT (R378). -/
def doFreezeTimeout (s : State) : State := if s.flt.freeze then unfreeze s else s

/-- FACTORY: a write of 1 to `TST_MODE.FACTORY` while the shipment fuse is intact (R381). -/
def doFactory (s : State) : State :=
  if portOpen s = false ∨ s.blk.st = .halted ∨ s.itg.shipped then s
  else
    let s := (allPods.filter fun p => !(podAt s p).gated).foldl zeroise s
    { s with itg := { s.itg with factory := true }, pins := { s.pins with rstReq := true } }

/-- Flips bits of one Marrow word, check bits included: the stored error mask of R263. -/
def flipWord (m : Marrow) (key : Nat) (mask : BitVec 72) : Marrow :=
  { m with ecc := sset m.ecc key (sgetD m.ecc key 0 ^^^ mask) 0 }

/-- TST_INJ in factory test mode (R381): a driven pair, or flipped bits of a Marrow word. A pair driven to (1,0) is
one event, however long; an illegal pattern of two cycles or more is a wire fault. -/
def doInject (s : State) (x : Injection) : State :=
  if portOpen s = false ∨ s.itg.factory = false ∨ s.itg.shipped then s
  else match x with
    | .pair src i t f c =>
      let ctx := noCtx s
      if t ∧ ¬ f then doFaultEvent (draw s) src.toNat i.toNat (BitVec.ofNat 32 (Config.unstated 0 [s.free])) ctx
      else if c.toNat ≥ 2 then doWireFault (draw s) src.toNat i.toNat t ctx
      else s
    | .flip p line word mask =>
      { s with marrow := flipWord s.marrow ((p.val * 98304 + line.toNat % 98304) * 8 + word.toNat) mask }

/-- The meaning of FAULT_EVENT. -/
def execFaultEvent (src : BitVec 5) (i : BitVec 7) (info : Word) (ctx : EventCtx) (s : State) :
    Host.Outcome State Fault Refusal :=
  if src.toNat < 24 then .next (doFaultEvent s src.toNat i.toNat info ctx) else .fault .illFormed
/-- The meaning of WIRE_FAULT. -/
def execWireFault (src : BitVec 5) (i : BitVec 7) (high : Bool) (ctx : EventCtx) (s : State) :
    Host.Outcome State Fault Refusal :=
  if src.toNat < 24 then .next (doWireFault s src.toNat i.toNat high ctx) else .fault .illFormed
/-- The meaning of WIRE_FAULT_CLEAR. -/
def execWireFaultClear (src : BitVec 5) (i : BitVec 7) (s : State) : Host.Outcome State Fault Refusal :=
  if src.toNat < 24 then .next (doWireClear s src.toNat i.toNat) else .fault .illFormed
/-- The meaning of FLT_SEVERE_CLEAR. -/
def execFltSevereClear (mask : Word) (s : State) : Host.Outcome State Fault Refusal := .next (doSevereClear s mask)
/-- The meaning of FLT_CFG_WRITE. -/
def execFltCfgWrite (addr : BitVec 10) (w : Word) (s : State) : Host.Outcome State Fault Refusal :=
  .next (doFltCfg s addr w)
/-- The meaning of FREEZE. -/
def execFreeze (on : Bool) (s : State) : Host.Outcome State Fault Refusal := .next (doFreeze s on)
/-- The meaning of FREEZE_TIMEOUT. -/
def execFreezeTimeout (s : State) : Host.Outcome State Fault Refusal := .next (doFreezeTimeout s)
/-- The meaning of FACTORY. -/
def execFactory (s : State) : Host.Outcome State Fault Refusal := .next (doFactory s)
/-- The meaning of TST_INJ. -/
def execTstInj (x : Injection) (s : State) : Host.Outcome State Fault Refusal :=
  if x.wf then .next (doInject s x) else .fault .illFormed
/-- The meaning of RNG_PROBE. -/
def execRngProbe (ctrl : Word) (s : State) : Host.Outcome State Fault Refusal :=
  .next (if portOpen s then doProbe s (ctrl.toNat ||| 2 ^ 31) else s)

end Sys2Proof.Machine
end

