-- ==== Sys2Proof/Machine/PowerCtl.lean ====
section
/-! DEFINITION. Power and clock commands (spec/16_steward.md R393 to R398; spec/01 R31), Pod tests, suspect Pods and
spares (spec/14_result_integrity.md R347 to R352, R457). -/

namespace Sys2Proof.Machine

/-! ## Spares and Pod tests -/

/-- Spares that may be taken: role 1 and `OFF`, so their last Pod test passed (R348). -/
def usableSpares (s : State) : List Nat := allPods.filter fun p => (podAt s p).role = 1 ∧ (podAt s p).st = .off

/-- Whether a Pod is under test for a logical ID. -/
def TestWhy.forId : TestWhy → Bool
  | .spareFor _ => true
  | _ => false

/-- Whether some spare is left, in whatever state, that is not already under test for a logical ID. -/
def anySpare (s : State) : Bool := allPods.any fun p => (podAt s p).role = 1 && !(podAt s p).why.forId

/-- Takes a spare from `OFF` to `TEST` for a purpose and closes its switch (R348, R352, R353). -/
def startTest (s : State) (p : Nat) (why : TestWhy) : State :=
  powerUp (modPod s p fun q => { q with st := .test, why := why }) p

/-- Whether a spare is already under test for logical ID `l`. -/
def servedId (s : State) (l : Nat) : Bool := allPods.any fun p => (podAt s p).why = .spareFor l

/-- Ends the job of a command that can no longer get logical ID `l` (R243, Table 2-19). -/
def failWaiting (s : State) (l : Nat) : State :=
  let hit (b : Job) : Bool :=
    b.queued.any (fun c => c.unstarted.contains l) || (match b.active with
      | some c => c.unstarted.contains l
      | none => false)
  settleGroups ((s.jobs.filter fun e => hit e.2).foldl (fun s e =>
    let s := endWork s e.1 stAborted
    setJobSt (modJob s e.1 fun b => { b with reason := 0x0355 }) e.1 .failed) s)

/-- Starts a spare for each vacant logical ID, in ascending physical ID of the Pods that held them; with no spare
left, the commands that wait for the ID fail (R348 step 6, R349, R243). -/
def serveVacant (s : State) : State :=
  (vacant s).foldl (fun s v =>
    if servedId s v.1 then s
    else match bestSpare v.2 (usableSpares s) with
      | some p => startTest s p (.spareFor v.1)
      | none => if anySpare s then s else failWaiting s v.1) s

/-- A failed Pod test of Pod `p` in `TEST`: the event with its step, the map-out, `CAUSE` 6, and a spare for a
logical ID it held (R243, R352, R457). -/
def failTest (s : State) (p step pack : Nat) : State :=
  let s := raise s 22 p (step + 2 ^ 16 * pack)
  let s := mapOut s p
  serveVacant (modPod s p fun q => { q with cause := 6 })

/-- Records a passed Pod test (R352, Table 14-9). -/
def passTest (s : State) (p : Nat) : State :=
  modPod s p fun q => { q with tests := min 255 (q.tests + 1), testTime := s.time, due := false }

/-- A prepared spare goes back to `OFF`. -/
def dropSpare (s : State) : State :=
  let s := match s.itg.rollSpare with
    | some p =>
      if (podAt s p).why = TestWhy.prepared then
        powerDown (zeroise (modPod s p fun q => { q with st := .off, why := .none }) p) p
      else s
    | none => s
  { s with itg := { s.itg with rollSpare := none, copied := false } }

/-- Ends the rotation's work on Pod `p`, if it is the Pod in rotation (R351). -/
def rollDone (s : State) (p : Nat) : State :=
  if s.itg.rollPod = p then
    let s := dropSpare s
    { s with itg := { s.itg with rollPhase := 0, rollLast := s.time } }
  else s

/-- POD_TEST_DONE (R352, R354, R348 step 6). A test under way stops while the block is `DRAINING` or `HALTED`
(Table 14-5). -/
def doPodTest (s : State) (p : Nat) (r : PodTestResult) : State :=
  let q := podAt s p
  if q.st ≠ .test ∨ s.blk.st = .draining ∨ s.blk.st = .halted ∨ portOpen s = false then s
  else
    let packs (ok : Bool) : List Pack := s.itg.packs.map fun k =>
      if k.pflags / 2 % 2 = 1 then (if ok then { k with passed := min 65535 (k.passed + 1) } else k) else k
    match r with
    | .fail step pack =>
      let s := { s with itg := { s.itg with packs := s.itg.packs.map fun k =>
        if step = 4 ∧ k.id = pack.toNat then { k with failed := min 65535 (k.failed + 1) } else k } }
      let s := if q.why = .prepared then
          { s with itg := { s.itg with rollSpare := none, rollPhase := 0, copied := false, abandoned := min 65535 (s.itg.abandoned + 1) } }
        else rollDone s p
      failTest s p step.toNat (if step = 4 then pack.toNat else 0)
    | .pass =>
      let s := { s with itg := { s.itg with packs := packs true } }
      match q.why with
      | .spareFor l => serveVacant (toIdle (modPod (assignId (passTest s p) p l) p fun q => { q with why := .none }) p)
      | .spareDue =>
        serveVacant (powerDown (modPod (passTest s p) p fun q => { q with st := .off, why := .none }) p)
      | .swapped =>
        serveVacant (rollDone (powerDown (modPod (passTest s p) p fun q => { q with st := .off, why := .none }) p) p)
      | .rebind => serveVacant (rollDone (toIdle (modPod (passTest s p) p fun q => { q with why := .none }) p) p)
      | _ => s

/-- SPARE_POD_TEST_DUE: a spare goes from `OFF` to `TEST` (R352). -/
def doSpareDue (s : State) (p : Nat) : State :=
  if portOpen s && !s.blk.shut && decide ((podAt s p).role = 1 ∧ (podAt s p).st = .off ∧ s.blk.st ≠ .roadside ∧ s.blk.st ≠ .halted) then
    startTest s p .spareDue
  else s

/-- One suspect Pod is withdrawn: the map-out is logged at once and the Pod enters `MAPPED_OUT` (R348 step 4). -/
def withdraw (s : State) (p : Nat) : State :=
  let cause := (podAt s p).cause
  let s := zeroise s p
  let s := rollDone (mapOutTo s p .mappedOut) p
  modPod s p fun q => { q with cause := cause, bindValid := false, job := 0, member := 0 }

/-- SUSPECT_DRAIN_DONE: every Pod has retired its work; the suspect Pods are mapped out in ascending physical ID,
the block resumes, spares start (R348 steps 4 to 6, R349, R350). -/
def doSuspectDone (s : State) : State :=
  if s.blk.st ≠ .draining ∨ ¬ s.ops.isEmpty then s
  else
    let s := (allPods.filter fun p => (podAt s p).st = .suspect).foldl withdraw s
    let s := modBlk s fun b => { b with st := if anyActive s then .running else .ready }
    serveVacant s

/-- MAP_OUT_DONE: the withdrawal is recorded and the Pod enters `OFF` for good (R21, R53). -/
def doMapOutDone (s : State) (p : Nat) : State :=
  if (podAt s p).st = .mappedOut then powerDown (setPodSt s p .off) p else s

/-! ## Switches -/

/-- A Pod fails its power-up checks (R243, R393): from a gated `IDLE` it enters `TEST`, and the failure counts as a
failed Pod test with the given step. -/
def failPowerUp (s : State) (p step : Nat) : State :=
  let q := podAt s p
  if q.st = .idle ∨ q.st = .test then
    let s := setPodSt s p .test
    let s := if q.why = .prepared then { s with itg := { s.itg with rollSpare := none, rollPhase := 0, copied := false } } else s
    let s := if s.blk.st = .selfTest then modBlk s fun b => { b with bootMapped := b.bootMapped + 1 } else s
    failTest s p step 0
  else s

/-- PWR_SW_ACK (R393, R394, R34, R35, R243). Start-up checks the copies in its step 5 (R242). -/
def doSwAck (s : State) (p : Nat) (level copyOk : Bool) : State :=
  let q := podAt s p
  if level then
    if q.swAck then s
    else
      let s := modPod s p fun q => { q with swAck := true, gated := false }
      if q.swReq then
        let s := bump (zeroise (modPod s p fun q => { q with isolated := false }) p) 2 3
        if s.rng.tableOk ∧ q.role ≤ 1 ∧ q.why ≠ .startUp then
          if copyOk then
            let s := modPod s p fun q => { q with copyOk := true }
            if q.why = .prepared then { s with itg := { s.itg with rollPhase := 2 } } else s
          else failPowerUp s p 3
        else s
      else s
  else if q.swAck then
    let s := zeroise (modPod s p fun q => { q with swAck := false, gated := true, copyOk := false }) p
    { s with regs := { s.regs with live := s.regs.live.filter fun e => e.1 / 1024 ≠ podPage p } }
  else s

/-- SWITCH_TIMEOUT: the answer took longer than 100 us (R393). -/
def doSwTimeout (s : State) (p : Nat) : State :=
  let q := podAt s p
  if q.swReq ∧ ¬ q.swAck then failPowerUp (raise (powerDown s p) 18 p 0) p 5 else s

/-- IDLE_GATE_TIMER (R394). -/
def doIdleGate (s : State) (p : Nat) : State :=
  let q := podAt s p
  if q.st = .idle ∧ q.swReq ∧ named s q.logical = false then powerDown s p else s

/-! ## Throttling -/

/-- The thermal cap after a sample (Table 16-6). -/
def nextTherm (s : State) (hot : BitVec 16) : Power → Power := fun p =>
  let t : Int := hot.toInt
  let thr : Int := sext 16 (rgf s 2 0x404 15 0)
  let crit : Int := sext 16 (rgf s 2 0x404 31 16)
  if crit ≤ t then { p with capTherm := 24, thermTick := 0 }
  else if thr ≤ t then
    if p.capTherm = 48 ∨ p.thermTick ≥ 9 then { p with capTherm := max 24 (p.capTherm - 1), thermTick := 0 }
    else { p with thermTick := p.thermTick + 1 }
  else if t < thr - 24 ∧ p.capTherm < 48 then
    if p.thermTick ≥ 99 then { p with capTherm := p.capTherm + 1, thermTick := 0 }
    else { p with thermTick := p.thermTick + 1 }
  else { p with thermTick := p.thermTick + 1 }

/-- The power cap after a sample (Table 16-6). -/
def nextPower (s : State) (x : Sensors) : Power → Power := fun p =>
  let sust := rgf s 2 0x400 15 0
  let peak := rgf s 2 0x400 31 16
  if x.power10us.toNat > peak then
    if p.capPower = 48 ∨ p.powerTick ≥ 9 then { p with capPower := max 24 (p.capPower - 1), powerTick := 0 }
    else { p with powerTick := p.powerTick + 1 }
  else if x.avgPower.toNat > sust then
    if p.capPower = 48 ∨ p.powerTick ≥ 99 then { p with capPower := max 24 (p.capPower - 1), powerTick := 0 }
    else { p with powerTick := p.powerTick + 1 }
  else if 100 * x.avgPower.toNat < 95 * sust ∧ p.capPower < 48 then
    if p.powerTick ≥ 999 then { p with capPower := p.capPower + 1, powerTick := 0 }
    else { p with powerTick := p.powerTick + 1 }
  else { p with powerTick := p.powerTick + 1 }

/-- Takes a sample into the extremes since the last snapshot (R392). -/
def sampleExtremes (s : State) (x : Sensors) : State :=
  let pods := allPods.map fun p =>
    let q := podAt s p
    let t := x.podTemp.getD p 0
    let v := x.podVolt.getD p 0
    { q with tempMax := if q.tempMax.toInt < t.toInt then t else q.tempMax,
             voltMin := if !q.gated && decide (v.toNat < q.voltMin.toNat) then v else q.voltMin }
  modStw { s with pods := pods } fun t =>
    { t with tempMax := if t.tempMax.toInt < x.hottest.toInt then x.hottest else t.tempMax }

/-- THROTTLE_TICK (R397). -/
def doThrottle (s : State) (x : Sensors) : State :=
  if portOpen s = false then s
  else
    let s := sampleExtremes s x
    let crit := decide (sext 16 (rgf s 2 0x404 31 16) ≤ x.hottest.toInt)
    let ovr := decide (x.current.toNat > rgf s 2 0x414 15 0)
    let wasC := s.pwr.critical
    let wasI := s.pwr.overI
    let th := nextTherm s x.hottest
    let pw := nextPower s x
    let s := modPwr s fun p =>
      let p := pw (th p)
      { p with power := x.power10us.toNat, avgPower := x.avgPower.toNat, current := x.current.toNat, critical := crit, overI := ovr }
    let s := if crit && !wasC then raise s 19 127 x.hottest.toNat else s
    let s := if ovr && !wasI then raise s 20 127 x.current.toNat else s
    retarget s

/-- ROOT_STEP: the one-step change in progress settles (R31, R395). -/
def doRootStep (s : State) : State :=
  if s.pwr.slewing = false then s
  else
    let s := bump s 2 0
    let s := if s.pwr.slewUp then modPwr s fun p => { p with rootN := min 48 (p.rootN + 1), slewing := false }
      else
        let s := modPwr s fun p => { p with rootN := max 24 (p.rootN - 1), slewing := false }
        requestV s s.pwr.rootN
    ilimAnswer (advanceRoot s)

/-- PWR_VREQ_ACK (R395). -/
def doVreqAck (s : State) : State :=
  if s.pwr.vreqReq then advanceRoot (modPwr s fun p => { p with vreqReq := false, vreqAck := true }) else s

/-- PWR_ILIM_REQ rises with a level (R398). -/
def doIlimReq (s : State) (lvl : BitVec 2) : State :=
  if portOpen s then (if s.pwr.ilimAck then s else takeIlim s lvl.toNat)
  else modPwr s fun p => { p with ilimReq := true, ilimWant := lvl.toNat }

/-- PWR_ILIM_REQ falls (R398). -/
def doIlimFall (s : State) : State := modPwr s fun p => { p with ilimReq := false, ilimAck := false }

/-- A write of `PWR_N_MAX`, or its refusal (Tables 16-8, 16-9). -/
def writeNMax (s : State) (w : Nat) : State :=
  if bits w 5 0 < 24 ∨ bits w 5 0 > 48 then refuse (noteRsv s 2 0x40C w) 2 0x0204 0x40C
  else if bits w 31 6 ≠ 0 then refuse (noteRsv s 2 0x40C w) 2 0x0205 0x40C
  else retarget (storeReg s 2 0x40C w)

/-- PWR_N_MAX_WRITE (R397). -/
def doNMax (s : State) (w : Word) : State := if portOpen s then writeNMax s w.toNat else s

/-- DROOP_DETECT: an episode starts; the Pod gates its clocks (R396). -/
def doDroop (s : State) (p : Nat) (mv : BitVec 16) : State :=
  let q := podAt s p
  if q.droop ∨ q.gated then s
  else
    let s := modPod s p fun q => { q with droop := true, droops := q.droops + 1 }
    raise (bump s 2 1) 18 p mv.toNat

/-- DROOP_RECOVER (R396). -/
def doDroopEnd (s : State) (p : Nat) : State := modPod s p fun q => { q with droop := false }

/-- DROOP_CAP_EXPIRE: the cap is renewed while a `DROOP` instance stays severe, and goes otherwise (R396). -/
def doDroopCap (s : State) : State :=
  if s.pwr.capDroop.isNone then s
  else if allPods.any fun p => (instAt s 18 p).severe then
    retarget (modPwr s fun p => { p with capDroop := some (p.rootN - 2) })
  else retarget (modPwr s fun p => { p with capDroop := none })

/-- The meaning of POD_TEST_DONE. -/
def execPodTestDone (p : Fin 100) (r : PodTestResult) (s : State) : Host.Outcome State Fault Refusal := .next (doPodTest s p.val r)
/-- The meaning of SPARE_POD_TEST_DUE. -/
def execSparePodTestDue (p : Fin 100) (s : State) : Host.Outcome State Fault Refusal := .next (doSpareDue s p.val)
/-- The meaning of SUSPECT_DRAIN_DONE. -/
def execSuspectDrainDone (s : State) : Host.Outcome State Fault Refusal := .next (doSuspectDone s)
/-- The meaning of MAP_OUT_DONE. -/
def execMapOutDone (p : Fin 100) (s : State) : Host.Outcome State Fault Refusal := .next (doMapOutDone s p.val)
/-- The meaning of PWR_SW_ACK. -/
def execPwrSwAck (p : Fin 100) (level copyOk : Bool) (s : State) : Host.Outcome State Fault Refusal :=
  .next (doSwAck s p.val level copyOk)
/-- The meaning of SWITCH_TIMEOUT. -/
def execSwitchTimeout (p : Fin 100) (s : State) : Host.Outcome State Fault Refusal := .next (doSwTimeout s p.val)
/-- The meaning of IDLE_GATE_TIMER. -/
def execIdleGateTimer (p : Fin 100) (s : State) : Host.Outcome State Fault Refusal := .next (doIdleGate s p.val)
/-- The meaning of THROTTLE_TICK. -/
def execThrottleTick (x : Sensors) (s : State) : Host.Outcome State Fault Refusal :=
  if x.wf then .next (doThrottle s x) else .fault .illFormed
/-- The meaning of ROOT_STEP. -/
def execRootStep (s : State) : Host.Outcome State Fault Refusal := .next (doRootStep s)
/-- The meaning of PWR_VREQ_ACK. -/
def execPwrVreqAck (s : State) : Host.Outcome State Fault Refusal := .next (doVreqAck s)
/-- The meaning of PWR_ILIM_REQ. -/
def execPwrIlimReq (lvl : BitVec 2) (s : State) : Host.Outcome State Fault Refusal := .next (doIlimReq s lvl)
/-- The meaning of PWR_ILIM_REQ_FALL. -/
def execPwrIlimReqFall (s : State) : Host.Outcome State Fault Refusal := .next (doIlimFall s)
/-- The meaning of PWR_N_MAX_WRITE. -/
def execPwrNMaxWrite (w : Word) (s : State) : Host.Outcome State Fault Refusal := .next (doNMax s w)
/-- The meaning of DROOP_DETECT. -/
def execDroopDetect (p : Fin 100) (mv : BitVec 16) (s : State) : Host.Outcome State Fault Refusal := .next (doDroop s p.val mv)
/-- The meaning of DROOP_RECOVER. -/
def execDroopRecover (p : Fin 100) (s : State) : Host.Outcome State Fault Refusal := .next (doDroopEnd s p.val)
/-- The meaning of DROOP_CAP_EXPIRE. -/
def execDroopCapExpire (s : State) : Host.Outcome State Fault Refusal := .next (doDroopCap s)

end Sys2Proof.Machine
end

