-- ==== Sys2Proof/Machine/Sync.lean ====
section
/-! DEFINITION. Milepost and Tollgate commands of the control port, the Milepost dump, and the release of a gate
(spec/12_mileposts_and_tollgates.md). -/

namespace Sys2Proof.Machine

/-- Whether commands that act on Mileposts, gates, rings or jobs apply: the port is open and the block is not
`HALTED` (R87, R305, R449). -/
def portLive (s : State) : Bool := portOpen s && s.blk.st ≠ .halted

/-- Refuses `MP_OP` (R446, Table 12-9). -/
def mpRefuse (s : State) (code : Nat) : State :=
  refuse (wrg s 0x580 0x020 (rg s 0x580 0x020 ||| 2 ^ 30)) 0x580 code 0x020

/-- A write of `MP_OP` with `GO` (Table 12-9, R320): 0x5002 before 0x5001. -/
def mpOp (s : State) (w : Nat) : State :=
  if portLive s = false then s
  else
    let s := wrg (storeReg s 0x580 0x020 w) 0x580 0x020 (w &&& 0xFFFFF)
    let id := bits w 17 0
    let op := bits w 19 18
    if op = 3 ∨ bits w 29 20 ≠ 0 then mpRefuse s 0x5002
    else if mpOwned s id = false then mpRefuse s 0x5001
    else match op with
      | 0 => mpSet s id .control
      | 1 => mpClear s id .control
      | _ => mpZero s id

/-- `MP_DUMP_CMD.GO` (Table 12-8). -/
def doDump (s : State) : State :=
  if portOpen s = false then s
  else if s.mps.dumpState = 1 ∨ enabled s 0x580 = false then refuse s 0x580 0x5004 0x044
  else dumpStart s false

/-- Refuses `TG_CMD` (R446, Table 12-11). -/
def tgRefuse (s : State) (code : Nat) : State :=
  refuse (wrg s 0x020 0x020 (rg s 0x020 0x020 ||| 2 ^ 30)) 0x020 code 0x020

/-- A write of `TG_CMD` with `GO`, refused by the first of 0x3002, 0x3001, 0x3003, 0x3004, 0x3005 (R315, R320). -/
def tgCmd (s : State) (w : Nat) : State :=
  if portLive s = false then s
  else
    let s := wrg (storeReg s 0x020 0x020 w) 0x020 0x020 (w &&& 0xFFF)
    let b := bits w 7 0
    let op := bits w 10 8
    let g := gateAt s b
    if op = 0 ∨ op > 3 ∨ bits w 29 12 ≠ 0 then tgRefuse s 0x3002
    else if g.assigned = false then tgRefuse s 0x3001
    else if op = 1 ∧ g.ext.getLsbD 0 = false then tgRefuse s 0x3003
    else if op = 1 ∧ g.gen ≠ bitN w 11 then tgRefuse s 0x3004
    else if op ≠ 1 ∧ g.broken = false then tgRefuse s 0x3005
    else match op with
      | 1 => gateArriveExt s b 0
      | 2 => modGate s b fun g => { g with broken := false }
      | _ => failJob s g.job 0x3007 stAborted

/-- A write of a gate's `EXT` mask (R311, R319). -/
def tgCfg (s : State) (b w : Nat) : State :=
  if portLive s = false then s
  else if bits w 31 9 ≠ 0 then refuse (noteRsv s 0x020 (0x400 + 4 * b) w) 0x020 0x3006 (0x400 + 4 * b)
  else
    let e := BitVec.ofNat 9 w
    if gateArrived (gateAt s b) = 0 then modGate s b fun g => { g with ext := e }
    else modGate s b fun g => { g with extNext := some e }

/-! ## Release -/

/-- A drain of job `j` starts on its bound Pods (R54); the job leaves its replica groups (R361). -/
def beginDrain (s : State) (j : Nat) : State :=
  let s := settleGroups (endCopy (leaveGroups (setJobSt s j .draining) j) j)
  (jobPods s j).foldl (fun s p => if (podAt s p).st = .bound then setPodSt s p .draining else s) s

/-- Whether route gate `k` closes a stage edge. -/
def stageGate (r : Route) (k : Nat) : Bool :=
  r.edges.any fun e => e.sync = 1 && (r.nodes[e.producer]?).any fun n => n.tollgate = k

/-- Whether an `AT_STAGE` drain of route `r` waits for gate `k` (R54). -/
def drainsAt (r : Route) (k : Nat) : Bool :=
  if r.edges.any fun e => e.sync = 1 then stageGate r k else true

/-- On member `m`: the full Mileposts of the stage-edge slots that nodes naming gate `k` filled (R314). -/
def releaseMember (s : State) (j k m : Nat) : State :=
  let r := (job s j).route
  (List.range r.edges.length).foldl (fun s e =>
    let x := edgeOf s j e
    let n := nodeOf s j x.producer
    if x.sync = 1 ∧ n.tollgate = k then
      let slots := (edgeAt s j m e).staged
      let s := modEdge s j m e fun t => { t with staged := [] }
      slots.foldl (fun s c => mpSet s (fullId s j m e c) (.pod ((job s j).members.getD m 0) n.kind)) s
    else s) s

/-- Counts the release for the `FURLONG` nodes that name gate `k` as `DTG` (R360). -/
def digestDue (s : State) (j k : Nat) : State :=
  let b := job s j
  (List.range b.route.nodes.length).foldl (fun s n =>
    let x := nodeOf s j n
    if x.kind = 8 ∧ x.opcode = 1 ∧ nodeParam b.route n 4 2 = k then
      (List.range b.members.length).foldl (fun s m => modNode s j m n fun t =>
        { t with relCount := t.relCount + 1,
                 digDue := if (t.relCount + 1) % max 1 (nodeParam b.route n 2 2) = 0 then t.digDue + 1 else t.digDue }) s
    else s) s

/-- Couriers with `TG_EN` naming gate `k` send `ARRIVE` (R327). -/
def courierArrive (s : State) (j k : Nat) : State :=
  (halves s).foldl (fun s x =>
    let cfg := rg s (cwyPage x.1) (0x400 + 0x20 * x.2.1)
    let cfg2 := rg s (cwyPage x.1) (0x404 + 0x20 * x.2.1)
    if x.2.1 < 4 ∧ x.2.2.job = j ∧ x.2.2.st = .active ∧ bitN cfg 3 ∧ bits cfg2 15 8 = k then
      sendFlit s x.1 (plainFlit 5 x.2.1 0 (bits cfg2 23 16))
    else s) s

/-- Checks every line of Pod `t` with a bit in error, as the copy reads it (R263, R353). -/
def checkSlice (s : State) (t : Nat) : State :=
  (((s.marrow.ecc.filter fun e => e.1 / 786432 = t).map fun e => e.1 / 8 % 98304).dedup).foldl (fun s n => checkLine s t n) s

/-- Copies the Marrow slice and accumulator store of physical Pod `t`, its lines checked before, into `p` (R353). A word with more
bits in error is copied as it reads, under new check bytes; its line is poisoned. -/
def copyMarrow (m : Marrow) (t p : Nat) : Marrow :=
  let z := zeroiseMarrow m p
  let mv (u n : Nat) : Nat := p * u + n % u
  let bad := (m.ecc.filter fun e => e.1 / 786432 = t).flatMap fun e => (List.range 8).map fun k => e.1 * 8 + k
  { bytes := bad.foldl (fun a k => sset a (mv 6291456 k) (lineByte m (k / 64) (k % 64)) 0)
      ((m.bytes.filter fun e => e.1 / 6291456 = t).foldl (fun a e => sput a (mv 6291456 e.1) e.2) z.bytes)
    poison := (m.poison.filter fun k => k / 98304 = t).foldl (fun a k => nins a (mv 98304 k)) z.poison
    prov := (m.prov.filter fun k => k / 98304 = t).foldl (fun a k => nins a (mv 98304 k)) z.prov
    ecc := z.ecc
    acc := (m.acc.filter fun e => e.1 / 32768 = t).foldl (fun a e => sput a (mv 32768 e.1) e.2) z.acc
    accPoison := (m.accPoison.filter fun k => k / 32768 = t).foldl (fun a k => nins a (mv 32768 k)) z.accPoison }

/-- Commits a barrier swap: spare `p` takes the place of Pod `t`, passing through `IDLE` and `RESTORING` to `BOUND`, and `t`
passes through `DRAINING` to its Pod test (R353); the log records the spare's logical ID (R391). -/
def commitSwap (s : State) (t p : Nat) : State :=
  let q := podAt s t
  let s := checkSlice s t
  let s := { s with marrow := zeroiseMarrow (copyMarrow s.marrow t p) t }
  let s := setPodSt s t .draining
  let s := modPod s p fun x => { x with role := 0, logical := q.logical, st := .idle, why := .none }
  let s := modPod s p fun x => { x with st := .restoring, job := q.job, bindValid := true, member := q.member }
  let s := setPodSt s p .bound
  let s := modPod s t fun x => { x with role := 1, logical := 127, st := .test, job := 0, bindValid := false, member := 0,
                                        why := .swapped }
  let s := logWrite s (.assign p q.logical)
  { s with itg := { s.itg with swaps := min 65535 (s.itg.swaps + 1), rollPhase := 4, rollSpare := none, copied := false } }

/-- A release meets a barrier swap of the job (R353 steps 3 and 4). -/
def swapAtRelease (s : State) (j : Nat) : State :=
  let t := s.itg.rollPod
  if s.itg.rollPhase = 3 ∧ (podAt s t).job = j ∧ (podAt s t).bindValid then
    match s.itg.copied, s.itg.rollSpare with
    | true, some p => commitSwap s t p
    | _, _ => abandonSwap s
  else s

/-- Period boundaries of the release of block Tollgate `b` of job `j` (Table 19-9). -/
def latchRelease (s : State) (b j : Nat) : State :=
  let s := if rg s 0x020 0x024 = b then latchPage (latchPage s 0x020) 0x580 else s
  let s := if rgf s 0x00B 0x024 7 0 = j then latchPage s 0x00B else s
  let s := if rg s 0x00C 0x024 = b then (List.range 8).foldl (fun s k => latchPage s (cwyPage k)) s else s
  (jobPods s j).foldl (fun s p => latchPage s (podPage p)) s

/-- `SAVE` commands of job `j` that wait for this release start to drain (R54). -/
def stageDrain (s : State) (j k : Nat) : State :=
  match (job s j).queued with
  | c :: cs =>
    if c.op = .save ∧ c.atStage ∧ (job s j).st = .bound ∧ drainsAt (job s j).route k then
      beginDrain (modJob s j fun b => { b with active := some c, queued := cs }) j
    else s
  | [] => s

/-- Releases block Tollgate `b` (R314). The release itself is counted in the new period (R451). -/
def gateRelease (s : State) (b : Nat) : State :=
  let g := gateAt s b
  let j := g.job
  let k := g.index
  let s := latchRelease s b j
  let s := modGate s b fun g => { g with gen := !g.gen, members := [], externals := [], count := g.count + 1, unseen := g.externals.contains 0,
                                         ext := g.extNext.getD g.ext, extNext := none }
  let s := bump s 0x020 0
  let r := (job s j).route
  let s := (List.range (job s j).members.length).foldl (fun s m => releaseMember s j k m) s
  let s := if stageGate r k then rewindJob s j else s
  let s := digestDue s j k
  let s := courierArrive s j k
  let s := swapAtRelease s j
  stageDrain s j k

/-- Whether every gate of job `j` has released the generation of stage `x`. -/
def stageReleased (s : State) (j x : Nat) : Bool := (job s j).gates.all fun b => decide ((gateAt s b).count > x)

/-- Whether a token record that an `END_STREAM` completed is still on its way (spec/08 R199). -/
def endAtWork (s : State) (e : Entry) : Bool :=
  let b := job s e.job
  b.nodes.any (fun x => x.2.works.any fun w => w.rank = e.rank) || b.edges.any (fun x => x.2.fills.any fun f => f.2.rank = e.rank) ||
    s.ops.any fun o => o.job = e.job ∧ o.rank = e.rank

/-- Whether an earlier entry of the stream of `e` has results that are not placed. -/
def streamBusy (s : State) (e : Entry) : Bool :=
  endAtWork s e || s.entries.any fun x =>
    x.job = e.job ∧ x.opcode = 2 ∧ x.body.stream = e.body.stream ∧ x.rank < e.rank ∧ x.st ≠ .done

/-- `END_STREAM` entries whose stream's results are placed complete once their stage is released (Table 3-2). -/
def endStreams (s : State) (j : Nat) : State :=
  (s.entries.filter fun e => e.job = j ∧ e.opcode = 3 ∧ e.st = .waiting ∧ !streamBusy s e ∧ stageReleased s j e.stage).foldl
    (fun s e => finish s e stOk) s

/-- TOLLGATE_RELEASE: a complete, unbroken gate releases (R314). -/
def doRelease (s : State) (b : Nat) : State :=
  let g := gateAt s b
  if portLive s && g.assigned && !g.broken && decide (gateArrived g = gateExpect g ∧ 0 < gateExpect g) then
    endStreams (gateRelease s b) g.job
  else s

/-- The meaning of MILEPOST_SET. -/
def execMilepostSet (id : BitVec 18) (s : State) : Host.Outcome State Fault Refusal := .next (mpOp s (id.toNat + 2 ^ 31))
/-- The meaning of MILEPOST_CLEAR. -/
def execMilepostClear (id : BitVec 18) (s : State) : Host.Outcome State Fault Refusal :=
  .next (mpOp s (id.toNat + 2 ^ 18 + 2 ^ 31))
/-- The meaning of MISUSE_ZERO. -/
def execMisuseZero (id : BitVec 18) (s : State) : Host.Outcome State Fault Refusal :=
  .next (mpOp s (id.toNat + 2 ^ 19 + 2 ^ 31))
/-- The meaning of MP_DUMP. -/
def execMpDump (s : State) : Host.Outcome State Fault Refusal := .next (doDump s)
/-- The meaning of ARRIVE. -/
def execArrive (gate : BitVec 8) (gen : Bool) (s : State) : Host.Outcome State Fault Refusal :=
  .next (tgCmd s (gate.toNat + 2 ^ 8 + 2 ^ 11 * b2n gen + 2 ^ 31))
/-- The meaning of RECOVER. -/
def execRecover (gate : BitVec 8) (s : State) : Host.Outcome State Fault Refusal := .next (tgCmd s (gate.toNat + 2 ^ 9 + 2 ^ 31))
/-- The meaning of FAIL. -/
def execFail (gate : BitVec 8) (s : State) : Host.Outcome State Fault Refusal :=
  .next (tgCmd s (gate.toNat + 3 * 2 ^ 8 + 2 ^ 31))
/-- The meaning of TG_CFG_WRITE. -/
def execTgCfgWrite (gate : BitVec 8) (w : Word) (s : State) : Host.Outcome State Fault Refusal :=
  .next (tgCfg s gate.toNat w.toNat)
end Sys2Proof.Machine
end

