-- ==== Sys2Proof/Machine/Xfer.lean ====
section
/-! DEFINITION. Memory traffic of tile operations: request pieces, merge holds, transfer contexts, pauses and
restarts (spec/11_marrow_and_streaming.md R270, R274, R275, R282 to R284; R458). -/

namespace Sys2Proof.Machine

/-- Pieces of at most 256 bytes of the byte range [a, a + n), cut at 256-byte boundaries (R270). -/
def pieces (a n : Nat) : List (Nat × Nat) :=
  if n = 0 then []
  else (List.range ((a + n - 1) / 256 + 1 - a / 256)).map fun k =>
    let lo := max a ((a / 256 + k) * 256)
    let hi := min (a + n) ((a / 256 + k + 1) * 256)
    (lo, hi - lo)

/-! ## Merging -/

/-- Whether a request covers its whole 256-byte block. -/
def wholeBlock (r : MemReq) : Bool :=
  r.addr % 256 = 0 && r.lines = 4 && (!r.write || decide (r.mask = 2 ^ 256 - 1))

/-- Byte `a` of a write request: its value where the request writes it. -/
def reqByte (r : MemReq) (a : Nat) : Option Byte :=
  if r.addr ≤ a ∧ a < r.addr + 64 * r.lines ∧ bitN r.mask (a - r.addr) then some (r.data.getD (a - r.addr) 0) else none

/-- Merges a later request into a held one of the same block: later bytes replace earlier ones (R275). -/
def mergeReq (h r : MemReq) : MemReq :=
  let lo := min h.addr r.addr
  let hi := max (h.addr + 64 * h.lines) (r.addr + 64 * r.lines)
  let n := (hi - lo) / 64
  let at' (i : Nat) : Option Byte := (reqByte r (lo + i)).or (reqByte h (lo + i))
  let poisAt (k : Nat) : Bool :=
    let on (q : MemReq) : Bool := decide (q.addr ≤ lo + 64 * k) && bitN q.pois ((lo + 64 * k - q.addr) / 64)
    on h || on r
  { h with addr := lo, lines := n,
           data := if h.write then (List.range (64 * n)).map fun i => (at' i).getD 0 else h.data,
           mask := if h.write then (List.range (64 * n)).foldl (fun a i => a + 2 ^ i * b2n (at' i).isSome) 0 else 0,
           pois := (List.range n).foldl (fun a k => a + 2 ^ k * b2n (poisAt k)) 0,
           also := h.also ++ r.purpose :: r.also }

/-- Whether two requests may merge (R275). -/
def mergeable (h r : MemReq) : Bool :=
  decide (h.tag = tagMerge ∧ h.pod = r.pod ∧ h.cls = r.cls ∧ h.write = r.write ∧ h.xlat = r.xlat ∧
    h.addr / 256 = r.addr / 256)

/-- Takes a Pod's request into the merge hold, or sends it when its block is whole (R275). -/
def holdReq (s : State) (r : MemReq) : State :=
  match s.mem.held.find? (mergeable · r) with
  | some h =>
    let m := mergeReq h r
    let s := bump s 3 3
    let s := modMem s fun x => { x with held := x.held.filter fun y => !decide (y = h) }
    if wholeBlock m then sendReq s m else modMem s fun x => { x with held := x.held ++ [{ m with tag := tagMerge }] }
  | none =>
    if wholeBlock r then sendReq s r else modMem s fun x => { x with held := x.held ++ [{ r with tag := tagMerge }] }

/-- Ends the merge holds that `f` selects (R275). -/
def endHolds (s : State) (f : MemReq → Bool) : State :=
  let go (r : MemReq) : Bool := r.tag = tagMerge && f r
  (s.mem.held.filter go).foldl sendReq (modMem s fun m => { m with held := m.held.filter fun r => !go r })

/-- The merge hold of Pod `p` whose first part arrived first ends (R275). -/
def expireHolds (s : State) (p : Nat) : State :=
  match s.mem.held.find? fun r => r.tag = tagMerge ∧ r.pod = p with
  | some r => endHolds s fun q => q = r
  | none => s

/-- A `FENCE` or Milepost set of ring `n` stands behind the requests of its earlier entries (R275). -/
def ringHolds (s : State) (n : Nat) : State :=
  endHolds s fun r => (r.purpose :: r.also).any fun p => match p with
    | .transfer _ _ i _ | .nibble i => s.ops.any fun o => o.id = i && (entryRank s o.job o.rank).any fun e => e.sq = n
    | .buffer i _ => s.mem.moves.any fun b => b.id = i && (entryRank s b.job b.rank).any fun e => e.sq = n
    | _ => false

/-! ## Transfers -/

/-- The transfer that Pod `p` holds for node `n` and rank `r` of job `j`. -/
def xferOf (s : State) (p j n r : Nat) : Option Xfer :=
  s.mem.xfers.find? fun x =>
    x.num / 32 = (podAt s p).logical ∧ x.job = j ∧ x.node = n ∧ x.rank = r ∧ x.num % 32 ≠ 31 ∧ x.move = none

/-- Transfer number `n`. -/
def xferNum (s : State) (n : Nat) : Option Xfer := s.mem.xfers.find? fun x => x.num = n

/-- Changes transfer `n`. -/
def modXfer (s : State) (n : Nat) (f : Xfer → Xfer) : State :=
  modMem s fun m => { m with xfers := m.xfers.map fun x => if x.num = n then f x else x }

/-- The lowest free one of contexts 0 to 30 of Pod `p` (R282). -/
def freeContext (s : State) (p : Nat) : Option Nat :=
  ((List.range 31).map ((podAt s p).logical * 32 + ·)).find? fun n => (xferNum s n).isNone

/-- The context in which Pod `p` may issue a memory tile operation of a transfer: the one it holds unless it is
faulted or paused, else a free one (R282). -/
def contextFor (s : State) (p j n r m : Nat) : Option (State × Nat) :=
  match xferOf s p j n r with
  | some x => if x.state = 1 ∧ x.faulted = false then some (s, x.num) else none
  | none =>
    (freeContext s p).map fun c =>
      (modMem s fun q => { q with xfers := q.xfers ++ [⟨c, 1, j, r, n, m, 0, 0, false, none⟩] }, c)

/-- A transfer releases its context when its last tile operation in flight retires and it is not paused (R282). -/
def releaseXfer (s : State) (n : Nat) : State :=
  if s.ops.any (fun o => o.xfer = some n) then s
  else modMem s fun m => { m with xfers := m.xfers.filter fun x => !(x.num = n ∧ x.state = 1 ∧ x.faulted = false) }

/-- The tile of transfer `n` that a purpose serves, if it serves that transfer. -/
def purposeTile (s : State) (n : Nat) : Purpose → Option Nat
  | .transfer k t _ _ => if k = n then some t else none
  | .nibble o => (s.ops.find? fun x => x.id = o ∧ x.xfer = some n).map (·.tile)
  | .buffer i t => if (xferNum s n).any fun x => x.move = some i then some t else none
  | .saveGran j m t | .restoreGran j m t => if n % 32 = 31 ∧ (job s j).members[m]? = some (n / 32) then some t else none
  | _ => none

/-- Whether requests of transfer `n` are still unanswered. -/
def xferOpen (s : State) (n : Nat) : Bool :=
  let hit (r : MemReq) : Bool := (r.purpose :: r.also).any fun p => (purposeTile s n p).isSome
  s.mem.reqs.any hit || s.mem.held.any hit

/-- `FAULT_PENDING` of a paused transfer (R283 step 5). -/
def postFault (s : State) (x : Xfer) : State :=
  let s := bump (raise s 11 127 (bits x.page 43 12) ((physOf s (x.num / 32)).getD 127)) 3 5
  let s := modXfer s x.num fun y => { y with state := 2 }
  if x.num % 32 = 31 then pageErr s 3 2
  else match entryRank s x.job x.rank with
    | some e => addDue s { sq := e.sq, slot := e.slot, tag := e.body.tag.toNat, status := stFault, final := false,
                           detail := x.num, count := 0, info := x.page / 4096 * 4096, reserved := false,
                           irqNow := false, xfer := some x.num }
    | none => s

/-- A faulted transfer pauses once every request it sent is answered (R283 steps 3 and 4). -/
def settleXfer (s : State) (n : Nat) : State :=
  match xferNum s n with
  | some x => if x.faulted ∧ x.state = 1 ∧ xferOpen s n = false then postFault s x else s
  | none => s

/-- No further request of tile `t` or a later one of transfer `n` is sent (R283 step 2). -/
def dropHeld (s : State) (n t : Nat) : State :=
  let ours (p : Purpose) : Bool := (purposeTile s n p).any fun k => t ≤ k
  modMem s fun m => { m with held := m.held.filterMap fun r =>
    match (r.purpose :: r.also).filter fun p => !ours p with
    | [] => none
    | p :: ps => some { r with purpose := p, also := ps } }

/-- A request of tile `t` at address `a` of transfer `n` received `FAULT` (R283). -/
def faultTile (s : State) (n t a : Nat) : State :=
  modXfer (dropHeld s n t) n fun x =>
    let page := a / 4096 * 4096
    if x.faulted = false ∨ t < x.cursor then { x with faulted := true, cursor := t, page := page }
    else if t = x.cursor then { x with page := min x.page page } else x

/-- Whether tile `t` of transfer `n` is not delivered, a request of it or of an earlier tile having received `FAULT` (R283). -/
def undelivered (s : State) (n t : Nat) : Bool := (xferNum s n).any fun x => x.faulted && decide (x.cursor ≤ t)

/-- The ports and classes that a request and what follows it use: a nibble is read and written (R274, R458). -/
def tokensOf (r : MemReq) : List (Nat × Nat) :=
  (portOf r.addr, r.cls) :: match r.purpose with
    | .nibble _ => [(portOf r.addr, 1)]
    | _ => []

/-- Whether Pod `p` may hold the tokens that requests `rs` need: no other request of its `TRANSFER` is unanswered on a port and
class that they use (R274). -/
def tokensFree (s : State) (p : Nat) (rs : List MemReq) : Bool :=
  let need := rs.flatMap tokensOf
  let busy (q : MemReq) : Bool := q.pod = p && (tokensOf q).any fun t => need.contains t
  !(s.mem.reqs.any busy || s.mem.held.any busy)

/-! ## Operations with requests -/

/-- Changes tile operation `i`. -/
def modOp (s : State) (i : Nat) (f : TileOp → TileOp) : State :=
  { s with ops := s.ops.map fun o => if o.id = i then f o else o }

/-- The tile operation `i`. -/
def opAt (s : State) (i : Nat) : Option TileOp := s.ops.find? fun o => o.id = i

/-- Sends every request of an operation. -/
def sendOp (s : State) (i : Nat) (rs : List MemReq) : State :=
  rs.foldl holdReq (modOp s i fun o => { o with sent := rs, awaiting := rs.length, got := [], gotPois := [] })

/-- Reads of the byte range [a, a + n) for tile `t` of operation `i` in transfer `x`. -/
def readReqs (a n xlat p x t i : Nat) : List MemReq :=
  (pieces a n).map fun q => readReq q.1 q.2 xlat 0 p (.transfer x t i (q.1 - a))

/-- Writes of contiguous bytes from address `a`, `pois` naming the poisoned host lines by address / 64. -/
def writeReqs (a : Nat) (bs : List Byte) (pois : List Nat) (xlat p x t i : Nat) : List MemReq :=
  (pieces a bs.length).map fun q =>
    let r := writeReq q.1 ((bs.drop (q.1 - a)).take q.2) xlat 1 p 0 (.transfer x t i (q.1 - a))
    { r with pois := (List.range r.lines).foldl (fun m k => m + 2 ^ k * b2n (pois.contains (r.addr / 64 + k))) 0 }

/-- The bytes of scattered host writes by 256-byte block, in ascending address: whole bytes go out as one masked
write a block; a byte of which one nibble is written is read first (R458). -/
def scatterReqs (ws : List WByte) (pois : List Nat) (xlat p x t i : Nat) : List MemReq :=
  let blocks := ws.foldl (fun a w => nins a (w.key / 256)) []
  blocks.flatMap fun b =>
    let mine := ws.filter fun w => w.key / 256 = b
    let both (k : Nat) : Byte := (mine.filter fun w => w.key = k).foldl (fun m w => m ||| w.mask) 0
    let val (k : Nat) : Byte := (mine.filter fun w => w.key = k).foldl (fun v w => (v &&& ~~~ w.mask) ||| (w.val &&& w.mask)) 0
    let keys := mine.foldl (fun a w => nins a w.key) []
    let full := keys.filter fun k => both k = 0xFF
    let half := keys.filter fun k => both k ≠ 0xFF
    let lo := (full.head?.getD 0) / 64 * 64
    let hi := (full.getLast?.getD 0) / 64 * 64 + 64
    let n := (hi - lo) / 64
    let one : List MemReq := if full.isEmpty then [] else
      [{ readReq lo (hi - lo) xlat 1 p (.transfer x t i 0) with
          write := true
          data := (List.range (64 * n)).map fun k => if full.contains (lo + k) then val (lo + k) else 0
          mask := full.foldl (fun a k => a + 2 ^ (k - lo)) 0
          pois := (List.range n).foldl (fun m k => m + 2 ^ k * b2n (pois.contains (lo / 64 + k))) 0 }]
    one ++ half.map fun k =>
      { readReq k 1 xlat 0 p (.nibble i) with data := [BitVec.ofNat 8 (k % 64), val k], mask := (both k).toNat,
                                              pois := b2n (pois.contains (k / 64)) }

/-- The write that follows a nibble read answered with line bytes `got` (R458). -/
def nibbleWrite (r : MemReq) (got : List Byte) (x t i : Nat) (pois : Bool) : MemReq :=
  let k := (r.data.getD 0 0).toNat
  let m := BitVec.ofNat 8 r.mask
  let v := (got.getD k 0 &&& ~~~ m) ||| (r.data.getD 1 0 &&& m)
  writeReq (r.addr + k) [v] r.xlat 1 r.pod (b2n (pois || bitN r.pois 0)) (.transfer x t i 0)

/-! ## Buffer transfers -/

/-- Cuts requests into tiles of at most 4 KiB (R274). -/
def tileUp (rs : List MemReq) : List (List MemReq) :=
  rs.foldl (fun a r => match a.getLast? with
    | some l => if (l.map (·.lines)).sum + r.lines ≤ 64 then a.dropLast ++ [l ++ [r]] else a ++ [[r]]
    | none => [[r]]) []

/-- Changes buffer transfer `i`. -/
def modMove (s : State) (i : Nat) (f : BufMove → BufMove) : State :=
  modMem s fun m => { m with moves := m.moves.map fun b => if b.id = i then f b else b }

/-- Buffer transfer `i`. -/
def moveAt (s : State) (i : Nat) : Option BufMove := s.mem.moves.find? fun b => b.id = i

/-- Puts the tile under way of buffer transfer `b` on the ports as transfer `n` of Pod `p`. -/
def putTile (s : State) (b : BufMove) (p n : Nat) : State :=
  let s := modXfer (modMove s b.id fun x => { x with num := some n, out := true }) n fun x => { x with cursor := b.next }
  (b.tiles.getD b.next []).foldl (fun s r => holdReq s { r with pod := p, purpose := .buffer b.id b.next }) s

/-- Sends the tile under way of buffer transfer `b` once it has a context and the tokens it needs (R274, R282). In `HALTED`
nothing more is sent. -/
def sendMove (s : State) (b : BufMove) : State :=
  let p := (memberPod s b.job (b.member % max 1 (job s b.job).members.length)).getD 127
  let st := (job s b.job).st
  if b.out ∨ !(st = .bound ∨ st = .draining) ∨ s.blk.st = .halted ∨ tokensFree s p (b.tiles.getD b.next []) = false then s
  else match b.num with
    | some n => if (xferNum s n).any fun x => x.state = 1 ∧ x.faulted = false then putTile s b p n else s
    | none => match freeContext s p with
      | some n => putTile (modMem s fun q => { q with
          xfers := q.xfers ++ [⟨n, 1, b.job, b.rank, b.node, b.member, b.next, 0, false, some b.id⟩] }) b p n
      | none => s

/-- Every buffer transfer that can goes on. -/
def pumpMoves (s : State) : State :=
  s.mem.moves.foldl (fun s b => match moveAt s b.id with
    | some b => sendMove s b
    | none => s) s

/-- Starts a fetch or write-back of requests `rs` for node `n` and rank `r` of job `j` on member `m` (R282). -/
def startMove (s : State) (j m n r : Nat) (tiles : List (List MemReq)) (ends : MoveEnd) (blocks : List BlockRead) : State :=
  if tiles = [] then s
  else
    let b : BufMove := ⟨s.nextOp, none, j, m, n, r, tiles, 0, false, ends, blocks, [], []⟩
    pumpMoves (modMem { s with nextOp := s.nextOp + 1 } fun q => { q with moves := q.moves ++ [b] })

/-- Whether a buffer transfer of rank `r` of job `j` is still open. -/
def moveOpen (s : State) (j r : Nat) : Bool := s.mem.moves.any fun b => b.job = j && b.rank = r

end Sys2Proof.Machine
end

