-- ==== Sys2Proof/Machine/Engine.lean ====
section
/-! DEFINITION. The station scheduler, work records, issue and retirement of tile operations, stages, and the end of
entries (spec/02 R36, R39, R51; spec/12 R297, R312; spec/14 R341 to R345). -/

namespace Sys2Proof.Machine

/-- A tile operation that may issue: job, home member, node, physical Pod whose station runs it, the work's rank and
task, its tile index, whether it begins the work, and the slots the work reads and writes. -/
structure Cand where
  j : Nat
  h : Nat
  n : Nat
  p : Nat
  rank : Nat
  task : Nat
  tile : Nat
  fresh : Bool
  ins : List (Nat × Nat)
  outs : List (Nat × Nat)
  deriving DecidableEq, Repr

/-- The route of a candidate. -/
def Cand.route (c : Cand) (s : State) : Route := (job s c.j).route
/-- The node of a candidate. -/
def Cand.node (c : Cand) (s : State) : Node := nodeOf s c.j c.n
/-- The parameter block of a candidate's node. -/
def Cand.block (c : Cand) (s : State) : List Byte := nodeBlock (c.route s) (c.node s)
/-- The entry that a candidate serves. -/
def Cand.entry (c : Cand) (s : State) : Option Entry := entryRank s c.j c.rank
/-- Physical Pod of the home member. -/
def Cand.home (c : Cand) (s : State) : Nat := (memberPod s c.j c.h).getD 127

/-- The slot of input or output edge `e` that a candidate holds. -/
def slotIn (c : Cand) (e : Nat) : Nat := ((c.ins ++ c.outs).find? fun x => x.1 = c.h * 4096 + e).map (·.2) |>.getD 0

/-- The full slot of edge `e` on member `h` that serves rank `r`, with band `b`. -/
def fullSlot (s : State) (j h e r b : Nat) : Option Nat :=
  ((edgeAt s j h e).fills.find? fun f => f.2.rank = r ∧ f.2.band = b ∧ slotFull s j h e f.1).map (·.1)

/-- A `MATRIX` node that hands finished accumulator groups to its `VECTOR` node (`ACC_OUT` 1, R226). -/
def accOut (r : Route) (x : Node) : Bool := x.kind = 5 && fieldLe (nodeBlock r x) 5 1 = 1

/-- A `VECTOR` node that takes accumulator tiles (`ACC_IN` 1, R226). -/
def accIn (r : Route) (x : Node) : Bool := x.kind = 6 && fieldLe (nodeBlock r x) 3 1 = 1

/-- Whether edge `e` of a route carries source bytes from `INGEST` to `DECODE` (R25). -/
def sourceEdge (r : Route) (e : Nat) : Bool :=
  (r.edges[e]?).any fun x => (r.nodes[x.producer]?).any (·.kind = 0) && (r.nodes[x.consumer]?).any (·.kind = 1)

/-- Whether the producer of edge `e` hands over parts of a record: source bytes, bands (a `DECODE` node) or groups (`ACC_OUT`
1). -/
def bandEdge (s : State) (j e : Nat) : Bool :=
  let x := nodeOf s j (edgeOf s j e).producer
  x.kind = 1 || accOut (job s j).route x || sourceEdge (job s j).route e

/-- Whether the members' own node takes the slots of edge `e`: no outbound half stands for it (spec/13 R324). -/
def consumesHere (s : State) (j h e : Nat) : Bool := (halfOn s j h e true).isNone

/-- Nodes that an edge leads to from the nodes of `l`, once. An edge with an outbound half leads nowhere here. -/
def stepNodes (s : State) (j h : Nat) (l : List Nat) : List Nat :=
  let r := (job s j).route
  (List.range r.edges.length).foldl (fun a e =>
    let x := edgeOf s j e
    if a.contains x.producer && consumesHere s j h e then nins a x.consumer else a) l

/-- Whether an inbound half fills edge `e` of member `h` (spec/13 R325). -/
def fedEdge (s : State) (j h e : Nat) : Bool := (halfOn s j h e false).isSome

/-- Nodes that an entry of opcode `op` passes on member `h`: those reachable from its `INGEST` node, from the nodes
without inputs and from fed edges. `FURLONG` nodes serve releases, not entries, and a node whose outputs are fed does
not run. -/
def entryNodes (s : State) (j h op : Nat) : List Nat :=
  let r := (job s j).route
  let on (n : Nat) : Bool :=
    let x := nodeOf s j n
    !(x.kind = 8 && x.opcode = 1) && !((outEdges x).any (fedEdge s j h))
  let roots := (List.range r.nodes.length).filter fun n =>
    let x := nodeOf s j n
    (x.inCount = 0 && (x.kind ≠ 0 || x.opcode = op)) || (inEdges x).any (fedEdge s j h)
  ((List.range r.nodes.length).foldl (fun a _ => stepNodes s j h (a.filter on)) roots).filter on

/-- The input edges of a node on which an entry of opcode `op` arrives. -/
def liveIns (s : State) (j h op : Nat) (x : Node) : List Nat :=
  let on := entryNodes s j h op
  (inEdges x).filter fun e => fedEdge s j h e || on.contains (edgeOf s j e).producer

/-- The input slots of a new work of rank `r` and opcode `op`: one full slot of every input edge on which its entry
arrives, or of a band edge its first. -/
def inputSlots (s : State) (j h op : Nat) (x : Node) (r : Nat) : Option (List (Nat × Nat)) :=
  (liveIns s j h op x).foldl (fun a e => match a with
    | none => none
    | some l =>
      if consumesHere s j h e = false then none
      else match fullSlot s j h e r 0 with
        | none => none
        | some k => some (if bandEdge s j e then l else l ++ [(h * 4096 + e, k)])) (some [])

/-- Whether a node takes its output slots per operation: `INGEST` with a `DECODE` node behind it, `DECODE` (bands), `MULTICAST`
(receivers), `TOKENISE` (groups) and `MATRIX` with `ACC_OUT` 1. -/
def ownOutputs (r : Route) (x : Node) : Bool :=
  (x.kind = 0 && (outEdges x).any (sourceEdge r)) || x.kind = 1 || (x.kind = 9 && x.opcode = 4) || (x.kind = 4 && x.opcode = 0x10) || accOut r x

/-- The output slots of a new work: the next slot of every output edge, if all are empty (R39, R297). -/
def outputSlots (s : State) (j h : Nat) (x : Node) : Option (List (Nat × Nat)) :=
  if ownOutputs (job s j).route x then some []
  else (outEdges x).foldl (fun a e => match a with
    | none => none
    | some l =>
      let k := (edgeAt s j h e).prodNext
      if slotEmpty s j h e k && (halfOn s j h e false).isNone then some (l ++ [(h * 4096 + e, k)]) else none) (some [])

/-- Whether entry `e` passes node `x`: an `INGEST` node takes the entries of its opcode (spec/03 Table 3-2). -/
def entryOn (x : Node) (e : Entry) : Bool := x.kind ≠ 0 || x.opcode = e.opcode

/-- Whether the entry of rank `r` is at work; an `END_STREAM` waits with the token record it completed (spec/08 R199). -/
def atWork (s : State) (j r : Nat) : Bool := (entryRank s j r).any fun e => e.st = .running || (e.opcode = 3 && e.st = .waiting)

/-- The opcode whose nodes an entry's task passes: an `END_STREAM` goes the way of its stream's frames. -/
def Entry.path (e : Entry) : Nat := if e.opcode = 3 then 2 else e.opcode

/-- Tasks in flight on their home member `h`: begun at a node and not complete. -/
def tasksBegun (s : State) (j h : Nat) : List Nat :=
  let b := job s j
  let here (r : Nat) : Bool := b.nodes.any (fun x => x.1 / 1024 = h && x.2.works.any fun w => w.rank = r) ||
    b.edges.any (fun x => x.1 / 4096 = h && x.2.fills.any fun f => f.2.rank = r) ||
    s.ops.any fun o => o.job = j && o.rank = r
  (s.entries.filter fun e => e.job = j ∧ e.member = h ∧ e.st ≠ .done ∧ [1, 2, 4].contains e.opcode ∧
    (!e.sinks.isEmpty || here e.rank)).foldl (fun a e => nins a e.task) []

/-- Whether task `t` may issue on its home member `h`: at most `MAX_TASKS` tasks are in flight there (R52). -/
def mayBegin (s : State) (j h t : Nat) : Bool :=
  let l := tasksBegun s j h
  l.contains t || decide (l.length < (job s j).route.maxTasks)

/-- Ranks that node `n` on member `h` may begin: those in its input edges, or for a node without inputs the entries homed
on the member. -/
def newRanks (s : State) (j h n : Nat) : List Nat :=
  let x := nodeOf s j n
  let t := nodeAt s j h n
  let open' (r : Nat) : Bool := !(t.works.any fun w => w.rank = r) && !opInFlight s j h n r
  match inEdges x with
  | [] => sortBy (((s.entries.filter fun e => e.job = j ∧ e.member = h ∧ e.st = .running ∧ !e.sinks.contains n ∧ open' e.rank ∧
      entryOn x e ∧ mayBegin s j h e.task).map (·.rank))) fun a b => decide (a ≤ b)
  | es => (es.flatMap fun e => (edgeAt s j h e).fills.map (·.2.rank)).dedup.filter fun r => open' r && atWork s j r

/-- The candidates of node `n` for tasks homed on member `h`, run by Pod `p`: works begun, then new work. -/
def nodeCands (s : State) (p j h n : Nat) : List Cand :=
  let x := nodeOf s j n
  let begun := ((nodeAt s j h n).works.filter fun w => atWork s j w.rank).map fun w =>
    (⟨j, h, n, p, w.rank, w.task, w.tile, false, w.ins, w.outs⟩ : Cand)
  let fresh := (newRanks s j h n).filterMap fun r =>
    match entryRank s j r with
    | none => none
    | some e =>
      match inputSlots s j h e.path x r, outputSlots s j h x with
      | some i, some o => some (⟨j, h, n, p, r, e.task, 0, true, i, o⟩ : Cand)
      | _, _ => none
  begun ++ fresh

/-- Home members whose tasks node `x` may run on member `m` of `q` members (R36). -/
def spanHomes (x : Node) (m q : Nat) : List Nat :=
  (List.range (min (spanWidth x) (max 1 q))).map fun d => (m + q - d) % max 1 q

/-- The node whose span decides where node `x` runs: a `VECTOR` node with `ACC_IN` 1 follows its `MATRIX` node (R226). -/
def spanNode (r : Route) (x : Node) : Node :=
  if accIn r x then (r.edges[x.inFirst]?.bind fun e => r.nodes[e.producer]?).getD x else x

/-- Whether the stations of Pod `p` issue: it is bound to a bound job, and the block executes (Tables 2-10, 17-1). -/
def podIssues (s : State) (p : Nat) : Bool :=
  let q := podAt s p
  q.st = .bound && working s && !q.droop

/-- The order of the ready set: lowest task, then node, then tile; the entries of one stream's task count their tiles on, in
fetch order (R51, R67). -/
def candBefore (a c : Cand) : Bool :=
  decide (a.task < c.task ∨ (a.task = c.task ∧ (a.n < c.n ∨ (a.n = c.n ∧ (a.rank < c.rank ∨ (a.rank = c.rank ∧ a.tile ≤ c.tile))))))

/-- Whether Pod `p` issues and has a tile-operation slot: it has 1,024, and the operations of a paused transfer hold none (R51,
R283). -/
def podReady (s : State) (p : Nat) : Bool :=
  podIssues s p && decide ((s.ops.filter fun o => o.pod = p &&
    !(o.xfer.any fun n => (xferNum s n).any fun x => x.state ≠ 1)).length < 1024)

/-- The ready set of the stations of kind `k` on Pod `p`, in issue order (R51). -/
def candidates (s : State) (p k : Nat) : List Cand :=
  if podReady s p = false then []
  else
    let q := podAt s p
    let b := job s q.job
    let all := (List.range b.route.nodes.length).flatMap fun n =>
      let x := nodeOf s q.job n
      if x.kind = k then (spanHomes (spanNode b.route x) q.member b.members.length).flatMap fun h => nodeCands s p q.job h n else []
    sortBy all candBefore

/-- Runs the first candidate that can issue; with none the state is unchanged. -/
def tryAll (s : State) (f : State → Cand → Option State) : List Cand → State
  | [] => s
  | c :: cs => match f s c with
    | some t => t
    | none => tryAll s f cs

/-- One issue of a station of kind `k` on Pod `p`. -/
def runStation (s : State) (p k : Nat) (f : State → Cand → Option State) : State := tryAll s f (candidates s p k)

/-! ## Issue -/

/-- Takes the output slots of a work that begins (R297 step 1). -/
def beginWork (s : State) (c : Cand) : State :=
  c.outs.foldl (fun s o =>
    let e := o.1 % 4096
    let m := o.1 / 4096
    let s := takeEmpty s c.j m e o.2
    modEdge s c.j m e fun t => { t with prodNext := if o.2 + 1 < (edgeOf s c.j e).depth then o.2 + 1 else 0 }) s

/-- The operation that a candidate becomes. -/
def candOp (s : State) (c : Cand) (last : Bool) : TileOp where
  id := s.nextOp
  pod := c.p
  job := c.j
  member := c.h
  node := c.n
  kind := (c.node s).kind
  opcode := (c.node s).opcode
  rank := c.rank
  task := c.task
  tile := c.tile
  lines := []
  awaiting := 0
  ins := if last then c.ins else []
  outs := if last then c.outs else []
  fills := []
  last := last
  xfer := none
  dropped := []
  sent := []
  got := []
  gotPois := []
  after := []
  excluded := 0
  failing := none

/-- Advances the work of a candidate past the issued tile; the last tile ends the record. -/
def advanceWork (s : State) (c : Cand) (total : Nat) : State :=
  let last := decide (c.tile + 1 ≥ total)
  modNode s c.j c.h c.n fun t =>
    let rest := t.works.filter fun w => w.rank ≠ c.rank
    { t with works := if last then rest else
        sortBy (rest ++ [(⟨c.rank, c.task, c.tile + 1, total, c.ins, c.outs⟩ : Work)]) fun (a b : Work) => decide (a.task ≤ b.task) }

/-- Issues the next tile operation of a candidate's work, `total` operations long; `f` completes the record. A copy of
the Pod is abandoned (R353). -/
def issue (s : State) (c : Cand) (total : Nat) (f : TileOp → TileOp) : State :=
  let o := f (candOp s c (decide (c.tile + 1 ≥ total)))
  let s := if s.itg.rollPhase = 3 ∧ s.itg.rollPod = c.p then abandonSwap s else s
  let s := if c.fresh then beginWork s c else s
  let s := advanceWork s c total
  { s with ops := s.ops ++ [o], nextOp := s.nextOp + 1 }

/-- The line key of line `l` of slot `x` of the edge that half `h` serves. -/
def halfLine (s : State) (h : Half) (x l : Nat) : Nat :=
  lkey ((memberPod s h.job h.member).getD 127) (slotAddr (edgeOf s h.job h.edge) x / 64 + l)

/-- The slot and line of half `h` that line key `k` is, if any. -/
def halfSpot (s : State) (h : Half) (k : Nat) : Option (Nat × Nat) :=
  let base := (edgeOf s h.job h.edge).bufLocal * 64
  let o := k % 98304 - base
  if memberPod s h.job h.member = some (k / 98304) ∧ base ≤ k % 98304 ∧ o < h.depth * h.lines then some (o / h.lines, o % h.lines)
  else none

/-- Producer writes of lines `ls` are performed: couriers may forward them, and a line written again is sent again (spec/13
R324). -/
def forgetSent (s : State) (ls : List Nat) : State :=
  (halves s).foldl (fun s x =>
    if x.2.1 < 4 then
      let l := ls.filterMap (halfSpot s x.2.2)
      modHalf s x.1 x.2.1 fun h => { h with
        sent := h.sent.filter fun e => !l.contains e, wrote := h.wrote ++ l.filter fun e => !h.wrote.contains e }
    else s) s

/-- Issues an operation whose outputs are the bytes `ws`: they lie provisional in Marrow until the verdict (R265); `f` completes
its record. -/
def issueWrites (s : State) (c : Cand) (total : Nat) (ws : List WByte) (pois : List Nat) (f : TileOp → TileOp := id) : State :=
  let ls := wLines ws
  let o := candOp s c false
  forgetSent (setProv (issue (writeAll s ws pois (some o)) c total fun o => { f o with lines := ls }) ls true) ls

/-- A tile operation consumed `n` poisoned lines (R345): its outputs are written poisoned, it retires, and its job
ends with the consumed entries `POISONED`. -/
def consume (s : State) (c : Cand) (ws : List WByte) (n : Nat) : State :=
  let s := bump (writeAll s ws (wLines ws) (some (candOp s c false))) (podPage c.p) 11 n
  failJob s c.j 0x4042 stAborted [c.rank]

/-- The common end of a computing operation: it waits on a provisional line, consumes poison, or issues. -/
def finishOp (r : Rd) (c : Cand) (total : Nat) (ws : List WByte) : Option State :=
  if r.hit then none
  else if r.pois then some (consume r.st c ws r.lines)
  else some (issueWrites r.st c total ws [])

/-! ## Ends of entries and stages -/

/-- Whether every node of its task has retired for an entry. -/
def entryDone (s : State) (e : Entry) : Bool := (entryNodes s e.job e.member e.opcode).all fun n => e.sinks.contains n

/-- Whether member `m` has done its part of the digests due at `FURLONG` node `n`; with `HOLD`, whether the last of them
has passed its comparison (R360, R361). -/
def furlongQuiet (s : State) (j n m : Nat) : Bool :=
  let r := (job s j).route
  let t := nodeAt s j m n
  let g := nodeParam r n 0 1
  if bitN (nodeParam r n 1 1) 0 then t.digDue = 0 && !((groupAt s g).pending.any fun d => d.1 = j)
  else t.digDue = 0 || (t.digDue = 1 && (t.done || (memberGranules r n (job s j).members.length m).isEmpty))

/-- Whether node `n` on member `m` has retired every tile operation of stages up to `x` that it runs (R312). -/
def stageRetired (s : State) (j m n x : Nat) : Bool :=
  let b := job s j
  let y := nodeOf s j n
  if y.kind = 8 ∧ y.opcode = 1 then furlongQuiet s j n m
  else (spanHomes (spanNode b.route y) m b.members.length).all fun h => s.entries.all fun e =>
    !(e.job = j && e.member = h && decide (e.stage ≤ x) && decide (e.st ≠ .done) && [1, 2, 4].contains e.opcode) ||
      e.sinks.contains n || !(entryNodes s j h e.opcode).contains n

/-- Whether node `n` meets both conditions of R312 on member `m` for gate `k` and stage `x`; a producer that names another gate
finishes at that gate's release. `f` bounds the depth of the route. -/
def stageMet (s : State) (j m k x : Nat) : Nat → Nat → Bool
  | 0, _ => true
  | f + 1, n => stageRetired s j m n x && (inEdges (nodeOf s j n)).all fun e =>
    let p := (edgeOf s j e).producer
    let g := (nodeOf s j p).tollgate
    fedEdge s j m e ||
      (if g = k ∨ g = 0xFFFF then stageMet s j m k x f p
       else match (job s j).gates[g]? with
        | some b => decide (x < (gateAt s b).count)
        | none => true)

/-- Whether member `m` has finished its part of stage `x` at the nodes that name gate `k` (R312). -/
def memberFinished (s : State) (j m k x : Nat) : Bool :=
  let b := job s j
  decide (x < b.stage) && (List.range b.route.nodes.length).all fun n =>
    (nodeOf s j n).tollgate ≠ k || stageMet s j m k x b.route.nodes.length n

/-- Members arrive at the gates of job `j` whose stage they have finished (R312). -/
def arrivals (s : State) (j : Nat) : State :=
  let b := job s j
  if b.st = .bound ∨ b.st = .draining then
    b.gates.foldl (fun s g => (List.range b.members.length).foldl (fun s m =>
      let x := gateAt s g
      if !x.members.contains m && memberFinished s j m x.index x.count then gateArriveMember s g m else s) s) s
  else s

/-- TOLLGATE_RELEASE (R314). Arrivals that a comparison has just allowed are counted first (R361), and after the release the
members that find their next stage done arrive for it (Table 12-6). -/
def releaseGate (s : State) (b : Nat) : State :=
  let j := (gateAt s b).job
  if portLive s then arrivals (doRelease (arrivals s j) b) j else doRelease s b

/-- The meaning of TOLLGATE_RELEASE. -/
def execTollgateRelease (gate : BitVec 8) (s : State) : Host.Outcome State Fault Refusal := .next (releaseGate s gate.toNat)

/-! ## Packing order -/

/-- The `PACK` node of a job and its index. -/
def jobPack (s : State) (j : Nat) : Option (Nat × Node) :=
  (packNode (job s j).route).map fun n => (n, nodeOf s j n)

/-- The `TOKENISE` node whose records reach the `PACK` node of job `j` (R197). -/
def packFeed (s : State) (j : Nat) : Option Nat :=
  (jobPack s j).map fun x => (edgeOf s j x.2.inFirst).producer

/-- Pictures of stream `t` in the open tubelet group of the `TOKENISE` node that feeds `PACK` on member `m`. -/
def openGroup (s : State) (j m t : Nat) : List Nat :=
  match packFeed s j with
  | some n => (nodeAt s j m n).group.filter fun r => (entryRank s j r).any fun e => e.opcode = 2 ∧ e.body.stream.toNat = t
  | none => []

/-- Whether entry `e` still holds a place among the packing units of its ring that is neither placed, removed nor
passed over (R205). An `END_STREAM` is passed over once every earlier picture of its stream is in a group and no group
is part-filled. -/
def unitOpen (s : State) (e : Entry) : Bool :=
  let a := (sqAt s e.sq).asm
  let taken (x : Entry) : Bool := a.placed.contains x.rank || a.removed.contains x.rank
  match packFeed s e.job with
  | none => false
  | some k =>
    if e.st = .done ∨ taken e ∨ !(entryNodes s e.job e.member (if e.opcode = 3 then 2 else e.opcode)).contains k then false
    else if e.opcode = 3 then
      endAtWork s e || !(openGroup s e.job e.member e.body.stream.toNat).isEmpty ||
        s.entries.any fun x => x.job = e.job ∧ x.opcode = 2 ∧ x.body.stream = e.body.stream ∧ x.rank < e.rank ∧
          x.st ≠ .done ∧ !taken x
    else e.opcode = 1 || e.opcode = 2

/-- Removes the packing unit of rank `r` of ring `n` (R211). -/
def removeUnit (s : State) (n r : Nat) : State :=
  modSq s n fun q => { q with asm := { q.asm with removed := nins q.asm.removed r } }

/-! ## Strict stops -/

/-- Whether corruption was found in an entry of ring `n` that is not yet reported or resumed (R81). -/
def stopPending (s : State) (n : Nat) : Bool := s.entries.any fun e => e.sq = n && e.st = .stopped

/-- Whether entry `e` may still be found corrupt: its decode-stage work is not done (R81 step 2). -/
def decodePending (s : State) (e : Entry) : Bool :=
  (e.opcode = 1 || e.opcode = 2) && decide (e.st ≠ .done) &&
    (entryNodes s e.job e.member e.opcode).any fun n => (nodeOf s e.job n).kind = 1 && !e.sinks.contains n

/-- The stop is reported once every earlier entry has passed its decode-stage work and the batch under assembly holds
exactly the units before the stop entry (R81 steps 3 and 4, R211). The completion takes an unreserved slot (log 57). -/
def stopSettle (s : State) (n : Nat) : State :=
  match s.entries.find? fun e => e.sq = n && e.st = .stopped with
  | none => s
  | some e =>
    if (sqAt s n).st ≠ .active ∨
        s.entries.any (fun x => x.sq = n && decide (x.rank < e.rank) && (decodePending s x || unitOpen s x)) then s
    else
      let b := if (packNode (job s e.job).route).isSome then (sqAt s n).asm.openB.number else 0xFFFFFFFF
      let s := addDue s { sq := n, slot := e.slot, tag := e.body.tag.toNat, status := stCorrupt, final := false,
                          detail := e.stopKind, count := e.stopOfs, info := 2 ^ 32 * b, reserved := false, irqNow := false,
                          xfer := none }
      bump32 (arbSettle (modSq s n fun q => { q with st := .stopped, stopSlot := e.slot })) (sqPage n) (0x208 + 16 * (n % 16))

/-- Corruption of kind `k` at byte `o` is found in entry `e` of a STRICT ring: later entries are suspended, a later stop
point and waiting `MILEPOST` and `END_STREAM` entries among them, and `e` becomes the stop point (R81, R119). -/
def stopEntry (s : State) (e : Entry) (k o : Nat) : State :=
  let later (x : Entry) : Bool := x.sq = e.sq && decide (e.rank < x.rank) &&
    (x.st = .running || x.st = .stopped || (x.st = .waiting && (x.opcode = 3 || x.opcode = 6)))
  let s := modMps s fun b => { b with waiters := b.waiters.filter fun w => match w.src with
    | .ring n slot => !((entryAt s n slot).any later)
    | _ => true }
  let s := { s with entries := s.entries.map fun x => if later x then { x with st := .suspended } else x }
  let s := modEntry s e.sq e.slot fun x => { x with st := .stopped, stopKind := k, stopOfs := o }
  stopSettle s e.sq

/-- Node `n` has retired its last operation for an entry; a stop that waited for it is reported (R81). -/
def nodeRetired (s : State) (j n r : Nat) : State :=
  match entryRank s j r with
  | some e => stopSettle (modEntry s e.sq e.slot fun y => { y with sinks := nins y.sinks n }) e.sq
  | none => s

/-! ## Retirement -/

/-- What an operation hands over and releases when it retires with a passed verdict (R297): the Pod that ran it is the source,
or for a tile that a dropped receiver fetches the receiver's (R281, R308). A set of `TRANSFER` sends the requests held before it
(R275). -/
def handOver (s : State) (o : TileOp) (outs : List (Nat × Nat)) (ins : List (Nat × Nat)) : State :=
  let member (k : Nat) : Nat := if o.pod = 127 then (job s o.job).members.getD (k / 4096) 0 else (podAt s o.pod).logical
  let s := if o.kind = 9 ∧ outs ≠ [] then endHolds s fun r => r.pod = o.pod else s
  let s := outs.foldl (fun s x =>
    let f := match o.fills.find? fun f => f.1 = x.1 ∧ f.2.1 = x.2 with
      | some f => f.2.2
      | none => ⟨o.rank, o.task, 0, true, ((entryRank s o.job o.rank).map (·.stage)).getD 0, none⟩
    announce s o.job (x.1 / 4096) (x.1 % 4096) x.2 f (.pod (member x.1) o.kind)) s
  ins.foldl (fun s x => releaseSlot s o.job (x.1 / 4096) (x.1 % 4096) x.2 (.pod (member x.1) o.kind)) s

/-- Removes operation `i`. -/
def dropOp (s : State) (i : Nat) : State :=
  let n := (opAt s i).bind (·.xfer)
  let s := { s with ops := s.ops.filter fun o => o.id ≠ i }
  match n with
  | some k => releaseXfer s k
  | none => s

/-- The slots of a discarded operation read empty. -/
def discardOp (s : State) (o : TileOp) : State :=
  (o.outs ++ o.ins).foldl (fun s x => discardSlot s o.job (x.1 / 4096) (x.1 % 4096) x.2) (dropOp s o.id)

/-- The record of operation `o` at its node. -/
def recordAt (s : State) (o : TileOp) : Option DecodeJob :=
  s.decodes.find? fun d => d.job = o.job ∧ d.member = o.member ∧ d.node = o.node ∧ d.rank = o.rank

/-- Changes the record of operation `o`. -/
def modRecord (s : State) (o : TileOp) (f : DecodeJob → DecodeJob) : State :=
  { s with decodes := s.decodes.map fun d =>
      if d.job = o.job ∧ d.member = o.member ∧ d.node = o.node ∧ d.rank = o.rank then f d else d }

/-- The bands that a `DECODE` operation ended are announced; the last of them completes the pictures of the entry (R110). -/
def bandsDone (s : State) (o : TileOp) : State :=
  modRecord s o fun d =>
    let l := d.announced ++ ((d.plan[o.tile]?).map fun x => x.ends.map fun b => (x.pic, b)).getD []
    { d with announced := l, whole := d.works.zipIdx.all fun w => (List.range w.1.bands.length).all fun b => l.contains (w.2, b) }

/-- A picture is decoded and in its buffer: counters, and the cache entry it fills (spec/04 R126, R129). -/
def pictureDone (s : State) (d : DecodeJob) : State :=
  let s := bump (if d.shown.isSome then bump s 8 0 else s) 8 1 (d.works.map (·.pic.concealed)).sum
  let s : State := match d.slot, d.cached with
    | some z, false =>
      if d.pic.concealed = 0 ∧ d.poisoned = false then
        { s with cache := s.cache ++ [(⟨z, d.pic.stream, d.pic.frameNo, d.pic.srcHash, d.job, (nodeOf s d.job d.node).opcode,
          s.time, { d.pic with pflags := d.pic.pflags / 4 * 4 }⟩ : CacheEnt)] }
      else s
    | _, _ => s
  { s with decodes := s.decodes.map fun x =>
      if x.job = d.job ∧ x.member = d.member ∧ x.node = d.node ∧ x.rank = d.rank then { x with plan := [], slot := none } else x }

/-- Ends the pictures of rank `r` of job `j` whose bands are announced and whose buffers are written. -/
def picturesEnd (s : State) (j r : Nat) : State :=
  if moveOpen s j r then s
  else (s.decodes.filter fun d => d.job = j ∧ d.rank = r ∧ d.whole ∧ d.works ≠ [] ∧ d.plan ≠ []).foldl pictureDone s

/-- Buffers that the pool has granted to user `u`. -/
def gotBuffers (s : State) (u : PoolUser) : List Nat := (s.mem.poolGot.filter fun x => x.1 = u).map (·.2)

/-- Takes the first `n` granted buffers. -/
def takeBuffers (s : State) (n : Nat) (u : PoolUser) : State :=
  let l := (gotBuffers s u).take n
  modMem s fun m => { m with poolGot := m.poolGot.filter fun x => !(x.1 = u && l.contains x.2) }

/-- The motion reference that a verified field becomes, and the write of its buffer; a repeated picture changes nothing, and a
`SAMPLE` or a picture too deep to store leaves none (spec/05 R134, R135). -/
def installField (s : State) (o : TileOp) : State :=
  match recordAt s o, entryRank s o.job o.rank with
  | some d, some e =>
    let k := e.body.stream.toNat
    let next (t : Stream) : Stream := match d.next with
      | some m => { t with mref := some m, sampled := false }
      | none => if bitN d.pic.pflags 4 && e.opcode = 2 then t else { t with sampled := true }
    let s := if d.next.isSome && (sget? s.streams k).any fun t => t.mref.isNone then takeBuffers s 1 (.motion k) else s
    let s : State := { s with streams := s.streams.map fun t =>
      if t.1 = k ∧ t.2.job = o.job ∧ (e.opcode = 1 ∨ t.2.task = e.task) then (t.1, next t.2) else t }
    startMove s o.job (podAt s o.pod).member o.node o.rank o.after .write []
  | _, _ => s

/-- Whether a record of which every part is verified before it is announced has lost an operation (spec/05 R143, spec/06
R165). -/
def recordFailed (s : State) (o : TileOp) : Bool :=
  (o.kind = 2 || o.kind = 3) && (nodeAt s o.job o.member o.node).failed.contains o.rank

/-- The end of the work of operation `o` on its entry. -/
def endRecord (s : State) (o : TileOp) (outs ins : List (Nat × Nat)) : State :=
  if recordFailed s o then handOver s o [] ins
  else
    let s := handOver s o outs ins
    if o.last = false then s
    else
      let s := if o.kind = 2 then installField s o else s
      nodeRetired (picturesEnd s o.job o.rank) o.job o.node o.rank

/-- Whether operation `q` belongs to the work of operation `o`. -/
def sameWork (o q : TileOp) : Bool := q.job = o.job && q.member = o.member && q.node = o.node && q.rank = o.rank

/-- The tiles of a multicast that dropped receivers fetch stand on record without a Pod. Once the multicast has issued every
tile, a receiver that holds all of them takes its slot over, and after the last receiver the source slot is released (R281). -/
def settleCast (s : State) (o : TileOp) : State :=
  let mine := s.ops.filter fun q => sameWork o q
  if ((nodeAt s o.job o.member o.node).works.any fun w => w.rank = o.rank) || mine.any fun q => q.pod ≠ 127 then s
  else
    let waits (m : Nat) : Bool := mine.any fun q => q.dropped.contains m
    let s := mine.foldl (fun s q =>
      let done := q.outs.filter fun x => !waits (x.1 / 4096)
      modOp (handOver s q done []) q.id fun q => { q with outs := q.outs.filter fun x => !done.contains x }) s
    if mine.any fun q => !q.dropped.isEmpty then s
    else mine.foldl (fun s q => dropOp (handOver s q [] q.ins) q.id) s

/-- Retires operation `o` of a live task: band slots change hands at once, and what ends the work waits for every
operation of the work in flight. The source slot of a multicast waits for the dropped receivers (R281). -/
def retire (s : State) (o : TileOp) : State :=
  let s := dropOp s o.id
  let s := if o.kind = 1 then bandsDone s o else s
  let s := if o.kind = 2 then s else startMove s o.job (podAt s o.pod).member o.node o.rank o.after .write []
  let bandIn := fun (x : Nat × Nat) => bandEdge s o.job (x.1 % 4096)
  let own := o.kind = 0 || o.kind = 1 || accOut (job s o.job).route (nodeOf s o.job o.node)
  let now := if own then o.outs else []
  let ins := o.ins.filter bandIn
  let s := handOver s o now ins
  let outs := if own then [] else o.outs
  let rest := o.ins.filter fun x => !bandIn x
  let s := if o.dropped.isEmpty then s
    else { s with ops := s.ops ++ [{ o with pod := 127, outs := [], ins := [], lines := [], awaiting := 0, last := false }] }
  match s.ops.find? fun q => q.pod ≠ 127 && sameWork o q with
  | some q =>
    modOp s q.id fun q => { q with outs := q.outs ++ outs, ins := q.ins ++ rest, fills := q.fills ++ o.fills,
                                   last := q.last || o.last, after := q.after ++ if o.kind = 2 then o.after else [] }
  | none => match s.ops.find? (sameWork o) with
    | some q => settleCast (endRecord (modOp s q.id fun q => { q with ins := q.ins ++ rest }) o outs []) o
    | none => endRecord s o outs rest

end Sys2Proof.Machine
end

