-- ==== Sys2Proof/Machine/Elems.lean ====
section
/-! DEFINITION. Elements of tensors in Marrow and in host bytes: reading, writing, scales, and the segments of a
transfer (spec/07 R171, R173 to R175, R187; spec/11 R277). -/

namespace Sys2Proof.Machine

/-- The byte key of byte `a` of the space of descriptor `d` for a candidate. -/
def placeKey (s : State) (c : Cand) (d : Desc) (a : Nat) : Option Nat :=
  (spacePlace s c.j c.h (slotIn c d.edge) d a).map fun q => mkey q.1 q.2

/-- Bytes of an element of width `w` bits at bit address `b`, as byte addresses. -/
def elemBytes (w b : Nat) : List Nat := (List.range (max 1 (w / 8))).map (b / 8 + ·)

/-- The value of an element of width `w` at bit address `b`, from its bytes. -/
def elemVal (w b : Nat) (bs : List Byte) : Nat :=
  if w = 4 then ((bs.getD 0 0).toNat >>> (b % 8)) % 16 else leNat bs

/-- The bytes that writing value `v` at bit address `b` changes: address, byte and bits. -/
def elemPut (w b v : Nat) : List (Nat × Byte × Byte) :=
  if w = 4 then [(b / 8, BitVec.ofNat 8 (v % 16 * 2 ^ (b % 8)), BitVec.ofNat 8 (15 * 2 ^ (b % 8)))]
  else (leBytes (w / 8) v).zipIdx.map fun x => (b / 8 + x.2, x.1, 0xFF)

/-- An index as integers. -/
def toInts (i : List Nat) : List Int := i.map Int.ofNat

/-- Byte keys of element `i` of descriptor `d`. -/
def elemKeys (s : State) (c : Cand) (d : Desc) (i : List Nat) : List Nat :=
  (elemBytes (dtBits d.dtype) (d.bitAddr (toInts i))).filterMap (placeKey s c d)

/-- Checks the lines of byte keys, each once, in ascending order (R263). -/
def Rd.keys (r : Rd) (o : Option TileOp) (ks : List Nat) : Rd :=
  (ks.foldl (fun a k => nins a (k / 64)) []).foldl (fun r l => r.line o (l / 98304) (l % 98304)) r

/-- A byte that has been checked. -/
def rdByte (s : State) (k : Nat) : Byte := lineByte s.marrow (k / 64) (k % 64)

/-- What a station that issues no memory requests reads at bit address `b` of an entry's source or destination: a free value, for
R282 lists no transfer that would fetch it (log 20). -/
def hostSide (s : State) (c : Cand) (d : Desc) (b w : Nat) : Nat := Config.unstated 22 [s.free, c.rank, d.space, b] % 2 ^ w

/-- The value of element `i` of `d`, its lines checked before. -/
def elemAt (s : State) (c : Cand) (d : Desc) (i : List Nat) : Nat :=
  let b := d.bitAddr (toInts i)
  if d.space = 1 ∨ d.space = 2 then hostSide s c d b (dtBits d.dtype)
  else elemVal (dtBits d.dtype) b ((elemKeys s c d i).map (rdByte s))

/-- The key of the scale of element `i`. -/
def scaleKey (s : State) (c : Cand) (d : Desc) (i : List Nat) : List Nat :=
  if d.scaled then (placeKey s c d (d.scaleAddr i)).toList else []

/-- The scale byte of element `i`, its line checked before; 127 (2^0) for an unscaled descriptor (R173). -/
def scaleAt (s : State) (c : Cand) (d : Desc) (i : List Nat) : Nat :=
  if d.scaled ∧ (d.space = 1 ∨ d.space = 2) then hostSide s c d (8 * d.scaleAddr i) 8
  else match scaleKey s c d i with
    | k :: _ => (rdByte s k).toNat
    | [] => 127

/-- Checks the lines of elements and their scales. -/
def Rd.elems (r : Rd) (o : Option TileOp) (c : Cand) (d : Desc) (is : List (List Nat)) : Rd :=
  r.keys o (is.flatMap fun i => elemKeys r.st c d i ++ scaleKey r.st c d i)

/-- The bytes of a write of value `v` to element `i`. -/
def putElem (s : State) (c : Cand) (d : Desc) (i : List Nat) (v : Nat) : List WByte :=
  (elemPut (dtBits d.dtype) (d.bitAddr (toInts i)) v).filterMap fun x =>
    (placeKey s c d x.1).map fun k => ⟨k, x.2.1, x.2.2⟩

/-- The byte of a write of a scale. -/
def putScale (s : State) (c : Cand) (d : Desc) (i : List Nat) (v : Nat) : List WByte :=
  (scaleKey s c d i).map fun k => ⟨k, BitVec.ofNat 8 v, 0xFF⟩

/-! ## Moving elements -/

/-- What one destination index receives: its writes, and whether they come from a poisoned line. -/
abbrev Moved := List WByte × Bool

/-- The destination lines that receive bytes from a poisoned line. -/
def badLines (ms : List Moved) : List Nat := wLines ((ms.filter (·.2)).flatMap (·.1))

/-- Whether a key lies in a poisoned line. -/
def keyPois (s : State) (k : Nat) : Bool := s.marrow.poison.contains (k / 64)

/-- The end of an operation that moves elements: it waits on provisional lines, consumes poison line by line (R192,
R277), or issues. -/
def finishMove (r : Rd) (c : Cand) (total : Nat) (ms : List Moved) (all : Bool) : Option State :=
  let ws := ms.flatMap (·.1)
  if r.hit then none
  else if r.pois then
    let bad := if all then wLines ws else badLines ms
    let s := bump (writeAll r.st ws bad (some (candOp r.st c false))) (podPage c.p) 11 r.lines
    some (failJob s c.j 0x4042 stAborted [c.rank])
  else some (issueWrites r.st c total ws [])

/-! ## Segments of a transfer -/

/-- The indices of run `k` of descriptor `d`, in run order. -/
def runIndices (d : Desc) (k : Nat) : List (List Nat) :=
  let rd := d.runDim
  let idx := ((List.range 8).foldl (fun (a : List Nat × Nat) q =>
    if q = rd then (a.1 ++ [0], a.2) else (a.1 ++ [a.2 % d.sz q], a.2 / d.sz q)) ([], k)).1
  (List.range (d.sz rd)).map fun t => idx.set rd t

/-- Runs of a descriptor. -/
def runCount (d : Desc) : Nat := (List.range d.rank).foldl (fun a k => if k = d.runDim then a else a * d.sz k) 1

/-- Cuts a run into segments at the 64-byte boundaries of its addresses (R277). -/
def cutRun (d : Desc) : List (List Nat) → List (List (List Nat))
  | [] => []
  | i :: is =>
    let line (x : List Nat) : Nat := d.bitAddr (toInts x) / 512
    match cutRun d is with
    | [] => [[i]]
    | g :: gs => match g.head? with
      | some h => if line h = line i then (i :: g) :: gs else [i] :: g :: gs
      | none => [i] :: gs

/-- The segments of a destination in transfer order (R187, R277). -/
def xferSegs (d : Desc) : List (List (List Nat)) := (List.range (runCount d)).flatMap fun k => cutRun d (runIndices d k)

/-- Tile operations of a transfer onto `d`: up to 64 segments each (R277). -/
def xferTiles (d : Desc) : Nat := ceilDiv (xferSegs d).length 64

/-- The elements that tile `t` moves. -/
def xferElems (d : Desc) (t : Nat) : List (List Nat) := (((xferSegs d).drop (64 * t)).take 64).flatten

/-- Elements whose scale moves with them: the first of each block (R276). -/
def blockHeads (d : Desc) (is : List (List Nat)) : List (List Nat) :=
  if d.scaled then is.filter fun i => i.getD d.blockDim 0 % 32 = 0 else []

/-- A 4-bit or 8-bit unit of host bytes: the read requests that cover byte addresses `ks`, one a 256-byte block. -/
def coverReqs (ks : List Nat) (xlat p x t i : Nat) : List MemReq :=
  let blocks := ks.foldl (fun a k => nins a (k / 256)) []
  blocks.map fun b =>
    let mine := ks.filter fun k => k / 256 = b
    let lo := mine.foldl min (256 * b + 255)
    let hi := mine.foldl max (256 * b)
    readReq lo (hi + 1 - lo) xlat 0 p (.transfer x t i 0)

/-- Host byte addresses of elements and block scales of `d` from base `a`. -/
def hostKeys (d : Desc) (a : Nat) (is : List (List Nat)) : List Nat :=
  is.flatMap (fun i => (elemBytes (dtBits d.dtype) (d.bitAddr (toInts i))).map (a + ·)) ++
    (blockHeads d is).map fun i => a + d.scaleAddr i

/-- The value of host element `i` among the bytes an operation received. -/
def hostElem (o : TileOp) (d : Desc) (a : Nat) (i : List Nat) : Nat :=
  let b := d.bitAddr (toInts i)
  elemVal (dtBits d.dtype) b ((elemBytes (dtBits d.dtype) b).map fun k => sgetD o.got (a + k) 0)

/-- Host bytes of a write of value `v` to element `i` of `d` at base `a`. -/
def hostPut (d : Desc) (a : Nat) (i : List Nat) (v : Nat) : List WByte :=
  (elemPut (dtBits d.dtype) (d.bitAddr (toInts i)) v).map fun x => ⟨a + x.1, x.2.1, x.2.2⟩

end Sys2Proof.Machine
end

