-- ==== Sys2Proof/Machine/RouteCheck.lean ====
section
/-! DEFINITION. The checks of a route image at `BIND` and `RESTORE` (spec/02 Table 2-5, R42, R43, R47) with the
node and descriptor checks of every station: DECODE (R97, R288), MOTION (R131), SHAPE (R147), LAYOUT (R179 to R194),
TOKENISE and PACK (R197 to R204), MATRIX and VECTOR (R221 to R231), SAMPLE (R254), DIGEST (R360), TRANSFER (R276). -/

namespace Sys2Proof.Machine

/-- The first failure of a list of checks: code, sub-reason, byte offset in the image. -/
abbrev Refused := Option (Nat × Nat × Nat)

/-- A check that must hold. -/
def need (ok : Bool) (code detail ofs : Nat) : Refused := if ok then none else some (code, detail, ofs)

/-- The first failure in a list. -/
def firstOf : List Refused → Refused
  | [] => none
  | r :: rs => match r with
    | some x => some x
    | none => firstOf rs

/-- Check 1 of Table 2-5: the header. -/
def checkHeader (r : Route) : Refused :=
  firstOf [need (r.magic = 0x45545242) 0x340 0 0, need (r.version = 1) 0x340 0 4, need (r.hdrSize = 64) 0x340 0 6,
    need (decide (1 ≤ r.podsMin ∧ r.podsMin ≤ 96)) 0x340 0 0x16,
    need (decide (r.podsMin ≤ r.podsMax ∧ r.podsMax ≤ 96)) 0x340 0 0x17, need (r.localMin ≤ 1536) 0x340 0 0x18,
    need (r.mpPer ≤ 2048) 0x340 0 0x1C, need (r.tollgates ≤ 256) 0x340 0 0x1E, need (r.accMax ≤ 8) 0x340 0 0x34,
    need (r.flags ≤ 1) 0x340 0 0x35, need (decide (1 ≤ r.maxTasks ∧ r.maxTasks ≤ 1024)) 0x340 0 0x36,
    need (r.rsv3c = 0) 0x340 0 0x3C]

/-- The areas of an image: header, tables and parameters, as offset and length. -/
def areas (r : Route) : List (Nat × Nat) :=
  [(0, 64), (r.nodeOfs, 32 * r.nodeCount), (r.edgeOfs, 16 * r.edgeCount), (r.descOfs, 128 * r.descCount),
   (r.paramOfs, r.paramSize)]

/-- Whether no two areas of a list overlap. -/
def apart : List (Nat × Nat) → Bool
  | [] => true
  | a :: as => as.all (fun b => decide (a.2 = 0 ∨ b.2 = 0 ∨ a.1 + a.2 ≤ b.1 ∨ b.1 + b.2 ≤ a.1)) && apart as

/-- Check 2 of Table 2-5: sizes, offsets, alignment and overlap; `rsv`: the last write of the route address set a
reserved bit (R44, R456). -/
def checkSize (r : Route) (rsv : Bool) : Refused :=
  let table (ofs len field : Nat) : Refused :=
    need (if len = 0 then ofs = 0 else ofs % 64 = 0 && decide (ofs + len ≤ r.imageSize)) 0x341 0 field
  firstOf [need (r.imageSize % 64 = 0 && decide (128 ≤ r.imageSize ∧ r.imageSize ≤ 262144)) 0x341 0 8,
    need (!rsv) 0x341 0 0,
    need (decide (1 ≤ r.nodeCount ∧ r.nodeCount ≤ 1024)) 0x341 0 0x10, need (r.edgeCount ≤ 4096) 0x341 0 0x12,
    need (r.descCount ≤ 1024) 0x341 0 0x14, need (r.paramSize % 8 = 0) 0x341 0 0x30,
    table r.nodeOfs (32 * r.nodeCount) 0x20, table r.edgeOfs (16 * r.edgeCount) 0x24,
    table r.descOfs (128 * r.descCount) 0x28,
    need (r.paramOfs % 64 = 0 && decide (r.paramOfs + r.paramSize ≤ r.imageSize)) 0x341 0 0x2C,
    need (apart (areas r)) 0x341 0 0x20]

/-- Check 3 of Table 2-5. -/
def checkCrc (r : Route) : Refused := need (r.crc = r.crcComputed) 0x342 0 12

/-! ## Parameter blocks -/

/-- All bytes of a parameter block from `o` on are 0. -/
def zeroFrom (b : List Byte) (o : Nat) : Bool := (b.drop o).all (· = 0)

/-- A 16-bit floating-point pattern that is finite. -/
def fin16 (v : Nat) : Bool := bits v 14 10 ≠ 31
/-- A 32-bit floating-point pattern that is finite. -/
def fin32 (v : Nat) : Bool := bits v 30 23 ≠ 255
/-- Order key of a sign-magnitude pattern of `n` bits; +0 and -0 agree. -/
def fkey (n v : Nat) : Int := if v / 2 ^ (n - 1) % 2 = 1 then - ((v % 2 ^ (n - 1) : Nat) : Int) else v

/-- A pool class that a node names is enabled and its buffers hold `n` bytes (R288). -/
def poolOk (s : State) (c n : Nat) : Bool :=
  let cfg := rg s 3 (0x400 + 16 * (c % 64))
  bitN cfg 0 && decide (n ≤ bits cfg 31 8 * 4096)

/-- DECODE opcode and parameter block (Tables 4-4 to 4-6). -/
def decodeParamOk (x : Node) (b : List Byte) : Bool :=
  let raw := x.opcode = 6
  let pool := fieldLe b 0 1
  let dpb := fieldLe b 2 1
  let size := fieldLe b 4 4
  let w := fieldLe b 8 2
  let h := fieldLe b 10 2
  let lay := fieldLe b 12 1
  let depth := fieldLe b 13 1
  let stride := fieldLe b 16 4
  let e := if depth = 8 then 1 else 2
  let row := match lay with
    | 5 => 2 * w * e
    | 6 => 3 * w * e
    | 7 => 4 * w * e
    | _ => w * e
  decide (1 ≤ x.opcode ∧ x.opcode ≤ 6) && x.paramSize = 32 && fieldLe b 3 1 = 0 && fieldLe b 14 2 = 0 && zeroFrom b 20 &&
  (if raw then
    pool = 0 && fieldLe b 1 1 = 0 && dpb = 0 && size = 0 && decide (16 ≤ w ∧ w ≤ 8192 ∧ 16 ≤ h ∧ h ≤ 8192) &&
    decide (lay ≤ 7) && decide (8 ≤ depth ∧ depth ≤ 16) && decide (row ≤ stride) &&
    (!decide (1 ≤ lay ∧ lay ≤ 3) || stride % 2 = 0) && (lay ≠ 5 || w % 2 = 0)
  else
    decide (pool ≤ 63) && decide (fieldLe b 1 1 ≤ 2) && decide (1 ≤ dpb ∧ dpb ≤ 17) && size % 4096 = 0 &&
    decide (65536 ≤ size ∧ size ≤ 134217728) && w = 0 && h = 0 && lay = 0 && depth = 0 && stride = 0)

/-- MOTION parameter block (Table 5-2). -/
def motionParamOk (x : Node) (b : List Byte) : Bool :=
  decide (1 ≤ x.opcode ∧ x.opcode ≤ 2) && x.paramSize = 32 && decide (fieldLe b 0 1 ≤ 1) && decide (fieldLe b 1 1 ≤ 1) &&
  decide (fieldLe b 2 1 < 8) && decide (fieldLe b 3 1 ≤ 63) && decide (fieldLe b 4 2 ≤ 4095) && fieldLe b 6 2 = 0 &&
  fieldLe b 8 4 % 4096 = 0 && decide (65536 ≤ fieldLe b 8 4 ∧ fieldLe b 8 4 ≤ 67108864) && zeroFrom b 12

/-- SHAPE parameter block (Table 6-1). -/
def shapeParamOk (x : Node) (b : List Byte) : Bool :=
  let f16 (o : Nat) : Nat := fieldLe b o 2
  let aug := fieldLe b 3 1
  let lt16 (a c : Nat) : Bool := decide (fkey 16 (f16 a) ≤ fkey 16 (f16 c))
  let amin := sext 32 (fieldLe b 0x38 4)
  let amax := sext 32 (fieldLe b 0x3C 4)
  let m := fieldLe b 9 1
  x.opcode = 1 && x.paramSize = 96 && decide (fieldLe b 0 1 ≤ 5) && decide (fieldLe b 1 1 ≤ 2) && decide (fieldLe b 2 1 ≤ 3) &&
  decide (aug ≤ 3) && decide (8 ≤ f16 4 ∧ f16 4 ≤ 4096 ∧ 8 ≤ f16 6 ∧ f16 6 ≤ 4096) && decide (fieldLe b 8 1 ≤ 1) &&
  (m = 0 || m = 1 || m = 5 || m = 6 || m = 9) && decide (fieldLe b 10 1 ≤ 2) && decide (fieldLe b 11 1 < 4) &&
  [0x0C, 0x0E, 0x10].all (fun o => fin16 (f16 o)) && f16 0x12 = 0 &&
  [0x14, 0x18, 0x1C, 0x20, 0x24, 0x28].all (fun o => fin32 (fieldLe b o 4)) && zeroFrom b 0x48 &&
  (if aug ≥ 2 then
    decide (0 < fkey 16 (f16 0x2C)) && lt16 0x2C 0x2E && decide (fkey 16 (f16 0x2E) ≤ 0x3C00) &&
    decide (0x2C00 ≤ fkey 16 (f16 0x30)) && lt16 0x30 0x32 && decide (fkey 16 (f16 0x32) ≤ 0x4C00) &&
    decide (-11796480 ≤ amin ∧ amin ≤ amax ∧ amax ≤ 11796480) && [0x40, 0x42, 0x44, 0x46].all (fun o => fin16 (f16 o)) &&
    lt16 0x40 0x42 && lt16 0x44 0x46
  else ((b.drop 0x2C).take 0x1C).all (· = 0))

/-- Width in bytes of a SHAPE `OTYPE`. -/
def otypeBytes (o : Nat) : Nat := if o = 0 ∨ o = 2 then 1 else if o = 5 then 4 else 2

/-- `DTYPE` code of a SHAPE `OTYPE` (Tables 6-1, 7-2). -/
def otypeDtype (o : Nat) : Nat := match o with
  | 0 => 2
  | 1 => 3
  | 2 => 1
  | 3 => 7
  | 4 => 8
  | _ => 9

/-- TOKENISE parameter block (Table 8-1). -/
def tokeniseParamOk (x : Node) (b : List Byte) : Bool :=
  let p := fieldLe b 0 1
  let t := fieldLe b 1 1
  x.paramSize = 32 && x.descCount = 0 && (p = 8 || p = 14 || p = 16 || p = 32) && (t = 1 || t = 2 || t = 4) &&
  decide (fieldLe b 2 1 ≤ 1) && fieldLe b 3 1 = 0 && decide (fieldLe b 4 2 ≤ 16384) && zeroFrom b 6

/-- PACK parameter block (Table 8-4), the window apart. -/
def packParamOk (x : Node) (b : List Byte) : Bool :=
  let rt := fieldLe b 0 2
  let ed := fieldLe b 6 1
  let dim := fieldLe b 8 4
  x.paramSize = 64 && x.descCount = 0 && rt % 64 = 0 && decide (64 ≤ rt ∧ rt ≤ 16384) &&
  decide (1 ≤ fieldLe b 2 2 ∧ fieldLe b 2 2 ≤ 1024 ∧ 1 ≤ fieldLe b 4 2 ∧ fieldLe b 4 2 ≤ 1024) &&
  (if x.inCount = 2 then decide (ed ≤ 10) && ed ≠ 0 && ed ≠ 4 && decide (1 ≤ dim ∧ dim ≤ 65536) else ed = 0 && dim = 0) &&
  fieldLe b 7 1 = 0 && decide (fieldLe b 12 1 ≤ 63) && fieldLe b 13 1 = 0 &&
  decide (1 ≤ fieldLe b 14 2 ∧ fieldLe b 14 2 ≤ 256) && fieldLe b 16 8 % 4096 = 0 && fieldLe b 0x18 4 % 4096 = 0 &&
  decide (fieldLe b 0x1C 4 ≤ 1000000) && zeroFrom b 0x24

/-- The node that produces edge `e`, with its index. -/
def producerOf (r : Route) (e : Nat) : Option (Nat × Node) :=
  match r.edges[e]? with
  | some x => (r.nodes[x.producer]?).map fun n => (x.producer, n)
  | none => none

/-- The node that consumes edge `e`, with its index. -/
def consumerOf (r : Route) (e : Nat) : Option (Nat × Node) :=
  match r.edges[e]? with
  | some x => (r.nodes[x.consumer]?).map fun n => (x.consumer, n)
  | none => none

/-- Whether edge `e` comes from a node that satisfies `f`. -/
def fromNode (r : Route) (e : Nat) (f : Node → Bool) : Bool := (producerOf r e).any fun p => f p.2
/-- Whether edge `e` goes to a node that satisfies `f`. -/
def toNode (r : Route) (e : Nat) (f : Node → Bool) : Bool := (consumerOf r e).any fun p => f p.2

/-- A `TOKENISE` node. -/
def Node.isTokenise (x : Node) : Bool := x.kind = 4 && x.opcode = 0x10
/-- A `PACK` node. -/
def Node.isPack (x : Node) : Bool := x.kind = 4 && x.opcode = 0x11

/-- Channels that a `SHAPE` block gives (Table 6-8). -/
def shapeChannels (b : List Byte) : Nat := if fieldLe b 1 1 = 2 then 1 else 3

/-- The `SHAPE` node that feeds a `TOKENISE` node. -/
def shapeOf (r : Route) (x : Node) : Option Node := (producerOf r x.inFirst).map (·.2)

/-- The `TOKENISE` node that feeds a `PACK` node. -/
def tokeniseOf (r : Route) (x : Node) : Option Node := (producerOf r x.inFirst).map (·.2)

/-- D and element width in bits of the tokens that a `PACK` node packs (R198, R203, R204). -/
def packElems (r : Route) (x : Node) : Nat × Nat × Nat :=
  let b := nodeBlock r x
  if x.inCount = 2 then (fieldLe b 8 4, dtBits (fieldLe b 6 1), fieldLe b 6 1)
  else match tokeniseOf r x with
    | some t =>
      let tb := nodeBlock r t
      match shapeOf r t with
      | some sh =>
        let sb := nodeBlock r sh
        (fieldLe tb 1 1 * fieldLe tb 0 1 * fieldLe tb 0 1 * shapeChannels sb, 8 * otypeBytes (fieldLe sb 0 1),
          otypeDtype (fieldLe sb 0 1))
      | none => (0, 8, 0)
    | none => (0, 8, 0)

/-- D and element width in bits of the vectors of `TOKENISE` node `t` (R198). -/
def tokenWidth (r : Route) (t : Node) : Nat × Nat :=
  let tb := nodeBlock r t
  let sb := match shapeOf r t with
    | some sh => nodeBlock r sh
    | none => []
  (fieldLe tb 1 1 * fieldLe tb 0 1 * fieldLe tb 0 1 * shapeChannels sb, 8 * otypeBytes (fieldLe sb 0 1))

/-- `TSTRIDE` (R201). -/
def tstride (d b : Nat) : Nat := ceilDiv (d * b) 512 * 64

/-- `BATCH_BYTES` of a `PACK` node (R204). -/
def batchBytes (r : Route) (x : Node) : Nat :=
  let b := nodeBlock r x
  let e := packElems r x
  64 + 64 * fieldLe b 4 2 + fieldLe b 2 2 * fieldLe b 0 2 * (tstride e.1 e.2.1 + 8)

/-- `PAD` of a `PACK` block as in Table 7-1: the bits above the token element's width are 0 (Table 8-4). Where no `SHAPE`
node gives the width, the wiring check refuses the route. -/
def packPadOk (r : Route) (x : Node) : Bool :=
  x.inCount ≠ 2 && !((tokeniseOf r x).bind (shapeOf r)).isSome ||
    decide (fieldLe (nodeBlock r x) 0x20 4 < 2 ^ (packElems r x).2.1)

/-- Wiring of `TOKENISE` and `PACK` (R197, R203). -/
def tokenWiringOk (r : Route) (x : Node) : Bool :=
  if x.isTokenise then
    let pb := nodeBlock r x
    let sb := match shapeOf r x with
      | some y => nodeBlock r y
      | none => []
    x.inCount = 1 && decide (1 ≤ x.outCount ∧ x.outCount ≤ 2) && fromNode r x.inFirst (fun y => y.kind = 3) &&
    (fieldLe pb 4 2 ≠ 0 || (fieldLe sb 4 2 % fieldLe pb 0 1 = 0 && fieldLe sb 6 2 % fieldLe pb 0 1 = 0)) &&
    (x.outCount ≠ 2 || (match consumerOf r x.outFirst, consumerOf r (x.outFirst + 1) with
      | some p, some m => p.2.isPack && p.2.inCount = 2 && p.2.inFirst = x.outFirst && m.2.kind = 5 &&
          m.2.outCount = 1 && m.2.outFirst = p.2.inFirst + 1
      | _, _ => false))
  else
    decide (1 ≤ x.inCount ∧ x.inCount ≤ 2) && x.outCount = 0 && fromNode r x.inFirst Node.isTokenise &&
    (r.nodes.filter Node.isPack).length ≤ 1 &&
    (x.inCount ≠ 2 || (fromNode r (x.inFirst + 1) (fun y => y.kind = 5) &&
      (match producerOf r (x.inFirst + 1), producerOf r x.inFirst with
       | some m, some t => (inEdges m.2).any (fun e => e = t.2.outFirst + 1) && (
          let c := nodeDesc r m.2 2
          let a := nodeDesc r m.2 0
          let b := nodeBlock r x
          let v := tokenWidth r t.2
          a.space = 3 && a.edge = t.2.outFirst + 1 && a.sz 0 = v.1 && a.st 0 = 1 && dtBits a.dtype = v.2 &&
          decide (a.st 1 * v.2 = 8 * (tstride v.1 v.2 : Nat)) && c.sz 1 = a.sz 1 && c.sz 2 = 1 &&
          c.dtype = fieldLe b 6 1 && c.sz 0 = fieldLe b 8 4 && c.st 0 = 1 &&
          decide (c.st 1 * dtBits c.dtype = 8 * (ceilDiv (fieldLe b 8 4 * dtBits (fieldLe b 6 1)) 512 * 64 : Nat)))
       | _, _ => false)))

/-- LAYOUT transformation: opcode, counts and block (Tables 7-4 to 7-6). -/
def layoutParamOk (r : Route) (x : Node) (b : List Byte) : Bool :=
  let src := nodeDesc r x 0
  let dst := nodeDesc r x (x.descCount - 1)
  match x.opcode with
  | 1 =>
    x.descCount = 2 && x.paramSize = 64 &&
    (List.range 8).all (fun i =>
      let m := fieldLe b i 1
      if i < dst.rank then decide (m < src.rank ∧ m < 8) else m = 0) &&
    (List.range 8).all (fun i => decide (i < dst.rank) || fieldLe b (8 + 2 * i) 2 = 0) &&
    (List.range 8).all (fun k => decide (k < src.rank) || fieldLe b (0x18 + 4 * k) 4 = 0) && zeroFrom b 0x38
  | 2 => x.descCount = 3 && x.paramSize = 16 && decide (fieldLe b 0 1 < src.rank) && fieldLe b 1 1 = 0 && zeroFrom b 2
  | 3 => x.descCount = 3 && x.paramSize = 16 && decide (fieldLe b 0 1 < dst.rank) && decide (fieldLe b 1 1 ≤ 1) && zeroFrom b 2
  | _ => false

/-- MATRIX opcode, counts and block (R221, Table 9-4). -/
def matrixParamOk (x : Node) (b : List Byte) : Bool :=
  let gm := fieldLe b 0 1
  let gn := fieldLe b 1 1
  x.opcode = 1 && x.paramSize = 32 && decide (1 ≤ gm ∧ gm ≤ 8 ∧ 1 ≤ gn ∧ gn ≤ 8 ∧ gm * gn ≤ 8) &&
  decide (1 ≤ fieldLe b 2 2 ∧ fieldLe b 2 2 ≤ 512) && decide (fieldLe b 4 1 ≤ 1 ∧ fieldLe b 5 1 ≤ 1 ∧ fieldLe b 6 1 ≤ 1) &&
  x.descCount = 3 + fieldLe b 6 1 && zeroFrom b 7

/-- Whether `FUNC` is unary or binary (Table 9-9). -/
def funcUnary (f : Nat) : Bool := decide (f ≤ 10)
def funcBinary (f : Nat) : Bool := decide (16 ≤ f ∧ f ≤ 21)

/-- VECTOR opcode and block (R231, Table 9-8). -/
def vectorParamOk (r : Route) (x : Node) (b : List Byte) : Bool :=
  let f := fieldLe b 0 1
  let axis := fieldLe b 2 1
  let acc := fieldLe b 3 1
  let sub := fieldLe b 4 1
  let eps := fieldLe b 8 4
  let op := x.opcode
  decide (1 ≤ op ∧ op ≤ 7) && x.paramSize = 32 && decide (fieldLe b 1 1 ≤ 1) && decide (acc ≤ 1) && fieldLe b 5 3 = 0 &&
  zeroFrom b 12 &&
  (match op with
   | 1 => if x.descCount = 3 then funcBinary f && acc = 0 else funcUnary f
   | 2 => funcUnary f
   | _ => f = 0 && acc = 0) &&
  (if 3 ≤ op ∧ op ≤ 6 then decide (axis < (nodeDesc r x 0).rank) else axis = 0) &&
  (match op with
   | 3 => decide (sub ≤ 2)
   | 5 => decide (sub ≤ 1)
   | _ => sub = 0) &&
  (if op = 5 then fin32 eps && decide (eps < 2 ^ 31 ∨ eps = 2 ^ 31) else eps = 0)

/-- SAMPLE opcode and block (R254, Table 10-3). -/
def sampleParamOk (x : Node) (b : List Byte) : Bool :=
  let temp := fieldLe b 4 4
  let p := fieldLe b 8 4
  x.opcode = 1 && x.paramSize = 32 && decide (fieldLe b 0 1 ≤ 63) && fieldLe b 1 1 = 0 && decide (fieldLe b 2 2 ≤ 1024) &&
  decide (temp < 0x7F800000) && decide (0 < p ∧ p ≤ 0x3F800000) && zeroFrom b 12

/-- DIGEST opcode and block (R360, Table 14-7). -/
def digestParamOk (r : Route) (x : Node) (b : List Byte) : Bool :=
  let g := fieldLe b 0 1
  x.paramSize = 16 && decide (fieldLe b 1 1 ≤ 1) && (g ≠ 255 || fieldLe b 1 1 = 0) && decide (g ≤ 31 ∨ g = 255) &&
  zeroFrom b 6 &&
  (match x.opcode with
   | 1 => x.descCount = 1 && decide (1 ≤ fieldLe b 2 2) && decide (fieldLe b 4 2 < r.tollgates)
   | 2 => x.descCount = 0 && x.inCount = 1 && x.outCount = 1 && g = 255 && fieldLe b 2 2 = 0 && fieldLe b 4 2 = 0
   | _ => false)

/-- TRANSFER opcode and block (R276, Table 11-4). -/
def transferParamOk (x : Node) (b : List Byte) (p : Nat) : Bool :=
  let m := fieldLe b 0 12
  decide (1 ≤ x.opcode ∧ x.opcode ≤ 4) && x.paramSize = 16 && x.descCount = 2 && fieldLe b 12 4 = 0 &&
  (if x.opcode = 4 then m ≠ 0 && decide (m < 2 ^ p) else m = 0)

/-- Check 4 of Table 2-5 for node `n`; `p` is the size of the Pod set. -/
def checkNode (s : State) (r : Route) (w p n : Nat) (x : Node) : Refused :=
  let ofs := r.nodeOfs + 32 * n
  let b := nodeBlock r x
  let bad (ok : Bool) (detail : Nat) : Refused := need ok 0x343 detail ofs
  let plain := firstOf [
    bad (decide (x.kind ≤ 10)) 0, bad (bits x.flags 15 4 = 0) 0,
    bad (decide (x.inCount ≤ 8 ∧ x.outCount ≤ 8 ∧ x.descCount ≤ 16)) 0,
    bad (decide (x.inFirst + x.inCount ≤ r.edgeCount ∨ x.inCount = 0)) 0,
    bad (decide (x.outFirst + x.outCount ≤ r.edgeCount ∨ x.outCount = 0)) 0,
    bad (decide (x.descFirst + x.descCount ≤ r.descCount ∨ x.descCount = 0)) 0,
    bad (decide (x.kind = 5 ∨ x.kind = 6 ∨ x.accTiles = 0)) 0,
    bad (decide (x.tollgate = 0xFFFF ∨ x.tollgate < r.tollgates)) 0, bad (x.paramOfs % 8 = 0) 0,
    bad (decide (x.paramOfs + x.paramSize ≤ r.paramSize)) 0, bad (x.rsv = 0) 0]
  match plain with
  | some c => some c
  | none => match x.kind with
    | 0 => bad (decide (1 ≤ x.opcode ∧ x.opcode ≤ 4) && x.inCount = 0 && x.descCount = 0 && x.paramSize = 0) 0
    | 1 => firstOf [bad (decodeParamOk x b) 0x830,
        bad (decide (x.opcode = 6) || poolOk s (fieldLe b 0 1) (fieldLe b 4 4)) 0x362]
    | 2 => firstOf [bad (motionParamOk x b) 0x831,
        bad (x.inCount = 1 && x.outCount = 1 && fromNode r x.inFirst (fun y => y.kind = 1 && y.opcode ≠ 5)) 0x832,
        bad (poolOk s (fieldLe b 3 1) (fieldLe b 8 4)) 0x362]
    | 3 => firstOf [bad (shapeParamOk x b) 0x930,
        bad (x.inCount = 1 && x.outCount = 1 && fromNode r x.inFirst (fun y => y.kind = 1)) 0x931]
    | 4 =>
      if x.opcode = 0x10 then firstOf [bad (tokeniseParamOk x b) 0xA40, bad (tokenWiringOk r x) 0xA41]
      else if x.opcode = 0x11 then firstOf [bad (packParamOk x b && packPadOk r x) 0xA40, bad (tokenWiringOk r x) 0xA41,
        bad (decide (fieldLe b 16 8 + 2 * fieldLe b 14 2 * fieldLe b 0x18 4 ≤ w * 4096 ∧
          4096 + batchBytes r x ≤ fieldLe b 0x18 4)) 0xA42,
        bad (poolOk s (fieldLe b 12 1) (batchBytes r x)) 0x362]
      else if 0x12 ≤ x.opcode ∧ x.opcode ≤ 0x1F then bad false 0xA40
      else bad (layoutParamOk r x b) 0xA30
    | 5 => bad (matrixParamOk x b) 0x4030
    | 6 => bad (vectorParamOk r x b) 0x4033
    | 7 => firstOf [bad (sampleParamOk x b) 0xB30,
        bad (!((r.nodes.take n).any fun y => y.kind = 7 && fieldLe (nodeBlock r y) 0 1 = fieldLe b 0 1)) 0xB32,
        bad (decide (fieldLe b 8 4 = 0x3F800000 ∨ fieldLe b 2 2 ≠ 0)) 0xB33]
    | 8 => firstOf [bad (digestParamOk r x b) 0x4050,
        bad (decide (fieldLe b 0 1 = 255) || bitN (rg s 0 (0x700 + 8 * (fieldLe b 0 1 % 32))) 0) 0x4052]
    | 9 => bad (transferParamOk x b p) 0x367
    | _ => bad (x.opcode = 1 && x.outCount = 0 && x.descCount = 0 && x.paramSize = 0) 0

/-! ## Edges -/

/-- Depth of every node after `k` rounds of relaxing `f` along the edges. -/
def relax (r : Route) (f : Edge → Nat) : Nat → List Nat → List Nat
  | 0, d => d
  | k + 1, d => relax r f k (r.edges.foldl (fun d e =>
      d.set e.consumer (max (d.getD e.consumer 0) (d.getD e.producer 0 + f e))) d)

/-- Whether the graph has no cycle: depths that count every edge settle within the number of nodes. -/
def acyclic (r : Route) : Bool :=
  let d := relax r (fun _ => 1) r.nodes.length (List.replicate r.nodes.length 0)
  d.all fun k => decide (k < r.nodes.length)

/-- Stage depth of every node (R43). -/
def stageDepths (r : Route) : List Nat := relax r (fun e => e.sync) r.nodes.length (List.replicate r.nodes.length 0)

/-- Check 5 of Table 2-5. -/
def checkEdges (r : Route) : Refused :=
  let one (e : Nat) : Refused :=
    let x := r.edges.getD e ⟨0, 0, 0, 0, 0, 0, 0, 0⟩
    let ok := decide (x.producer < r.nodeCount ∧ x.consumer < r.nodeCount ∧ x.producer ≠ x.consumer) &&
      decide (1 ≤ x.bufGranules ∧ x.bufGranules ≤ 1536 ∧ 1 ≤ x.depth ∧ x.depth ≤ 64 ∧ x.sync ≤ 1) && x.rsv = 0
    let p := r.nodes.getD x.producer (parseNode [])
    let c := r.nodes.getD x.consumer (parseNode [])
    let wired := (outEdges p).contains e && (inEdges c).contains e
    firstOf [need ok 0x344 0 (r.edgeOfs + 16 * e), need wired 0x344 0 (r.edgeOfs + 16 * e),
      need (decide (x.sync = 0 ∨ p.tollgate ≠ 0xFFFF)) 0x344 0 (r.edgeOfs + 16 * e),
      need (decide (x.mpBase + 2 * x.depth ≤ r.mpPer)) 0x344 0 (r.edgeOfs + 16 * e)]
  let node (n : Nat) : Refused :=
    let x := r.nodes.getD n (parseNode [])
    need ((inEdges x).all (fun e => (r.edges[e]?).any fun y => y.consumer = n) &&
      (outEdges x).all (fun e => (r.edges[e]?).any fun y => y.producer = n)) 0x344 0 (r.nodeOfs + 32 * n)
  firstOf ((List.range r.edgeCount).map one ++ (List.range r.nodeCount).map node ++ [need (acyclic r) 0x344 0 r.edgeOfs])

/-! ## Descriptors -/

/-- Whether the write map passes the check of R177. -/
def injective (d : Desc) : Bool :=
  let dims := ((List.range d.rank).filter fun k => 1 < d.sz k).map fun k => (d.sz k, (d.st k).natAbs)
  let sorted := sortBy dims fun a b => decide (a.2 ≤ b.2)
  (sorted.zip (sorted.drop 1)).all fun p => decide (p.1.1 * p.1.2 ≤ p.2.2)

/-- Table 7-12 for descriptor `d`. -/
def descFault (r : Route) (w : Nat) (d : Desc) : Option Nat :=
  let wb := dtBits d.dtype
  if d.dtype > 10 then some 0xA01
  else if d.rank < 1 ∨ d.rank > 8 then some 0xA02
  else if d.space > 3 ∨ (d.space = 3 ∧ d.edge ≥ r.edgeCount) ∨ (d.space ≠ 3 ∧ d.edge ≠ 0) then some 0xA03
  else if d.dflags > 7 ∨ d.dflags % 4 = 0 ∨ d.rsv5 ≠ 0 ∨ d.rsv1c ≠ 0 ∨ d.rsv70 ≠ 0 then some 0xA04
  else if !((List.range 8).all fun k => if k < d.rank then decide (1 ≤ d.sz k ∧ d.sz k ≤ 2 ^ 31)
      else d.sz k = 1 && d.st k = 0) || d.count > 2 ^ 40 then some 0xA05
  else if wb ≥ 8 ∧ d.base % (wb / 8) ≠ 0 then some 0xA06
  else if (if d.scaled then
        !(dtScalable d.dtype && decide (d.blockDim < d.rank) && decide (d.st d.blockDim = 1 ∨ d.st d.blockDim = -1))
      else decide (d.blockDim ≠ 0 ∨ d.scaleBase ≠ 0)) then some 0xA08
  else if d.pad ≥ 2 ^ wb then some 0xA09
  else if d.writes ∧ ((List.range d.rank).any fun k => d.st k = 0 && decide (1 < d.sz k)) then some 0xA0A
  else if d.writes ∧ !injective d then some 0xA0B
  else if (d.space = 0 ∨ d.space = 3) ∧ !footInside d (extent r w 0 0 d) then some 0xA07
  else none

/-- Whether `SPACE` 3 descriptors read or written by node `x` use its own edges (Table 7-3, R172). -/
def edgeRoleOk (x : Node) (d : Desc) (write : Bool) : Bool :=
  d.space ≠ 3 || (if write then (outEdges x).contains d.edge else (inEdges x).contains d.edge)

/-- A footprint in logical Marrow terms for the comparison of R189: kind (0 window, e + 1 edge buffer) and range. -/
def footKey (d : Desc) (f : Int × Int) : Nat × Int × Int :=
  if d.space = 3 then (d.edge + 1, 0, 2 ^ 40) else (0, f.1, f.2)

/-- Whether two footprints overlap; an edge buffer of local granules [b, b + n) of every member covers the window
granules [b P, (b + n) P) (R49). -/
def footClash (r : Route) (p : Nat) (a b : Nat × Int × Int) : Bool :=
  let place (k : Nat × Int × Int) : Int × Int :=
    if k.1 = 0 then k.2
    else
      let e := r.edges.getD (k.1 - 1) ⟨0, 0, 0, 0, 0, 0, 0, 0⟩
      ((e.bufLocal * p * 4096 : Nat), ((e.bufLocal + e.bufGranules) * p * 4096 : Nat))
  let x := place a
  let y := place b
  decide (x.1 < y.2 ∧ y.1 < x.2)

/-- Footprints of a descriptor for R189. -/
def footKeys (d : Desc) : List (Nat × Int × Int) :=
  footKey d d.foot :: (if d.scaled then [footKey d d.scaleFoot] else [])

/-- `MAP`i, `COEF`i and `ORIGIN`k of a `COPY` block (Table 7-5). -/
def copyMap (b : List Byte) (i : Nat) : Nat := fieldLe b i 1 % 8
def copyCoef (b : List Byte) (i : Nat) : Int := sext 16 (fieldLe b (8 + 2 * i) 2)
def copyOrigin (b : List Byte) (k : Nat) : Int := sext 32 (fieldLe b (0x18 + 4 * k) 4)

/-- Whether a `COPY` is permuting (R180). -/
def permuting (b : List Byte) (src dst : Desc) : Bool :=
  let m := (List.range dst.rank).map (copyMap b)
  (List.range src.rank).all (fun k => (m.filter (· = k)).length = 1) && decide (src.rank = dst.rank) &&
  (List.range dst.rank).all fun i => copyCoef b i = 1

/-- Whether a `COPY` is a window expansion (R180). -/
def expanding (b : List Byte) (src dst : Desc) : Bool :=
  let m := (List.range dst.rank).map (copyMap b)
  (List.range src.rank).any (fun k => decide (2 ≤ (m.filter (· = k)).length)) || (List.range dst.rank).any fun i => copyCoef b i ≠ 1

/-- Every condition of R191 but the one on `SCRATCH`. -/
def inPlace (b : List Byte) (src dst : Desc) : Bool :=
  let wb := dtBits src.dtype
  let big := (List.range src.rank).filter fun k => 1 < src.sz k
  src.space = dst.space && src.edge = dst.edge && src.base = dst.base && src.dtype = dst.dtype && src.size = dst.size &&
  src.stride = dst.stride && decide (8 ≤ wb) && !src.scaled && !dst.scaled &&
  (match big with
   | [a, c] =>
     src.sz a = src.sz c && src.sz a % 64 = 0 && copyMap b a = c && copyMap b c = a && copyCoef b a = 1 && copyCoef b c = 1 &&
     (List.range src.rank).all (fun i => copyOrigin b i = 0) && src.base % (64 * (wb / 8)) = 0 &&
     (((src.st a).natAbs = 1 && (src.st c).natAbs % 64 = 0) || ((src.st c).natAbs = 1 && (src.st a).natAbs % 64 = 0))
   | _ => false)

/-- Table 7-13 for a `LAYOUT` transformation node. -/
def layoutFault (r : Route) (p : Nat) (x : Node) : Option Nat :=
  let b := nodeBlock r x
  let src := nodeDesc r x 0
  let dst := nodeDesc r x (x.descCount - 1)
  let idx := nodeDesc r x 1
  let three := x.descCount = 3
  let ds := (List.range x.descCount).map (nodeDesc r x)
  let axis := fieldLe b 0 1
  let others (a c : Desc) : Bool := (List.range 8).all fun k => k = axis || a.sz k = c.sz k
  if !(src.reads && dst.writes && (!three || idx.reads) && ds.all (fun d => d.space = 0 || d.space = 3) &&
      edgeRoleOk x src false && edgeRoleOk x dst true && (!three || edgeRoleOk x idx false)) then some 0xA19
  else if src.dtype = 10 ∨ dst.dtype = 10 then some 0xA0C
  else if src.dtype ≠ dst.dtype then some 0xA12
  else if three && !(src.rank = dst.rank && others src dst &&
      decide ((if x.opcode = 2 then dst.sz axis else src.sz axis) = idx.sz 0)) then some 0xA13
  else if three && !(idx.rank = 1 && (idx.dtype = 3 || idx.dtype = 10) && !idx.scaled) then some 0xA14
  else if (if x.opcode = 1 then
      decide (src.scaled ≠ dst.scaled) || (src.scaled && (
        let bd := dst.blockDim
        !(copyMap b bd = src.blockDim && copyCoef b bd = 1 && copyOrigin b src.blockDim % 32 = 0 &&
          (List.range dst.rank).all fun i => i = bd || copyMap b i ≠ src.blockDim)))
    else
      decide (x.opcode = 3 ∧ fieldLe b 1 1 = 1 ∧ dst.scaled) || (src.scaled && axis = src.blockDim) ||
      (dst.scaled && axis = dst.blockDim) || decide (src.scaled ≠ dst.scaled) ||
      (src.scaled && dst.scaled && decide (src.blockDim ≠ dst.blockDim))) then some 0xA16
  else if ((footKeys dst).any fun a => (footKeys src ++ (if three then footKeys idx else [])).any (footClash r p a)) &&
      !(x.opcode = 1 && inPlace b src dst) then some 0xA17
  else if x.opcode = 1 ∧ inPlace b src dst ∧ x.scratch < 8 then some 0xA18
  else none

/-- Integer-class and float-class operand types (R222). -/
def intOperand (d : Desc) : Bool := !d.scaled && (d.dtype = 0 || d.dtype = 1 || d.dtype = 2)
def floatOperand (d : Desc) : Bool := (decide (4 ≤ d.dtype ∧ d.dtype ≤ 8)) || (d.dtype = 1 && d.scaled)

/-- Whether a `MATRIX` node is of the integer class. -/
def intClass (r : Route) (x : Node) : Bool := intOperand (nodeDesc r x 0)

/-- Chunk length of Table 9-5. -/
def chunkLen (r : Route) (x : Node) : Nat :=
  let a := (nodeDesc r x 0).dtype
  let b := (nodeDesc r x 1).dtype
  let half (t : Nat) : Bool := t = 7 || t = 8
  if (a = 0 ∧ b = 0) ∨ (a = 4 ∧ b = 4) then 128 else if half a ∨ half b then 32 else 64

/-- Whether a `PAD` encodes zero (R223). -/
def padZero (d : Desc) : Bool :=
  d.pad = 0 || (decide (4 ≤ d.dtype ∧ d.dtype ≤ 9) && d.pad = 2 ^ (dtBits d.dtype - 1))

/-- `MATRIX` at step 6 (R222, R223, R226). -/
def matrixFault (r : Route) (x : Node) : Option Nat :=
  let b := nodeBlock r x
  let A := nodeDesc r x 0
  let B := nodeDesc r x 1
  let C := nodeDesc r x 2
  let C0 := nodeDesc r x 3
  let init := fieldLe b 6 1 = 1
  let int := intOperand A && intOperand B
  let flt := floatOperand A && floatOperand B
  let cInt := [10, 1, 0, 2, 9]
  let cFlt := [9, 8, 7, 6, 5, 4]
  let typesOk := (int && cInt.contains C.dtype && (!init || C0.dtype = 10)) ||
    (flt && cFlt.contains C.dtype && (!init || C0.dtype = 9))
  let all := [A, B, C] ++ (if init then [C0] else [])
  let shapesOk := all.all (fun d => d.rank = A.rank && d.rank ≥ 2 && d.rank ≤ 3) && A.sz 0 = B.sz 1 && B.sz 0 = C.sz 0 &&
    A.sz 1 = C.sz 1 && A.sz 2 = B.sz 2 && A.sz 2 = C.sz 2 &&
    (!init || (C0.sz 0 = C.sz 0 && C0.sz 1 = C.sz 1 && C0.sz 2 = C.sz 2)) &&
    A.reads && B.reads && C.writes && (!init || C0.reads) && (!A.scaled || A.blockDim = 0) && (!B.scaled || B.blockDim = 1) &&
    !C.scaled && (!init || !C0.scaled) && padZero A && padZero B &&
    [A, B].all (edgeRoleOk x · false) && (!init || edgeRoleOk x C0 false) && edgeRoleOk x C true
  let accOk := fieldLe b 5 1 = 0 || (x.outCount = 1 && toNode r x.outFirst fun y =>
    y.kind = 6 && fieldLe (nodeBlock r y) 3 1 = 1)
  if !typesOk then some 0x4031 else if !shapesOk then some 0x4032 else if !accOk then some 0x4034 else none

/-- Descriptors of a `VECTOR` node in role order: inputs (in and operands) and output. DEDUCED (log 1): with `ACC_IN` 1
descriptor 0 stays in the list and is not read (R226). -/
def vectorRoles (r : Route) (x : Node) : List Desc × Desc :=
  let d := (List.range x.descCount).map (nodeDesc r x)
  let at' (k : Nat) : Desc := nodeDesc r x k
  match x.opcode with
  | 1 | 2 => (d.take (x.descCount - 1), at' (x.descCount - 1))
  | 5 => ((at' 0) :: d.drop 2, at' 1)
  | _ => ([at' 0], at' 1)

/-- `VECTOR` at step 6 (R231, R226, R236). -/
def vectorFault (r : Route) (x : Node) : Option Nat :=
  let b := nodeBlock r x
  let op := x.opcode
  let acc := fieldLe b 3 1 = 1
  let axis := fieldLe b 2 1
  let q := vectorRoles r x
  let ins := q.1
  let out := q.2
  let inD := ins.getD 0 out
  let countOk := match op with
    | 1 => decide (x.descCount = 2 ∨ x.descCount = 3)
    | 2 => x.descCount = 4
    | 5 => decide (2 ≤ x.descCount ∧ x.descCount ≤ 4)
    | _ => x.descCount = 2
  let same (a c : Desc) : Bool := a.rank = c.rank && a.size = c.size
  let rank1 (d : Desc) (n : Nat) : Bool := d.rank = 1 && d.sz 0 = n
  let srcC : Desc := match producerOf r x.inFirst with
    | some m => nodeDesc r m.2 2
    | none => out
  let shapeOk := match op with
    | 1 => ins.all (same · out)
    | 2 => same inD out && (ins.drop 1).all (rank1 · (inD.sz 0))
    | 3 => inD.rank = out.rank && (List.range 8).all fun k => if k = axis then out.sz k = 1 else inD.sz k = out.sz k
    | 4 | 6 => same inD out
    | 5 => same inD out && (ins.drop 1).all (rank1 · (inD.sz axis))
    | _ => inD.rank = out.rank + 1 && (List.range 8).all (fun k => decide (k ≥ out.rank) || inD.sz k = out.sz k) &&
           decide (2 ≤ inD.sz out.rank ∧ inD.sz out.rank ≤ 1024)
  let scaleOk := if op = 6 then out.scaled && out.blockDim = axis else !out.scaled
  let rolesOk := out.writes && ins.all (fun d => d.reads && edgeRoleOk x d false) && edgeRoleOk x out true
  let accOk := !acc || (same srcC inD && x.inCount = 1 &&
    fromNode r x.inFirst fun y => y.kind = 5 && fieldLe (nodeBlock r y) 5 1 = 1)
  if countOk && shapeOk && scaleOk && rolesOk && accOk then none else some 0x4034

/-- `SAMPLE` at step 6 (R254). -/
def sampleFault (r : Route) (x : Node) : Option Nat :=
  let d := nodeDesc r x 0
  if x.descCount = 1 ∧ x.outCount = 1 ∧ d.reads ∧ (d.rank = 1 ∨ d.rank = 2) ∧ (d.dtype = 9 ∨ d.dtype = 8 ∨ d.dtype = 7) ∧
      d.scaled = false ∧ d.sz 0 ≤ 262144 ∧ d.sz 1 ≤ 1024 ∧ edgeRoleOk x d false then none else some 0xB31

/-- `DIGEST` `FURLONG` at step 6 (R360). -/
def digestFault (r : Route) (x : Node) : Option Nat :=
  let d := nodeDesc r x 0
  if x.opcode = 1 ∧ !(d.space = 0 && d.dtype = 2 && d.rank = 1 && d.st 0 = 1 && d.reads && d.base % 4096 = 0 &&
      d.sz 0 % 4096 = 0) then some 0x4051 else none

/-- `TRANSFER` at step 6 (R276, Table 11-3). -/
def transferFault (r : Route) (p : Nat) (x : Node) : Option Nat :=
  let a := nodeDesc r x 0
  let c := nodeDesc r x 1
  let m03 (d : Desc) : Bool := d.space = 0 || d.space = 3
  let spaces := match x.opcode with
    | 1 => a.space = 1 && m03 c
    | 2 => m03 a && c.space = 2
    | 3 => m03 a && m03 c
    | _ => m03 a && c.space = 3
  if !(spaces && a.reads && c.writes && a.dtype = c.dtype && a.rank = c.rank && a.size = c.size && a.scaled = c.scaled &&
      (!a.scaled || a.blockDim = c.blockDim) && edgeRoleOk x a false && edgeRoleOk x c true) then some 0x368
  else if x.opcode = 3 ∧ ((footKeys c).any fun k => (footKeys a).any (footClash r p k)) then some 0xA17
  else none

/-- Check 6 of Table 2-5: descriptors in index order, then nodes. -/
def checkDescs (r : Route) (w p : Nat) : Refused :=
  let one (k : Nat) : Refused := match descFault r w (r.descs.getD k (parseDesc [])) with
    | some c => some (0x353, c, r.descOfs + 128 * k)
    | none => none
  let node (n : Nat) : Refused :=
    let x := r.nodes.getD n (parseNode [])
    let f := match x.kind with
      | 4 => if x.isTokenise || x.isPack then none else layoutFault r p x
      | 5 => matrixFault r x
      | 6 => vectorFault r x
      | 7 => sampleFault r x
      | 8 => digestFault r x
      | 9 => transferFault r p x
      | _ => none
    match f with
    | some c => some (0x353, c, r.nodeOfs + 32 * n)
    | none => none
  firstOf ((List.range r.descCount).map one ++ (List.range r.nodeCount).map node)

/-! ## Accumulators and bounds -/

/-- Live accumulator tiles of a node (R228). -/
def liveTiles (r : Route) (x : Node) : Nat :=
  let b := nodeBlock r x
  match x.kind with
  | 5 => fieldLe b 0 1 * fieldLe b 1 1 * (1 + fieldLe b 5 1)
  | 6 => if x.opcode = 3 ∨ x.opcode = 4 ∨ x.opcode = 5 ∨ x.opcode = 7 then 1 else 0
  | _ => 0

/-- First accumulator tile of node `n`: within its segment, in ascending node index from tile 0 (R228). -/
def accBase (r : Route) (n : Nat) : Nat :=
  let d := stageDepths r
  ((List.range n).map fun k => if d.getD k 0 = d.getD n 0 then liveTiles r (r.nodes.getD k (parseNode [])) else 0).sum

/-- Check 7 of Table 2-5 (R43, R228). -/
def checkAcc (r : Route) : Refused :=
  let d := stageDepths r
  let nd (n : Nat) : Node := r.nodes.getD n (parseNode [])
  let ns := List.range r.nodeCount
  let ofs (n : Nat) : Nat := r.nodeOfs + 32 * n
  let used (n : Nat) : Nat := ((List.range (n + 1)).map fun k => if d.getD k 0 = d.getD n 0 then (nd k).accTiles else 0).sum
  let shares (a c : Nat) : Bool :=
    let la := liveTiles r (nd a)
    let lc := liveTiles r (nd c)
    decide (0 < la ∧ 0 < lc ∧ accBase r a < accBase r c + lc ∧ accBase r c < accBase r a + la)
  firstOf (ns.flatMap (fun n => [need (liveTiles r (nd n) = (nd n).accTiles) 0x345 0x4035 (ofs n),
      need ((nd n).accTiles ≤ r.accMax) 0x345 0x4036 (ofs n)]) ++
    ns.map (fun n => need (used n ≤ 8) 0x345 0x4037 (ofs n)) ++
    ns.map (fun n => need ((inEdges (nd n)).all fun e => (r.edges[e]?).all fun y =>
      y.sync = 1 || d.getD y.producer 0 = d.getD n 0 || !shares y.producer n) 0x345 0x4037 (ofs n)))

/-- Worst-case cycles of a node's tile operation: S-cycles, or A-cycles for MATRIX, VECTOR and SAMPLE (R38 and the
cost rules of the station chapters). -/
def worstCost (r : Route) (x : Node) : Nat :=
  let b := nodeBlock r x
  match x.kind with
  | 2 => 512 + 2048 * (ceilDiv ((if x.opcode = 1 then 104 else 7) * (if fieldLe b 0 1 = 0 then 16 else 64)) 256 + 2)
  | 3 => 384 + 32768 + 1024
  | 4 => if x.isTokenise then 48 + 128 + 16 else if x.isPack then 48 + 64 + 8 * 64 else 1072
  | 5 => 16 + fieldLe b 2 2 * (if chunkLen r x = 32 then 128 else 64)
  | 6 => 24 + 64 * (if x.opcode = 7 then (vectorRoles r x).1.foldl (fun a d => max a (d.sz (d.rank - 1))) 0 else 6)
  | 7 =>
    let d := nodeDesc r x 0
    let g := ceilDiv (d.sz 0) 64
    if fieldLe b 2 2 = 0 then 48 + 10 * g else 64 + 6 * g + 6 * ceilDiv (min (fieldLe b 2 2) (d.sz 0)) 64
  | 8 => 48 + 64 * 16
  | _ => 48000

/-- Check 8 of Table 2-5 (R38). -/
def checkBound (r : Route) : Refused :=
  firstOf ((List.range r.nodeCount).map fun n =>
    let x := r.nodes.getD n (parseNode [])
    need (decide (worstCost r x ≤ if 5 ≤ x.kind ∧ x.kind ≤ 7 then 120000 else 60000)) 0x34A 0 (r.nodeOfs + 32 * n))

/-- Check 10 of Table 2-5 (R47). DEDUCED (log 1): the location is the header's `LOCAL_MIN`, the edge whose buffer does
not fit, or the node whose scratch does not. -/
def checkWindow (r : Route) (w p : Nat) : Refused :=
  let l := ceilDiv w (max 1 p)
  firstOf ([need (decide (l ≤ 1536 ∧ r.localMin ≤ l)) 0x347 0 0x18] ++
    (r.edges.zipIdx.map fun e => need (e.1.bufLocal + e.1.bufGranules ≤ l) 0x347 0 (r.edgeOfs + 16 * e.2)) ++
    (List.range r.nodeCount).map fun n =>
      need (scratchBase r + ((r.nodes.take (n + 1)).map (·.scratch)).sum ≤ l) 0x347 0 (r.nodeOfs + 32 * n))

/-- Checks 1 to 8 of Table 2-5 in order, for a Pod set of `p` members and a window of `w` granules. -/
def checkRoute (s : State) (r : Route) (rsv : Bool) (w p : Nat) : Refused :=
  firstOf [checkHeader r, checkSize r rsv, checkCrc r,
    firstOf ((List.range r.nodeCount).map fun n => checkNode s r w p n (r.nodes.getD n (parseNode []))),
    checkEdges r, checkDescs r w p, checkAcc r, checkBound r]

end Sys2Proof.Machine
end

