-- ==== Sys2Proof/Machine/Acc.lean ====
section
/-! DEFINITION. The grid of a `MATRIX` product, its groups and their members, and the live accumulator tiles
(spec/09_pod_arithmetic.md R224, R227, R228; spec/02 R59). -/

namespace Sys2Proof.Machine

/-- One group of a product: its first tile row and column, and its rows and columns of tiles (R224). -/
structure MatGroup where
  row : Nat
  col : Nat
  rows : Nat
  cols : Nat
  deriving DecidableEq, Repr

/-- Output tile rows and columns of a product. -/
def matGrid (r : Route) (x : Node) : Nat × Nat :=
  let d := nodeDesc r x 2
  (ceilDiv (d.sz 1) 64, ceilDiv (d.sz 0) 64)

/-- Chunks of K (R224). -/
def matChunks (r : Route) (x : Node) : Nat := ceilDiv ((nodeDesc r x 0).sz 0) (chunkLen r x)

/-- Tile operations of one output tile. -/
def matSteps (r : Route) (x : Node) : Nat := ceilDiv (matChunks r x) (max 1 (fieldLe (nodeBlock r x) 2 2))

/-- The groups of a product, in the order of R224. -/
def matGroups (r : Route) (x : Node) : List MatGroup :=
  let b := nodeBlock r x
  let gm := max 1 (fieldLe b 0 1)
  let gn := max 1 (fieldLe b 1 1)
  let g := matGrid r x
  (List.range (ceilDiv g.1 gm)).flatMap fun i => (List.range (ceilDiv g.2 gn)).map fun k =>
    ⟨i * gm, k * gn, min gm (g.1 - i * gm), min gn (g.2 - k * gn)⟩

/-- Where an operation stands: product, group and its number in the node, tile of the group, step of K, and the number
of the operation within its group. -/
structure MatPos where
  prod : Nat
  group : MatGroup
  num : Nat
  tile : Nat
  step : Nat
  first : Nat
  deriving DecidableEq, Repr

/-- Operation `t` among groups of `n` steps each. -/
def matFind (n prod : Nat) : List MatGroup → Nat → Nat → MatPos
  | [], num, _ => ⟨prod, ⟨0, 0, 1, 1⟩, num, 0, 0, 0⟩
  | g :: gs, num, t =>
    let size := max 1 (g.rows * g.cols)
    if t < size * n then ⟨prod, g, num, t % size, t / size, t⟩ else matFind n prod gs (num + 1) (t - size * n)

/-- Where operation `t` of a node stands, `n` operations to a tile. -/
def matPos (r : Route) (x : Node) (n t : Nat) : MatPos :=
  let gs := matGroups r x
  let per := max 1 ((matGrid r x).1 * (matGrid r x).2 * n)
  matFind n (t / per) gs (t / per * gs.length) (t % per)

/-- Operations of a node. -/
def matTotal (r : Route) (x : Node) (n : Nat) : Nat := (matGrid r x).1 * (matGrid r x).2 * n * (nodeDesc r x 2).sz 2

/-- The member that runs group `g` of a task homed on `h`, among `p` members (R227). -/
def groupMember (x : Node) (h g p : Nat) : Nat := (h + g % spanWidth x) % max 1 p

/-- First tile of the set that output slot `k` uses: two sets take turns under `ACC_OUT` 1 (R228). -/
def setBase (r : Route) (x : Node) (k : Nat) : Nat :=
  let b := nodeBlock r x
  if accOut r x then k % 2 * (fieldLe b 0 1 * fieldLe b 1 1) else 0

/-- The slot that the open group of a node with `ACC_OUT` 1 took last. -/
def takenSlot (s : State) (j h e : Nat) : Nat :=
  let d := max 1 (edgeOf s j e).depth
  ((edgeAt s j h e).prodNext + d - 1) % d

/-- Groups handed over on edge `e` and not yet consumed, as slot and group number. -/
def groupsOut (s : State) (j h e : Nat) : List (Nat × Nat) :=
  ((edgeAt s j h e).fills.map fun f => (f.1, f.2.band)) ++
  ((s.ops.filter fun o => o.job = j ∧ o.pod ≠ 127).flatMap fun o =>
    (o.fills.filter fun f => f.1 = h * 4096 + e).map fun f => (f.2.1, f.2.2.band))

/-- Segments of 64 along `AXIS`, per line of the input of a composite `VECTOR` node (R233). -/
def lineSegs (r : Route) (x : Node) : Nat := max 1 (ceilDiv ((nodeDesc r x 0).sz (fieldLe (nodeBlock r x) 2 1)) 64)

/-- Accumulator tiles that node `n` holds live on member `m` (R59). -/
def heldTiles (s : State) (j m n : Nat) : List Nat :=
  let r := (job s j).route
  let x := nodeOf s j n
  let p := (job s j).members.length
  let base := accBase r n
  let block (h e : Nat) (g : Nat × Nat) : List Nat :=
    if groupMember x h g.2 p ≠ m then []
    else
      let gs := matGroups r x
      let f := gs.getD (g.2 % max 1 gs.length) ⟨0, 0, 1, 1⟩
      (List.range (max 1 (f.rows * f.cols))).map fun k => base + (if e = 4096 then 0 else setBase r x g.1) + k
  if x.kind = 5 then
    (spanHomes x m p).flatMap fun h =>
      let e := if accOut r x then x.outFirst else 4096
      ((nodeAt s j h n).works.flatMap fun w =>
        let q := matPos r x (matSteps r x) w.tile
        if q.first = 0 then [] else block h e (takenSlot s j h e, q.num)) ++
      if accOut r x then (groupsOut s j h e).flatMap (block h e) else []
  else if x.kind = 6 ∧ x.opcode = 7 then if (nodeAt s j m n).works.any fun w => w.tile ≠ 0 then [base] else []
  else if x.kind = 6 ∧ (x.opcode = 3 ∨ x.opcode = 4 ∨ x.opcode = 5) then
    if (nodeAt s j m n).works.any fun w => 64 * w.tile % lineSegs r x ≠ 0 then [base] else []
  else []

/-- Whether tiles `ts` of member `m` are free for node `n`: no node of another segment holds one of them (R228). -/
def tilesFree (s : State) (j m n : Nat) (ts : List Nat) : Bool :=
  let r := (job s j).route
  let d := stageDepths r
  (List.range r.nodes.length).all fun k =>
    d.getD k 0 = d.getD n 0 || !((heldTiles s j m k).any fun a => ts.any fun b => a % 8 = b % 8)

/-- Live-accumulator mask of member `m` (Table 2-16). -/
def liveMask (s : State) (j m : Nat) : Nat :=
  (List.range (job s j).route.nodes.length).foldl (fun a n => (heldTiles s j m n).foldl (fun a k => a ||| 2 ^ (k % 8)) a) 0

end Sys2Proof.Machine
end

