-- ==== Sys2Proof/Machine/Transfer.lean ====
section
/-! DEFINITION. INGEST, TRANSFER and EMIT tile operations (spec/11_marrow_and_streaming.md R276 to R281; spec/03
R67; spec/02 R36). -/

namespace Sys2Proof.Machine

/-- Bytes [a, a + n) cut at 4 KiB pages (R274). -/
def pageCuts (a n : Nat) : List (Nat × Nat) :=
  if n = 0 then []
  else (List.range ((a + n - 1) / 4096 + 1 - a / 4096)).map fun k =>
    let lo := max a ((a / 4096 + k) * 4096)
    let hi := min (a + n) ((a / 4096 + k + 1) * 4096)
    (lo, hi - lo)

/-- Issues a memory tile operation in its transfer's context, once its Pod holds the tokens it needs (R274, R282); `f` completes
the record. -/
def issueMem (s : State) (c : Cand) (total : Nat) (reqs : Nat → Nat → List MemReq) (f : TileOp → TileOp := id) : Option State :=
  match contextFor s c.p c.j c.n c.rank c.h with
  | none => none
  | some (s, x) =>
    let i := s.nextOp
    let rs := reqs x i
    if tokensFree s c.p rs then some (sendOp (issue s c total fun o => { f o with xfer := some x }) i rs) else none

/-- The next slot of every one of edges `es`, if all are empty and fed by their own node. -/
def edgeSlots (s : State) (c : Cand) (es : List Nat) : Option (List (Nat × Nat)) :=
  es.foldl (fun a e => match a with
    | none => none
    | some l =>
      let k := (edgeAt s c.j c.h e).prodNext
      if slotEmpty s c.j c.h e k && (halfOn s c.j c.h e false).isNone then some (l ++ [(c.h * 4096 + e, k)]) else none) (some [])

/-- The next slot of every output edge, if all are empty. -/
def nextSlots (s : State) (c : Cand) : Option (List (Nat × Nat)) := edgeSlots s c (outEdges (c.node s))

/-- What hand-off `i` of the candidate's entry fills slots with. -/
def fillsOf (s : State) (c : Cand) (outs : List (Nat × Nat)) (i : Nat) (last : Bool) (a : Option Band) : List (Nat × Nat × Fill) :=
  outs.map fun o => (o.1, o.2, ⟨c.rank, c.task, i, last, ((c.entry s).map (·.stage)).getD 0, a⟩)

/-- The source bytes of an entry, cut at pages and at the slots of the edges that take them (R25, R274). -/
def sourcePieces (s : State) (c : Cand) (e : Entry) : List (Nat × Nat) :=
  let es := (outEdges (c.node s)).filter (sourceEdge (c.route s))
  let z := max 64 (es.foldl (fun a k => min a (slotBytes (edgeOf s c.j k))) 4096)
  (pageCuts e.body.srcAddr.toNat e.body.srcLen.toNat).flatMap fun q =>
    (List.range (ceilDiv q.2 z)).map fun i => (q.1 + z * i, min z (q.2 - z * i))

/-- An INGEST tile operation: it fetches a piece of the source bytes of a `SAMPLE` or `FRAME` entry into the next slot of the
edges to `DECODE`; an entry of another opcode passes in one operation (log 8). -/
def ingestOp (s : State) (c : Cand) : Option State :=
  match c.entry s with
  | none => none
  | some e =>
    let feeds := ownOutputs (c.route s) (c.node s)
    let qs := if e.opcode = 1 ∨ e.opcode = 2 then sourcePieces s c e else []
    let last := decide (qs.length ≤ c.tile + 1)
    let es := outEdges (c.node s)
    match if feeds then edgeSlots s c (if last then es else es.filter (sourceEdge (c.route s))) else some [] with
    | none => none
    | some outs =>
      let f (o : TileOp) : TileOp := if feeds then { o with outs := outs, fills := fillsOf s c outs c.tile last none } else o
      let t := if feeds then beginWork s { c with outs := outs } else s
      match qs[c.tile]? with
      | some q => issueMem t c qs.length (fun x i => readReqs q.1 q.2 (sqXlat s e.sq) c.p x c.tile i) f
      | none => some (issue t c 1 f)

/-- An EMIT tile operation: it ends its entry, whose results `TRANSFER` has placed (log 8), in a context of its own (R282). -/
def emitOp (s : State) (c : Cand) : Option State := issueMem s c 1 fun _ _ => []

/-- `LOAD`: reads the source bytes of the tile (R277). -/
def loadOp (s : State) (c : Cand) (e : Entry) : Option State :=
  let src := nodeDesc (c.route s) (c.node s) 0
  let dst := nodeDesc (c.route s) (c.node s) 1
  let is := xferElems dst c.tile
  issueMem s c (xferTiles dst) fun x i =>
    coverReqs (hostKeys src e.body.srcAddr.toNat is) (sqXlat s e.sq) c.p x c.tile i

/-- The Marrow bytes of a `LOAD` whose data has arrived, and the poisoned lines among them (R277, R264). -/
def loadBytes (s : State) (c : Cand) (e : Entry) (o : TileOp) : List WByte × List Nat :=
  let src := nodeDesc (c.route s) (c.node s) 0
  let dst := nodeDesc (c.route s) (c.node s) 1
  let a := e.body.srcAddr.toNat
  let is := xferElems dst o.tile
  let bad (k : Nat) : Bool := o.gotPois.contains (k / 64)
  let one (i : List Nat) : List WByte × Bool :=
    (putElem s c dst i (hostElem o src a i),
     (elemBytes (dtBits src.dtype) (src.bitAddr (toInts i))).any fun k => bad (a + k))
  let sc (i : List Nat) : List WByte × Bool :=
    (putScale s c dst i (sgetD o.got (a + src.scaleAddr i) 0).toNat, bad (a + src.scaleAddr i))
  let all := is.map one ++ (blockHeads dst is).map sc
  (all.flatMap (·.1), (all.filter (·.2)).flatMap fun x => wLines x.1)

/-- Marrow elements read for a move, with `put` and `putSc` giving the writes of an element and of a scale (R277): the
reader and what each destination index receives. -/
def moveWith (s : State) (c : Cand) (src dst : Desc) (is : List (List Nat)) (put putSc : List Nat → Nat → List WByte) :
    Rd × List Moved :=
  let r := ((Rd.start s).elems (some (candOp s c false)) c src is)
  let t := r.st
  (r, is.map (fun i => (put i (elemAt t c src i), (elemKeys t c src i).any (keyPois t))) ++
    (blockHeads dst is).map fun i => (putSc i (scaleAt t c src i), (scaleKey t c src i).any (keyPois t)))

/-- Marrow elements moved to Marrow (R277). -/
def moveBytes (s : State) (c d : Cand) (src dst : Desc) (is : List (List Nat)) : Rd × List Moved :=
  moveWith s c src dst is (putElem s d dst) (putScale s d dst)

/-- `STORE`: reads Marrow and writes host memory (R277, R458). A byte of which one nibble is written waits until
earlier operations of the node on that byte are answered. -/
def storeOp (s : State) (c : Cand) (e : Entry) : Option State :=
  let src := nodeDesc (c.route s) (c.node s) 0
  let dst := nodeDesc (c.route s) (c.node s) 1
  let a := e.body.dstAddr.toNat
  let g := moveWith s c src dst (xferElems dst c.tile) (hostPut dst a)
    fun i v => [⟨a + dst.scaleAddr i, BitVec.ofNat 8 v, 0xFF⟩]
  let r := g.1
  let t := r.st
  let ws := g.2.flatMap (·.1)
  let busy (k : Nat) : Bool := t.ops.any fun o => o.job = c.j && o.node = c.n && decide (0 < o.awaiting) &&
    o.sent.any fun q => decide (q.addr ≤ k ∧ k < q.addr + 64 * q.lines)
  if r.hit ∨ ws.any (fun w => w.mask ≠ 0xFF && busy w.key) then none
  else match issueMem t c (xferTiles dst) fun x i => scatterReqs ws (badLines g.2) (sqXlat s e.sq) c.p x c.tile i with
    | none => none
    | some u => some (if r.pois then failJob (bump u (podPage c.p) 11 r.lines) c.j 0x4042 stAborted [c.rank] else u)

/-- Members that a `MULTICAST` names (Table 11-4); where an inbound half fills the edge, it does not (spec/13 R325). -/
def receivers (s : State) (c : Cand) : List Nat :=
  let b := c.block s
  let e := (nodeDesc (c.route s) (c.node s) 1).edge
  (List.range (jobP s c.j)).filter fun m => bitN (fieldLe b 0 12) m && !fedEdge s c.j m e

/-- The candidate as receiver `m` sees it: its own slot of the destination edge. -/
def asReceiver (c : Cand) (m e slot : Nat) : Cand := { c with h := m, outs := [(m * 4096 + e, slot)] }

/-- The slots that a multicast sends its tile to: those its first tile took, which are the free ones (R280). -/
def castSlots (s : State) (c : Cand) : List (Nat × Nat) :=
  let e := (nodeDesc (c.route s) (c.node s) 1).edge
  if c.fresh then (receivers s c).filterMap fun m =>
    let k := (edgeAt s c.j m e).prodNext
    if slotEmpty s c.j m e k then some (m * 4096 + e, k) else none
  else c.outs

/-- What a multicast tile of candidate `c` with slots `c.outs` writes (R280). -/
def castMoves (s : State) (c : Cand) : List Moved :=
  let src := nodeDesc (c.route s) (c.node s) 0
  let dst := nodeDesc (c.route s) (c.node s) 1
  c.outs.flatMap fun x => (moveBytes s c (asReceiver c (x.1 / 4096) dst.edge x.2) src dst (xferElems dst c.tile)).2

/-- Receivers to which a multicast does not send its tile: their slots are full (R281). -/
def castLeft (s : State) (c : Cand) : List Nat := (receivers s c).filter fun m => !((castSlots s c).any fun x => x.1 / 4096 = m)

/-- `MULTICAST`: sends a tile to every receiver with a free slot (R280). -/
def multicastOp (s : State) (c : Cand) : Option State :=
  let src := nodeDesc (c.route s) (c.node s) 0
  let dst := nodeDesc (c.route s) (c.node s) 1
  let left := castLeft s c
  let c := { c with outs := castSlots s c }
  let r := ((Rd.start s).elems (some (candOp s c false)) c src (xferElems dst c.tile))
  let ms := castMoves s c
  let total := xferTiles dst
  if r.hit then none
  else if r.pois then finishMove r c total ms false
  else
    let i := r.st.nextOp
    let t := issueWrites r.st c total (ms.flatMap (·.1)) []
    some (if left ≠ [] then modOp t i fun o => { o with dropped := left, awaiting := 1 } else t)

/-- The slot that receiver `m` has taken for a multicast from operation `o`'s source, or its next slot if that is empty; the state
then holds it on a record of its own (R281). -/
def castSlot (s : State) (o : TileOp) (m e : Nat) : Option (State × Nat) :=
  match (s.ops.filter fun q => q.pod = 127 && sameWork o q).findSome? fun q => q.outs.find? fun x => x.1 = m * 4096 + e with
  | some x => some (s, x.2)
  | none =>
    let k := (edgeAt s o.job m e).prodNext
    if slotEmpty s o.job m e k = false ∨ fedEdge s o.job m e then none
    else
      let s := takeEmpty s o.job m e k
      let s := modEdge s o.job m e fun t => { t with prodNext := if k + 1 < (edgeOf s o.job e).depth then k + 1 else 0 }
      some ({ s with nextOp := s.nextOp + 1, ops := s.ops ++ [{ o with
        id := s.nextOp, pod := 127, outs := [(m * 4096 + e, k)], ins := [], lines := [], awaiting := 0, last := false, dropped := []
        fills := [] }] }, k)

/-- A receiver that has not taken a multicast tile reads it from the source slot once its own slot is free (R281): before the
verdict the tile is part of the operation; the receiver's full Milepost is set when it holds every tile. -/
def refetch (s : State) (p : Nat) : Option State :=
  let m := (podAt s p).member
  if podIssues s p = false then none
  else match s.ops.find? fun (o : TileOp) => o.job = (podAt s p).job && o.kind = 9 && o.dropped.contains m with
    | none => none
    | some o =>
      let c : Cand := ⟨o.job, o.member, o.node, p, o.rank, o.task, o.tile, false, (s.ops.filter (sameWork o)).flatMap (·.ins) ++
        ((nodeAt s o.job o.member o.node).works.filter fun w => w.rank = o.rank).flatMap (·.ins), []⟩
      let src := nodeDesc (c.route s) (c.node s) 0
      let dst := nodeDesc (c.route s) (c.node s) 1
      (castSlot s o m dst.edge).map fun t =>
        let g := moveBytes t.1 c (asReceiver c m dst.edge t.2) src dst (xferElems dst o.tile)
        let ws := g.2.flatMap (·.1)
        let ls := wLines ws
        let left := ndel o.dropped m
        let s := writeAll g.1.st ws (badLines g.2) (some o)
        if o.pod ≠ 127 then
          modOp (forgetSent (setProv s ls true) ls) o.id fun x => { x with
            dropped := left, awaiting := if left.isEmpty then 0 else x.awaiting, lines := x.lines ++ ls }
        else settleCast (modOp (forgetSent s ls) o.id fun x => { x with dropped := left }) o

/-- A TRANSFER tile operation (Table 11-3). -/
def transferOp (s : State) (c : Cand) : Option State :=
  match c.entry s with
  | none => none
  | some e =>
    let src := nodeDesc (c.route s) (c.node s) 0
    let dst := nodeDesc (c.route s) (c.node s) 1
    match (c.node s).opcode with
    | 1 => loadOp s c e
    | 2 => storeOp s c e
    | 3 =>
      let g := moveBytes s c c src dst (xferElems dst c.tile)
      finishMove g.1 c (xferTiles dst) g.2 false
    | _ => multicastOp s c

/-- TRANSFER_TILE_OP: a dropped receiver's fetch, or the next tile of a `TRANSFER` node. -/
def doTransfer (s : State) (p : Nat) : State :=
  match refetch s p with
  | some t => t
  | none => runStation s p 9 transferOp

/-- MULTICAST_DEADLINE: 2,048 F-cycles after issue, receivers without the tile are dropped and counted (R281). -/
def doDeadline (s : State) (p i : Nat) : State :=
  match opAt s i with
  | some o =>
    if o.pod = p ∧ o.kind = 9 ∧ o.opcode = 4 ∧ o.awaiting ≠ 0 then
      bump (modOp s i fun o => { o with awaiting := 0 }) 3 4 o.dropped.length
    else s
  | none => s

/-- The Marrow bytes of a fetched piece of source, and the lines among them that hold a byte of a poisoned host line (R25,
R264). -/
def sourceWrites (s : State) (c : Cand) (e : Entry) (o : TileOp) : List WByte × List Nat :=
  let q := (sourcePieces s c e).getD o.tile (0, 0)
  let bs := (List.range q.2).map fun i => sgetD o.got (q.1 + i) 0
  let feeds := o.outs.filter fun x => sourceEdge (c.route s) (x.1 % 4096)
  let at' (x : Nat × Nat) : Nat := slotAddr (edgeOf s c.j (x.1 % 4096)) x.2
  (feeds.flatMap fun x => wBytes (c.home s) (at' x) bs,
   feeds.flatMap fun x => (List.range q.2).filterMap fun i =>
     if o.gotPois.contains ((q.1 + i) / 64) then some (lkey (c.home s) ((at' x + i) / 64)) else none)

/-- The data of an INGEST operation or of a `LOAD` is written into Marrow (R25, R278). -/
def deliver (s : State) (o : TileOp) : State :=
  match entryRank s o.job o.rank with
  | none => s
  | some e =>
    let c : Cand := ⟨o.job, o.member, o.node, o.pod, o.rank, o.task, o.tile, false, o.ins,
      ((nodeAt s o.job o.member o.node).works.find? fun w => w.rank = o.rank).map (·.outs) |>.getD o.outs⟩
    if o.kind = 0 ∨ o.opcode = 1 then
      let w := if o.kind = 0 then sourceWrites s c e o else loadBytes s c e o
      let s := writeAll s w.1 w.2 (some o)
      let ls := wLines w.1
      modOp (forgetSent (setProv s ls true) ls) o.id fun x => { x with lines := ls }
    else s

/-- The meaning of INGEST_TILE_OP. -/
def execIngestTileOp (p : Fin 100) (s : State) : Host.Outcome State Fault Refusal := .next (runStation s p.val 0 ingestOp)
/-- The meaning of EMIT_TILE_OP. -/
def execEmitTileOp (p : Fin 100) (s : State) : Host.Outcome State Fault Refusal := .next (runStation s p.val 10 emitOp)
/-- The meaning of TRANSFER_TILE_OP. -/
def execTransferTileOp (p : Fin 100) (s : State) : Host.Outcome State Fault Refusal := .next (doTransfer s p.val)
/-- The meaning of MULTICAST_DEADLINE. -/
def execMulticastDeadline (p : Fin 100) (i : Nat) (s : State) : Host.Outcome State Fault Refusal :=
  .next (doDeadline s p.val i)

end Sys2Proof.Machine
end

