-- ==== Sys2Proof/Machine/Context.lean ====
section
/-! DEFINITION. The saved-context image: its layout, the granules of each member's share, and what a restore loads
(spec/02 R57 to R60; spec/12 R316). -/

namespace Sys2Proof.Machine

/-- Size of an image of `p` members and `w` granules (R57). -/
def imageBytes (p w : Nat) : Nat := 8192 + p * 151552 + w * 4096

/-- Tasks of job `j`: their numbers, in order. -/
def jobTasks (s : State) (j : Nat) : List Nat :=
  (s.entries.filter fun e => e.job = j ∧ e.st ≠ .done ∧ [1, 2, 4].contains e.opcode).foldl (fun a e => nins a e.task) []

/-- Tasks of job `j` homed on member `m`. -/
def memberTasks (s : State) (j m : Nat) : List Nat := (jobTasks s j).filter fun t =>
  s.entries.any fun e => e.job = j ∧ e.task = t ∧ e.member = m ∧ e.st ≠ .done

/-- The node and tile cursor of a task (Table 2-16): the lowest node that has work left for it. -/
def taskCursor (s : State) (j m t : Nat) : Nat × Nat :=
  match s.entries.find? fun e => e.job = j ∧ e.task = t ∧ e.st ≠ .done with
  | some e =>
    let n := ((entryNodes s j m e.opcode).find? fun n => !e.sinks.contains n).getD 0
    let t := ((nodeAt s j m n).works.find? fun w => w.rank = e.rank).map (·.tile) |>.getD 0
    (n, t)
  | none => (0, 0)

/-- Whether the saved image is resizable: no Milepost set and no accumulator live on any member (R59). -/
def isResizable (s : State) (j : Nat) : Bool :=
  let b := job s j
  (List.range b.members.length).all fun m =>
    liveMask s j m = 0 && (List.range b.route.mpPer).all fun k => !(mpAt s (mpId s j m k)).value

/-- The header of Table 2-15 with `COMMIT` 0. -/
def ctxHeader (s : State) (j : Nat) : List Byte :=
  let b := job s j
  let p := b.members.length
  let at' := match b.active with
    | some c => c.atStage
    | none => false
  leBytes 4 0x58544342 ++ leBytes 2 1 ++ leBytes 2 128 ++ leBytes 1 j ++ leBytes 1 p ++
  leBytes 2 (b2n b.resizable + 2 * b2n at') ++ leBytes 4 b.route.crc ++ leBytes 4 b.window ++ leBytes 4 0 ++
  leBytes 8 (imageBytes p b.window) ++ leBytes 8 b.saveTime ++ leBytes 8 b.nextTask ++
  leBytes 4 (jobTasks s j).length ++ List.replicate 76 (0 : Byte)

/-- The word of a gate in the job section (R316). -/
def gateWord (g : Gate) : Nat :=
  b2n g.gen + 2 * (gateArrived g) + 2 ^ 10 * g.ext.toNat +
  2 ^ 19 * (g.externals.foldl (fun a i => a + 2 ^ i) 0) + 2 ^ 28 * b2n g.broken

/-- The job section (Table 2-16). -/
def jobSection (s : State) (j : Nat) : List Byte :=
  let b := job s j
  leBytes 8 b.seed ++ List.replicate 56 (0 : Byte) ++ (List.range 64).flatMap (fun k => leBytes 8 (b.slotPos.getD k 0)) ++
  (List.range 256).flatMap (fun k => match b.gates[k]? with
    | some g => leBytes 4 (gateWord (gateAt s g))
    | none => leBytes 4 0) ++ List.replicate 2496 (0 : Byte)

/-- Bits as bytes, bit k of byte k / 8. -/
def bitBytes (n : Nat) (f : Nat → Bool) : List Byte :=
  (List.range n).map fun i => BitVec.ofNat 8 ((List.range 8).foldl (fun a k => a + 2 ^ k * b2n (f (8 * i + k))) 0)

/-- Granule `k` of the member section (Table 2-16, R316). The 7 bytes of the misuse summary have no stated layout:
free values (log 3). -/
def sectionBytes (s : State) (j m k : Nat) : List Byte :=
  let p := (memberPod s j m).getD 127
  if k < 32 then (List.range 1024).flatMap fun i =>
    leBytes 4 (accAt s p (k / 4) (k % 4 * 1024 + i)).toNat
  else if k = 32 then
    bitBytes 256 (fun i => (mpAt s (mpId s j m i)).value) ++ leBytes 1 (liveMask s j m) ++
    leBytes 7 (Config.unstated 1 [j, m]) ++ List.replicate 248 (0 : Byte) ++
    bitBytes 32 (fun i => match (job s j).gates[i]? with
      | some g => (gateAt s g).members.contains m
      | none => false) ++ List.replicate 3552 (0 : Byte)
  else
    let ts := memberTasks s j m
    (List.range 256).flatMap fun i => match ts[(k - 33) * 256 + i]? with
      | some t => leBytes 8 t ++ leBytes 4 (taskCursor s j m t).1 ++ leBytes 4 (taskCursor s j m t).2
      | none => List.replicate 16 (0 : Byte)

/-- Tiles before the member section: member 0 also writes header and job section. -/
def preTiles (m : Nat) : Nat := if m = 0 then 2 else 0

/-- Window granules of member `m` of `p` (R49). -/
def memberGrans (w p m : Nat) : Nat := if m < w then (w - m - 1) / p + 1 else 0

/-- Tiles of a member's share of a save or restore (R282). -/
def shareTiles (w p m : Nat) : Nat := preTiles m + 37 + memberGrans w p m

/-- Image offset of tile `t` of member `m` of `p`, in an image saved from `src` members. -/
def tileOfs (src p m t : Nat) : Nat :=
  let k := t - preTiles m
  if t < preTiles m then t * 4096
  else if k < 37 then 8192 + m * 151552 + k * 4096
  else 8192 + src * 151552 + ((k - 37) * p + m) * 4096

/-- The bytes and poisoned lines (by line within the granule) of tile `t` of a save, with the state after the
checked reads (R263, R58). -/
def saveBytes (s : State) (j m t : Nat) : State × List Byte × List Nat :=
  let p := (memberPod s j m).getD 127
  let k := t - preTiles m
  if t < preTiles m then
    (s, if t = 0 then ctxHeader s j ++ List.replicate 3968 (0 : Byte) else jobSection s j, [])
  else if k < 37 then
    (s, sectionBytes s j m k, if k < 32 ∧ accPois s p (k / 4) then List.range 64 else [])
  else
    let r := (Rd.start s).bytes none p ((k - 37) * 4096) 4096
    (r.1.st, r.2, (List.range 64).filter fun l => linePois r.1.st p ((k - 37) * 64 + l))

/-- Sends tile `t` of member `m`'s share of a save: sixteen writes of 256 bytes (R55). -/
def sendSave (s : State) (j m t : Nat) : State :=
  let b := job s j
  let p := b.members.length
  let x := saveBytes s j m t
  let base := b.ctxAddr + tileOfs p p m t
  (List.range 16).foldl (fun s i =>
    let pois := (List.range 4).foldl (fun a l => a + 2 ^ l * b2n (x.2.2.contains (4 * i + l))) 0
    sendReq s (writeReq (base + 256 * i) (slice x.2.1 (256 * i) 256) 0 1 ((memberPod s j m).getD 127) pois (.saveGran j m t))) x.1

/-- Sends tile `t` of member `m`'s share of a restore: sixteen reads of 256 bytes. -/
def sendRestore (s : State) (j m t : Nat) : State :=
  let b := job s j
  let base := b.ctxAddr + tileOfs b.srcPods b.members.length m t
  (List.range 16).foldl (fun s i =>
    sendReq s (readReq (base + 256 * i) 256 0 0 ((memberPod s j m).getD 127) (.restoreGran j m t))) s

/-- The context-31 transfer number of member `m`. -/
def ctxNum (s : State) (j m : Nat) : Nat := (job s j).members.getD m 0 * 32 + 31

/-- Opens member `m`'s share at tile `t`. -/
def openShare (s : State) (j m t : Nat) : State :=
  modMem s fun q => { q with xfers := q.xfers ++ [⟨ctxNum s j m, 1, j, 0, 0xFFFF, m, t, 0, false, none⟩] }

/-- Whether some share of job `j` is still open. -/
def sharesOpen (s : State) (j : Nat) : Bool := s.mem.xfers.any fun x => x.job = j ∧ x.num % 32 = 31

/-- Writes the COMMIT word: 0 before any other byte, the final word after every acknowledgement (R58). -/
def sendCommit (s : State) (j : Nat) (final : Bool) : State :=
  let b := job s j
  let v := if final then 0x42494C54 ^^^ (b.saveTime % 2 ^ 32) else 0
  memWrite (modJob s j fun b => { b with phase := if final then 3 else 1 }) (b.ctxAddr + 0x7C) (leBytes 4 v) 0 1 127
    (.commit j final)

/-- After COMMIT 0 is acknowledged every member's share starts. -/
def startShares (s : State) (j : Nat) : State :=
  let s := modJob s j fun b => { b with phase := 2 }
  (List.range (job s j).members.length).foldl (fun s m => sendSave (openShare s j m 0) j m 0) s

/-- Whether a request of a tile of a share is unanswered. -/
def granOpen (s : State) (pu : Purpose) : Bool :=
  s.mem.reqs.any (fun r => r.purpose = pu) || s.mem.held.any (fun r => r.purpose = pu)

/-- Tile `t` of member `m`'s share is answered: the next tile goes out, or the share ends; after the last share of
a save COMMIT is written (R58). In `HALTED` nothing more is sent (Table 2-17). -/
def granDone (s : State) (j m t : Nat) (save : Bool) : State :=
  let b := job s j
  let n := ctxNum s j m
  match xferNum s n with
  | none => s
  | some x =>
    if x.faulted ∨ x.cursor ≠ t ∨ granOpen s (if save then .saveGran j m t else .restoreGran j m t) ∨ s.blk.st = .halted then s
    else if t + 1 < shareTiles b.window b.members.length m then
      let s := modXfer s n fun x => { x with cursor := t + 1 }
      if save then sendSave s j m (t + 1) else sendRestore s j m (t + 1)
    else
      let s := modMem s fun q => { q with xfers := q.xfers.filter fun x => x.num ≠ n }
      if save && !sharesOpen s j then sendCommit s j true else s

/-- Places the 256 bytes at offset `ofs` of tile `t` that a restore read (R57, R59); `pois` names poisoned lines. -/
def placeRestore (s : State) (j m t ofs : Nat) (bs : List Byte) (pois : Nat) : State :=
  let p := (memberPod s j m).getD 127
  let k := t - preTiles m
  if k < 32 then
    let s := (List.range 64).foldl (fun s i =>
      setAcc s p (k / 4) (k % 4 * 1024 + ofs / 4 + i) (BitVec.ofNat 32 (fieldLe bs (4 * i) 4))) s
    if pois ≠ 0 then setAccPois s p (k / 4) true else s
  else if k = 32 then
    if ofs = 0 then
      (List.range 2048).foldl (fun s i =>
        if bitN (bs.getD (i / 8) 0).toNat (i % 8) then mpForce s (mpId s j m i) true else s) s
    else s
  else if k < 37 then s
  else
    let a := (k - 37) * 4096 + ofs
    writeAll s (wBytes p a bs) ((List.range 4).filterMap fun l => if bitN pois l then some (lkey p (a / 64 + l)) else none)

end Sys2Proof.Machine
end

