-- ==== Sys2Proof/Machine/Causeway.lean ====
section
/-! DEFINITION. The Causeway: binding of halves, flits received, couriers, fed slots, memory apertures, heartbeats and
loss (spec/13_causeway.md R321 to R337). -/

namespace Sys2Proof.Machine

/-- Whether flits are applied: not in `COLD`, `SELF_TEST` or `HALTED` (Table 13-3). -/
def cwyLive (s : State) : Bool := portOpen s && s.blk.st ≠ .halted

/-- Counts received flits and lines of port `k` (Table 13-6). -/
def received (s : State) (k flits lines : Nat) : State := bump (bump s (cwyPage k) 1 flits) (cwyPage k) 3 lines

/-- Register `r` of half `h` of port `k`. -/
def halfReg (s : State) (k h r : Nat) : Nat := rg s (cwyPage k) (0x400 + 0x20 * h + r)

/-- Whether half `h` of port `k` serves a memory aperture (`MODE` 1). -/
def memMode (s : State) (k h : Nat) : Bool := bitN (halfReg s k h 0) 1

/-- Milepost index of slot `x` of half `h`: its full Milepost, or its empty one. -/
def halfMp (s : State) (k h x : Nat) (empty : Bool) : Nat :=
  let y := halfAt s k h
  let off := if empty then y.depth + x else x
  if memMode s k h then mpId s y.job y.member (bits (halfReg s k h 8) 10 0 + off)
  else mpId s y.job y.member ((edgeOf s y.job y.edge).mpBase + off)

/-- The Milepost range of a half on its member, as first index and length. -/
def halfRange (s : State) (k h : Nat) (y : Half) : Nat × Nat :=
  (if memMode s k h then bits (halfReg s k h 8) 10 0 else (edgeOf s y.job y.edge).mpBase, 2 * y.depth)

/-- The half that a write of its configuration would bind. -/
def wouldBe (s : State) (k h : Nat) : Half :=
  let cfg := halfReg s k h 0
  let j := bits cfg 15 8
  let e := bits cfg 27 16
  let d := edgeOf s j e
  let mm := memMode s k h
  { Half.empty with
    st := .active, job := j, member := bits (halfReg s k h 4) 6 0, edge := if mm then 4096 else e,
    depth := if mm then bits (halfReg s k h 0xC) 30 24 else d.depth,
    lines := if mm then bits (halfReg s k h 0xC) 16 0 else slotBytes d / 64 }

/-- The checks of Table 13-2, in order. -/
def halfCheck (s : State) (k h : Nat) : Option Nat :=
  let p := cwyPage k
  let cfg := halfReg s k h 0
  let y := wouldBe s k h
  let b := job s y.job
  let mm := memMode s k h
  let out := decide (h < 4)
  let rsv := [0, 4, 8, 0xC, 0x10, 0x18].any fun r => rsvSet s p (0x400 + 0x20 * h + r)
  let ap := halfReg s k h 0x10 + 2 ^ 32 * halfReg s k h 0x14
  let clash := (halves s).any fun x =>
    !decide (x.1 = k ∧ x.2.1 = h) && x.2.2.job = y.job && x.2.2.member = y.member &&
    (let a := halfRange s x.1 x.2.1 x.2.2
     let c := halfRange s k h y
     (x.2.2.edge = y.edge && !mm) || decide (a.1 < c.1 + c.2 ∧ c.1 < a.1 + a.2))
  if enabled s 0x00C = false ∨ (portAt s k).st ≠ 1 then some 0x0D07
  else if (out && mm) || (!out && (bitN cfg 2 || bitN cfg 3)) || rsv then some 0x0D04
  else if b.st ≠ .bound then some 0x0D01
  else if b.members.length ≤ y.member then some 0x0D03
  else if mm = false ∧ (b.route.edgeCount ≤ y.edge ∨ (edgeOf s y.job y.edge).sync ≠ 0) then some 0x0D02
  else if mm ∧ !(decide (1 ≤ y.depth ∧ y.depth ≤ 64 ∧ 1 ≤ y.lines ∧ y.lines ≤ 98304) &&
      decide (ap + y.depth * y.lines * 64 ≤ 2 ^ 64 ∧ bits (halfReg s k h 8) 10 0 + 2 * y.depth ≤ b.route.mpPer)) then some 0x0D05
  else if bitN cfg 3 ∧ b.route.tollgates ≤ bits (halfReg s k h 4) 15 8 then some 0x0D08
  else if clash then some 0x0D06
  else none

/-- A write of `CWY_HALF_CFG` (R330). -/
def halfCfg (s : State) (k h w : Nat) : State :=
  if (halfAt s k h).st ≠ .unbound then s
  else
    let o := 0x400 + 0x20 * h
    let s := storeReg s (cwyPage k) o w
    if bitN w 0 = false then s
    else match halfCheck s k h with
      | some code => refuse (wrg s (cwyPage k) o (rg s (cwyPage k) o &&& 0xFFFFFFFE)) (cwyPage k) code o
      | none =>
        let y := wouldBe s k h
        let s := modHalf s k h fun _ => y
        if h < 4 then sendFlit s k (plainFlit 9 h 0 (y.depth + 2 ^ 7 * y.lines)) else s

/-- Refuses `CWY_PORT_CMD` (R446). -/
def portRefuse (s : State) (k code : Nat) : State :=
  refuse (wrg s (cwyPage k) 0x024 (rg s (cwyPage k) 0x024 ||| 2 ^ 30)) (cwyPage k) code 0x024

/-- Sends the buffered lines of an aperture that may go to memory: those not provisional, not yet sent, and with no earlier
write of theirs unanswered (R326). -/
def pushLines (s : State) (k h : Nat) : State :=
  let y := halfAt s k h
  let ap := halfReg s k h 0x10 + 2 ^ 32 * halfReg s k h 0x14
  y.buffer.foldl (fun s b =>
    let pu := Purpose.aperture k h b.slot b.line
    if b.prov || b.sent || s.mem.reqs.any (fun r => r.purpose = pu) || s.mem.held.any (fun r => r.purpose = pu) then s
    else
      let s := modHalf s k h fun y => { y with buffer := y.buffer.map fun c => if c = b then { c with sent := true } else c }
      let a := ap + (b.slot * y.lines + b.line) * 64
      sendReq s (writeReq a b.data (halfReg s k h 0x18) 2 127 (b2n b.pois) pu)) s

/-- A write of `CWY_PORT_CMD` (Table 13-7). -/
def portCmd (s : State) (k w : Nat) : State :=
  let s := storeReg s (cwyPage k) 0x024 w
  let s := wrg s (cwyPage k) 0x024 (rg s (cwyPage k) 0x024 &&& 0x1C)
  let h := bits w 4 2
  let s' := if bitN w 0 then
      (if (portAt s k).st = 2 then modPort s k fun c => { c with st := 0 } else portRefuse s k 0x0D09) else s
  if bitN w 0 ∧ (portAt s k).st ≠ 2 then s'
  else if bitN w 1 then
    if (halfAt s' k h).st = .faulted then pushLines (modHalf s' k h fun y => { y with st := .active }) k h
    else portRefuse s' k 0x0D0A
  else s'

/-! ## Flits received -/

/-- Lines of a list of 512-bit values. -/
def lineBytes (d : BitVec 512) : List Byte := leBytes 64 d.toNat

/-- Gives the fills that a fed edge received before their task the ranks of the next tasks homed on the member; the bands of a
picture after its first have its rank. -/
def feedRanks (s : State) (j m e : Nat) : State :=
  (edgeAt s j m e).fills.foldl (fun s f =>
    let l := (edgeAt s j m e).fills
    if f.2.rank ≠ 2 ^ 64 ∨ (l.takeWhile fun g => g.1 ≠ f.1).any fun g => g.2.rank = 2 ^ 64 then s
    else
      let lo := (edgeAt s j m e).consNext - b2n (decide (f.2.band ≠ 0))
      let next := sortBy ((s.entries.filter fun x => x.job = j ∧ x.member = m ∧ x.st ≠ .done ∧ [1, 2, 4].contains x.opcode ∧ lo ≤ x.rank).map
        fun x => (x.rank, x.task, x.stage)) fun a b => decide (a.1 ≤ b.1)
      match next.head? with
      | none => s
      | some r => modEdge s j m e fun t => { t with consNext := r.1 + 1, fills := t.fills.map fun g =>
          if g.1 = f.1 then (g.1, { g.2 with rank := r.1, task := r.2.1, stage := r.2.2 }) else g }) s

/-- The hand-off that a fed slot `x` is: a whole record, or on an edge out of `DECODE` the next band of a picture that is not
partitioned (R107, log 8); and the half after it. -/
def fedFill (s : State) (y : Half) (x : Nat) : Fill × Half :=
  if (nodeOf s y.job (edgeOf s y.job y.edge).producer).kind ≠ 1 then (⟨2 ^ 64, 0, 0, true, 0, none⟩, y)
  else
    let p := (memberPod s y.job y.member).getD 127
    let a := mkey p (slotAddr (edgeOf s y.job y.edge) x)
    let n := if y.band = 0 then max 1 (ceilDiv (fieldLe ((List.range 4).map fun i => rdByte s (a + i)) 2 2) 64) else y.bands
    (⟨2 ^ 64, 0, y.band, decide (n ≤ y.band + 1), 0, none⟩, { y with band := if n ≤ y.band + 1 then 0 else y.band + 1, bands := n })

/-- The fed half sets the full Milepost of slot `x` and acknowledges it (R325). -/
def fedSet (s : State) (k h x : Nat) : State :=
  let s := modHalf s k h fun y => { y with credits := ndel y.credits x }
  let y := halfAt s k h
  let f := fedFill s y x
  let s := if memMode s k h then mpSet s (halfMp s k h x false) (.cwy k (h % 4))
    else feedRanks (announce (modHalf s k h fun _ => f.2) y.job y.member y.edge x f.1 (.cwy k (h % 4))) y.job y.member y.edge
  sendFlit s k (plainFlit 7 (h % 4) x 0)

/-- What an aperture has announced takes effect in order, once every write before it is answered `OKAY` (R326). -/
def apertureDrain (s : State) (k h : Nat) : State :=
  (halfAt s k h).bufSets.foldl (fun s x =>
    let y := halfAt s k h
    if y.bufSets.head? ≠ some x ∨ x.2 ≠ 0 then s
    else
      let s := modHalf s k h fun y => { y with bufSets := y.bufSets.drop 1 }
      if 1000 ≤ x.1 then gateArriveExt s (x.1 - 1000) (k + 1) else fedSet s k h x.1) s

/-- The write of line `l` of slot `x` is answered `OKAY`: the line leaves the buffer (R326). -/
def lineDone (s : State) (k h x l : Nat) : State :=
  let y := halfAt s k h
  match y.buffer.findIdx? fun b => b.slot = x && b.line = l && b.sent with
  | none => s
  | some i => modHalf s k h fun y => { y with
      buffer := y.buffer.eraseIdx i, bufSets := y.bufSets.map fun e => (e.1, if i < e.2 then e.2 - 1 else e.2) }

/-- The write of line `l` of slot `x` received `FAULT`: it and every later line stay in the buffer to be written again (R326). -/
def lineFault (s : State) (k h x l : Nat) : State :=
  modHalf s k h fun y =>
    let i := (y.buffer.findIdx? fun b => b.slot = x && b.line = l).getD y.buffer.length
    { y with st := .faulted, buffer := y.buffer.zipIdx.map fun b => if i ≤ b.2 then { b.1 with sent := false } else b.1 }

/-- A flit that does not fit its half (R323, R325, R334). -/
def badFlit (s : State) (k h : Nat) : State := protocolFault s k h

/-- Applies a flit to half `h` of port `k`: an unbound half faults, a parked or stopped one is withheld. -/
def onHalf (s : State) (k h : Nat) (f : State → Half → State) : State :=
  if cwyLive s = false then s
  else match (halfAt s k h).st with
    | .unbound => badFlit s k h
    | .active | .faulted => f s (halfAt s k h)
    | _ => s

/-- WRITE received (R325, R326). -/
def doWrite (s : State) (k ch slot line prov pois : Nat) (data : List (BitVec 512)) : State :=
  let h := 4 + ch
  let n := data.length
  if cwyLive s ∧ (halfAt s k h).st ≠ .unbound ∧ memMode s k h ∧ (halfAt s k h).buffer.length + n > 64 then s
  else onHalf (if cwyLive s then received s k (1 + 2 * n) n else s) k h fun s y =>
    if y.credits.contains slot = false ∨ y.lines < line + n then badFlit s k h
    else if memMode s k h then
      let ls := data.zipIdx.map fun d => (⟨slot, line + d.2, lineBytes d.1, bitN prov d.2, bitN pois d.2, false⟩ : ApLine)
      let s := modHalf s k h fun y => { y with buffer := y.buffer ++ ls }
      if y.st = .active then pushLines s k h else s
    else data.zipIdx.foldl (fun s d =>
      let key := halfLine s y slot (line + d.2)
      let s := writeAll s (wBytes (key / 98304) (key % 98304 * 64) (lineBytes d.1)) (if bitN pois d.2 then [key] else [])
      setProv s [key] (bitN prov d.2)) (modHalf s k h fun y => { y with slot := slot })

/-- POISON received (R325, R326). -/
def doPoison (s : State) (k ch slot line : Nat) (mask : BitVec 64) : State :=
  let h := 4 + ch
  onHalf (if cwyLive s then received s k 1 0 else s) k h fun s y =>
    let hit (l : Nat) : Bool := decide (line ≤ l ∧ l < line + 64) && mask.getLsbD (l - line)
    if memMode s k h then
      let upd (b : ApLine) : ApLine := if b.slot = slot ∧ hit b.line then { b with prov := false, pois := true } else b
      let s := modHalf s k h fun y => { y with buffer := y.buffer.map upd }
      if y.st = .active then pushLines s k h else s
    else
      let ls := ((List.range y.lines).filter hit).map (halfLine s y slot)
      setProv (poisonLines s ls) ls false

/-- SET received (R325, R326). -/
def doSet (s : State) (k ch slot : Nat) : State :=
  let h := 4 + ch
  onHalf (if cwyLive s then received s k 1 0 else s) k h fun s y =>
    if y.credits.contains slot = false then badFlit s k h
    else if memMode s k h then
      let s := modHalf s k h fun y => { y with
        buffer := y.buffer.map fun b => if b.slot = slot then { b with prov := false } else b
        bufSets := y.bufSets ++ [(slot, y.buffer.length)] }
      apertureDrain (if y.st = .active then pushLines s k h else s) k h
    else fedSet (setProv s ((List.range y.lines).map (halfLine s y slot)) false) k h slot

/-- ARRIVE received (R327). -/
def doCwyArrive (s : State) (k ch g : Nat) : State :=
  let h := 4 + ch
  onHalf (if cwyLive s then received s k 1 0 else s) k h fun s y =>
    let x := gateAt s g
    if x.assigned = false ∨ x.ext.getLsbD (k + 1) = false then gateMisuse s g (0x70 + k) false
    else if y.buffer.isEmpty then gateArriveExt s g (k + 1)
    else modHalf s k h fun y => { y with bufSets := y.bufSets ++ [(1000 + g, y.buffer.length)] }

/-- CREDIT received by a courier (R324). -/
def doCredit (s : State) (k ch slot : Nat) : State :=
  onHalf (if cwyLive s then received s k 1 0 else s) k ch fun s y =>
    if y.depth ≤ slot then badFlit s k ch
    else modHalf s k ch fun y => { y with credits := nins y.credits slot }

/-- ACK received by a courier: it clears the full Milepost and sets the empty one (R324). -/
def doAck (s : State) (k ch slot : Nat) : State :=
  onHalf (if cwyLive s then received s k 1 0 else s) k ch fun s y =>
    if y.sets.contains slot = false then badFlit s k ch
    else releaseSlot (modHalf s k ch fun y => { y with sets := ndel y.sets slot }) y.job y.member y.edge slot (.cwy k ch)

/-- ABORT received: the half stops and its job fails (Table 13-3). It stops the bound half of the channel, the
outbound one first (log 9). -/
def doAbort (s : State) (k ch : Nat) : State :=
  if cwyLive s = false then s
  else
    let s := received s k 1 0
    let h := if (halfAt s k ch).st = .unbound then 4 + ch else ch
    let y := halfAt s k h
    match y.st with
    | .unbound => badFlit s k h
    | .stopped => s
    | _ =>
      let s := modHalf s k h fun y => { y with st := .stopped, job := 256 }
      let s := failJob s y.job 0x0D13 stAborted
      modHalf s k h fun z => { z with job := y.job }

/-- BIND received by a fed half (R329). -/
def doCwyBind (s : State) (k ch depth lines : Nat) : State :=
  let h := 4 + ch
  onHalf (if cwyLive s then received s k 1 0 else s) k h fun s y =>
    if y.peer ∨ y.depth ≠ depth ∨ y.lines ≠ lines then badFlit s k h
    else modHalf s k h fun y => { y with peer := true }

/-- Whether flit word `f` breaks R323: an illegal `KIND`, a reserved header bit, a field that its kind does not carry, or a byte 8
to 31 that its kind leaves 0 (log 35). -/
def flitIllegal (f : Nat) : Bool :=
  let kind := bits f 3 0
  let line := bits f 63 32
  kind = 0 || decide (10 ≤ kind) || bits f 7 6 ≠ 0 || bits f 31 24 ≠ 0 || (kind ≠ 2 && bits f 23 14 ≠ 0) ||
    ([1, 5, 8, 9].contains kind && bits f 13 8 ≠ 0) || ([1, 4, 6, 7].contains kind && line ≠ 0) ||
    (kind = 5 && decide (2 ^ 8 ≤ line)) || (kind = 8 && decide (2 ^ 16 ≤ line)) ||
    (match kind with
     | 1 => bits f 127 80 ≠ 0 || bits f 255 192 ≠ 0
     | 3 => bits f 255 128 ≠ 0
     | _ => bits f 255 64 ≠ 0)

/-- ILLEGAL_FLIT: a flit that breaks R323, or one that fails its parity (spec/18 R430). -/
def doIllegalFlit (s : State) (k : Nat) (f : Nat) (parityOk : Bool) : State :=
  if cwyLive s = false then s
  else
    let kind := bits f 3 0
    let ch := bits f 5 4
    let h := if kind = 6 ∨ kind = 7 ∨ kind = 8 then ch else 4 + ch
    if parityOk && !flitIllegal f then s
    else if !parityOk && kind = 1 then received s k 1 0
    else protocolFault (received s k 1 0) k h

/-! ## Couriers and fed halves -/

/-- A `WRITE` group of `n` lines from line `l` of slot `x` (R323). -/
def writeGroup (s : State) (k h x l n : Nat) : State :=
  let y := halfAt s k h
  let keys := (List.range n).map fun i => halfLine s y x (l + i)
  let s := keys.foldl (fun s q => checkLine s (q / 98304) (q % 98304)) s
  let mask (f : Nat → Bool) : Nat := keys.zipIdx.foldl (fun a q => a + 2 ^ q.2 * b2n (f q.1)) 0
  sendFlit s k ⟨2, h, x, l, mask s.marrow.prov.contains, mask s.marrow.poison.contains,
    keys.flatMap fun q => (List.range 64).map fun i => lineByte s.marrow q i⟩

/-- The slots of half `y` from its next slot on. -/
def slotOrder (y : Half) : List Nat := (List.range y.depth).map fun i => (y.next + i) % max 1 y.depth

/-- The next slot for which a courier holds a credit and whose full Milepost is set (R324). -/
def courierSlot (s : State) (y : Half) : Option Nat :=
  (slotOrder y).find? fun x => y.credits.contains x && slotFull s y.job y.member y.edge x

/-- COURIER_SEND: the lines of a credited full slot not yet sent, then `SET` (R324). -/
def doCourierSend (s : State) (k ch : Nat) : State :=
  let y := halfAt s k ch
  match if cwyLive s && y.st = .active then courierSlot s y else none with
  | none => s
  | some x =>
    let groups := (List.range (ceilDiv y.lines 4)).flatMap fun g =>
      let ls := ((List.range (min 4 (y.lines - 4 * g))).map (4 * g + ·)).filter fun l => !y.sent.contains (x, l)
      if ls.length = min 4 (y.lines - 4 * g) then [(4 * g, ls.length)] else ls.map fun l => (l, 1)
    let s := groups.foldl (fun s g => writeGroup s k ch x g.1 g.2) s
    let s := sendFlit s k (plainFlit 4 ch x 0)
    modHalf s k ch fun y => { y with
      credits := ndel y.credits x, sets := nins y.sets x, slot := x, wrote := y.wrote.filter (·.1 ≠ x)
      sent := y.sent.filter (·.1 ≠ x), next := if x + 1 < y.depth then x + 1 else 0 }

/-- The next line that an eager courier may forward: written, of a credited slot, and not yet sent (R324). -/
def courierLine (y : Half) : Option (Nat × Nat) :=
  ((slotOrder y).flatMap fun x => (List.range y.lines).map fun l => (x, l)).find? fun e =>
    y.credits.contains e.1 && y.wrote.contains e && !y.sent.contains e

/-- COURIER_FORWARD_LINE: an eager courier forwards a line of a credited slot once the producer's write is performed (R324). -/
def doForward (s : State) (k ch : Nat) : State :=
  let y := halfAt s k ch
  match if cwyLive s && y.st = .active && bitN (halfReg s k ch 0) 2 then courierLine y else none with
  | none => s
  | some e => modHalf (writeGroup s k ch e.1 e.2 1) k ch fun y => { y with sent := y.sent ++ [e], slot := e.1 }

/-- `POISON` for the lines of a failed operation that couriers have forwarded (R324, R343). -/
def poisonForwarded (s : State) (ls : List Nat) : State :=
  (halves s).foldl (fun s x =>
    let y := x.2.2
    let hit := y.sent.filter fun e => ls.contains (halfLine s y e.1 e.2)
    if decide (4 ≤ x.2.1) || hit.isEmpty then s
    else
      let slots := hit.foldl (fun a e => nins a e.1) []
      slots.foldl (fun s q => (List.range (ceilDiv y.lines 64)).foldl (fun s g =>
        let m := hit.foldl (fun a e => if e.1 = q ∧ e.2 / 64 = g then a ||| 2 ^ (e.2 % 64) else a) 0
        if m = 0 then s
        else sendFlit s x.1 { plainFlit 3 x.2.1 q (64 * g) with data := leBytes 8 m }) s) s) s

/-- FED_CREDIT: a fed half takes the next empty slot, or waits for it (R325, R329). -/
def doFedCredit (s : State) (k ch : Nat) : State :=
  let h := 4 + ch
  let y := halfAt s k h
  if cwyLive s && y.st = .active && y.peer && !y.waiting then
    let x := y.next
    let id := halfMp s k h x true
    if memMode s k h then
      if (mpAt s id).value then fedTook (mpTakeNow s id) k ch
      else addWaiter (modHalf s k h fun y => { y with waiting := true }) id true (.cwy k ch)
    else if slotEmpty s y.job y.member y.edge x then fedTook (takeEmpty s y.job y.member y.edge x) k ch
    else addWaiter (modHalf s k h fun y => { y with waiting := true }) id true (.cwy k ch)
  else s

/-- FED_TAKE_TIMEOUT: the misuse counter rises and the `TAKE` is rearmed (R328). -/
def doFedTimeout (s : State) (k ch : Nat) : State :=
  let h := 4 + ch
  let y := halfAt s k h
  if cwyLive s ∧ y.waiting ∧ bits (halfReg s k h 8) 31 16 ≠ 0 then mpMisuse (bump s 0x580 3) (halfMp s k h y.next true) 2
  else s

/-! ## Heartbeats and loss -/

/-- One turn of a port's link: a waiting heartbeat, or one flit or write group of the next channel in the round that has one;
the flits of a channel leave in issue order (R322, log 62). -/
def linkTurn (c : CPort) : CPort :=
  let take (f : Flit → Bool) (turn : Nat) : Option CPort := (c.tx.findIdx? f).map fun i =>
    { c with tx := c.tx.eraseIdx i, turn := turn, link := c.link ++ (c.tx[i]?).toList }
  ((take (·.kind = 1) c.turn).or ((List.range 4).findSome? fun i =>
    let ch := (c.turn + i) % 4
    take (·.ch = ch) ((ch + 1) % 4))).getD c

/-- The links of all ports serve a turn. -/
def linkTurns (s : State) : State :=
  if portOpen s then { s with cwy := s.cwy.map fun e => (e.1, linkTurn e.2) } else s

/-- HEARTBEAT_TIMER (R331). -/
def doHeartTimer (s : State) : State :=
  if portOpen s && enabled s 0x00C then
    let data := leBytes 2 (rgf s 0x00C 0x400 15 0) ++ List.replicate 6 0 ++ leBytes 8 s.time ++ List.replicate 8 0
    (List.range 8).foldl (fun s k => sendFlit s k { plainFlit 1 0 0 0 with data := data }) s
  else s

/-- HEARTBEAT received (R331). -/
def doHeartbeat (s : State) (k : Nat) (peer : BitVec 16) : State :=
  if portOpen s = false then s
  else
    let s := received s k 1 0
    if (portAt s k).st = 0 then modPort s k fun c => { c with st := 1, peerId := peer.toNat } else s

/-- PORT_LOST (R332). -/
def doPortLost (s : State) (k : Nat) : State :=
  if portOpen s = false ∨ (portAt s k).st ≠ 1 then s
  else
    let js := (s.jobs.map (·.1)).filter fun j =>
      (halves s).any (fun x => x.1 = k ∧ x.2.2.job = j) ||
      s.gates.any fun g => g.2.assigned && g.2.job = j && g.2.ext.getLsbD (k + 1)
    let s := modPort s k fun c => { c with st := 2, halves := [] }
    let s := (List.range 8).foldl (fun s h =>
      wrg s (cwyPage k) (0x400 + 0x20 * h) (halfReg s k h 0 &&& 0xFFFFFFFE)) s
    let s := modMps s fun b => { b with waiters := b.waiters.filter fun w => match w.src with
      | .cwy q _ => q ≠ k
      | _ => true }
    let s := js.foldl (fun s j => failJob s j 0x0D11 stAborted) s
    raise (bump s (cwyPage k) 5) 15 127 k

/-- The meaning of HALF_EN. -/
def execHalfEn (k h : BitVec 3) (cfg : Word) (s : State) : Host.Outcome State Fault Refusal :=
  .next (if cwyLive s then halfCfg s k.toNat h.toNat (cfg.toNat ||| 1) else s)
/-- The meaning of PORT_RESET. -/
def execPortReset (k : BitVec 3) (s : State) : Host.Outcome State Fault Refusal :=
  .next (if portOpen s then portCmd s k.toNat 1 else s)
/-- The meaning of HALF_RESUME. -/
def execHalfResume (k h : BitVec 3) (s : State) : Host.Outcome State Fault Refusal :=
  .next (if cwyLive s then portCmd s k.toNat (2 + 4 * h.toNat) else s)
/-- The meaning of HEARTBEAT_TIMER. -/
def execHeartbeatTimer (s : State) : Host.Outcome State Fault Refusal := .next (doHeartTimer s)
/-- The meaning of HEARTBEAT. -/
def execHeartbeat (k : BitVec 3) (peer : BitVec 16) (s : State) : Host.Outcome State Fault Refusal :=
  .next (doHeartbeat s k.toNat peer)
/-- The meaning of PORT_LOST. -/
def execPortLost (k : BitVec 3) (s : State) : Host.Outcome State Fault Refusal := .next (doPortLost s k.toNat)
/-- The meaning of WRITE. -/
def execWrite (k : BitVec 3) (ch : BitVec 2) (slot : BitVec 6) (line : BitVec 32) (prov pois : BitVec 4)
    (data : List (BitVec 512)) (s : State) : Host.Outcome State Fault Refusal :=
  if decide (1 ≤ data.length ∧ data.length ≤ 4) then
    .next (doWrite s k.toNat ch.toNat slot.toNat line.toNat prov.toNat pois.toNat data)
  else .fault .illFormed
/-- The meaning of POISON. -/
def execPoison (k : BitVec 3) (ch : BitVec 2) (slot : BitVec 6) (line : BitVec 32) (mask : BitVec 64) (s : State) :
    Host.Outcome State Fault Refusal := .next (doPoison s k.toNat ch.toNat slot.toNat line.toNat mask)
/-- The meaning of SET. -/
def execSet (k : BitVec 3) (ch : BitVec 2) (slot : BitVec 6) (s : State) : Host.Outcome State Fault Refusal :=
  .next (doSet s k.toNat ch.toNat slot.toNat)
/-- The meaning of CWY_ARRIVE. -/
def execCwyArrive (k : BitVec 3) (ch : BitVec 2) (gate : BitVec 8) (s : State) : Host.Outcome State Fault Refusal :=
  .next (doCwyArrive s k.toNat ch.toNat gate.toNat)
/-- The meaning of CREDIT. -/
def execCredit (k : BitVec 3) (ch : BitVec 2) (slot : BitVec 6) (s : State) : Host.Outcome State Fault Refusal :=
  .next (doCredit s k.toNat ch.toNat slot.toNat)
/-- The meaning of ACK. -/
def execAck (k : BitVec 3) (ch : BitVec 2) (slot : BitVec 6) (s : State) : Host.Outcome State Fault Refusal :=
  .next (doAck s k.toNat ch.toNat slot.toNat)
/-- The meaning of ABORT. -/
def execAbort (k : BitVec 3) (ch : BitVec 2) (_code : BitVec 16) (s : State) : Host.Outcome State Fault Refusal :=
  .next (doAbort s k.toNat ch.toNat)
/-- The meaning of CWY_BIND. -/
def execCwyBind (k : BitVec 3) (ch : BitVec 2) (depth : BitVec 7) (lines : BitVec 25) (s : State) :
    Host.Outcome State Fault Refusal := .next (doCwyBind s k.toNat ch.toNat depth.toNat lines.toNat)
/-- The meaning of COURIER_SEND. -/
def execCourierSend (k : BitVec 3) (ch : BitVec 2) (s : State) : Host.Outcome State Fault Refusal :=
  .next (doCourierSend s k.toNat ch.toNat)
/-- The meaning of COURIER_FORWARD_LINE. -/
def execCourierForwardLine (k : BitVec 3) (ch : BitVec 2) (s : State) : Host.Outcome State Fault Refusal :=
  .next (doForward s k.toNat ch.toNat)
/-- The meaning of FED_CREDIT. -/
def execFedCredit (k : BitVec 3) (ch : BitVec 2) (s : State) : Host.Outcome State Fault Refusal :=
  .next (doFedCredit s k.toNat ch.toNat)
/-- The meaning of FED_TAKE_TIMEOUT. -/
def execFedTakeTimeout (k : BitVec 3) (ch : BitVec 2) (s : State) : Host.Outcome State Fault Refusal :=
  .next (doFedTimeout s k.toNat ch.toNat)
/-- The meaning of ILLEGAL_FLIT. -/
def execIllegalFlit (k : BitVec 3) (flit : BitVec 256) (parityOk : Bool) (s : State) : Host.Outcome State Fault Refusal :=
  .next (doIllegalFlit s k.toNat flit.toNat parityOk)

end Sys2Proof.Machine
end

