-- ==== Sys2Proof/Machine/Batch.lean ====
section
/-! DEFINITION. The buffer-pool port (spec/11 R286, R287; spec/18 R429), batch closing, emission and the batch
directory (spec/08 R206 to R209), and period boundaries of rings (spec/19 R451). -/

namespace Sys2Proof.Machine

/-! ## Buffer pools -/

/-- Asks the pool port for a buffer of class `c` (R286). -/
def askPool (s : State) (c : Nat) (u : PoolUser) : State := modMem s fun m => { m with poolAsk := m.poolAsk ++ [(c, u)] }

/-- Whether an address may be accepted for class `c` (R287). -/
def poolAccepts (s : State) (c a : Nat) : Bool :=
  let cfg := rg s 3 (0x400 + 16 * c)
  let base := rg s 3 (0x404 + 16 * c) * 65536
  let limit := rg s 3 (0x408 + 16 * c) * 65536
  bitN cfg 0 && a % 2 ^ (12 + bits cfg 7 4) = 0 && decide (base ≤ a ∧ a + bits cfg 31 8 * 4096 ≤ limit)

/-- A rejected address of class `c` (R287). -/
def rejectPool (s : State) (c : Nat) : State :=
  let s := modMem s fun m => { m with poolRejected := supd m.poolRejected c 0 fun n => min 65535 (n + 1) }
  raise (bump (pageErr s 3 1) 3 6) 12 127 c

/-- Changes the closed batch with number `b` of ring `n`. -/
def modBatch (s : State) (n b : Nat) (f : Batch → Batch) : State :=
  modSq s n fun q => { q with asm := { q.asm with closed := q.asm.closed.map fun x => if x.number = b then f x else x } }

/-- A buffer goes to the requester (R286). -/
def grantPool (s : State) (c a : Nat) (u : PoolUser) : State :=
  let s := modMem s fun m => { m with poolHeld := supd m.poolHeld c [] fun l => l ++ [a] }
  match u with
  | .batch n =>
    match (sqAt s n).asm.closed.find? fun b => b.phase = .asked with
    | some b => modBatch s n b.number fun x => { x with phase := .haveBuf, buf := a }
    | none => freePoolOf s c a
  | u => modMem s fun m => { m with poolGot := m.poolGot ++ [(u, a)] }

/-- POOL_RESPONSE: the answer to the oldest request; an answer to one that timed out is rejected (R286, R287, R429). -/
def doPoolResponse (s : State) (x : PoolAnswer) : State :=
  match s.mem.poolLate with
  | c :: cs =>
    let s := modMem s fun m => { m with poolLate := cs }
    match x with
    | .empty => s
    | .addr _ => rejectPool s c
  | [] =>
    match s.mem.poolAsk with
    | [] => s
    | (c, u) :: rest =>
      let s := modMem s fun m => { m with poolAsk := rest }
      match x with
      | .empty => bump (modMem s fun m => { m with poolWait := m.poolWait ++ [(c, u)] }) 3 7
      | .addr a => if poolAccepts s c a.toNat then grantPool s c a.toNat u else askPool (rejectPool s c) c u

/-- POOL_RETRY_TIMER: waiting requests of a class are made again (R286). -/
def doPoolRetry (s : State) (c : Nat) : State :=
  let w := s.mem.poolWait.filter fun e => e.1 = c
  w.foldl (fun s e => askPool s e.1 e.2) (modMem s fun m => { m with poolWait := m.poolWait.filter fun e => e.1 ≠ c })

/-- POOL_TIMEOUT: the oldest request counts as `EMPTY` (R429). -/
def doPoolTimeout (s : State) : State :=
  match s.mem.poolAsk with
  | [] => s
  | (c, u) :: rest =>
    let s := modMem s fun m => { m with poolAsk := rest, poolWait := m.poolWait ++ [(c, u)], poolLate := m.poolLate ++ [c] }
    raise (bump s 3 7) 12 127 c

/-! ## Batches -/

/-- The period boundaries of a batch boundary of ring `n` (Table 19-9). -/
def batchBoundary (s : State) (n : Nat) : State :=
  let s := if rg s 3 0x080 = n then latchPage s 3 else s
  let s := if rg s 9 0x028 = n then latchPage s 9 else s
  let s := if rg s 0x00A 0x028 = n then latchPage s 0x00A else s
  latchRange s (sqPage n) (0x200 + 16 * (n % 16)) (0x210 + 16 * (n % 16))

/-- Closes the open batch of ring `n` (R206, R207) and asks for its buffer (R208). An empty one does not close. -/
def closeBatch (s : State) (n code : Nat) : State :=
  let a := (sqAt s n).asm
  if a.openB.units.isEmpty then s
  else
    let b := { a.openB with close := code, closeTime := s.time, phase := .asked }
    let s := modSq s n fun q => { q with asm := { q.asm with
      closed := q.asm.closed ++ [b], openB := Batch.fresh ((a.openB.number + 1) % 2 ^ 32) } }
    let cls := match jobPack s (sqJob s n) with
      | some x => fieldLe (nodeBlock (job s (sqJob s n)).route x.2) 0x0C 1
      | none => 0
    askPool (batchBoundary s n) cls (.batch n)

/-- Tokens of a batch. -/
def batchTokens (b : Batch) : Nat := (b.units.map (·.count)).sum

/-- The header of a batch (Table 8-5). -/
def batchHeader (s : State) (n : Nat) (r : Route) (x : Node) (b : Batch) : List Byte :=
  let p := nodeBlock r x
  let e := packElems r x
  let ts := tstride e.1 e.2.1
  let rt := fieldLe p 0 2
  let rows := fieldLe p 2 2
  let tok := 64 + 64 * fieldLe p 4 2
  leBytes 4 0x54414242 ++ leBytes 2 1 ++ leBytes 2 n ++ leBytes 4 b.number ++ leBytes 1 (sqJob s n) ++ leBytes 1 e.2.2 ++
  leBytes 1 b.close ++ leBytes 1 0 ++ leBytes 2 rows ++ leBytes 2 ((b.units.map fun u => u.row + 1).foldl max 0) ++
  leBytes 2 rt ++ leBytes 2 b.units.length ++ leBytes 4 e.1 ++ leBytes 4 ts ++ leBytes 4 tok ++
  leBytes 4 (tok + rows * rt * ts) ++ leBytes 4 (tok + rows * rt * ts + 2 * rows * rt) ++ leBytes 4 (batchTokens b) ++
  leBytes 8 b.closeTime ++ leBytes 8 0

/-- `SFLAGS` of a unit (Table 8-6). -/
def unitFlags (u : BatchUnit) : Nat :=
  let pf := fieldLe u.header 0x34 2
  let ef := fieldLe u.header 0x12 2
  pf % 4 + 4 * (ef / 128 % 2) + 8 * (fieldLe u.header 0x4B 1 % 2)

/-- The sample record of a unit (Table 8-6). -/
def sampleRecord (u : BatchUnit) : List Byte :=
  slice u.header 0 0x34 ++ leBytes 2 u.row ++ leBytes 2 u.first ++ leBytes 2 u.count ++ slice u.header 0x36 4 ++
  leBytes 2 (unitFlags u)

/-- The unit and its token index at position `p` of row `w`, if one fills it; the unit's number within the row. -/
def unitAt (b : Batch) (w p : Nat) : Option (BatchUnit × Nat) :=
  let row := b.units.filter fun u => u.row = w
  (row.zipIdx.find? fun u => u.1.first ≤ p ∧ p < u.1.first + u.1.count).map fun u => (u.1, u.2 + 1)

/-- The bytes of a token of padding: every element `PAD` (R206). -/
def padToken (d w pad ts : Nat) : List Byte :=
  if w = 4 then slice (List.replicate (d / 2) (BitVec.ofNat 8 (pad % 16 * 17)) ++
      (if d % 2 = 1 then [BitVec.ofNat 8 (pad % 16)] else [])) 0 ts
  else slice ((List.range d).flatMap fun _ => leBytes (w / 8) pad) 0 ts

/-- Offset of the token plane (R204). -/
def tokOfs (q : List Byte) : Nat := 64 + 64 * fieldLe q 4 2

/-- First window byte, after the granule of assembly state, of the area in which ring `n` assembles batch `k`; its bytes lie
as in the batch buffer (R204, log 33). -/
def areaAddr (s : State) (n : Nat) (q : List Byte) (k : Nat) : Nat :=
  fieldLe q 0x10 8 + (2 * (sqAt s n).asm.slot.getD 0 + k % 2) * fieldLe q 0x18 4 + 4096

/-- Byte keys of `n` bytes at window byte `a` of job `j`. -/
def winKeys (s : State) (j a n : Nat) : List Nat :=
  (List.range n).filterMap fun i => (winPlace s j (a + i)).map fun p => mkey p.1 p.2

/-- Window byte of the first token of a unit of ring `n` at row `w`, position `f` of batch `k`. -/
def tokenAddr (s : State) (n : Nat) (r : Route) (x : Node) (k w f : Nat) : Nat :=
  let q := nodeBlock r x
  let e := packElems r x
  areaAddr s n q k + tokOfs q + (w * fieldLe q 0 2 + f) * tstride e.1 e.2.1

/-- Byte keys of the tokens of a placed unit. -/
def unitKeys (s : State) (n : Nat) (r : Route) (x : Node) (b : Batch) (u : BatchUnit) : List Nat :=
  let e := packElems r x
  winKeys s (sqJob s n) (tokenAddr s n r x b.number u.row u.first) (u.count * tstride e.1 e.2.1)

/-- The `BATCH_BYTES` of a batch (R208), the tokens of its assembly area checked before. -/
def batchImage (s : State) (n : Nat) (r : Route) (x : Node) (b : Batch) : List Byte :=
  let p := nodeBlock r x
  let e := packElems r x
  let ts := tstride e.1 e.2.1
  let rt := fieldLe p 0 2
  let rows := fieldLe p 2 2
  let bs := fieldLe p 4 2
  let all := (List.range rows).flatMap fun w => (List.range rt).map fun q => (q, unitAt b w q)
  let recs := (List.range bs).flatMap fun k => match b.units[k]? with
    | some u => slice (sampleRecord u) 0 64
    | none => slice [] 0 64
  let pos (q : Nat) (u : BatchUnit) : List Byte :=
    let i := q - u.first
    let gx := max 1 (fieldLe u.header 0x36 2)
    leBytes 2 u.time ++ leBytes 2 (i / gx) ++ leBytes 2 (i % gx)
  let toks := b.units.map fun u => (u.row, u.first, (unitKeys s n r x b u).map (rdByte s))
  batchHeader s n r x b ++ recs ++
  all.flatMap (fun a => match a.2 with
    | some u => slice (((toks.find? fun t => t.1 = u.1.row ∧ t.2.1 = u.1.first).map (·.2.2)).getD []) ((a.1 - u.1.first) * ts) ts
    | none => padToken e.1 e.2.1 (fieldLe p 0x20 4) ts) ++
  all.flatMap (fun a => match a.2 with
    | some u => leBytes 2 u.2
    | none => leBytes 2 0) ++
  all.flatMap fun a => match a.2 with
    | some u => pos a.1 u.1
    | none => leBytes 6 0

/-- The closed batch of ring `n` that is emitted next. -/
def headBatch (s : State) (n : Nat) : Option Batch := (sqAt s n).asm.closed.head?

/-- The directory slot address of batch `b` of ring `n` (R209). -/
def dirAddr (s : State) (n b : Nat) : Nat :=
  let l := 2 ^ rgf s 0x00A 0x408 3 0
  rg64 s 0x00A 0x400 + (n * l + b % l) * 64

/-- The directory record (Table 8-7). -/
def dirRecord (s : State) (n : Nat) (b : Batch) (bytes : Nat) : List Byte :=
  leBytes 1 1 ++ leBytes 1 b.close ++ leBytes 2 n ++ leBytes 4 b.number ++ leBytes 8 b.buf ++ leBytes 4 bytes ++
  leBytes 2 b.units.length ++ leBytes 2 (b.units.filter fun u => unitFlags u % 2 = 1).length ++
  leBytes 4 (batchTokens b) ++ leBytes 4 0 ++ leBytes 8 s.time ++ List.replicate 24 0

/-- `EMIT` reads the directory slot and writes the record, or waits while `VALID` reads 1 (R209). A slot read that
is not answered `OKAY` waits as well (log 10). -/
def tryDirectory (s : State) (n : Nat) (b : Batch) (dir : HostRead) : State :=
  let s := hostRead s (dirAddr s n b.number) 64 (rg s 0x00A 0x40C) dir
  if dir.kind ≠ .okay then modBatch s n b.number fun x => { x with phase := .dirWait }
  else if fieldLe dir.bytes 0 1 % 2 = 1 then
    modBatch (pageErr s 0x00A 1) n b.number fun x => { x with phase := .dirWait }
  else match jobPack s (sqJob s n) with
    | some x =>
      let s := modBatch s n b.number fun y => { y with phase := .dirWriting }
      memWrite s (dirAddr s n b.number) (dirRecord s n b (batchBytes (job s (sqJob s n)).route x.2)) (rg s 0x00A 0x40C) 1 127
        (.directory n)
    | none => s

/-- The entry rank that names the transfer of a batch write: that of its first entry. -/
def batchRank (b : Batch) : Nat := ((b.units.flatMap (·.ranks)).head?).getD 0

/-- The Pod that packs and emits the batches of ring `n` of job `j`: member n mod P (R204). -/
def packPod (s : State) (j n : Nat) : Nat := (memberPod s j (n % max 1 (jobP s j))).getD 127

/-- Writes a batch buffer as a transfer of the member that packs the ring, its tokens read from the assembly area (R208, R270,
R282). Poisoned tokens end the job; nothing that holds them goes out (Table 8-8). -/
def writeBatch (s : State) (n : Nat) (b : Batch) : State :=
  let j := sqJob s n
  match jobPack s j with
  | none => s
  | some x =>
    let r := (Rd.start s).keys none (b.units.flatMap (unitKeys s n (job s j).route x.2 b))
    if r.pois then failJob r.st j 0x4042 stAborted (b.units.flatMap (·.ranks))
    else
      let img := batchImage r.st n (job s j).route x.2 b
      let reqs := (pieces b.buf img.length).map fun q =>
        writeReq q.1 ((img.drop (q.1 - b.buf)).take q.2) (sqXlat s n) 1 127 0 (.buffer 0 0)
      startMove (modBatch r.st n b.number fun y => { y with phase := .writing }) j (n % max 1 (jobP s j)) x.1 (batchRank b)
        (tileUp reqs) (.batch n) []

/-- The buffer of the oldest closed batch of ring `n` is written and visible (R208). -/
def batchWritten (s : State) (n : Nat) : State :=
  match headBatch s n with
  | some b => if b.phase = .writing then modBatch s n b.number fun x => { x with phase := .written } else s
  | none => s

/-- Whether a `PACK` operation of ring `n` still waits for its verdict: no batch is written before (R212). -/
def packing (s : State) (n : Nat) : Bool :=
  let j := sqJob s n
  s.ops.any fun o => o.job = j && some o.node = packNode (job s j).route && (entryRank s j o.rank).any fun e => e.sq = n

/-- BATCH_EMIT: the next step of the oldest closed batch of ring `n`: its buffer is written, or once that is
visible its directory record (R208, R209). -/
def doBatchEmit (s : State) (n : Nat) (dir : HostRead) : State :=
  if podIssues s (packPod s (sqJob s n) n) = false then s
  else match headBatch s n with
    | some b => match b.phase with
      | .haveBuf => if packing s n then s else writeBatch s n b
      | .written => tryDirectory s n b dir
      | _ => s
    | none => s

/-- DIR_SLOT_RETRY: the directory slot is read again (R209). -/
def doDirRetry (s : State) (n : Nat) (dir : HostRead) : State :=
  if podIssues s (packPod s (sqJob s n) n) = false then s
  else match headBatch s n with
    | some b => if b.phase = .dirWait then tryDirectory s n b dir else s
    | none => s

/-- The directory record is visible: every entry of every unit completes and the batch is gone (R209). -/
def batchDone (s : State) (n : Nat) : State :=
  match headBatch s n with
  | none => s
  | some b =>
    let j := sqJob s n
    let ts := match jobPack s j with
      | some x => let e := packElems (job s j).route x.2; tstride e.1 e.2.1
      | none => 0
    let s := modSq s n fun q => { q with asm := { q.asm with closed := q.asm.closed.drop 1 } }
    let cls := match jobPack s j with
      | some x => fieldLe (nodeBlock (job s j).route x.2) 0x0C 1
      | none => 0
    let s := modMem s fun m => { m with poolHeld := m.poolHeld.map fun e => if e.1 = cls then (e.1, e.2.filter (· ≠ b.buf)) else e }
    b.units.foldl (fun s u => u.ranks.foldl (fun s r => match entryRank s j r with
      | some e => finish s e (if unitFlags u % 2 = 1 then stConcealed else stOk) 0 (if unitFlags u % 2 = 1 then e.concealed else 0)
          (u.count * ts + 2 ^ 32 * b.number)
      | none => s) s) s |> fun s => endStreams s j

/-- Whether a unit of ring `n` is part-way through its copy into the open batch (R210). -/
def copying (s : State) (n : Nat) : Bool :=
  let j := sqJob s n
  match packNode (job s j).route with
  | some k => (job s j).nodes.any fun x => x.1 % 1024 = k && x.2.works.any fun w =>
      decide (w.tile ≠ 0) && (entryRank s j w.rank).any fun e => e.sq = n
  | none => false

/-- BATCH_FLUSH_TIMER: a CONCEAL ring closes a batch whose first unit is `FLUSH_US` old (R207). -/
def doFlush (s : State) (n : Nat) : State :=
  match jobPack s (sqJob s n) with
  | some x =>
    if working s && sqConceal s n && fieldLe (nodeBlock (job s (sqJob s n)).route x.2) 0x1C 4 ≠ 0 &&
        (sqAt s n).st = .active && !copying s n then closeBatch s n 4 else s
  | none => s

/-- The meaning of BATCH_EMIT. -/
def execBatchEmit (n : BitVec 12) (dir : HostRead) (s : State) : Host.Outcome State Fault Refusal :=
  if dir.wf then .next (doBatchEmit s n.toNat dir) else .fault .illFormed
/-- The meaning of BATCH_FLUSH_TIMER. -/
def execBatchFlushTimer (n : BitVec 12) (s : State) : Host.Outcome State Fault Refusal := .next (doFlush s n.toNat)
/-- The meaning of DIR_SLOT_RETRY. -/
def execDirSlotRetry (n : BitVec 12) (dir : HostRead) (s : State) : Host.Outcome State Fault Refusal :=
  if dir.wf then .next (doDirRetry s n.toNat dir) else .fault .illFormed
/-- The meaning of POOL_RESPONSE. -/
def execPoolResponse (a : PoolAnswer) (s : State) : Host.Outcome State Fault Refusal := .next (doPoolResponse s a)
/-- The meaning of POOL_RETRY_TIMER. -/
def execPoolRetryTimer (c : BitVec 6) (s : State) : Host.Outcome State Fault Refusal := .next (doPoolRetry s c.toNat)
/-- The meaning of POOL_TIMEOUT. -/
def execPoolTimeout (s : State) : Host.Outcome State Fault Refusal := .next (doPoolTimeout s)

end Sys2Proof.Machine
end

