-- ==== Sys2Proof/Machine/Digest.lean ====
section
/-! DEFINITION. The `DIGEST` station and replica groups (spec/14_result_integrity.md R359 to R362). -/

namespace Sys2Proof.Machine

/-- The two CRC-64 values of a granule, as D (R359). -/
def granuleDigest (b : List Byte) : Nat :=
  let swapped := (List.range 4096).map fun n => b.getD (64 * (n % 64) + n / 64) 0
  crc64 b + 2 ^ 64 * crc64 swapped

/-- The term of granule `g` of a region in the Furlong digest (R359). -/
def digestTerm (g : Nat) (b : List Byte) : Nat := granuleDigest b * (2 * g + 1) % 2 ^ 128

/-- The Furlong digest of a run of bytes taken as whole granules, zeros beyond its last byte (R359, R360). -/
def furlong (b : List Byte) : Nat :=
  ((List.range (ceilDiv b.length 4096)).map fun g => digestTerm g (slice b (4096 * g) 4096)).sum % 2 ^ 128

/-- Rank of `FURLONG` operations: they serve no entry. -/
def furlongRank : Nat := 2 ^ 64

/-- Tile operations of member `m` for `FURLONG` node `n`: 16 granules each (R360). -/
def furlongTiles (s : State) (j n m : Nat) : Nat :=
  ceilDiv (memberGranules (job s j).route n (jobP s j) m).length 16

/-- The `FURLONG` operations that may issue on Pod `p`: the next of each digest that is due. -/
def furlongCands (s : State) (p : Nat) : List Cand :=
  if podReady s p = false then []
  else
    let j := (podAt s p).job
    let m := (podAt s p).member
    (List.range (job s j).route.nodes.length).filterMap fun n =>
      let x := nodeOf s j n
      let t := nodeAt s j m n
      let begun := t.works.find? fun w => w.rank = furlongRank
      if x.kind = 8 ∧ x.opcode = 1 ∧ 0 < t.digDue ∧ t.done = false ∧ 0 < furlongTiles s j n m ∧
          (begun.isSome ∨ opInFlight s j m n furlongRank = false) then
        some ⟨j, m, n, p, furlongRank, 0, (begun.map (·.tile)).getD 0, begun.isNone, [], []⟩
      else none

/-- One `FURLONG` operation: up to 16 granules of this member (R359, R360). -/
def furlongOp (s : State) (c : Cand) : Option State :=
  let r := c.route s
  let first := (furlongRegion r c.n).1
  let gs := ((memberGranules r c.n (jobP s c.j) c.h).drop (16 * c.tile)).take 16
  let o := candOp s c false
  let a := gs.foldl (fun (a : Rd × Nat) g =>
    let b := a.1.bytes (some o) c.p ((first + g) / max 1 (jobP s c.j) * 4096) 4096
    (b.1, (a.2 + digestTerm g b.2) % 2 ^ 128)) (Rd.start s, 0)
  (finishOp a.1 c (furlongTiles s c.j c.n c.h) []).map fun t =>
    modNode t c.j c.h c.n fun x => { x with sum := (x.sum + a.2) % 2 ^ 128 }

/-- The record of bytes `b` of task `t` (R360). -/
def digestRecord (b : List Byte) (t : Nat) : List Byte :=
  leBytes 16 (furlong b) ++ leBytes 4 b.length ++ leBytes 4 t ++ List.replicate 8 (0 : Byte)

/-- One `RECORD` operation: it reads 16 granules of the slot, and the last writes the record (R360). -/
def recordOp (s : State) (c : Cand) : Option State :=
  let x := c.node s
  match inEdges x, c.ins, c.outs with
  | e :: _, i :: _, w :: _ =>
    let size := slotBytes (edgeOf s c.j e)
    let a := slotAddr (edgeOf s c.j e) i.2
    let total := max 1 (ceilDiv size 65536)
    let n := min 65536 (size - 65536 * c.tile)
    let r := ((Rd.start s).bytes (some (candOp s c false)) (c.home s) (a + 65536 * c.tile) n).1
    if c.tile + 1 < total then finishOp r c total []
    else
      let whole := (List.range size).map fun k => rdByte r.st (mkey (c.home s) (a + k))
      finishOp r c total (wBytes (c.home s) (slotAddr (edgeOf s c.j (w.1 % 4096)) w.2) (digestRecord whole c.task))
  | _, _, _ => none

/-- A `DIGEST` operation of a candidate. -/
def digestOp (s : State) (c : Cand) : Option State := if c.rank = furlongRank then furlongOp s c else recordOp s c

/-- DIGEST_TILE_OP: `FURLONG` work stands before the tasks' (log 14). -/
def doDigest (s : State) (p : Nat) : State :=
  tryAll s digestOp (furlongCands s p ++ (candidates s p 8).filter fun c => (c.node s).opcode = 2)

/-! ## Postings -/

/-- Whether member `m` has done its part of the digest under way. -/
def partDone (s : State) (j n m : Nat) : Bool := (nodeAt s j m n).done || decide (furlongTiles s j n m = 0)

/-- Whether operation `o` is the last that the digest of its job waits for. -/
def postsNext (s : State) (o : TileOp) : Bool :=
  o.kind = 8 && o.opcode = 1 &&
  !((nodeAt s o.job o.member o.node).works.any fun w => w.rank = furlongRank) &&
  !(s.ops.any fun q => q.job = o.job && q.node = o.node && q.rank = furlongRank && q.id ≠ o.id) &&
  (List.range (jobP s o.job)).all fun m => m = o.member || partDone s o.job o.node m

/-- Whether the job's last digest is still pending in its group (R361). -/
def stillPending (s : State) (j n : Nat) : Bool :=
  let g := nodeParam (job s j).route n 0 1
  g ≠ 255 && (groupAt s g).pending.any fun d => d.1 = j

/-- Posts the digest of job `j` at node `n` (R360, R361): the members' sums add, and the group may compare. -/
def post (s : State) (j n : Nat) : State :=
  let ms := List.range (jobP s j)
  let f := (ms.map fun m => (nodeAt s j m n).sum).sum % 2 ^ 128
  let g := nodeParam (job s j).route n 0 1
  let s := ms.foldl (fun s m => modNode s j m n fun t => { t with sum := 0, done := false, digDue := t.digDue - 1 }) s
  let s := { s with itg := { s.itg with lastDig := sput s.itg.lastDig j f } }
  if g = 255 then arrivals s j
  else
    let js := nins (groupAt s g).members j
    let s := modGroup s g fun x => { x with pending := x.pending ++ [(j, f)], members := js }
    js.foldl arrivals (settleGroups s)

/-- A `FURLONG` operation has retired: its member's part may be done, and the digest is posted with the last part. -/
def furlongRetired (s : State) (o : TileOp) : State :=
  let t := nodeAt s o.job o.member o.node
  if o.kind ≠ 8 ∨ o.opcode ≠ 1 then s
  else if t.works.any (fun w => w.rank = furlongRank) ∨ opInFlight s o.job o.member o.node furlongRank then s
  else
    let s := modNode s o.job o.member o.node fun t => { t with done := true }
    if (List.range (jobP s o.job)).all (partDone s o.job o.node) then post s o.job o.node else s

/-- REPLICA_LATE_TIMER: a comparison has waited `LATE_MS` since its first posting (R361). -/
def doReplicaLate (s : State) (g : Nat) : State :=
  let x := groupAt s g
  if rgf s 0 (0x700 + 8 * g) 15 8 ≠ 0 ∧ x.pending ≠ [] ∧ x.late = false ∧ working s then
    raise (modGroup s g fun x => { x with late := true }) 17 127 g
  else s

/-- The meaning of DIGEST_TILE_OP. -/
def execDigestTileOp (p : Fin 100) (s : State) : Host.Outcome State Fault Refusal := .next (doDigest s p.val)
/-- The meaning of REPLICA_LATE_TIMER. -/
def execReplicaLateTimer (g : BitVec 5) (s : State) : Host.Outcome State Fault Refusal := .next (doReplicaLate s g.toNat)

end Sys2Proof.Machine
end

