-- ==== Sys2Proof/Machine/Verdict.lean ====
section
/-! DEFINITION. Verdicts and the end of entries (spec/14_result_integrity.md R341 to R345; spec/12 R297, R312). -/

namespace Sys2Proof.Machine

/-- Whether the operation's job still runs and its task still lives; `FURLONG` operations carry rank 2^64. -/
def opAlive (s : State) (o : TileOp) : Bool :=
  let x := (job s o.job).st
  (x = .bound || x = .draining) && rankLive s o.job o.rank

/-- Whether requests of operation `o` are unanswered. -/
def opOpen (s : State) (o : TileOp) : Bool :=
  let mine (r : MemReq) : Bool := (r.purpose :: r.also).any fun p => match p with
    | .transfer _ _ i _ | .nibble i => i = o.id
    | _ => false
  s.mem.reqs.any mine || s.mem.held.any mine

/-- Whether operation `o` may not retire yet: its requests or receivers are open, its transfer is paused at or before
its tile, an earlier tile of its transfer is in flight (R278, R283), its group still holds its last digest (R361), or
it hands over a group of accumulators whose earlier operations are in flight (R226). What is left of an ended task waits for the
answers to its requests. -/
def opHeld (s : State) (o : TileOp) : Bool :=
  if opAlive s o = false then opOpen s o else
  o.awaiting ≠ 0 ||
  (match o.xfer with
   | some n =>
     s.ops.any (fun q => q.xfer = some n && decide (q.tile < o.tile)) ||
     (xferNum s n).any fun x => (x.faulted || x.state ≠ 1) && decide (x.cursor ≤ o.tile)
   | none => false) ||
  (postsNext s o && stillPending s o.job o.node) ||
  (o.kind = 5 && o.fills ≠ [] && s.ops.any fun q => decide (q.job = o.job ∧ q.member = o.member ∧ q.node = o.node ∧ q.rank = o.rank ∧ q.tile < o.tile))

/-- Bytes that a `STORE` operation placed (Table 3-4). -/
def placedBytes (o : TileOp) : Nat :=
  if o.kind = 9 ∧ o.opcode = 2 then (o.sent.map fun r => popCount (64 * r.lines) r.mask).sum else 0

/-- Whether entry `e` forwards no picture: it passes no node after `DECODE` (spec/04 R103). -/
def passedOver (s : State) (e : Entry) : Bool := s.decodes.any fun d =>
  d.job = e.job && d.rank = e.rank && (nodeOf s d.job d.node).kind = 1 && d.works ≠ [] && d.shown.isNone

/-- Completes an entry whose results are placed and whose buffers are written (Table 3-4, R104). A batching entry completes with
its batch (R209). -/
def entryEnds (s : State) (e : Entry) : State :=
  if e.opcode = 3 then endStreams s e.job
  else
  let packed := (entryNodes s e.job e.member e.opcode).any fun n => (nodeOf s e.job n).isPack
  if e.st = .running && (!packed || passedOver s e) && entryDone s e && !moveOpen s e.job e.rank then
    let bad := decide (e.concealed ≠ 0)
    let s := finish s e (if bad then stConcealed else stOk) 0 e.concealed (e.placed % 2 ^ 32 + 2 ^ 32 * 0xFFFFFFFF)
    endStreams s e.job
  else s

/-- What follows a retirement: the entry may end, and members may arrive at gates (R312). -/
def afterRetire (s : State) (o : TileOp) : State :=
  let s := match entryRank s o.job o.rank with
    | some e => entryEnds s e
    | none => s
  arrivals s o.job

/-- A verdict on an operation of a job that has ended: it makes no announcement (R345). -/
def deadVerdict (s : State) (o : TileOp) : State :=
  let s := setProv s o.lines false
  let x := (job s o.job).st
  if x = .bound ∨ x = .draining then discardOp s o else dropOp s o.id

/-- A passed verdict: results are no longer provisional, and the operation is announced and retires (R297, R341). -/
def passVerdict (s : State) (o : TileOp) : State :=
  let s := bump s (podPage o.pod) 10 o.excluded
  if opAlive s o = false then deadVerdict s o
  else
    let s := setProv s o.lines false
    let s := match entryRank s o.job o.rank with
      | some e => modEntry s e.sq e.slot fun y => { y with placed := y.placed + placedBytes o }
      | none => s
    afterRetire (furlongRetired (retire s o) o) o

/-- A failed verdict: the lines are poisoned, nothing is announced, the operation is gone (R343); a record that is announced as
a whole has lost a part (spec/05 R143, spec/06 R165). -/
def failVerdict (s : State) (o : TileOp) : State :=
  let s := if o.kind = 2 ∨ o.kind = 3 then modNode s o.job o.member o.node fun t => { t with failed := nins t.failed o.rank } else s
  let s := setProv (poisonLines (bump s (podPage o.pod) 9) o.lines) o.lines false
  dropOp (poisonForwarded s o.lines) o.id

/-- Source and `INFO` of a failed verdict. -/
def verdictSource : VerdictResult → Option (Nat × Nat)
  | .pass => none
  | .checksum i => some (5, i.toNat)
  | .residue i => some (6, i.toNat)
  | .parity i => some (4, i.toNat)
  | .chard i => some (7, i.toNat)

/-- The result of the checks on an operation: where the gates are sound, a line of a product that lies outside its tolerance
still fails (R340). -/
def judged (o : TileOp) : VerdictResult → VerdictResult
  | .pass => match o.failing with
    | some l => .checksum (BitVec.ofNat 32 l)
    | none => .pass
  | r => r

/-- VERDICT (R341, R343). The operations of a suspect Pod receive failed verdicts (R348). -/
def doVerdict (s : State) (p i : Nat) (r : VerdictResult) : State :=
  match opAt s i with
  | none => s
  | some o =>
    if o.pod ≠ p ∨ opHeld s o then s
    else
      let s := bump s (podPage p) 8
      match judged o r with
      | .pass => pumpMoves (if (podAt s p).st = .suspect then failVerdict s o else passVerdict s o)
      | r => match verdictSource r with
        | some x => pumpMoves (unitAction (raiseOp (failVerdict s o) x.1 p x.2 o) x.1 p)
        | none => s

/-- The meaning of VERDICT. -/
def execVerdict (p : Fin 100) (i : Nat) (r : VerdictResult) (s : State) : Host.Outcome State Fault Refusal :=
  .next (doVerdict s p.val i r)

end Sys2Proof.Machine
end

