-- ==== Sys2Proof/Machine/Memory.lean ====
section
/-! DEFINITION. Answers of the memory ports and what each request does with them (spec/11 R271 to R275, R282 to R284;
spec/18 R425; R458, R459), patrol scrub (R266). -/

namespace Sys2Proof.Machine

/-- Rank of an answer kind: the worst beat decides a request (Table 11-2). -/
def rspRank : RspKind → Nat
  | .okay => 0
  | .poison => 1
  | .error | .timeout => 2
  | .fault => 3

/-- `INFO` of the memory sources: address bits [43:12] (Table 15-1). -/
def memInfo (a : Nat) : Nat := bits a 43 12

/-- Raises a memory source for request `r`. -/
def memRaise (s : State) (src : Nat) (r : MemReq) : State := raise s src 127 (memInfo r.addr) r.pod

/-- A faulted write kept for the next repetition (R282, R391): it stands before the writes held behind it, and a
repetition that faults again stands first. -/
def keepRetry (s : State) (r : MemReq) : State :=
  let l := s.mem.retry
  let l := if r.again then r :: l
    else l.takeWhile (fun q => q.again) ++ [{ r with again := true }] ++ l.dropWhile fun q => q.again
  modMem s fun m => { m with retry := l }

/-- The bytes of an answered read by host address. -/
def answerBytes (r : MemReq) (old : List (Nat × Byte)) : List (Nat × Byte) :=
  r.got.zipIdx.foldl (fun m b => sput m (r.addr + b.2) b.1) old

/-- The poisoned host lines of an answered read: lines answered `POISON`, and every line of one answered `ERROR`. -/
def answerPois (r : MemReq) : List Nat :=
  (List.range r.lines).filterMap fun k => if bitN r.gotPois k || r.worst = 2 then some (r.addr / 64 + k) else none

/-- Whether a write was not performed (R271). -/
def notPerformed (r : MemReq) : Bool := r.worst = 1 || r.worst = 2

/-- Takes one answered request of operation `i` in transfer `x` (R278, R283). -/
def answerOp (s : State) (r : MemReq) (x i : Nat) : State :=
  match opAt s i with
  | none => s
  | some o =>
    if r.worst = 3 ∧ opAlive s o then settleXfer (faultTile s x o.tile r.addr) x
    else if r.write ∧ notPerformed r then failJob s o.job 0x4042 stAborted [o.rank]
    else
      let s := if r.write then s
        else modOp s i fun o => { o with got := answerBytes r o.got, gotPois := (answerPois r).foldl nins o.gotPois }
      let s := modOp s i fun o => { o with awaiting := o.awaiting - 1 }
      let s := match opAt s i with
        | some o => if o.awaiting = 0 ∧ (o.kind = 0 ∨ o.kind = 9) ∧ opAlive s o ∧ !undelivered s x o.tile then deliver s o else s
        | none => s
      settleXfer s x

/-- The merge read of a nibble is answered: its write goes out (R458). -/
def answerNibble (s : State) (r : MemReq) (i : Nat) : State :=
  match opAt s i with
  | none => s
  | some o =>
    let x := o.xfer.getD 0
    if r.worst = 3 then settleXfer (faultTile s x o.tile r.addr) x
    else if (xferNum s x).any (fun t => t.faulted) then settleXfer s x
    else holdReq s (nibbleWrite r r.got x o.tile i (!(answerPois r).isEmpty))

/-- A job's save or restore traffic is answered (R55, R58, R283). -/
def answerGran (s : State) (r : MemReq) (j m t : Nat) (save : Bool) : State :=
  let b := job s j
  let n := ctxNum s j m
  if b.st ≠ (if save then .saving else .restoring) then s
  else if r.worst = 3 then settleXfer (faultTile s n t r.addr) n
  else if save ∧ notPerformed r then failJob s j 0x4042 stAborted
  else
    let base := b.ctxAddr + tileOfs b.srcPods b.members.length m t
    let s := if save ∨ t < preTiles m then s
      else placeRestore s j m t (r.addr - base) r.got
        ((List.range r.lines).foldl (fun a k => a + 2 ^ k * b2n (bitN r.gotPois k || r.worst = 2)) 0)
    settleXfer (granDone s j m t save) n

/-- The next 4 KiB unit of a Milepost dump (R309): `OKAY` on every write of a unit starts the next. -/
def answerDump (s : State) (r : MemReq) (u : Nat) : State :=
  if s.mps.dumpState ≠ 1 ∨ s.mps.dumpUnit ≠ u then s
  else if r.worst = 3 then { s with mps := { s.mps with dumpState := 3 } }
  else if granOpen s (.dump u) then s
  else if u + 1 < 768 then
    let s := { s with mps := { s.mps with dumpUnit := u + 1, dumpT1 := s.time } }
    dumpUnit s (u + 1) (dumpBytes s (u + 1))
  else { s with mps := { s.mps with dumpState := 2 } }

/-- A line of a memory aperture is answered (R326). -/
def answerAperture (s : State) (r : MemReq) (k h slot line : Nat) : State :=
  let y := halfAt s k h
  if y.st = .unbound then s
  else if r.worst = 3 then lineFault s k h slot line
  else if notPerformed r then failJob s y.job 0x4042 stAborted
  else
    let s := apertureDrain (lineDone s k h slot line) k h
    if (halfAt s k h).st = .active then pushLines s k h else s

/-! ## Buffer transfers -/

/-- Whether a block as read is one that Bilith never writes: its map entry and `UNITS` disagree, or `MODE` is 3 (spec/04
R116). -/
def blockBad (got : List (Nat × Byte)) (b : BlockRead) : Bool :=
  let map := (sgetD got (b.buf + b.block / 4) 0).toNat / 4 ^ (b.block % 4) % 4
  let head := (sgetD got (b.buf + b.map + 384 * b.block) 0).toNat
  map ≠ head % 4 || head / 4 % 4 = 3

/-- The reference data of operation `i` is read. At a `DECODE` node a block that Bilith never writes, or poisoned data, poisons
the picture's data (spec/04 R116); a `MOTION` operation consumes poison (R345). -/
def fetched (s : State) (b : BufMove) (i : Nat) : State :=
  match opAt s i with
  | none => s
  | some o =>
    let bad := b.blocks.any (blockBad b.got)
    let s := if bad then pageErr s 8 0 else s
    if o.kind = 1 ∧ (bad ∨ b.gotPois ≠ []) then
      let s := modRecord (poisonLines s o.lines) o fun d => { d with poisoned := true }
      modOp s i fun o => { o with
        awaiting := 0, after := o.after.map fun l => l.map fun r => { r with pois := 2 ^ r.lines - 1 } }
    else if bad ∨ b.gotPois ≠ [] then
      failJob (poisonLines (bump s (podPage o.pod) 11 b.gotPois.length) o.lines) o.job 0x4042 stAborted [o.rank]
    else modOp s i fun o => { o with awaiting := 0 }

/-- The last tile of buffer transfer `b` is answered: its context is free, and what waited for it goes on. -/
def moveEnd (s : State) (b : BufMove) : State :=
  let s := modMem s fun m => { m with
    moves := m.moves.filter fun x => x.id ≠ b.id, xfers := m.xfers.filter fun x => x.move ≠ some b.id }
  match b.ends with
  | .fetch i => fetched s b i
  | .batch n => batchWritten s n
  | .write =>
    let s := picturesEnd s b.job b.rank
    match entryRank s b.job b.rank with
    | some e => arrivals (entryEnds s e) b.job
    | none => s

/-- The entries that a buffer transfer serves. -/
def moveRanks (s : State) (b : BufMove) : List Nat :=
  match b.ends with
  | .batch n => ((headBatch s n).map fun x => x.units.flatMap (·.ranks)).getD []
  | _ => [b.rank]

/-- A request of tile `t` of buffer transfer `i` is answered; after the last of a tile the next one goes out (R274, R282,
R283). -/
def answerBuffer (s : State) (r : MemReq) (i t : Nat) : State :=
  match moveAt s i with
  | none => s
  | some b =>
    let n := b.num.getD 0
    if b.next ≠ t then settleXfer s n
    else if r.worst = 3 then settleXfer (faultTile s n t r.addr) n
    else if r.write ∧ notPerformed r then failJob s b.job 0x4042 stAborted (moveRanks s b)
    else
      let s := if r.write then s
        else modMove s i fun b => { b with got := answerBytes r b.got, gotPois := (answerPois r).foldl nins b.gotPois }
      let mine (q : MemReq) : Bool := (q.purpose :: q.also).contains (.buffer i t)
      if s.mem.reqs.any mine || s.mem.held.any mine then s
      else if undelivered s n t then settleXfer s n
      else match moveAt s i with
        | none => s
        | some b => if t + 1 < b.tiles.length then modMove s i fun b => { b with next := t + 1, out := false } else moveEnd s b

/-- A quarter of a parameter-set slot is read back; one not answered `OKAY` has a wrong CRC (spec/04 R102). -/
def answerParam (s : State) (r : MemReq) (k slot quarter : Nat) : State :=
  if r.worst = 3 then keepRetry (memRaise s 11 r) r
  else { s with streams := smod s.streams k fun t => { t with
    slotGot := sput t.slotGot (4 * slot + quarter) (if r.worst = 0 then r.got else []) } }

/-- Whether the `FAULT_PENDING` of transfer `n` is still to be written (R76). -/
def faultPosting (s : State) (n : Nat) : Bool :=
  let hit (r : MemReq) : Bool := match r.purpose with
    | .completion _ _ _ x => x = some n
    | _ => false
  s.cqs.any (fun q => q.2.due.any fun d => d.xfer = some n) || s.mem.reqs.any hit || s.mem.held.any hit || s.mem.retry.any hit

/-- Restarts transfer `n` at its restart cursor (R284). -/
def restart (s : State) (n : Nat) : State :=
  match xferNum s n with
  | none => s
  | some x =>
    let s := modXfer s n fun x => { x with state := 1, faulted := false }
    if n % 32 = 31 then
      match (job s x.job).st with
      | .saving => sendSave s x.job x.member x.cursor
      | .restoring => sendRestore s x.job x.member x.cursor
      | _ => s
    else if x.move.isSome then
      pumpMoves (modMem s fun m => { m with moves := m.moves.map fun b => if x.move = some b.id then { b with out := false } else b })
    else
      (s.ops.filter fun o => o.xfer = some n ∧ x.cursor ≤ o.tile).foldl (fun s o => sendOp s o.id o.sent) s

/-- A completion write is answered: a `FAULT` repeats it; one not performed ends the ring's job (Table 11-2); a posted
`FAULT_PENDING` lets a transfer resumed before restart (R76). -/
def answerCompletion (s : State) (r : MemReq) (sq : Nat) (x : Option Nat) : State :=
  if r.worst = 3 then keepRetry (memRaise s 11 r) r
  else if notPerformed r then failJob s (sqJob s sq) 0x4042 stAborted
  else match x with
    | some n => match xferNum s n with
      | some t => if t.state = 3 ∧ faultPosting s n = false then restart s n else s
      | none => s
    | none => s

/-- A directory record is answered (R209, R282). -/
def answerDirectory (s : State) (r : MemReq) (n : Nat) : State :=
  if r.worst = 3 then keepRetry (memRaise s 11 r) r
  else if notPerformed r then
    failJob s (sqJob s n) 0x4042 stAborted (match headBatch s n with
      | some b => b.units.flatMap (·.ranks)
      | none => [])
  else batchDone s n

/-- The commit word of a save is answered (R58); in `HALTED` the save has stopped (Table 2-17). -/
def answerCommit (s : State) (r : MemReq) (j : Nat) (final : Bool) : State :=
  if (job s j).st ≠ .saving ∨ s.blk.st = .halted then s
  else if r.worst = 3 then keepRetry (memRaise s 11 r) r
  else if notPerformed r then failJob s j 0x4042 stAborted
  else if final then modJob s j fun b => { b with phase := 4 }
  else startShares s j

/-- What one purpose of an answered request does. -/
def answerFor (s : State) (r : MemReq) : Purpose → State
  | .transfer x _ i _ => answerOp s r x i
  | .nibble i => answerNibble s r i
  | .saveGran j m t => answerGran s r j m t true
  | .restoreGran j m t => answerGran s r j m t false
  | .commit j f => answerCommit s r j f
  | .completion _ sq _ x => answerCompletion s r sq x
  | .message _ => if r.worst = 3 then keepRetry (memRaise s 11 r) r else s
  | .buffer i t => answerBuffer s r i t
  | .directory n => answerDirectory s r n
  | .context _ j e =>
    if r.worst = 3 then keepRetry (memRaise s 11 r) r
    else if notPerformed r then failJob s j 0x4042 stAborted [e]
    else s
  | .param k x q => answerParam s r k x q
  | .log => if r.worst = 0 then s else pageErr (keepRetry s r) 0 1
  | .telemetry => s
  | .dump u => answerDump (if r.worst = 3 ∧ s.mps.dumpState = 1 then memRaise s 11 r else s) r u
  | .aperture k h x l => answerAperture (if r.worst = 3 then memRaise s 11 r else s) r k h x l
  | .firmware => s

/-- Whether kept write `r` may go out again: no other repetition of its area is under way, and it is no completion in
`HALTED` (R87). -/
def repeats (s : State) (r : MemReq) : Bool :=
  r.purpose ≠ .log && !repeating s r.purpose.area &&
    !(s.blk.st = .halted && (match r.purpose with
      | .completion _ _ _ _ => true
      | _ => false))

/-- After a repeated write of an area stands, the next write held behind it goes out (R282). -/
def pumpRetry (s : State) (r : MemReq) : State :=
  if r.again ∧ r.worst ≠ 3 then
    match s.mem.retry.find? fun q => q.purpose.area = r.purpose.area with
    | some q => if repeats s q then resend s q else s
    | none => s
  else s

/-- A request is answered in full: sources, then each part of it, then requests that wait (Table 11-2). `quiet`: the
memory-error source stays silent (R272). -/
def answered (s : State) (r : MemReq) (quiet : Bool) : State :=
  let s := modMem s fun m => { m with reqs := m.reqs.filter fun q => !(q.port = r.port && q.tag = r.tag) }
  let s := if quiet = false ∧ (r.worst = 2 ∨ (r.write ∧ r.worst = 1)) then memRaise s 9 r else s
  let s := if r.write ∨ r.pod ≥ 100 ∨ r.worst = 3 then s else bump s (podPage r.pod) 6 (answerPois r).length
  pumpMoves (pumpFence (pumpRetry (pumpTags ((r.purpose :: r.also).foldl (fun s p => answerFor s r p) s)) r))

/-- The outstanding request of a port and tag. -/
def reqAt (s : State) (port tag : Nat) : Option MemReq := s.mem.reqs.find? fun r => r.port = port ∧ r.tag = tag

/-- One beat of a request: its kind, and for a read its line. -/
def takeBeat (r : MemReq) (k : RspKind) (data : BitVec 512) : MemReq :=
  { r with beats := r.beats + 1, worst := max r.worst (rspRank k),
           got := if r.write then r.got else r.got ++ leBytes 64 data.toNat,
           gotPois := if rspRank k = 0 then r.gotPois else r.gotPois ||| 2 ^ r.beats }

/-- The read of the slot at ring `n`'s fetch index (R70, R88, R459). -/
def slotFetch (s : State) (n : Nat) (k : RspKind) : State :=
  let a := rg64 s (sqPage n) (ringOfs n 8) + 64 * (sqAt s n).fetch
  hostRead s a 64 (sqXlat s n) ⟨k, [], BitVec.ofNat 64 a⟩

/-- A read of a ring's slot that fetches nothing: it is not answered `OKAY`, or the slot is the host's (R68, R71,
R459). A device-owned slot is fetched by the `ENTRY_` commands. -/
def slotRead (s : State) (n : Nat) (k : RspKind) (data : BitVec 512) : State :=
  let q := sqAt s n
  if q.st ≠ .active ∨ q.scan = false ∨ working s = false then s
  else
    match k with
    | .okay =>
      if data.getLsbD 8 = q.phase then s
      else
        let s := modSq (slotFetch s n k) n fun q => { q with backoff := false }
        if q.rescan then modSq s n fun q => { q with rescan := false }
        else endBurst (modSq s n fun q => { q with scan := false }) n
    | k => endBurst (modSq (slotFetch s n k) n fun q => { q with scan := false, rescan := true, backoff := true }) n

/-- The router, column + 16 x row, at which memory port `j` attaches (Table 11-1). -/
def portRouter (j : Nat) : Nat :=
  [0x01, 0x03, 0x06, 0x08, 0x19, 0x39, 0x69, 0x89, 0x98, 0x96, 0x93, 0x91, 0x80, 0x60, 0x30, 0x10].getD j 0

/-- A parity error at memory port `j` raises `BLK_PARITY` with its router and a path code that the spec leaves open
(Table 15-1; log 3). -/
def portParity (s : State) (j : Nat) : State :=
  raise (draw s) 8 127 (portRouter j + 2 ^ 8 * (Config.pathCode s.free).toNat)

/-- MEM_RESPONSE (R425): one beat. A beat of an unknown tag, or one that fails its parity, is discarded. -/
def doMemResponse (s : State) (t : RspTarget) (k : RspKind) (data : BitVec 512) (ok : Bool) : State :=
  match t with
  | .slot n =>
    if ok then slotRead s n.toNat k data
    else portParity s (portOf (rg64 s (sqPage n.toNat) (ringOfs n.toNat 8) + 64 * (sqAt s n.toNat).fetch))
  | .req port tag =>
    match reqAt s port.toNat tag.toNat with
    | none => if s.blk.st = .cold then s else portParity s port.toNat
    | some r =>
      if ok = false then portParity s port.toNat
      else
        let r := takeBeat r k data
        if r.write ∨ r.beats ≥ r.lines then answered s r false
        else modMem s fun m => { m with reqs := m.reqs.map fun q => if q.port = r.port ∧ q.tag = r.tag then r else q }

/-- MEM_TIMEOUT (R272): the request counts as answered `ERROR`; bytes that never came are free values (log 3). -/
def doMemTimeout (s : State) (port tag : Nat) : State :=
  match reqAt s port tag with
  | none => s
  | some r =>
    let s' := memRaise (draw s) 10 r
    let fill := (List.range (r.lines - r.beats)).flatMap fun i => leBytes 64 (Config.unstated 2 [s.free, i])
    answered s' { r with worst := 2, got := if r.write then [] else r.got ++ fill } true

/-- WRITE_FAULT_RETRY: the first kept write of each ring or area goes out again, except log records (R282). -/
def doWriteRetry (s : State) : State :=
  if portOpen s = false then s
  else
    let first := s.mem.retry.foldl (fun (l : List MemReq) r =>
      if repeats s r && !(l.any fun q => q.purpose.area = r.purpose.area) then l ++ [r] else l) []
    first.foldl resend s

/-- XFER_RESUME: a write of `INK_XFER_CTRL` with `GO` (R284). -/
def doResume (s : State) (n : Nat) : State :=
  if portLive s = false then s
  else
    let s := storeReg s 3 0x880 n
    let s := wrg s 3 0x880 (rg s 3 0x880 % 2 ^ 12)
    match xferNum s n with
    | some x =>
      if x.state = 2 then (if faultPosting s n then modXfer s n fun x => { x with state := 3 } else restart s n)
      else refuse (wrg s 3 0x880 (rg s 3 0x880 ||| 2 ^ 30)) 3 0x0366 0x880
    | none => refuse (wrg s 3 0x880 (rg s 3 0x880 ||| 2 ^ 30)) 3 0x0366 0x880

/-- SCRUB_LINE: the patrol scrubber reads the next line of a powered Pod (R266; log 5). -/
def doScrub (s : State) (p : Nat) : State :=
  let q := podAt s p
  if q.gated ∨ q.st = .off then s
  else
    let s := checkLine s p q.scrub
    let last := decide (q.scrub + 1 ≥ 98304)
    let s := modPod s p fun q => { q with scrub := if last then 0 else q.scrub + 1 }
    if last then bump s (podPage p) 7 else s

/-- The meaning of MEM_RESPONSE; an answer that did not come is MEM_TIMEOUT. -/
def execMemResponse (t : RspTarget) (k : RspKind) (data : BitVec 512) (ok : Bool) (s : State) :
    Host.Outcome State Fault Refusal :=
  match t, k with
  | .req port tag, .timeout => .next (doMemTimeout s port.toNat tag.toNat)
  | t, k => .next (doMemResponse s t k data ok)
/-- The meaning of MEM_TIMEOUT. -/
def execMemTimeout (port : BitVec 4) (tag : BitVec 10) (s : State) : Host.Outcome State Fault Refusal :=
  .next (doMemTimeout s port.toNat tag.toNat)
/-- The meaning of MERGE_HOLD_EXPIRE. -/
def execMergeHoldExpire (p : Fin 100) (s : State) : Host.Outcome State Fault Refusal := .next (expireHolds s p.val)
/-- The meaning of WRITE_FAULT_RETRY. -/
def execWriteFaultRetry (s : State) : Host.Outcome State Fault Refusal := .next (doWriteRetry s)
/-- The meaning of XFER_RESUME. -/
def execXferResume (n : BitVec 12) (s : State) : Host.Outcome State Fault Refusal := .next (doResume s n.toNat)
/-- The meaning of SCRUB_LINE. -/
def execScrubLine (p : Fin 100) (s : State) : Host.Outcome State Fault Refusal := .next (doScrub s p.val)

end Sys2Proof.Machine
end

