-- ==== Sys2Proof/Machine/JobCtl.lean ====
section
/-! DEFINITION. Job commands, their start and load, drains and saves (spec/02 R44 to R50, R53 to R61; spec/12 R316,
R317; spec/13 R334). -/

namespace Sys2Proof.Machine

/-! ## Acceptance -/

/-- Refuses the job command (R44): code, byte offset of the item, and sub-reason. -/
def jobRefuse (s : State) (x : Nat × Nat × Nat) : State :=
  let s := wrg s 3 0x800 (rg s 3 0x800 ||| 2 ^ 30)
  refuse (wrg (wrg s 3 0x830 x.2.2) 3 0x834 x.2.1) 3 x.1 0x800

/-- Stores `INK_JOB_CMD` without `GO` and `REFUSED` (Table 2-7). -/
def jobStore (s : State) (j op : Nat) (at' : Bool) : State :=
  let s := storeReg s 3 0x800 (j + 2 ^ 8 * op + 2 ^ 16 * b2n at')
  wrg s 3 0x800 (rg s 3 0x800 % 2 ^ 30)

/-- Logical IDs named in `INK_JOB_PODS`0 to 2, in ascending order. -/
def argPods (s : State) : List Nat := (List.range 96).filter fun l => bitN (rg s 3 (0x818 + 4 * (l / 32))) (l % 32)

/-- The context image address of the argument registers. -/
def argImage (s : State) : Nat := rg64 s 3 0x804

/-- The block and page checks before any job command (R45, R289). -/
def jobGateCheck (s : State) : Option Nat :=
  if working s = false then some 0x0352 else if enabled s 3 = false then some 0x0361 else none

/-- Every accepted command that has not started, over all jobs. -/
def openCmds (s : State) : List JobCmd := s.jobs.flatMap fun e => e.2.queued ++ e.2.active.toList

/-- Whether an accepted `SAVE` of job `j` is to release its Pods and gates. -/
def willRelease (s : State) (j : Nat) : Bool :=
  let b := job s j
  (b.queued ++ b.active.toList).any fun c => c.op = .save || c.op = .unbind

/-- The block Tollgates that a command may reserve, `n` of them (R50). -/
def reserveGates (s : State) (n : Nat) : Option (List Nat) :=
  let taken := (openCmds s).flatMap (·.gates)
  let free := (List.range 256).filter fun b => !(gateAt s b).assigned && !taken.contains b
  let later := (List.range 256).filter fun b =>
    (gateAt s b).assigned && willRelease s (gateAt s b).job && !taken.contains b
  let l := (free ++ later).take n
  if l.length = n then some l else none

/-- Whether a Pod set is acceptable (R46). -/
def podsFree (s : State) (ls : List Nat) : Bool := ls.all fun l => match physOf s l with
  | some p => !named s l && ((podAt s p).st = .idle || ((podAt s p).bindValid && willRelease s (podAt s p).job))
  | none => false

/-- The route, Pod-set and window checks of `BIND` and `RESTORE` in order (Table 2-5, R46). -/
def setChecks (s : State) (r : Route) : Option (Nat × Nat × Nat) :=
  let ls := argPods s
  let w := rg s 3 0x824
  match checkRoute s r (rsvSet s 3 0x810) w ls.length with
  | some x => some x
  | none =>
    if !decide (r.podsMin ≤ ls.length ∧ ls.length ≤ r.podsMax) then some (0x0346, 0, 0x16)
    else if !(ls.all fun l => (physOf s l).isSome) then some (0x0346, 0, 0)
    else match checkWindow r w ls.length with
      | some x => some x
      | none =>
        if (reserveGates s r.tollgates).isNone then some (0x0349, 0, 0x1E)
        else if podsFree s ls = false then some (0x034C, 0, 0)
        else none

/-- The command that the argument registers describe. -/
def argCmd (s : State) (op : JobOp) (at' : Bool) (r : Route) : JobCmd where
  op := op
  atStage := at'
  pods := if op = .bind ∨ op = .restore then argPods s else []
  unstarted := if op = .bind ∨ op = .restore then argPods s else []
  gates := if op = .bind ∨ op = .restore then ((reserveGates s r.tollgates).getD []) else []
  route := r
  window := rg s 3 0x824
  seed := rg64 s 3 0x828
  imageAddr := argImage s
  imageSize := rg s 3 0x80C

/-- The power-up of gated members starts when the command is accepted (Table 2-14). -/
def wakePods (s : State) (ls : List Nat) : State :=
  ls.foldl (fun s l => match physOf s l with
    | some p => if (podAt s p).gated then powerUp s p else s
    | none => s) s

/-- The read of the route image that the argument registers name (R40). -/
def routeRead (s : State) (i : HostRead) : State := hostRead s (rg64 s 3 0x810) (max 64 i.bytes.length) 0 i

/-- BIND (Table 2-9). A route image that the read did not deliver fails the header check (log 11). -/
def doBind (s : State) (j : Nat) (img : HostRead) (at' : Bool := false) : State :=
  if portOpen s = false then s
  else
    let s := jobStore s j 1 at'
    match jobGateCheck s with
    | some c => jobRefuse s (c, 0, 0)
    | none =>
      let b := job s j
      if b.st ≠ .none then jobRefuse s (0x034B, 0, 0)
      else
        let s := routeRead s img
        let r := parseRoute img.bytes
        match setChecks s r with
        | some x => jobRefuse s x
        | none =>
          let c := argCmd s .bind false r
          let s := modJob s j fun _ => { Job.empty with members := c.pods, active := some c, route := r, window := c.window, seed := c.seed }
          wakePods (setJobSt s j .binding) c.pods

/-- Ends job `j` for good: it reads `NONE` (Table 2-9). -/
def jobGone (s : State) (j : Nat) : State := syncBlock { s with jobs := sdel s.jobs j }

/-- A command of an `UNBIND`. -/
def unbindCmd : JobCmd := ⟨.unbind, false, [], [], [], emptyRoute, 0, 0, 0, 0⟩

/-- UNBIND (Table 2-9). -/
def doUnbind (s : State) (j : Nat) (at' : Bool := false) : State :=
  if portOpen s = false then s
  else
    let s := jobStore s j 2 at'
    match jobGateCheck s with
    | some c => jobRefuse s (c, 0, 0)
    | none =>
      let b := job s j
      if !(b.st = .bound || b.st = .saved || b.st = .failed) || !b.queued.isEmpty || b.active.isSome then jobRefuse s (0x034B, 0, 0)
      else
        let s := settleGroups (endWork s j stAborted)
        if (jobPods s j).isEmpty then jobGone s j
        else setJobSt (modJob s j fun b => { b with active := some unbindCmd, reason := 0 }) j .unbinding

/-- SAVE (Table 2-9, R54, R57). -/
def doSave (s : State) (j : Nat) (at' : Bool) : State :=
  if portOpen s = false then s
  else
    let s := jobStore s j 3 at'
    match jobGateCheck s with
    | some c => jobRefuse s (c, 0, 0)
    | none =>
      let b := job s j
      if b.st ≠ .bound ∨ b.queued ≠ [] ∨ b.active.isSome then jobRefuse s (0x034B, 0, 0)
      else if rsvSet s 3 0x804 ∨ rg s 3 0x80C * 4096 < imageBytes b.members.length b.window then jobRefuse s (0x0351, 0, 0)
      else
        let c := argCmd s .save at' b.route
        let s := modJob s j fun b => { b with ctxAddr := c.imageAddr, ctxSize := c.imageSize }
        if at' ∧ b.route.tollgates ≠ 0 then modJob s j fun b => { b with queued := [c] }
        else beginDrain (modJob s j fun b => { b with active := some c }) j

/-- RESTORE (Table 2-9, R45, R59). -/
def doRestore (s : State) (j : Nat) (img : HostRead) (at' : Bool := false) : State :=
  if portOpen s = false then s
  else
    let s := jobStore s j 4 at'
    match jobGateCheck s with
    | some c => jobRefuse s (c, 0, 0)
    | none =>
      let b := job s j
      let behind := b.st = .bound && b.active.isNone && (b.queued.length = 1 && b.queued.all fun c => c.op = .save)
      if !(b.st = .saved && b.queued.isEmpty && b.active.isNone) && !behind then jobRefuse s (0x034B, 0, 0)
      else
        let s := routeRead s img
        let r := parseRoute img.bytes
        match setChecks s r with
        | some x => jobRefuse s x
        | none =>
          let c := argCmd s .restore false r
          let src := if behind then b.members.length else b.srcPods
          if rsvSet s 3 0x804 ∨ c.imageSize * 4096 < imageBytes src c.window then jobRefuse s (0x0351, 0, 0)
          else if c.pods.length ≠ src ∧ (bitN r.flags 0 = false ∨ (b.st = .saved ∧ b.resizable = false)) then
            jobRefuse s (0x0350, 0, 0)
          else
            let s := if behind then modJob s j fun b => { b with queued := b.queued ++ [c] }
              else setJobSt (modJob s j fun b => { b with active := some c }) j .restoring
            wakePods s c.pods

/-! ## Start and load -/

/-- Starts an accepted command on logical ID `l`: its Pod restores, zeroised (Table 2-11, R46). -/
def startPod (j : Nat) (c : JobCmd) (s : State) (l : Nat) : State :=
  match physOf s l with
  | none => s
  | some p =>
    let q := podAt s p
    if q.st = .idle ∧ q.gated = false ∧ q.copyOk then
      let s := zeroise s p
      let m := (c.pods.findIdx? (· = l)).getD 0
      let s := modPod s p fun q => { q with st := .restoring, job := j, bindValid := true, member := m }
      modJob s j fun b => { b with active := b.active.map fun c => { c with unstarted := ndel c.unstarted l } }
    else s

/-- Assigns the reserved gates to job `j`, in ascending number, with `EXT` 0 (R50, R311). -/
def assignGates (s : State) (j p : Nat) (gs : List Nat) : State :=
  gs.zipIdx.foldl (fun s g => modGate s g.1 fun x =>
    { Gate.empty with assigned := true, job := j, index := g.2, parts := p, misuse := x.misuse, misuser := x.misuser }) s

/-- Initial generator-slot positions (R248). -/
def slotStarts : List Nat := (List.range 64).map (· * 2 ^ 48)

/-- The first of the checks of R60 and R316 that image `h` (header, job section, arrival bits) fails. -/
def imageCheck (c : JobCmd) (r : Route) (h : List Byte) : Option Nat :=
  let f := fieldLe h
  let src := f 9 1
  let sect := h.drop 128
  let arr (k : Nat) : Nat := ((List.range src).filter fun m => bitN (fieldLe h (4224 + 32 * m + k / 8) 1) (k % 8)).length
  let gateBad (k : Nat) : Bool :=
    let w := fieldLe sect (0x240 + 4 * k) 4
    bits w 31 29 ≠ 0 || bits w 9 1 ≠ arr k + popCount 9 (bits w 27 19)
  let p := c.pods.length
  if f 0x7C 4 ≠ 0x42494C54 ^^^ f 0x20 4 then some 0x034D
  else if f 0 4 ≠ 0x58544342 ∨ f 4 2 ≠ 1 ∨ f 6 2 ≠ 128 ∨ f 0x0A 2 > 3 ∨ f 0x14 4 ≠ 0 ∨
      !((h.drop 0x34).take 72).all (· = 0) ∨ src < 1 ∨ 96 < src ∨ !(slice sect 8 56).all (· = 0) ∨
      !(slice sect 0x640 2496).all (· = 0) ∨ f 0x30 4 > src * 1024 ∨ f 0x18 8 ≠ imageBytes src (f 0x10 4) ∨
      f 0x10 4 ≠ c.window ∨ (List.range r.tollgates).any gateBad then some 0x034E
  else if f 0x0C 4 ≠ r.crc then some 0x034F
  else if p ≠ src ∧ bitN (f 0x0A 2) 0 = false then some 0x0350
  else if p ≠ src ∧ ceilDiv (f 0x30 4) (max 1 p) > r.maxTasks then some 0x0356
  else none

/-- Loads the gate words of an image (R316). -/
def loadGates (s : State) (j p : Nat) (h : List Byte) : State :=
  let src := fieldLe h 9 1
  let sect := h.drop 128
  (job s j).gates.zipIdx.foldl (fun s g =>
    let w := fieldLe sect (0x240 + 4 * g.2) 4
    modGate s g.1 fun x => { x with
      gen := bitN w 0
      ext := BitVec.ofNat 9 (bits w 18 10)
      externals := (List.range 9).filter fun i => bitN w (19 + i)
      broken := bitN w 28
      count := (job s j).gateCounts.getD g.2 0
      members := if p = src then
          (List.range p).filter fun m => bitN (fieldLe h (4224 + 32 * m + g.2 / 8) 1) (g.2 % 8)
        else [] }) s

/-- A task record of an image: its task number, node cursor and tile cursor (Table 2-16). -/
structure TaskRec where
  task : Nat
  node : Nat
  tile : Nat
  deriving DecidableEq, Repr

/-- The task records in use of image `h` of `src` members, in task order. `h` carries each member's 16 KiB of records after
the arrival bits of all of them. -/
def imageTasks (h : List Byte) (src : Nat) : List TaskRec :=
  let rec cut : Nat → List Byte → List TaskRec
    | 0, _ => []
    | n + 1, b => match b with
      | [] => []
      | _ => ⟨fieldLe b 0 8, fieldLe b 8 4, fieldLe b 12 4⟩ :: cut n (b.drop 16)
  sortBy ((cut (src * 1024) (h.drop (4224 + 32 * src))).filter fun r => r ≠ ⟨0, 0, 0⟩) fun a b => decide (a.task ≤ b.task)

/-- The tile cursors of the task records take effect: a work begun goes on from its record's tile (R57, Table 2-16). -/
def setCursors (s : State) (j : Nat) (rs : List TaskRec) : State :=
  let cur (n : Nat) (w : Work) : Work := match rs.find? fun r => r.task = w.task ∧ r.node = n with
    | some r => { w with tile := r.tile }
    | none => w
  modJob s j fun b => { b with nodes := b.nodes.map fun x => (x.1, { x.2 with works := x.2.works.map (cur (x.1 % 1024)) }) }

/-- Deals the task records out anew (R59): record t of the image, in task order, goes to member t mod P′, and with it the
task's work and its part of open groups; slots of edges are empty then. A task of the job whose
record cannot be told from an unused one, all zeros, or is missing takes its place by its number (log 56). -/
def dealTasks (s : State) (j p : Nat) (rs : List TaskRec) : State :=
  let ts := rs.map (·.task)
  let ts := sortBy (ts ++ (jobTasks s j).filter fun t => !ts.contains t) fun a b => decide (a ≤ b)
  let home (t : Nat) : Nat := (ts.findIdx? (· = t)).getD 0 % max 1 p
  let homeOf (r : Nat) : Nat := home (((entryRank s j r).map (·.task)).getD 0)
  let s := { s with entries := s.entries.map fun e => if e.job = j then { e with member := home e.task } else e }
  let old := (job s j).nodes
  let s := modJob s j fun b => { b with nodes := [], edges := [] }
  old.foldl (fun s x =>
    let n := x.1 % 1024
    let s := (x.2.works.filter fun w => w.ins.isEmpty && w.outs.isEmpty).foldl
      (fun s w => modNode s j (home w.task) n fun t => { t with works := t.works ++ [w] }) s
    let s := x.2.group.foldl (fun s r => modNode s j (homeOf r) n fun t => { t with group := t.group ++ [r] }) s
    x.2.units.foldl (fun s u => modNode s j (homeOf u.1) n fun t => { t with units := t.units ++ [u] }) s) s

/-- Waiters of job `j` follow their member index onto the new Pods; one whose member is gone ends `TIMEOUT`
(Table 12-5). -/
def moveWaiters (s : State) (j : Nat) (old new : List Nat) : State :=
  let mine (w : Waiter) : Bool := match w.src with
    | .ring n slot => (entryAt s n slot).any fun e => e.job = j
    | .cwy k c => (halfAt s k (4 + c)).job = j && (halfAt s k (4 + c)).st ≠ .unbound
    | _ => false
  let dest (w : Waiter) : Option Nat := (old.findIdx? (· = w.id / 2048)).bind fun m => new[m]?
  let lost := s.mps.waiters.filter fun w => mine w && (dest w).isNone
  let move (w : Waiter) : Option Waiter :=
    if mine w then (dest w).map (fun l => { w with id := l * 2048 + w.id % 2048 }) else some w
  let s := modMps s fun b => { b with waiters := b.waiters.filterMap move }
  lost.foldl (fun s w => match w.src with
    | .ring n slot => match entryAt s n slot with
      | some e => finish s e stTimeout
      | none => s
    | _ => s) s

/-- A restore begins: the image checks, then the shares of every member (R57, R59, R60). -/
def beginRestore (s : State) (j : Nat) (c : JobCmd) (h : List Byte) : State :=
  match imageCheck c c.route h with
  | some code => pageErr (failJob s j code stAborted) 3 0
  | none =>
    let p := c.pods.length
    let src := fieldLe h 9 1
    let old := (job s j).members
    let rs := imageTasks h src
    let s := setCursors (if p = src then s else dealTasks s j p rs) j rs
    let s := moveWaiters s j old c.pods
    let sect := h.drop 128
    let s := modJob s j fun b => { b with
      members := c.pods, route := c.route, window := c.window, gates := sortBy c.gates (fun a b => decide (a ≤ b))
      seed := fieldLe sect 0 8, slotPos := (List.range 64).map fun k => fieldLe sect (0x40 + 8 * k) 8
      nextTask := fieldLe h 0x28 8, srcPods := src, ctxAddr := c.imageAddr, ctxSize := c.imageSize
      nodes := b.nodes.filter fun e => !((c.route.nodes[e.1 % 1024]?).any fun x => x.kind = 8 && x.opcode = 1) }
    let s := loadGates (assignGates s j p (job s j).gates) j p h
    (List.range p).foldl (fun s m =>
      let t := if p = src then preTiles m else preTiles m + 37
      if t < shareTiles c.window p m then sendRestore (openShare s j m t) j m t else s) s

/-- A binding begins (R50, R248). -/
def beginBind (s : State) (j : Nat) (c : JobCmd) : State :=
  let s := modJob s j fun b => { b with
    members := c.pods, route := c.route, window := c.window, seed := c.seed, slotPos := slotStarts
    gates := sortBy c.gates (fun a b => decide (a ≤ b)) }
  assignGates s j c.pods.length (job s j).gates

/-- The read of header, job section, and every member's arrival bits and task records of the image that a restore loads
(R57 to R60, R316). -/
def imageRead (s : State) (c : JobCmd) (i : HostRead) : State := hostRead s c.imageAddr (max 64 i.bytes.length) 0 i

/-- JOB_COMMAND_START: an accepted `BIND` or `RESTORE` starts on each of its Pods that is free (R46), and once it has
started on all of them it begins. `image` is what a restore reads: the header, the job section, every member's arrival
bits and every member's task records. -/
def doStart (s : State) (j : Nat) (image : HostRead) : State :=
  let b := job s j
  match b.active with
  | none => s
  | some c =>
    if working s = false ∨ (c.op ≠ .bind ∧ c.op ≠ .restore) ∨ c.unstarted = [] ∨
        c.gates.any (fun g => (gateAt s g).assigned) then s
    else if c.op = .restore ∧ image.kind = .fault then imageRead s c image
    else
      let s := c.unstarted.foldl (startPod j c) s
      if (job s j).active.any fun d => d.unstarted.isEmpty then
        let s := modJob s j fun b => { b with active := b.active.map fun d => { d with gates := [] } }
        if c.op = .bind then beginBind s j c else beginRestore (imageRead s c image) j c image.bytes
      else s

/-- The replica groups that `FURLONG` nodes of job `j` name. -/
def jobGroups (s : State) (j : Nat) : List Nat :=
  let r := (job s j).route
  (r.nodes.filter fun x => x.kind = 8 ∧ x.opcode = 1).foldl (fun a x =>
    let g := fieldLe (nodeBlock r x) 0 1
    if g = 255 then a else nins a g) []

/-- Parked halves of job `j` resume; a half whose member is absent ends the job (Table 13-3). -/
def resumeHalves (s : State) (j : Nat) : State :=
  let mine := (halves s).filter fun x => x.2.2.job = j ∧ x.2.2.st = .parked
  if mine.any fun x => (job s j).members.length ≤ x.2.2.member then failJob s j 0x0D10 stAborted
  else mine.foldl (fun s x => modHalf s x.1 x.2.1 fun y => { y with st := .active }) s

/-- JOB_LOAD_COMPLETE: the Pods and the job become `BOUND` (R53, R297, R361). -/
def doLoadDone (s : State) (j : Nat) : State :=
  let b := job s j
  match b.active with
  | none => s
  | some c =>
    if working s = false ∨ !(b.st = .binding || b.st = .restoring) ∨ c.unstarted ≠ [] ∨ sharesOpen s j then s
    else
      let s := (jobPods s j).foldl (fun s p => if (podAt s p).st = .restoring then setPodSt s p .bound else s) s
      let s := setJobSt (modJob s j fun b => { b with active := none }) j .bound
      let s := if c.op = .bind then
          (jobGroups s j).foldl (fun s g =>
            modGroup s g fun x => { x with members := nins x.members j }) s
        else s
      pumpMoves (arrivals (resumeHalves (rewindJob s j) j) j)

/-! ## Drain and save -/

/-- Releases a Pod: a Pod due for test whose prepared spare can take its named logical ID hands it over and goes to
its Pod test (R60, R354). -/
def freePod (s : State) (p : Nat) : State :=
  let q := podAt s p
  match s.itg.rollSpare with
  | some t =>
    if q.due ∧ s.itg.rollPod = p ∧ named s q.logical ∧ (podAt s t).st = .test ∧ (podAt s t).why = .prepared ∧
        (podAt s t).gated = false then
      let s := zeroise s p
      let s := modPod s t fun x => { x with role := 0, logical := q.logical, why := .none }
      let s := modPod s p fun x => { x with role := 1, logical := 127, st := .test, why := .swapped, job := 0,
                                            bindValid := false, member := 0 }
      let s := logWrite s (.assign t q.logical)
      toIdle { s with itg := { s.itg with rollPhase := 4, rollSpare := none, copied := false } } t
    else releasePod s p
  | none => releasePod s p

/-- Whether transfer `n` is paused. -/
def xferPaused (s : State) (n : Nat) : Bool := (xferNum s n).any fun x => x.state ≠ 1

/-- Whether operation `o` waits for a paused transfer: its own, or the fetch of its reference data. -/
def opPaused (s : State) (o : TileOp) : Bool :=
  o.xfer.any (xferPaused s) || s.mem.moves.any fun b => b.ends = .fetch o.id && b.num.any (xferPaused s)

/-- Whether every operation of Pod `p` has retired but those of paused transfers, and no transfer of it runs (R54, R285). -/
def podDrained (s : State) (p : Nat) : Bool :=
  (s.ops.all fun o => o.pod ≠ p || opPaused s o) &&
  !(s.mem.xfers.any fun x => x.num / 32 = (podAt s p).logical && x.num % 32 ≠ 31 && x.state = 1)

/-- An operation that waits for a paused transfer goes back into the task record: a band of a picture or a piece of source into
slots of its own, other work with the slots it holds, from tile `t` on (Table 11-5). -/
def parkOp (s : State) (o : TileOp) (t : Nat) : State :=
  let s := { s with ops := s.ops.filter fun q => q.id ≠ o.id }
  let own := o.kind = 1 || (o.kind = 0 && ownOutputs (job s o.job).route (nodeOf s o.job o.node))
  let s := if own then o.outs.foldl (fun s x => discardSlot s o.job (x.1 / 4096) (x.1 % 4096) x.2) s else s
  let outs := if own then [] else o.outs
  let s := if o.kind = 1 ∨ o.kind = 2 then modRecord s o fun d => { d with left := nins d.left o.tile } else s
  modNode s o.job o.member o.node fun x =>
    let w : Work := match x.works.find? fun w => w.rank = o.rank with
      | some w => { w with tile := min t w.tile, ins := (w.ins ++ o.ins).dedup, outs := (w.outs ++ outs).dedup }
      | none => ⟨o.rank, o.task, t, o.tile + 1, o.ins, outs⟩
    { x with works := sortBy ((x.works.filter fun v => v.rank ≠ o.rank) ++ [w]) fun (a b : Work) => decide (a.task ≤ b.task) }

/-- Paused transfers of a saved job go into the task records: a node's work restarts at the cursor, a buffer transfer at its tile
(Table 11-5). -/
def parkXfers (s : State) (j : Nat) : State :=
  let mine := s.ops.filter fun o => o.job = j && opPaused s o
  let fetches := (s.mem.moves.filter fun b => b.job = j && mine.any fun o => b.ends = .fetch o.id).map (·.id)
  let cursor (o : TileOp) : Nat := ((o.xfer.bind (xferNum s)).map (·.cursor)).getD o.tile
  let s := mine.foldl (fun s o => parkOp s o (cursor o)) s
  modMem s fun m => { m with
    xfers := m.xfers.filter fun x => !(x.job = j && x.num % 32 ≠ 31)
    moves := (m.moves.filter fun b => !fetches.contains b.id).map fun b => if b.job = j then { b with num := none, out := false } else b }

/-- The save of job `j` starts once every member is `SAVING`: the header's values are taken and `COMMIT` 0 goes out
(R58, R59). -/
def beginSave (s : State) (j : Nat) : State :=
  let s := parkXfers s j
  let s := modJob s j fun b => { b with saveTime := s.time, srcPods := b.members.length, resizable := isResizable s j }
  let s := modJob s j fun b => { b with ctxCrc := b.route.crc }
  sendCommit (setJobSt s j .saving) j false

/-- A drained Pod of a job under `SAVE` (R54, R55, Table 13-3): its halves park, then it saves. -/
def drainSave (s : State) (p j : Nat) : State :=
  let m := (podAt s p).member
  let mine := (halves s).filter fun x => x.2.2.job = j ∧ x.2.2.member = m ∧ x.2.2.st ≠ .stopped
  if mine.any fun x => !x.2.2.sets.isEmpty || !x.2.2.bufSets.isEmpty then s
  else
    let s := mine.foldl (fun s x => modHalf s x.1 x.2.1 fun y => { y with st := .parked }) s
    let s := setPodSt s p .saving
    if (jobPods s j).all fun p => (podAt s p).st = .saving then beginSave s j else s

/-- DRAIN_COMPLETE (R53, R54). -/
def doDrainDone (s : State) (p : Nat) : State :=
  let q := podAt s p
  if q.st ≠ .draining ∨ q.bindValid = false ∨ podDrained s p = false ∨ s.blk.st = .halted ∨ portOpen s = false then s
  else
    let j := q.job
    match (job s j).st with
    | .unbinding =>
      let s := freePod s p
      if (jobPods s j).isEmpty then jobGone s j else s
    | .draining => drainSave s p j
    | _ => freePod s p

/-- A saved job: its Pods are zeroised and released, its gates freed, and a `RESTORE` behind it comes next (R45, R50,
R58). -/
def jobSaved (s : State) (j : Nat) : State :=
  let s := modJob s j fun b => { b with gateCounts := b.gates.map fun g => (gateAt s g).count }
  let s := freeGates s j
  let s := (jobPods s j).foldl freePod s
  let b := job s j
  let next := b.queued.head?
  let s := modJob s j fun b => { b with active := next, queued := b.queued.drop 1, gates := [], phase := 0 }
  setJobSt s j (if next.isSome then .restoring else .saved)

/-- SAVE_COMMIT: `COMMIT` is acknowledged (R58). -/
def doSaveCommit (s : State) (j : Nat) : State :=
  if (job s j).st = .saving ∧ (job s j).phase = 4 ∧ portLive s then jobSaved s j else s

/-- The meaning of JOB_LOAD_COMPLETE. -/
def execJobLoadComplete (j : BitVec 8) (s : State) : Host.Outcome State Fault Refusal := .next (doLoadDone s j.toNat)
/-- The meaning of BIND. -/
def execBind (j : BitVec 8) (route : HostRead) (s : State) : Host.Outcome State Fault Refusal :=
  if route.wf then .next (doBind s j.toNat route) else .fault .illFormed
/-- The meaning of RESTORE. -/
def execRestore (j : BitVec 8) (route : HostRead) (s : State) : Host.Outcome State Fault Refusal :=
  if route.wf then .next (doRestore s j.toNat route) else .fault .illFormed
/-- The meaning of JOB_COMMAND_START. -/
def execJobCommandStart (j : BitVec 8) (image : HostRead) (s : State) : Host.Outcome State Fault Refusal :=
  if image.wf then .next (doStart s j.toNat image) else .fault .illFormed
/-- The meaning of DRAIN_COMPLETE. -/
def execDrainComplete (p : Fin 100) (s : State) : Host.Outcome State Fault Refusal := .next (doDrainDone s p.val)
/-- The meaning of SAVE_COMMIT. -/
def execSaveCommit (j : BitVec 8) (s : State) : Host.Outcome State Fault Refusal := .next (doSaveCommit s j.toNat)

/-- The meaning of UNBIND. -/
def execUnbind (j : BitVec 8) (s : State) : Host.Outcome State Fault Refusal := .next (doUnbind s j.toNat)
/-- The meaning of SAVE. -/
def execSave (j : BitVec 8) (at' : Bool) (s : State) : Host.Outcome State Fault Refusal := .next (doSave s j.toNat at')

end Sys2Proof.Machine
end

