-- ==== Sys2Proof/Machine/Rings.lean ====
section
/-! DEFINITION. Submission and completion rings: turning on and off, doorbells, resume actions, drains, completion
writes and interrupts (spec/03_work_rings.md R68 to R85, R90; spec/08 R207, R211; spec/04 R100, R101). -/

namespace Sys2Proof.Machine

/-! ## Turning rings on and off -/

/-- The first register among offsets `rs` of a ring's block whose last write set a reserved bit (R90, R456). -/
def rsvReg (s : State) (page n : Nat) (rs : List Nat) : Option Nat := rs.find? fun r => rsvSet s page (ringOfs n r)

/-- The first condition of Table 3-16 that a submission ring fails: code and register (R90). -/
def sqCheck (s : State) (n : Nat) : Option (Nat × Nat) :=
  let arb := sqr s n 0x10
  let ceil := sqr s n 0x14
  let ok (c : Nat) : Bool := decide (16 ≤ c ∧ c ≤ 8192)
  let size := bits (sqr s n 0x04) 4 0
  let base := sqr s n 0x18 + 2 ^ 32 * sqr s n 0x1C
  let limit := sqr s n 0x20 + 2 ^ 32 * sqr s n 0x24
  if enabled s (sqPage n) = false then some (0x1006, 0x00)
  else if size < 6 ∨ 16 < size then some (0x1001, 0x04)
  else if (cqAt s (sqCq s n)).on = false then some (0x1002, 0x04)
  else if bits arb 7 0 = 0 ∨ bits arb 14 8 = 0 ∨ 64 < bits arb 14 8 then some (0x1003, 0x10)
  else if !(ok (bits ceil 13 0) && ok (bits ceil 29 16)) then some (0x1004, 0x14)
  else if limit ≤ base then some (0x1005, 0x20)
  else (rsvReg s (sqPage n) n ((List.range 11).map (4 * ·))).map fun r => (0x1007, r)

/-- The first condition of Table 3-16 that a completion ring fails (R90). -/
def cqCheck (s : State) (c : Nat) : Option (Nat × Nat) :=
  let mode := cqr s c 0x04
  let size := bits mode 4 0
  if enabled s (cqPage c) = false then some (0x2005, 0x00)
  else if size < 6 ∨ 16 < size then some (0x2001, 0x04)
  else if bits mode 6 5 = 3 then some (0x2002, 0x04)
  else if bits (cqr s c 0x10) 15 0 = 0 then some (0x2002, 0x10)
  else if bits mode 6 5 = 1 ∧ cqr s c 0x14 = 0 ∧ cqr s c 0x18 = 0 then some (0x2003, 0x14)
  else (rsvReg s (cqPage c) c ((List.range 9).map (4 * ·))).map fun r => (0x2006, r)

/-- A submission ring that has just been turned on (R68, R207). -/
def Sq.opened : Sq := { Sq.empty with st := .active, phase := true }

/-- Writing 1 to `ON` of submission ring `n` (R90). -/
def sqOn (s : State) (n : Nat) : State :=
  match sqCheck s n with
  | some x => refuse s (sqPage n) x.1 (ringOfs n x.2)
  | none => modSq s n fun _ => Sq.opened

/-- Writing 1 to `ON` of completion ring `c` (R77, R90). -/
def cqOn (s : State) (c : Nat) : State :=
  match cqCheck s c with
  | some x => refuse s (cqPage c) x.1 (ringOfs c x.2)
  | none => wrg (modCq s c fun _ => { Cq.empty with on := true, phase := true }) (cqPage c) (0x020 + 4 * (c % 16)) 0

/-- Whether a submission ring that names completion ring `c` is not `DISABLED` (R90). -/
def cqNamed (s : State) (c : Nat) : Bool := s.sqs.any fun e => e.2.st ≠ .disabled && sqCq s e.1 = c

/-- Writing 0 to `ON` of completion ring `c` (R90). -/
def cqTurnOff (s : State) (c : Nat) : State :=
  if cqNamed s c then refuse s (cqPage c) 0x2004 (ringOfs c 0) else modCq s c fun _ => Cq.empty

/-- A write of `CQ_CTRL` (Table 3-10, R78, R90). -/
def cqCtrl (s : State) (c w : Nat) : State :=
  if portLive s = false then s
  else
    let masked := bitN (cqr s c 0x00) 1
    let s := storeReg s (cqPage c) (ringOfs c 0) w
    let s := match bitN w 0, (cqAt s c).on with
      | true, false => cqOn s c
      | false, true => cqTurnOff s c
      | _, _ => s
    if masked && !bitN w 1 && (cqAt s c).irqPend then cqInterrupt s c else s

/-! ## Packing order -/

/-- A unit has found its place or lost it: a held `FENCE` closes the batch once every unit before it is placed, and a stop
that waited for the units before it is reported (R207, R211). -/
def fenceClose (s : State) (n : Nat) : State :=
  stopSettle (match (sqAt s n).fence.bind (entryAt s n) with
    | some f => if s.entries.any fun e => e.sq = n && decide (e.rank < f.rank) && unitOpen s e then s else closeBatch s n 3
    | none => s) n

/-- `INFO` of a `STOPPED_CORRUPT` completion: the batch under assembly (Table 3-4). -/
def stopInfo (s : State) (n : Nat) : Nat :=
  2 ^ 32 * (if (jobPack s (sqJob s n)).isSome then (sqAt s n).asm.openB.number else 0xFFFFFFFF)

/-! ## Refusals and suspended entries -/

/-- Whether a stop in an earlier entry of its ring suspends entry `e` (R81). -/
def heldByStop (s : State) (e : Entry) : Bool := s.entries.any fun x => x.sq = e.sq && x.st = .stopped && decide (x.rank < e.rank)

/-- An entry completes `REFUSED` and its packing unit is removed (R67, R211); behind a stop it waits for the stop's end
(R81). -/
def refuseEntry (s : State) (e : Entry) (code : Nat) : State :=
  if heldByStop s e then modEntry s e.sq e.slot fun y => { y with st := .suspended, refusal := code }
  else
    let s := purge (removeUnit (finish s e stRefused code) e.sq e.rank) e.job
    arrivals (endStreams (fenceClose s e.sq) e.job) e.job

/-- A `MILEPOST` entry takes effect or waits (Table 3-2, R293, R296). -/
def milepostEntry (s : State) (e : Entry) : State :=
  let id := bits e.body.arg.toNat 17 0
  let src := MpSource.ring e.sq e.slot
  match bits e.body.arg.toNat 19 18 with
  | 0 => finish (mpSet (ringHolds s e.sq) id src) e stOk
  | 1 => finish (mpClear s id src) e stOk
  | 2 => if (mpAt s id).value then finish s e stOk else addWaiter s id false src
  | _ => if (mpAt s id).value then finish (mpTakeNow s id) e stOk else addWaiter s id true src

/-- A suspended entry goes on where it stood (R81, R82). -/
def wakeEntry (s : State) (e : Entry) : State :=
  if e.refusal ≠ 0 then refuseEntry s e e.refusal
  else
    let on (x : EntryState) : State := modEntry s e.sq e.slot fun y => { y with st := x }
    match e.opcode with
    | 3 => on .waiting
    | 6 => milepostEntry (on .waiting) e
    | 7 => finish s e stOk
    | _ => on .running

/-! ## Resume actions -/

/-- The ring runs again and what the stop suspended goes on (R82, R119). -/
def resumeRing (s : State) (n : Nat) : State :=
  let s := (sortBy (s.entries.filter fun e => e.sq = n ∧ e.st = .suspended) fun a b => decide (a.rank ≤ b.rank)).foldl wakeEntry s
  let s := modSq s n fun q => { q with st := .active }
  endStreams ((s.entries.filter fun e => e.sq = n).foldl entryEnds s) (sqJob s n)

/-- `RETRY`: the stop entry is processed again from its source bytes (Table 3-5). -/
def retryStop (s : State) (n : Nat) (e : Entry) : State :=
  let s := clearRank s e.job e.rank
  let s := modEntry s e.sq e.slot fun y => { y with
    st := .running, sinks := [], placed := 0, concealed := 0, stopKind := 0, stopOfs := 0 }
  resumeRing s n

/-- The stop entry gets its final `STOPPED_CORRUPT` and its unit is removed (Table 3-5, R211). -/
def endStop (s : State) (n : Nat) (e : Entry) : State :=
  let s := finish s e stCorrupt e.stopKind e.stopOfs (stopInfo s n)
  purge (removeUnit s n e.rank) e.job

/-- `SKIP` (Table 3-5). -/
def skipStop (s : State) (n : Nat) (e : Entry) : State :=
  endStreams (fenceClose (resumeRing (endStop s n e) n) n) e.job

/-- `DROP_BATCH` (Table 3-5, R211): every entry of the open batch ends `ABORTED` and its number is consumed. -/
def dropStop (s : State) (n : Nat) (e : Entry) : State :=
  let s := endStop s n e
  let s := match jobPack s e.job with
    | none => s
    | some _ =>
      let b := (sqAt s n).asm.openB
      let s := (b.units.flatMap (·.ranks)).foldl (fun s r => match entryRank s e.job r with
        | some x => finish s x stAborted
        | none => s) s
      let s := modSq s n fun q => { q with asm := { q.asm with openB := Batch.fresh ((b.number + 1) % 2 ^ 32) } }
      batchBoundary s n
  endStreams (fenceClose (resumeRing s n) n) e.job

/-- A resume action on a `STOPPED` ring (Table 3-5). -/
def resumeAction (s : State) (n a : Nat) : State :=
  match entryAt s n (sqAt s n).stopSlot with
  | none => resumeRing s n
  | some e => if a = 1 then retryStop s n e else if a = 2 then skipStop s n e else dropStop s n e

/-! ## Drains -/

/-- Whether nothing of a drained ring waits for a completion any more. -/
def drainedOut (s : State) (n : Nat) : Bool :=
  (sqAt s n).walked && !(s.entries.any fun e => e.sq = n) && !((cqAt s (sqCq s n)).due.any fun d => d.sq = n)

/-- A page whose rings are all `DISABLED` has drained (R442, R444). -/
def pageDrained (s : State) (page : Nat) : State :=
  if (List.range 16).all fun i => (sqAt s ((page - 0x100) * 16 + i)).st = .disabled then
    wrg s page 0x008 (rg s page 0x008 % 2)
  else s

/-- A drained ring becomes `DISABLED` (R84, step 5). -/
def drainSettle (s : State) (n : Nat) : State :=
  if (sqAt s n).st = .draining ∧ drainedOut s n then
    pageDrained (modSq s n fun q => { q with st := .disabled }) (sqPage n)
  else s

/-- Starts the drain of ring `n` by software (R84). -/
def startDrain (s : State) (n : Nat) : State := purge (drainRing s n stAborted) (sqJob s n)

/-- One device-owned entry of the walk: its final completion waits for a free slot, and the fetch index moves on
(R84, R76). -/
def walkOne (n : Nat) (s : State) (e : EntryBody) : State :=
  let q := sqAt s n
  let s := slotFetch s n .okay
  let s := addDue s { sq := n, slot := q.fetch, tag := e.tag.toNat, status := q.drainStatus, final := true, detail := 0,
                      count := 0, info := 0, reserved := false, irqNow := bitN e.eflags.toNat 1, xfer := none }
  let wrap := decide (q.fetch + 1 ≥ sqSize s n)
  modSq s n fun q => { q with fetch := if wrap then 0 else q.fetch + 1, phase := xor q.phase wrap }

/-- RING_DRAIN_DONE: the walk of step 3 has read device-owned entries `walk` and then a slot answered `last` (R84,
R459). -/
def doDrainWalk (s : State) (n : Nat) (walk : List EntryBody) (last : RspKind) : State :=
  let q := sqAt s n
  if portLive s = false ∨ q.st ≠ .draining ∨ q.walked then s
  else
    let s := (walk.take (sqSize s n)).foldl (walkOne n) s
    let s := if walk.length < sqSize s n then slotFetch s n last else s
    drainSettle (modSq s n fun q => { q with walked := true }) n

/-- A write of `SQ_CTRL` (Table 3-11, R82 to R84, R90). -/
def sqCtrl (s : State) (n w : Nat) : State :=
  if portLive s = false then s
  else
    let s := storeReg s (sqPage n) (ringOfs n 0) w
    let a := bits w 6 4
    let s := if a = 0 then s
      else if (sqAt s n).st = .stopped ∧ a ≤ 3 then resumeAction s n a
      else pageErr s (sqPage n) 2
    if bitN w 1 && (sqAt s n).st ≠ .disabled then startDrain s n
    else if bitN w 0 && (sqAt s n).st = .disabled then sqOn s n
    else s

/-! ## Doorbells and heads -/

/-- A write of `SQ_DOORBELL` (R71). -/
def doDoorbell (s : State) (n : Nat) : State :=
  if portLive s = false ∨ s.blk.shut ∨ s.blk.st = .roadside then s
  else match (sqAt s n).st with
    | .active | .stopped =>
      modSq s n fun q => if q.scan then { q with rescan := true } else { q with scan := true, rescan := q.rescan || s.blk.st = .draining }
    | _ => s

/-- SLOT_RESCAN_TIMER: 100 us after a slot read that was not answered `OKAY`, the slot is read again (R459). -/
def doRescan (s : State) (n : Nat) : State :=
  let q := sqAt s n
  if working s && q.st = .active && q.backoff then modSq s n fun q => { q with scan := true, backoff := false } else s

/-- A write of `CQ_HEAD` (R77). -/
def cqHead (s : State) (c w : Nat) : State :=
  if portLive s = false then s
  else
    let o := 0x020 + 4 * (c % 16)
    let size := cqSize s c
    let pos := bits w 15 0 + (if bitN w 16 then size else 0)
    let move := (pos + 2 * size - cqHeadLin s c) % (2 * size)
    if (cqAt s c).on && (decide (size ≤ bits w 15 0) || decide (cqUsed s c < move)) then pageErr s (cqPage c) 1
    else storeReg s (cqPage c) o w

/-! ## Fences, timeouts -/

/-- FENCE_RELEASE: every earlier entry of the ring has its final completion (R66). -/
def doFenceRelease (s : State) (n : Nat) : State :=
  match (sqAt s n).fence.bind (entryAt s n) with
  | some f =>
    if portLive s && !(s.entries.any fun e => e.sq = n && decide (e.rank < f.rank)) then
      modSq (finish s f stOk) n fun q => { q with fence := none }
    else s
  | none => s

/-- MILEPOST_TIMEOUT: a ring's `WAIT` or `TAKE` ends `TIMEOUT` (R296, R307). -/
def doMpTimeout (s : State) (n slot : Nat) : State :=
  match s.mps.waiters.find? fun w => w.src = .ring n slot with
  | none => s
  | some w =>
    if portLive s = false then s
    else
      let s := modMps s fun b => { b with waiters := b.waiters.filter fun v => v ≠ w }
      let s := bump s 0x580 3
      let s := if w.take then mpMisuse s w.id 2 else s
      match entryAt s n slot with
      | some e => finish s e stTimeout
      | none => s

/-! ## Completions -/

/-- Whether entry `e` forwarded a picture: a `DECODE` node has retired for it (R103). -/
def forwarded (s : State) (e : Entry) : Bool := e.sinks.any fun k => (nodeOf s e.job k).kind = 1

/-- What the final completion of a fetched entry does to its stream (R100, R101) and to the counters of pages (Table
19-9). -/
def finalStream (s : State) (e : Entry) (status : Nat) : State :=
  let k := e.body.stream.toNat
  let s := if e.opcode = 2 ∧ status ≤ 1 ∧ forwarded s e ∧ rg s 8 0x028 = k then latchPage s 8 else s
  if e.opcode ≠ 2 ∧ e.opcode ≠ 3 then s
  else match sget? s.streams k with
    | some t =>
      if t.sq ≠ e.sq then s
      else if e.opcode = 3 then closeSome s fun x => x.1 = k
      else
        let f (t : Stream) : Stream := { t with lastTime := s.time, doneHash := if status ≤ 1 ∧ e.hash ≠ 0 then e.hash else t.doneHash }
        writeStream { s with streams := smod s.streams k f } k (f t) e.rank
    | none => s

/-- A final completion has been written: its slot belongs to the host again (R68). -/
def finalWritten (s : State) (d : Due) : State :=
  let i := d.sq % 16
  let s := if d.status = stConcealed then bump32 s (sqPage d.sq) (0x20C + 16 * i) else s
  let s := match entryAt s d.sq d.slot with
    | some e =>
      if d.reserved then
        let s := { s with entries := s.entries.filter fun x => !(x.sq = d.sq && x.slot = d.slot) }
        let s := modSq s d.sq fun q => { q with asm := { q.asm with placed := ndel q.asm.placed e.rank, removed := ndel q.asm.removed e.rank } }
        let s := finalStream s e d.status
        if e.opcode = 5 ∧ (jobPack s e.job).isNone then batchBoundary s d.sq else s
      else s
    | none => s
  drainSettle s d.sq

/-- Whether a written completion makes its ring signal (R78). -/
def signals (s : State) (c : Nat) (d : Due) : Bool :=
  decide (bits (cqr s c 0x10) 15 0 ≤ (cqAt s c).since) || (bitN (cqr s c 0x04) 9 && decide (1 < d.status)) ||
    (d.final && d.irqNow)

/-- Writes the due completion `d` at the tail of ring `c` (R74 to R77). -/
def writeDue (s : State) (c : Nat) (d : Due) : State :=
  let q := cqAt s c
  let a := cqr s c 0x08 + 2 ^ 32 * cqr s c 0x0C + 32 * q.tail
  let s := memWrite s a (completionBytes d q.phase s.time) (cqr s c 0x20) 1 127 (.completion c d.sq d.slot d.xfer)
  let wrap := decide (q.tail + 1 ≥ cqSize s c)
  modCq s c fun q => { q with
    due := q.due.erase d, tail := if wrap then 0 else q.tail + 1, phase := xor q.phase wrap
    reserved := if d.reserved then q.reserved - 1 else q.reserved, since := q.since + 1, timing := true }

/-- COMPLETION_WRITE: the next due completion of ring `c` that has a slot (R75 to R78). None is written in `HALTED`
(R87), nor while an earlier write of the ring waits for its repetition (R282). -/
def doCompletion (s : State) (c : Nat) : State :=
  if portLive s = false ∨ (cqAt s c).on = false ∨ behind s (some (0, c)) then s
  else match nextDue s c with
    | none => s
    | some d =>
      let s := writeDue s c d
      let s := if d.final then finalWritten s d else s
      if signals s c d then cqSignal s c else s

/-- COAL_TIMER_EXPIRE: `TIME` us after the first completion since the last signal (R78). -/
def doCoal (s : State) (c : Nat) : State :=
  if portLive s && (cqAt s c).on && (cqAt s c).timing && bits (cqr s c 0x10) 31 16 ≠ 0 then cqSignal s c else s

/-! ## Meanings -/

/-- The meaning of SQ_DOORBELL. -/
def execSqDoorbell (n : BitVec 12) (_w : Word) (s : State) : Host.Outcome State Fault Refusal := .next (doDoorbell s n.toNat)
/-- The meaning of RING_ON. -/
def execRingOn (r : RingSel) (s : State) : Host.Outcome State Fault Refusal :=
  match r with
  | .sq n => .next (sqCtrl s n.toNat 1)
  | .cq c m => .next (cqCtrl s c.toNat (1 + 2 * b2n m))
/-- The meaning of CQ_OFF. -/
def execCqOff (c : BitVec 10) (m : Bool) (s : State) : Host.Outcome State Fault Refusal := .next (cqCtrl s c.toNat (2 * b2n m))
/-- The meaning of RING_DRAIN. -/
def execRingDrain (n : BitVec 12) (s : State) : Host.Outcome State Fault Refusal := .next (sqCtrl s n.toNat 2)
/-- The meaning of RING_DRAIN_DONE. -/
def execRingDrainDone (n : BitVec 12) (walk : List EntryBody) (last : RspKind) (s : State) : Host.Outcome State Fault Refusal :=
  .next (doDrainWalk s n.toNat walk last)
/-- The meaning of RETRY. -/
def execRetry (n : BitVec 12) (s : State) : Host.Outcome State Fault Refusal := .next (sqCtrl s n.toNat 0x10)
/-- The meaning of SKIP. -/
def execSkip (n : BitVec 12) (s : State) : Host.Outcome State Fault Refusal := .next (sqCtrl s n.toNat 0x20)
/-- The meaning of DROP_BATCH. -/
def execDropBatch (n : BitVec 12) (s : State) : Host.Outcome State Fault Refusal := .next (sqCtrl s n.toNat 0x30)
/-- The meaning of CQ_HEAD_WRITE. -/
def execCqHeadWrite (c : BitVec 10) (w : Word) (s : State) : Host.Outcome State Fault Refusal :=
  .next (cqHead s c.toNat w.toNat)
/-- The meaning of CQ_MASK_WRITE: `ON` keeps its value. -/
def execCqMaskWrite (c : BitVec 10) (m : Bool) (s : State) : Host.Outcome State Fault Refusal :=
  .next (cqCtrl s c.toNat (b2n (cqAt s c.toNat).on + 2 * b2n m))
/-- The meaning of SLOT_RESCAN_TIMER. -/
def execSlotRescanTimer (n : BitVec 12) (s : State) : Host.Outcome State Fault Refusal := .next (doRescan s n.toNat)
/-- The meaning of FENCE_RELEASE. -/
def execFenceRelease (n : BitVec 12) (s : State) : Host.Outcome State Fault Refusal := .next (doFenceRelease s n.toNat)
/-- The meaning of MILEPOST_TIMEOUT. -/
def execMilepostTimeout (n : BitVec 12) (slot : BitVec 16) (s : State) : Host.Outcome State Fault Refusal :=
  .next (doMpTimeout s n.toNat slot.toNat)
/-- The meaning of COMPLETION_WRITE. -/
def execCompletionWrite (c : BitVec 10) (s : State) : Host.Outcome State Fault Refusal := .next (doCompletion s c.toNat)
/-- The meaning of COAL_TIMER_EXPIRE. -/
def execCoalTimerExpire (c : BitVec 10) (s : State) : Host.Outcome State Fault Refusal := .next (doCoal s c.toNat)

end Sys2Proof.Machine
end

