-- ==== Sys2Proof/Machine/Entries.lean ====
section
/-! DEFINITION. Fetched entries: the checks and the block halt, task numbers, slot positions, streams, stages, and
refusals (spec/03_work_rings.md R65 to R73, R86, R87; spec/10 R249; spec/07 R193; spec/12 R310). -/

namespace Sys2Proof.Machine

/-- The offset of the first failing field of a list of (offset, failure). -/
def firstBad (l : List (Nat × Bool)) : Option Nat := (l.find? (·.2)).map (·.1)

/-- Whether [a, a + n) leaves the window of ring `n`; an empty range does not (R88). -/
def outsideWindow (s : State) (sq a n : Nat) : Bool :=
  let base := sqr s sq 0x18 + 2 ^ 32 * sqr s sq 0x1C
  let limit := sqr s sq 0x20 + 2 ^ 32 * sqr s sq 0x24
  n ≠ 0 && !decide (base ≤ a ∧ a + n ≤ limit)

/-- Whether a length is outside 1 to 268,435,456. -/
def badLen (n : Nat) : Bool := !decide (1 ≤ n ∧ n ≤ 268435456)

/-- Check 4 of Table 3-8: lengths, and zeros where the opcode requires them. -/
def lenCheck (op : Nat) (e : EntryBody) : Option Nat :=
  let work := op = 1 || op = 2 || op = 4
  let bare := op = 5 || op = 6 || op = 7
  let dl := e.dstLen.toNat
  firstBad [(0x08, !work && e.srcAddr ≠ 0), (0x10, if work then badLen e.srcLen.toNat else e.srcLen ≠ 0),
    (0x20, bare && e.dstAddr ≠ 0),
    (0x28, if e.dstAddr = 0 then decide (dl ≠ 0) else decide (dl % 64 ≠ 0) || badLen dl),
    (0x30, bare && e.augAddr ≠ 0)]

/-- Check 7 of Table 3-8: `ARG` and `ARG2` (Table 3-2). -/
def argCheck (s : State) (j op : Nat) (e : EntryBody) : Option Nat :=
  let a := e.arg.toNat
  let b := e.arg2.toNat
  let r := (job s j).route
  let mp := bits a 31 20 ≠ 0 || !((job s j).members.contains (bits a 17 11)) || decide (r.mpPer ≤ bits a 10 0)
  match op with
  | 2 => firstBad [(0x2C, decide (1 < a)), (0x38, decide (b ≠ 0))]
  | 4 => firstBad [(0x2C, decide (r.descCount ≤ a) || decide (1024 ≤ a)), (0x38, decide (b ≠ 0))]
  | 6 => firstBad [(0x2C, mp), (0x38, if bits a 19 18 < 2 then decide (b ≠ 0) else !decide (1 ≤ b ∧ b ≤ 65535))]
  | _ => firstBad [(0x2C, decide (a ≠ 0)), (0x38, decide (b ≠ 0))]

/-- The first failing check of Table 3-8: code and byte offset (R86). -/
def entryCheck (s : State) (n op : Nat) (e : EntryBody) : Option (Nat × Nat) :=
  let j := e.job.toNat
  let x := (job s j).st
  let with' (code : Nat) (o : Option Nat) : Option (Nat × Nat) := o.map fun k => (code, k)
  if op = 0 ∨ 7 < op then some (0x0301, 0)
  else with' 0x0302 (firstBad [(0x01, bits e.eflags.toNat 7 2 ≠ 0), (0x03, e.rsv03 ≠ 0),
      (0x14, bits e.stream.toNat 15 10 ≠ 0), (0x3C, e.rsv3c ≠ 0)])
    |>.or (if j ≠ sqJob s n ∨ x = .none ∨ x = .failed then some (0x0303, 0x02) else none)
    |>.or (with' 0x0304 (lenCheck op e))
    |>.or (with' 0x0305 (firstBad [(0x08, outsideWindow s n e.srcAddr.toNat e.srcLen.toNat),
      (0x20, outsideWindow s n e.dstAddr.toNat e.dstLen.toNat),
      (0x30, e.augAddr ≠ 0 && outsideWindow s n e.augAddr.toNat 32)]))
    |>.or (with' 0x0306 (firstBad [(0x20, decide (e.dstAddr.toNat % 64 ≠ 0)), (0x30, decide (e.augAddr.toNat % 32 ≠ 0))]))
    |>.or (with' 0x0307 (argCheck s j op e))

/-- The block halts on a malformed entry (R87). -/
def haltBlock (s : State) (n slot op : Nat) (e : EntryBody) (x : Nat × Nat) : State :=
  let w := n + 2 ^ 16 * slot
  let s := if s.itg.rollPhase = 3 then abandonSwap s else s
  let s := modBlk s fun b => { b with
    st := .halted, haltWhere := BitVec.ofNat 32 w, haltWhy := BitVec.ofNat 32 (x.1 + 2 ^ 16 * x.2 + 2 ^ 31)
    haltTime := s.time, haltEntry := (toWords 16 (entryBytes op e)).map (BitVec.ofNat 32) }
  raise s 1 127 w

/-! ## Fetch -/

/-- One entry leaves its slot: the fetch index moves on, a completion slot is reserved (R68, R72). -/
def takeSlot (s : State) (n : Nat) (fresh : Bool) : State :=
  let s := takeTurn s n fresh
  let q := sqAt s n
  let wrap := decide (q.fetch + 1 ≥ sqSize s n)
  let s := modSq s n fun q => { q with fetch := if wrap then 0 else q.fetch + 1, phase := xor q.phase wrap, backoff := false }
  let s := modCq s (sqCq s n) fun c => { c with reserved := c.reserved + 1 }
  restRound (bump s (sqPage n) (2 * (n % 16)))

/-- Slots and rows that the `SAMPLE` nodes of a route draw (R249). -/
def slotUses (r : Route) : List (Nat × Nat) :=
  (r.nodes.filter fun x => x.kind = 7).map fun x =>
    let d := nodeDesc r x 0
    (fieldLe (nodeBlock r x) 0 1, if d.rank = 1 then 1 else d.sz 1)

/-- Advances slot position `u` of job `j` by its rows and counts a wrap (R248 to R250). -/
def reserveOne (j : Nat) (s : State) (u : Nat × Nat) : State :=
  let p := (job s j).slotPos.getD u.1 0
  let s := if slotWraps p u.2 then bump (pageErr s 0x00B 0) 0x00B 3 else s
  modJob s j fun b => { b with slotPos := b.slotPos.set u.1 (slotAdvance p u.2) }

/-- Reserves slot positions for a fetched `SAMPLE`, `FRAME` or `TENSOR` entry (R249). -/
def reserveSlots (s : State) (j op : Nat) : State × List (Nat × Nat) :=
  let us := slotUses (job s j).route
  if op = 1 ∨ op = 2 ∨ op = 4 then
    (us.foldl (reserveOne j) s, us.map fun u => (u.1, (job s j).slotPos.getD u.1 0))
  else (s, [])

/-- The stream context that an entry may use: open, for its job, from its ring (R100). -/
def ownStream (s : State) (n : Nat) (e : EntryBody) : Option Stream :=
  (sget? s.streams e.stream.toNat).filter fun t => t.cstate = 1 && t.sq = n && t.job = e.job.toNat

/-- The first case of R67 that an entry falls under. -/
def refusal67 (s : State) (n op : Nat) (e : EntryBody) : Option Nat :=
  let new := op = 2 && e.arg.getLsbD 0
  let open' := sget? s.streams e.stream.toNat
  let r := (job s e.job.toNat).route
  if (op = 2 || op = 3) && (if new then open'.isSome && (ownStream s n e).isNone else (ownStream s n e).isNone) then some 0x0310
  else if new && open'.isSome then some 0x0311
  else if !(r.nodes.any fun x => x.kind = 0 && x.opcode = op) then some 0x0312
  else if new && decide (1024 ≤ s.streams.length) then some 0x0313
  else none

/-- The first check of R193 that an entry fails when its task starts. -/
def refusal193 (s : State) (op : Nat) (e : EntryBody) : Option Nat :=
  let r := (job s e.job.toNat).route
  let tooBig (d : Desc) (len : Nat) : Bool := !footInside d len
  let d0 := r.descs.getD e.arg.toNat ⟨0, 1, 0, 0, 0, 0, 0, 0, 0, 0, 0, List.replicate 8 1, List.replicate 8 0, 0⟩
  if op = 4 ∧ (d0.space ≠ 1 ∨ d0.reads = false) then some 0x0A22
  else if op = 3 then none
  else r.descs.findSome? fun d =>
    if d.space = 1 ∧ tooBig d e.srcLen.toNat then some 0x0A20
    else if d.space = 2 ∧ tooBig d e.dstLen.toNat then some 0x0A21 else none

/-- Whether `INGEST` reads the host augmentation record of an entry (R150). -/
def wantsAug (r : Route) (op : Nat) (e : EntryBody) : Bool :=
  (op = 1 || op = 2) && e.augAddr ≠ 0 &&
    r.nodes.any fun x => x.kind = 3 && (let a := fieldLe (nodeBlock r x) 0x03 1; a = 1 || a = 3)

/-- The record of a fetched entry. -/
def newEntry (s : State) (n slot op : Nat) (e : EntryBody) (bases : List (Nat × Nat)) : Entry :=
  let j := e.job.toNat
  let b := job s j
  let joins := op = 3 || (op = 2 && !e.arg.getLsbD 0)
  let t := if joins then ((ownStream s n e).map (·.task)).getD b.nextTask else b.nextTask
  { sq := n, slot := slot, rank := b.nextRank, opcode := op, body := e, job := j, task := t,
    member := t % max 1 b.members.length, stage := b.stage, st := .waiting, aug := [], bases := bases,
    srcPoison := false, hash := 0, placed := 0, concealed := 0, sinks := [], stopKind := 0, stopOfs := 0, refusal := 0 }

/-- The entry takes its rank, and its task number if it starts a task (R67). -/
def enterEntry (s : State) (e : Entry) : State :=
  let starts := e.opcode = 1 || e.opcode = 4 || (e.opcode = 2 && e.body.arg.getLsbD 0)
  let s := modJob s e.job fun b => { b with nextRank := b.nextRank + 1, nextTask := b.nextTask + b2n starts }
  { s with entries := s.entries ++ [e] }

/-- A stage-closing entry has been fetched (R310): members may arrive, and streams may end. -/
def closeStage (s : State) (j : Nat) : State :=
  endStreams (arrivals (modJob s j fun b => { b with stage := b.stage + 1 }) j) j

/-! ## Refusals -/

/-- The entries of the stream `k` that entry `e` belongs to. -/
def streamMates (s : State) (e : Entry) : List Entry :=
  s.entries.filter fun x => x.job = e.job ∧ x.sq = e.sq ∧ x.task = e.task ∧ x.opcode = 2

/-- The buffers of a closed stream are not written any more: what its pictures in flight still had to write is cut (log 58). -/
def cutWrites (s : State) (e : Entry) : State :=
  let ranks := (streamMates s e).map (·.rank)
  let mine (j r : Nat) : Bool := j = e.job && ranks.contains r
  let cut (b : BufMove) : Bool := mine b.job b.rank && b.ends = .write
  let gone := (s.mem.moves.filter cut).map (·.id)
  let s := modMem s fun m => { m with
    moves := m.moves.filter fun b => !cut b, xfers := m.xfers.filter fun x => !(x.move.any gone.contains) }
  let s : State := { s with
    ops := s.ops.map fun o => if mine o.job o.rank ∧ (o.kind = 1 ∨ o.kind = 2) then { o with after := [] } else o
    decodes := s.decodes.map fun d => if mine d.job d.rank then
      { d with works := d.works.map fun w => { w with store := none }, slot := if d.cached then d.slot else none, next := none } else d }
  (streamMates s e).foldl (fun s x => entryEnds (picturesEnd s x.job x.rank) x) s

/-- The context of the stream of a refused entry closes (R94): its part-filled tubelet group never completes, and its entries are
refused with it (log 58). -/
def closeRefused (s : State) (e : Entry) (code : Nat) : State :=
  let k := e.body.stream.toNat
  let f (x : Nat × Stream) : Bool := x.1 = k && x.2.sq = e.sq && x.2.task = e.task
  if e.opcode ≠ 2 ∨ s.streams.any f = false then s
  else
    let s := closeSome (cutWrites { s with streams := smod s.streams k fun t => { t with lastErr := code } } e) f 2
    let group := openGroup s e.job e.member k
    group.foldl (fun s r => match entryRank s e.job r with
      | some x => if x.rank = e.rank then s else refuseEntry s x code
      | none => s) s

/-- A refusal that follows R94: the context of the entry's stream closes with it. -/
def refuseStream (s : State) (e : Entry) (code : Nat) : State := refuseEntry (closeRefused s e code) e code

/-! ## Streams and tasks -/

/-- Address of cache slot `k`. -/
def slotAddress (s : State) (k : Nat) : Nat := rg64 s 8 0x40C + k * (rgf s 8 0x414 27 16 * 65536)

/-- Pinned cache slots (R127): those that a DPB record points at, and those of which a read is in flight. -/
def pinnedSlots (s : State) : List Nat :=
  let dpb := s.streams.flatMap fun t => (t.2.dpb.filter fun d => bitN d.dflags 3).map fun d =>
    (d.buf - rg64 s 8 0x40C) / max 1 (rgf s 8 0x414 27 16 * 65536)
  (dpb ++ (s.decodes.filter (·.cached)).filterMap (·.slot)).dedup

/-- The `DECODE` node that an entry of opcode `op` passes on member `m`. -/
def decodeNode (s : State) (j m op : Nat) : Option Nat :=
  (entryNodes s j m op).find? fun n => (nodeOf s j n).kind = 1

/-- Opens the context of a `NEW_STREAM` entry (R100, R101). -/
def openStream (s : State) (e : Entry) : State :=
  let k := e.body.stream.toNat
  let codec := ((decodeNode s e.job e.member 2).map fun n => (nodeOf s e.job n).opcode).getD 0
  let t : Stream :=
    { cstate := 1, job := e.job, codec := codec, policy := b2n (sqConceal s e.sq), sq := e.sq, task := e.task, lastErr := 0,
      frameNo := 0, concealed := 0, params := [], runHash := 0, doneHash := 0, openTime := s.time, lastTime := s.time, width := 0,
      height := 0, format := 0, depth := 0, dpb := [], prev := none, mref := none, codecState := [], hintBits := 0
      pool := ((decodeNode s e.job e.member 2).map fun n => nodeParam (job s e.job).route n 0 1).getD 0, asked := none, slotGot := []
      sampled := false }
  writeStream { s with streams := sput s.streams k t } k t e.rank

/-- Fills of fed edges that wait for their task take the ranks of the tasks now homed on member `m`. -/
def feedMember (s : State) (j m : Nat) : State :=
  (job s j).edges.foldl (fun s x => if x.1 / 4096 = m then feedRanks s j m (x.1 % 4096) else s) s

/-- Starts the task of an accepted entry: the checks of R193, then its work (R67). -/
def startTask (s : State) (e : Entry) (aug : HostRead) : State :=
  let s := if e.opcode = 2 ∧ e.body.arg.getLsbD 0 then openStream s e else s
  match refusal193 s e.opcode e.body with
  | some c => refuseStream s e c
  | none =>
    let want := wantsAug (job s e.job).route e.opcode e.body
    let s := if want then hostRead s e.body.augAddr.toNat 32 (sqXlat s e.sq) aug else s
    let s := modEntry s e.sq e.slot fun y => { y with
      st := if heldByStop s e then .suspended else .running, aug := if want then aug.bytes else [], srcPoison := want && aug.kind ≠ .okay }
    feedMember s e.job e.member

/-- An entry fetched behind a stop is suspended at once (R81). -/
def suspendEntry (s : State) (e : Entry) : State := modEntry s e.sq e.slot fun y => { y with st := .suspended }

/-- What a well-formed entry does (Table 3-2). -/
def runEntry (s : State) (e : Entry) (aug : HostRead) : State :=
  match e.opcode with
  | 5 => fenceClose (closeStage (modSq (ringHolds s e.sq) e.sq fun q => { q with fence := some e.slot }) e.job) e.sq
  | 6 => if heldByStop s e then suspendEntry s e else milepostEntry s e
  | 7 => if heldByStop s e then suspendEntry s e else finish s e stOk
  | op =>
    match refusal67 s e.sq op e.body with
    | some c => let s := refuseEntry s e c
                if op = 3 then closeStage s e.job else s
    | none =>
      if op = 3 then fenceClose (closeStage (if heldByStop s e then suspendEntry s e else s) e.job) e.sq else startTask s e aug

/-- A device-owned entry is read at the fetch index of ring `n` (R70 to R73). It is fetched only when the arbiter
serves the ring; a malformed one halts the block (R86). -/
def fetchEntry (s : State) (n op : Nat) (b : EntryBody) (aug : HostRead) : State :=
  match nextRing s with
  | none => s
  | some x =>
    if x.1 ≠ n ∨ b.eflags.getLsbD 0 ≠ (sqAt s n).phase then s
    else
      let slot := (sqAt s n).fetch
      let s := takeSlot (slotFetch s n .okay) n x.2
      match entryCheck s n op b with
      | some c => haltBlock s n slot op b c
      | none =>
        let r := reserveSlots s b.job.toNat op
        let e := newEntry r.1 n slot op b r.2
        arbSettle (runEntry (enterEntry r.1 e) e aug)

/-- An operand of commands without a host record. -/
def noAug : HostRead := ⟨.okay, [], 0⟩

/-- The meaning of ENTRY_SAMPLE: an entry whose opcode byte is `op`. -/
def execEntrySample (n : BitVec 12) (op : BitVec 8) (e : EntryBody) (aug : HostRead) (s : State) :
    Host.Outcome State Fault Refusal :=
  if aug.wf then .next (fetchEntry s n.toNat op.toNat e aug) else .fault .illFormed
/-- The meaning of ENTRY_FRAME. -/
def execEntryFrame (n : BitVec 12) (e : EntryBody) (aug : HostRead) (s : State) : Host.Outcome State Fault Refusal :=
  if aug.wf then .next (fetchEntry s n.toNat 2 e aug) else .fault .illFormed
/-- The meaning of ENTRY_END_STREAM. -/
def execEntryEndStream (n : BitVec 12) (e : EntryBody) (s : State) : Host.Outcome State Fault Refusal :=
  .next (fetchEntry s n.toNat 3 e noAug)
/-- The meaning of ENTRY_TENSOR. -/
def execEntryTensor (n : BitVec 12) (e : EntryBody) (s : State) : Host.Outcome State Fault Refusal :=
  .next (fetchEntry s n.toNat 4 e noAug)
/-- The meaning of ENTRY_FENCE. -/
def execEntryFence (n : BitVec 12) (e : EntryBody) (s : State) : Host.Outcome State Fault Refusal :=
  .next (fetchEntry s n.toNat 5 e noAug)
/-- `ARG` with a Milepost operation code in bits [19:18]. -/
def withMpOp (e : EntryBody) (k : Nat) : EntryBody :=
  { e with arg := BitVec.ofNat 32 (e.arg.toNat / 2 ^ 20 * 2 ^ 20 + k * 2 ^ 18 + e.arg.toNat % 2 ^ 18) }
/-- The meaning of ENTRY_MILEPOST_SET. -/
def execEntryMilepostSet (n : BitVec 12) (e : EntryBody) (s : State) : Host.Outcome State Fault Refusal :=
  .next (fetchEntry s n.toNat 6 (withMpOp e 0) noAug)
/-- The meaning of ENTRY_MILEPOST_CLEAR. -/
def execEntryMilepostClear (n : BitVec 12) (e : EntryBody) (s : State) : Host.Outcome State Fault Refusal :=
  .next (fetchEntry s n.toNat 6 (withMpOp e 1) noAug)
/-- The meaning of ENTRY_MILEPOST_WAIT. -/
def execEntryMilepostWait (n : BitVec 12) (e : EntryBody) (s : State) : Host.Outcome State Fault Refusal :=
  .next (fetchEntry s n.toNat 6 (withMpOp e 2) noAug)
/-- The meaning of ENTRY_MILEPOST_TAKE. -/
def execEntryMilepostTake (n : BitVec 12) (e : EntryBody) (s : State) : Host.Outcome State Fault Refusal :=
  .next (fetchEntry s n.toNat 6 (withMpOp e 3) noAug)
/-- The meaning of ENTRY_NOP. -/
def execEntryNop (n : BitVec 12) (e : EntryBody) (s : State) : Host.Outcome State Fault Refusal :=
  .next (fetchEntry s n.toNat 7 e noAug)

end Sys2Proof.Machine
end

