-- ==== Sys2Proof/Machine/Roll.lean ====
section
/-! DEFINITION. The rolling-test rotation and barrier swaps (spec/14_result_integrity.md R351 to R355). -/

namespace Sys2Proof.Machine

/-- The Pod that the rotation takes next: one moved to its head (spec/15 R367), or the next in service in ascending
physical ID (R351). -/
def nextRoll (s : State) : Option Nat :=
  let l := allPods.filter (inService s)
  match s.itg.rollHead with
  | some p => if inService s p then some p else l.find? fun q => decide (s.itg.rollPod < q)
  | none => match l.find? fun q => decide (s.itg.rollPod < q) with
    | some q => some q
    | none => l.head?

/-- ROLL_TIMER: the next Pod becomes due; for a bound one a spare is prepared (R351, R353, R354). -/
def doRoll (s : State) : State :=
  if working s = false ∨ rgf s 0 0x600 13 0 = 0 ∨ s.itg.rollPhase ≠ 0 then s
  else match nextRoll s with
    | none => s
    | some t =>
      let s := modPod s t fun q => { q with due := true }
      let s := { s with itg := { s.itg with rollPod := t, rollHead := none } }
      if (podAt s t).st = .bound then
        match bestSpare t (usableSpares s) with
        | some p => startTest { s with itg := { s.itg with rollPhase := 1, rollSpare := some p } } p .prepared
        | none => { s with itg := { s.itg with rollPhase := 2 } }
      else { s with itg := { s.itg with rollLast := s.time } }

/-- Whether Pod `t` holds a tile operation in flight or ready (R353). -/
def podBusy (s : State) (t : Nat) : Bool :=
  s.ops.any (fun o => o.pod = t) || (List.range 11).any fun k => !(candidates s t k).isEmpty

/-- Whether the member on Pod `t` has arrived at a gate of its job (R353 step 1). -/
def arrivedAt (s : State) (t : Nat) : Bool :=
  let q := podAt s t
  (job s q.job).gates.any fun g => (gateAt s g).members.contains q.member

/-- SWAP_COPY_START (R353 steps 1 and 2). -/
def doCopyStart (s : State) : State :=
  let t := s.itg.rollPod
  let q := podAt s t
  match s.itg.rollSpare with
  | some p =>
    if working s && decide (s.itg.rollPhase = 2 ∧ q.st = .bound ∧ (job s q.job).st = .bound) && (podAt s p).copyOk &&
        arrivedAt s t && !podBusy s t then
      { s with itg := { s.itg with rollPhase := 3, copied := false } }
    else s
  | none => s

/-- SWAP_COPY_DONE: the copy is complete, or is abandoned because work has become ready on the Pod (R353 steps 3, 4). -/
def doCopyDone (s : State) : State :=
  if s.itg.rollPhase ≠ 3 then s
  else if podBusy s s.itg.rollPod then abandonSwap s
  else { s with itg := { s.itg with copied := true } }

/-- The meaning of ROLL_TIMER. -/
def execRollTimer (s : State) : Host.Outcome State Fault Refusal := .next (doRoll s)
/-- The meaning of SWAP_COPY_START. -/
def execSwapCopyStart (s : State) : Host.Outcome State Fault Refusal := .next (doCopyStart s)
/-- The meaning of SWAP_COPY_DONE. -/
def execSwapCopyDone (s : State) : Host.Outcome State Fault Refusal := .next (doCopyDone s)

end Sys2Proof.Machine
end

