-- ==== Sys2Proof/Machine/Flags.lean ====
section
/-! DEFINITION. Status registers, flags and level outputs that other state gives: page headers and the page-error
summary (spec/19_register_pages.md R441 to R448), the status words of each page kind, the wired interrupts and the
error pair (spec/03 R79, spec/15 R374, R375, spec/16 R389). -/

namespace Sys2Proof.Machine

/-! ## Page headers -/

/-- `ENABLE` of page `p` as it reads (Table 19-1). -/
def enableBit (s : State) (p : Nat) : Bool :=
  match pageKind p with
  | some 0x00 => s.blk.st ≠ .cold && s.blk.st ≠ .selfTest
  | some 0x01 => s.pins.coldN
  | some 0x0D => enabled s 0x00C
  | some 0x40 => inService s (pageInst p)
  | some 0x50 => if p = 0x580 then enabled s p else p < 0x580 && (physOf s (pageInst p / 4)).isSome
  | some 0xF0 => false
  | some _ => enabled s p
  | none => false

/-- `PAGE_ERR` of page `p`: bit 1 of the Tollgate page follows the broken gates (R319). -/
def pageErrWord (s : State) (p : Nat) : Nat :=
  rg s p 0x014 ||| (if p = 0x020 ∧ s.gates.any (fun g => g.2.broken) then 2 else 0)

/-- Whether page `p` signals: `PAGE_ERR AND NOT PAGE_ERR_MASK` is not 0 (Table 19-6). -/
def signalling (s : State) (p : Nat) : Bool :=
  pageErrWord s p &&& (0xFFFFFFFF - rg s p 0x018) ≠ 0

/-- Pages that signal. -/
def signalPages (s : State) : List Nat :=
  (0x020 :: (s.regs.words.filter fun e => e.1 % 1024 = 5).map fun e => e.1 / 1024).filter fun p =>
    (pageKind p).isSome && signalling s p

/-- Page kinds in the order of the bits of `STW_ERR_KINDS` (Table 19-8). -/
def kindOrder : List Nat :=
  [0x00, 0x01, 0x02, 0x03, 0x08, 0x09, 0x0A, 0x0B, 0x0C, 0x0D, 0x10, 0x20, 0x30, 0x40, 0x50, 0xF0]

/-- `STW_ERR_KINDS` (Table 19-8). -/
def errKinds (s : State) : Nat :=
  let ks := (signalPages s).map pageKind
  (List.range 16).foldl (fun a b => a + 2 ^ b * b2n (ks.contains kindOrder[b]?)) 0

/-- `STW_ERR_FIRST` (Table 19-8). -/
def errFirst (s : State) : Nat :=
  match signalPages s with
  | [] => 0
  | p :: ps => ps.foldl min p + 2 ^ 31

/-- `PAGE_STATUS` of page `p` (Tables 17-2, 2-12, 19-6). A check and a command take no time, so `CHECKING` reads 0
(log 13). -/
def pageStatus (s : State) (p : Nat) : Nat :=
  match pageKind p with
  | some 0x00 => s.blk.st.code + 2 ^ 3 * b2n s.blk.shut + 2 ^ 4 * (s.blk.step % 16) + 2 ^ 8 * (s.blk.lastRst % 4)
  | some 0x40 => (podAt s (pageInst p)).st.code + 2 ^ 4 * b2n (podAt s (pageInst p)).gated
  | _ => b2n (enableBit s p) + 2 ^ 2 * b2n (bits (rg s p 0x008) 2 1 ≠ 0) + 2 ^ 3 * b2n (signalling s p)

/-- Words 0x000 to 0x01C of page `p` of kind `k` (Table 19-2). -/
def headerWord (s : State) (p k o : Nat) : Nat :=
  match o with
  | 0x000 => k + 2 ^ 8 * pageInst p + 2 ^ 28
  | 0x004 => pageCaps p + 2 ^ 8 * pagePositions p + 2 ^ 20 * (if p = 0 then activeCount s else 0)
  | 0x008 => b2n (enableBit s p) + 2 * b2n (bitN (rg s p 0x008) 1)
  | 0x00C => pageStatus s p
  | 0x014 => pageErrWord s p
  | _ => rg s p o

/-! ## Status registers by page kind -/

/-- Word `i` of a list of words, 0 past its end. -/
def wordAt (l : List Word) (i : Nat) : Nat := (l.getD i 0).toNat

/-- Half `i` (0 low, 1 high) of a 64-bit value. -/
def half64 (v i : Nat) : Nat := v / 2 ^ (32 * i) % 2 ^ 32

/-- Read-only registers of the Steward page (Tables 1-2, 14-11, 16-7, 17-10, 19-8). -/
def stwWord (s : State) (o : Nat) : Nat :=
  let t := s.stw
  let pack := s.itg.packs[rgf s 0 0x620 3 0]?
  match o with
  | 0x020 => stwPods s
  | 0x030 => (if s.itg.rollPhase = 0 then 0x7F else s.itg.rollPod) + 2 ^ 8 * s.itg.rollPhase
  | 0x034 => min 65535 s.itg.swaps + 2 ^ 16 * min 65535 s.itg.abandoned
  | 0x038 => b2n (t.active = 1) + 2 * b2n t.slotA.valid + 4 * b2n t.slotB.valid + 8 * b2n (t.active = 2)
  | 0x03C => fwVer s
  | 0x040 => b2n (s.blk.st ≠ .cold && t.active ≠ 2) + 2 ^ 16 * t.logNext.length
  | 0x044 => t.logSeq % 2 ^ 32
  | 0x048 => s.blk.bootCode + 2 ^ 16 * s.blk.bootMapped
  | 0x04C => half64 s.blk.readyTime 0
  | 0x050 => half64 s.blk.readyTime 1
  | 0x054 => min 65535 s.blk.warmCnt + 2 ^ 16 * min 65535 s.blk.blockCnt
  | 0x058 => errKinds s
  | 0x05C => errFirst s
  | 0x624 => (pack.map fun p => p.id + 2 ^ 16 * p.ver).getD 0
  | 0x628 => (pack.map fun p => min 65535 p.passed + 2 ^ 16 * min 65535 p.failed).getD 0
  | 0x920 => 0
  | 0x980 => b2n (!t.mbx.isEmpty) + 2 ^ 8 * t.mbx.length
  | o =>
    if 0x700 ≤ o ∧ o < 0x800 ∧ o % 8 = 4 then
      let g := groupAt s ((o - 0x700) / 8)
      g.members.length % 16 + 2 ^ 4 * (g.pending.length % 16) + 2 ^ 8 * g.result + 2 ^ 16 * min 65535 g.comparisons
    else if 0x804 ≤ o ∧ o ≤ 0x810 then sgetD s.itg.lastDig (rg s 0 0x800) 0 / 2 ^ (8 * (o - 0x804)) % 2 ^ 32
    else if 0x940 ≤ o ∧ o < 0x980 then wordAt (t.mbx.headD []) ((o - 0x940) / 4)
    else rg s 0 o

/-- The instance that `FLT_INST_SEL` selects. -/
def fltSel (s : State) : Inst := instAt s (rgf s 1 0x034 4 0) (rgf s 1 0x034 14 8)

/-- Read-only registers of the fault page (Tables 15-6, 15-8). -/
def fltWord (s : State) (o : Nat) : Nat :=
  let c := s.flt
  match o with
  | 0x020 => b2n c.irqPend + 2 * b2n (s.blk.resetBy = .block) + 4 * b2n s.pins.rstReq
  | 0x024 => c.active.toNat
  | 0x028 => c.severe.toNat
  | 0x02C => c.wire.toNat
  | 0x030 => b2n c.errLatch + 2 * b2n c.replaced + 4 * b2n (c.errLatch || c.replaced)
  | 0x038 => let x := fltSel s; min 255 x.count + 2 ^ 8 * b2n x.severe + 2 ^ 9 * b2n x.wired
  | 0x03C => half64 (fltSel s).start 0
  | 0x040 => half64 (fltSel s).start 1
  | 0x044 => c.newest + 2 ^ 8 * c.hold.length + 2 ^ 16 * (c.written % 65536)
  | o =>
    if o ≥ 0xC00 then
      match sget? c.log ((o - 0xC00) / 32) with
      | some w => fieldLe (waysideBytes w) ((o - 0xC00) % 32) 4
      | none => 0
    else rg s 1 o

/-- Read-only registers of the power page (Tables 1-8, 16-8). -/
def pwrWord (s : State) (o : Nat) : Nat :=
  match o with
  | 0x020 => clkStatus s
  | 0x024 => pwrStatus s
  | 0x028 => s.pwr.power % 65536 + 2 ^ 16 * (s.pwr.avgPower % 65536)
  | 0x02C => s.pwr.current % 65536
  | o => rg s 2 o

/-- `INK_JOB_STATUS`j (Table 2-8). -/
def jobStatus (s : State) (j : Nat) : Nat :=
  let b := job s j
  let pods := if b.st = .none ∨ b.st = .saved then 0 else b.members.length
  let pend := match b.active, b.queued with
    | some c, _ => c.op.code
    | none, c :: _ => c.op.code
    | none, [] => 0
  b.st.code + 2 ^ 4 * pods + 2 ^ 11 * b2n b.resizable + 2 ^ 12 * pend + 2 ^ 16 * b.reason

/-- Read-only registers of the Intake page (Tables 2-6, 3-17, 11-7). -/
def inkWord (s : State) (o : Nat) : Nat :=
  let x := xferNum s (rg s 3 0x088)
  match o with
  | 0x020 => s.blk.haltWhere.toNat
  | 0x024 => s.blk.haltWhy.toNat
  | 0x028 => half64 s.blk.haltTime 0
  | 0x02C => half64 s.blk.haltTime 1
  | 0x084 => (s.mem.xfers.filter fun x => x.state ≥ 2).length
  | 0x08C => match x with
    | some x => min 2 x.state + 4 * b2n (x.num % 32 = 31) + 2 ^ 8 * x.job
    | none => 0
  | 0x090 => match x with
    | some x => if x.state ≥ 2 then x.page % 2 ^ 32 / 4096 * 4096 else 0
    | none => 0
  | 0x094 => match x with
    | some x => if x.state ≥ 2 then half64 x.page 1 else 0
    | none => 0
  | 0x098 => (x.map fun x => x.cursor % 2 ^ 32).getD 0
  | o =>
    if 0x040 ≤ o ∧ o < 0x080 then wordAt s.blk.haltEntry ((o - 0x040) / 4)
    else if 0x400 ≤ o ∧ o < 0x800 ∧ o % 16 = 12 then
      let c := (o - 0x400) / 16
      (sgetD s.mem.poolHeld c []).length % 65536 + 2 ^ 16 * min 65535 (sgetD s.mem.poolRejected c 0)
    else if 0xC00 ≤ o then jobStatus s ((o - 0xC00) / 4)
    else rg s 3 o

/-- Read-only registers of the Decode page (Table 4-15). -/
def decWord (s : State) (o : Nat) : Nat :=
  match o with
  | 0x020 => s.streams.length
  | 0x024 => s.cache.length + 2 ^ 16 * (pinnedSlots s).length
  | o => rg s 8 o

/-- Read-only registers of the Shape and Layout pages: work in flight, block-wide (Tables 6-13, 7-15). -/
def stationWord (s : State) (p o : Nat) : Nat :=
  if o = 0x020 then
    if p = 9 then
      let begun := s.jobs.flatMap fun b => (b.2.nodes.filter fun n => (nodeOf s b.1 (n.1 % 1024)).kind = 3).flatMap fun n =>
        n.2.works.map fun w => (b.1, n.1, w.rank)
      (begun ++ ((s.ops.filter fun (o : TileOp) => o.kind = 3).map fun (o : TileOp) => (o.job, o.member * 1024 + o.node, o.rank))).dedup.length
    else (s.ops.filter fun o => o.kind = 4).length
  else rg s p o

/-- Read-only registers of the randomness page (Tables 10-8, 10-9). -/
def rngWord (s : State) (o : Nat) : Nat :=
  let sel := rg s 0x00B 0x024
  let b := job s (bits sel 7 0)
  let pos := if b.st = .none ∨ b.st = .binding ∨ b.st = .failed then 0 else b.slotPos.getD (bits sel 13 8) 0
  match o with
  | 0x020 => b2n s.rng.tableOk + 2 * b2n s.rng.reloading + 2 ^ 8 * (allPods.filter fun p => (podAt s p).copyOk).length
  | 0x028 => half64 pos 0
  | 0x02C => half64 pos 1
  | 0x834 => wordAt s.rng.table (rgf s 0x00B 0x830 9 0)
  | o => if 0x040 ≤ o ∧ o < 0x060 then fieldLe s.rng.digest (o - 0x040) 4 else rg s 0x00B o

/-- `CWY_STATUS` (Table 13-5): ports `UP` and `LOST`. -/
def cwyStatus (s : State) : Nat :=
  (List.range 8).foldl (fun a k => a + 2 ^ k * b2n ((portAt s k).st = 1) + 2 ^ (8 + k) * b2n ((portAt s k).st = 2)) 0

/-- Code of a half's state (Table 13-6). -/
def HalfState.code : HalfState → Nat
  | .unbound => 0 | .active => 1 | .parked => 2 | .faulted => 3 | .stopped => 4

/-- Read-only registers of a Causeway port page (Table 13-6). `EN` reads 1 while the half is bound (R330). -/
def portWord (s : State) (k o : Nat) : Nat :=
  let c := portAt s k
  if o = 0x020 then c.st + 2 ^ 16 * c.peerId
  else if 0x040 ≤ o ∧ o < 0x060 then
    let h := halfAt s k ((o - 0x040) / 4)
    h.st.code + 2 ^ 4 * (h.slot % 64) + 2 ^ 16 * (h.credits.length % 128)
  else if 0x400 ≤ o ∧ o < 0x500 ∧ (o - 0x400) % 0x20 = 0 then
    rg s (cwyPage k) o / 2 * 2 + b2n ((halfAt s k ((o - 0x400) / 0x20)).st ≠ .unbound)
  else rg s (cwyPage k) o

/-- Read-only registers of the Tollgate page (Table 12-10). -/
def tgWord (s : State) (o : Nat) : Nat :=
  let g := gateAt s (o % 0x400 / 4)
  if 0xC00 ≤ o then g.misuse + 2 ^ 8 * g.misuser
  else if 0x800 ≤ o then
    b2n g.gen + 2 * b2n g.assigned + 4 * b2n g.broken + 2 ^ 4 * (gateArrived g % 512) + 2 ^ 13 * (gateExpect g % 512) +
      2 ^ 22 * g.job
  else if 0x400 ≤ o then (g.extNext.getD g.ext).toNat
  else rg s 0x020 o

/-- `POD_IDENT` (Table 1-1). -/
def podIdent (s : State) (p : Nat) : Nat :=
  p + 2 ^ 8 * (p % 10) + 2 ^ 12 * (p / 10) + 2 ^ 16 * (if inService s p then (podAt s p).logical else 0x7F) +
    2 ^ 24 * (podAt s p).role

/-- Read-only registers of a `POD_` page (Tables 1-1, 2-13, 14-9). -/
def podWord (s : State) (p o : Nat) : Nat :=
  let q := podAt s p
  match o with
  | 0x020 => podIdent s p
  | 0x024 => if q.bindValid && [.restoring, .bound, .draining, .saving].contains q.st then q.job + 2 ^ 8 + 2 ^ 16 * q.member else 0
  | 0x028 => min 255 q.tests + 2 ^ 8 * q.cause
  | 0x02C => half64 q.testTime 0
  | 0x030 => half64 q.testTime 1
  | o => rg s (podPage p) o

/-- `SQ_STATUS` (Table 3-13). -/
def sqStatus (s : State) (n : Nat) : Nat :=
  let q := sqAt s n
  q.st.code + 4 * b2n (!jobFetches s (sqJob s n)) + 8 * b2n q.rescan +
    2 ^ 16 * (if q.st = .stopped then q.stopSlot else 0)

/-- `CQ_STATUS` (Table 3-14). `FULL_STALL`: a completion is due and the ring has no slot for it. -/
def cqStatus (s : State) (c : Nat) : Nat :=
  let q := cqAt s c
  q.tail + 2 ^ 16 * b2n q.phase + 2 ^ 17 * b2n q.irqPend + 2 ^ 18 * b2n (!q.due.isEmpty && (nextDue s c).isNone)

/-- Registers of a submission ring page (Table 3-9). -/
def sqWord (s : State) (p o : Nat) : Nat :=
  let ring (i : Nat) : Nat := (p - 0x100) * 16 + i
  if 0x060 ≤ o ∧ o < 0x0E0 then
    let q := sqAt s (ring ((o - 0x060) / 8))
    if o % 8 = 0 then sqStatus s (ring ((o - 0x060) / 8)) else q.fetch + 2 ^ 16 * b2n q.phase
  else if 0x400 ≤ o ∧ o < 0x800 ∧ o % 0x40 = 0 then
    let q := sqAt s (ring ((o - 0x400) / 0x40))
    b2n (q.st ≠ .disabled) + 2 * b2n (q.st = .draining)
  else if o < 0x060 then 0 else rg s p o

/-- Registers of a completion ring page (Table 3-10). -/
def cqWord (s : State) (p o : Nat) : Nat :=
  let ring (i : Nat) : Nat := (p - 0x200) * 16 + i
  if 0x060 ≤ o ∧ o < 0x0E0 then
    let c := ring ((o - 0x060) / 8)
    if o % 8 = 0 then cqStatus s c else (cqAt s c).reserved
  else if 0x400 ≤ o ∧ o < 0x800 ∧ o % 0x40 = 0 then
    rg s p o + b2n (cqAt s (ring ((o - 0x400) / 0x40))).on
  else rg s p o

/-- `MP_WORD` of Milepost `id` (Table 12-7). -/
def mpWord (s : State) (id : Nat) : Nat :=
  let b := mpBytes s id
  let r (i : Nat) : Nat := fieldLe b i 1
  r 8 % 2 + 2 * (r 8 / 4 % 2) + 2 ^ 8 * r 9 + 2 ^ 16 * b2n (r 10 ≠ 0 || r 11 ≠ 0 || r 12 ≠ 0)

/-- `MP_DUMP_STATUS` (Table 12-8). -/
def dumpStatus (s : State) : Nat :=
  s.mps.dumpState + 4 * b2n s.mps.dumpSevere + 8 * b2n s.mps.dumpSkipped + 2 ^ 4 * (s.mps.dumpUnit % 1024)

/-- Registers of the Milepost pages (R318, Tables 12-7, 12-8). -/
def mpPageWord (s : State) (p o : Nat) : Nat :=
  let i := pageInst p
  if p < 0x580 then
    if o = 0x020 then i / 4 + 2 ^ 7 * (i % 4) + 2 ^ 9 * b2n (physOf s (i / 4)).isSome
    else if 0x800 ≤ o then mpWord s (2048 * (i / 4) + 512 * (i % 4) + (o - 0x800) / 4)
    else 0
  else if p = 0x580 then
    if 0x030 ≤ o ∧ o < 0x040 then fieldLe (mpBytes s (rg s p 0x024)) (o - 0x030) 4
    else match o with
      | 0x040 => dumpStatus s
      | 0x044 => 0
      | 0x048 => half64 s.mps.dumpT0 0
      | 0x04C => half64 s.mps.dumpT0 1
      | 0x050 => half64 s.mps.dumpT1 0
      | 0x054 => half64 s.mps.dumpT1 1
      | o => rg s p o
  else 0

/-! ## Statistics -/

/-- 64-bit counters of a page kind (Tables 4-15, 6-13, 7-15, 9-13, 10-8, 11-7, 11-12a, 12-8, 12-10, 13-6, 14-10,
15-6, 16-8). -/
def counters (p : Nat) : Nat :=
  match pageKind p with
  | some 0x01 | some 0x03 => 8
  | some 0x02 | some 0x09 | some 0x0B | some 0x30 => 4
  | some 0x08 | some 0x0A | some 0x0D => 6
  | some 0x40 => 12
  | some 0x10 => 32
  | some 0x50 => if p = 0x580 then 6 else 0
  | _ => 0

/-- Whether the two words at offset `o` of page `p` are one 64-bit counter: on ring pages, only the first of each
position (Table 3-9). -/
def wide (p o : Nat) : Bool := pageKind p ≠ some 0x10 || o % 16 < 8

/-- A statistics word (R12, R451): offsets 0x100 and 0x200 onwards. -/
def statWord (s : State) (p o : Nat) : Nat :=
  let m := if o < 0x200 then s.regs.latched else s.regs.live
  if 8 * counters p ≤ o % 0x100 then 0
  else if wide p o = false then sgetD m (wa p o) 0 % 2 ^ 32
  else if o % 8 = 0 then sgetD m (wa p o) 0 % 2 ^ 32
  else match sget? s.regs.hi (wa p (o - 4)) with
    | some h => h.toNat
    | none => half64 (sgetD m (wa p (o - 4)) 0) 1

/-- The value that offset `o` of page `p` reads (R10, R439). -/
def readWord (s : State) (p o : Nat) : Nat :=
  match pageKind p with
  | none => 0
  | some k =>
    if o < 0x020 then headerWord s p k o
    else if 0x100 ≤ o ∧ o < 0x300 then statWord s p o
    else match k with
      | 0x00 => stwWord s o
      | 0x01 => fltWord s o
      | 0x02 => pwrWord s o
      | 0x03 => inkWord s o
      | 0x08 => decWord s o
      | 0x09 | 0x0A => stationWord s p o
      | 0x0B => rngWord s o
      | 0x0C => if o = 0x020 then cwyStatus s else rg s p o
      | 0x0D => portWord s (pageInst p) o
      | 0x30 => tgWord s o
      | 0x40 => podWord s (pageInst p) o
      | 0x10 => sqWord s p o
      | 0x20 => cqWord s p o
      | 0x50 => mpPageWord s p o
      | _ => 0

/-! ## Level outputs -/

/-- Whether wired output `l` of `BLK_IRQ` is high (R79, R375, R389). -/
def irqLine (s : State) (l : Nat) : Bool :=
  (s.cqs.any fun e => e.2.irqPend && !bitN (cqr s e.1 0x00) 1 && bits (cqr s e.1 0x04) 6 5 = 2 &&
    bits (cqr s e.1 0x04) 8 7 = l) ||
  (s.flt.irqPend && rgf s 1 0x480 1 0 = 2 && rgf s 1 0x480 3 2 = l) ||
  (!s.stw.mbx.isEmpty && rgf s 0 0x984 1 0 = 2 && rgf s 0 0x984 3 2 = l)

/-- `BLK_ERR_T`: the pair carries (1,0) while it is true and (0,1) otherwise (R374, R433). -/
def errOut (s : State) : Bool := s.blk.st ≠ .cold && (s.flt.errLatch || s.flt.replaced)

end Sys2Proof.Machine
end

