-- ==== Sys2Proof/Machine/Control.lean ====
section
/-! DEFINITION. The control port: register writes and reads, and the enabling, disabling and draining of pages
(spec/19_register_pages.md R439 to R451; spec/18 R427, R428; spec/00 R10, R12, R456). -/

namespace Sys2Proof.Machine

/-! ## Enabling a page -/

/-- The first offset of a list whose last write set a reserved bit (R456). -/
def rsvAmong (s : State) (p : Nat) (os : List Nat) : Option Nat := os.find? (rsvSet s p)

/-- Whether the shares of port `j` break Table 11-12 (0x0363). -/
def badSplit (s : State) (j : Nat) : Bool :=
  let w := rg s 3 (0x840 + 4 * j)
  let ok (x : Nat) : Bool := decide (4 ≤ x ∧ x ≤ 24)
  !(ok (bits w 4 0) && ok (bits w 12 8) && ok (bits w 20 16) && bits w 4 0 + bits w 12 8 + bits w 20 16 = 32)

/-- Whether pool class `c` is enabled with an illegal configuration (0x0364). -/
def badPool (s : State) (c : Nat) : Bool :=
  let cfg := rg s 3 (0x400 + 16 * c)
  let base := rg s 3 (0x404 + 16 * c) * 65536
  let limit := rg s 3 (0x408 + 16 * c) * 65536
  bitN cfg 0 && (decide (limit ≤ base) || decide (9 < bits cfg 7 4) || decide (bits cfg 31 8 = 0) ||
    decide (limit - base < bits cfg 31 8 * 4096))

/-- The registers of Table 11-7 with reserved bits, in ascending offset. -/
def poolRegs : List Nat :=
  [0x080, 0x088] ++ (List.range 192).map (fun k => 0x400 + 16 * (k / 3) + 4 * (k % 3)) ++
    (List.range 16).map (fun j => 0x840 + 4 * j) ++ [0x880]

/-- The check of the Intake page (R291). -/
def inkCheck (s : State) : Option (Nat × Nat) :=
  match (List.range 16).find? (badSplit s) with
  | some j => some (0x0363, 0x840 + 4 * j)
  | none => match (List.range 64).find? (badPool s) with
    | some c => some (0x0364, 0x400 + 16 * c)
    | none => (rsvAmong s 3 poolRegs).map fun o => (0x0365, o)

/-- Whether an area of `n` bytes at `a` wraps past 2^64 - 1. -/
def wraps (a n : Nat) : Bool := decide (2 ^ 64 < a + n)

/-- The check of the Decode page (Table 4-16). -/
def decCheck (s : State) : Option (Nat × Nat) :=
  let g := rg s 8 0x414
  let slots := bits g 14 0
  let size := bits g 27 16
  if rsvSet s 8 0x400 || wraps (rg64 s 8 0x400) (2 ^ 26) then some (0x0801, 0x400)
  else if rsvSet s 8 0x40C || wraps (rg64 s 8 0x40C) (slots * size * 65536) then some (0x0802, 0x40C)
  else if 16384 < slots ∨ (slots ≠ 0 ∧ (size = 0 ∨ 2048 < size)) then some (0x0803, 0x414)
  else (rsvAmong s 8 [0x400, 0x404, 0x408, 0x40C, 0x410, 0x414, 0x418]).map fun o => (0x0804, o)

/-- The checks of the Layout page: Table 7-16, then R213. -/
def layCheck (s : State) : Option (Nat × Nat) :=
  let l := bits (rg s 0xA 0x408) 3 0
  if rsvSet s 0xA 0x028 then some (0x0A31, 0x028)
  else if rsvSet s 0xA 0x400 || wraps (rg64 s 0xA 0x400) (4096 * 2 ^ l * 64) then some (0x0A47, 0x400)
  else if 8 < l ∨ rsvSet s 0xA 0x408 then some (0x0A47, 0x408)
  else if rsvSet s 0xA 0x40C then some (0x0A47, 0x40C)
  else none

/-- The check of the Milepost control page (R318). -/
def dumpCheck (s : State) : Option (Nat × Nat) :=
  let a := rg64 s 0x580 0x400
  if a = 0 ∨ wraps a (3 * 2 ^ 20) ∨ rsvSet s 0x580 0x400 then some (0x5003, 0x400)
  else (rsvAmong s 0x580 [0x404, 0x408, 0x40C]).map fun o => (0x5003, o)

/-- The configuration-consistency check of page `p`: the code and offset of its first failure (R443). -/
def pageCheck (s : State) (p : Nat) : Option (Nat × Nat) :=
  match pageKind p with
  | some 0x03 => inkCheck s
  | some 0x08 => decCheck s
  | some 0x09 => if rsvSet s 9 0x028 then some (0x0901, 0x028) else none
  | some 0x0A => layCheck s
  | some 0x0C => if rsvSet s 0xC 0x400 then some (0x0C01, 0x400) else none
  | some 0x50 => dumpCheck s
  | _ => none

/-- A write of 1 to `ENABLE` (R443). -/
def enablePage (s : State) (p : Nat) : State :=
  if enabled s p then s
  else match pageCheck s p with
    | some x => refuse s p x.1 x.2
    | none => wrg s p 0x008 (rg s p 0x008 ||| 1)

/-- Starts the drain of every ring of a submission ring page that is not `DISABLED` (R84, R442, R444). -/
def drainPage (s : State) (p : Nat) : State :=
  (List.range 16).foldl (fun s i =>
    let n := (p - 0x100) * 16 + i
    if (sqAt s n).st = .disabled then s else startDrain s n) s

/-- Refuses a clear of `ENABLE` (R444). -/
def refuseClear (s : State) (p code : Nat) (bit : Option Nat) : State :=
  let s := match bit with
    | some i => pageErr s p i
    | none => s
  refuse s p code 0x008

/-- A write of 0 to `ENABLE` (R444; R129, R289, R335). -/
def disablePage (s : State) (p : Nat) : State :=
  if enabled s p = false then s
  else
    let off (s : State) : State := wrg s p 0x008 (rg s p 0x008 / 2 * 2)
    match pageKind p with
    | some 0x03 => if s.jobs.any fun b => b.2.st ≠ .none then refuseClear s p 0x0360 (some 3) else off s
    | some 0x08 => if s.streams.isEmpty then off s else refuseClear s p 0x0805 (some 2)
    | some 0x0C => if (halves s).isEmpty then off s else refuseClear s p 0x0C02 none
    | some 0x20 => if (List.range 16).any fun i => (cqAt s ((p - 0x200) * 16 + i)).on then refuseClear s p 0x2004 none else off s
    | some 0x10 => pageDrained (drainPage (wrg s p 0x008 (rg s p 0x008 / 2 * 2 ||| 4)) p) p
    | _ => off s

/-- A write of `PAGE_CTRL` (R442 to R444). -/
def pageCtrl (s : State) (p w : Nat) : State :=
  match pageKind p with
  | none => s
  | some k =>
    let caps := pageCaps p
    if bits w 31 2 ≠ 0 ∨ (bitN w 1 ∧ bitN caps 1 = false) then refuse s p (k * 2 ^ 8 + 0xFF) 0x008
    else
      let s := if bitN caps 0 = false then s else if bitN w 0 then enablePage s p else disablePage s p
      if bitN w 1 then pageDrained (drainPage (wrg s p 0x008 (rg s p 0x008 ||| 2)) p) p else s

/-- Whether a write of `PAGE_CTRL` of page `p` is applied (R408, R409, R449). -/
def ctrlOpen (s : State) (p : Nat) : Bool :=
  portOpen s && (s.blk.st ≠ .halted || p < 3 || p = 0x580)

/-- PAGE_ENABLE_SET and PAGE_ENABLE_CLEAR. -/
def doPageCtrl (s : State) (p w : Nat) : State := if ctrlOpen s p then pageCtrl s p w else s

/-- PAGE_DRAIN: `DRAIN` is written with `ENABLE` as it stands (R442). -/
def doPageDrain (s : State) (p : Nat) : State := doPageCtrl s p (2 + b2n (enabled s p))

/-! ## Writes that clear bits -/

/-- A W1C write, applied in every block state but `COLD` (R10, R408, R449); false where the register has no W1C
field. -/
def w1cWrite (s : State) (p o w : Nat) : State × Bool :=
  let clr (old : Nat) : Nat := old &&& (0xFFFFFFFF - w)
  if o = 0x010 then (wrg s p o (rg s p o &&& (0xFFFFFFFF - (w &&& 0xC0000000))), true)
  else if o = 0x014 then (wrg s p o (clr (rg s p o)), true)
  else if p = 1 ∧ o = 0x020 then (if bitN w 0 then modFlt s fun c => { c with irqPend := false } else s, true)
  else if p = 1 ∧ o = 0x024 then (modFlt s fun c => { c with active := c.active &&& ~~~ BitVec.ofNat 32 w }, true)
  else if p = 1 ∧ o = 0x028 then (doSevereClear s (BitVec.ofNat 32 w), true)
  else if p = 1 ∧ o = 0x02C then (modFlt s fun c => { c with wire := c.wire &&& ~~~ BitVec.ofNat 32 w }, true)
  else if p = 1 ∧ o = 0x030 then (if bitN w 0 then modFlt s fun c => { c with errLatch := false } else s, true)
  else if pageKind p = some 0x20 ∧ 0x060 ≤ o ∧ o < 0x0E0 ∧ o % 8 = 0 then
    (if bitN w 17 then modCq s ((p - 0x200) * 16 + (o - 0x060) / 8) fun q => { q with irqPend := false } else s, true)
  else (s, false)

/-! ## Steward page -/

/-- The refusal code of a live Steward register (R364, R400): integrity registers 0x0040 and 0x0048, mailbox
registers 0x001C, telemetry registers 0x001B. An illegal `ROLL_HOURS` is refused too (R13), with 0x0040 (log 46). -/
def stwRefusal (s : State) (o w : Nat) : Option Nat :=
  let rsv : Bool := match fmtStw o with
    | some f => w &&& f.rsv ≠ 0
    | none => false
  if 0x600 ≤ o ∧ o < 0x900 then
    if rsv || decide (o = 0x600 ∧ 8760 < bits w 13 0) then some 0x0040
    else if o < 0x800 ∧ 0x700 ≤ o ∧ o % 8 = 0 ∧ bitN w 0 = false ∧ !(groupAt s ((o - 0x700) / 8)).members.isEmpty then some 0x0048
    else none
  else if o = 0x920 then (if bits w 30 0 ≠ 0 then some 0x001C else none)
  else if o = 0x980 then (if bits w 7 2 ≠ 0 ∨ bits w 31 12 ≠ 0 then some 0x001C else none)
  else if 0x984 ≤ o ∧ o < 0xA00 then (if rsv || decide (o = 0x984 ∧ bits w 1 0 = 3) then some 0x001C else none)
  else if 0xA00 ≤ o then
    let bad := decide (o = 0xA08 ∧ bitN w 31 ∧ (rg64 s 0 0xA00 = 0 ∨ bits w 19 0 < 100 ∨ 1000000 < bits w 19 0))
    if rsv || bad then some 0x001B else none
  else none

/-- A command in the inbound mailbox words: `GO` is written (R388, Tables 16-2, 16-4). Reads of host memory and
of the sensors that it makes answer with free values (log 12). -/
def mbxGo (s : State) : State :=
  let w (i : Nat) : Nat := rg s 0 (0x900 + 4 * i)
  let op := bits (w 0) 7 0
  let tag : BitVec 16 := BitVec.ofNat 16 (bits (w 0) 31 16)
  let zero (i : Nat) : Bool := ((List.range 8).drop i).all fun k => w k = 0
  let rsv := decide (bits (w 0) 15 8 ≠ 0) || (if op = 5 then !zero 5 else !zero 1)
  if op = 0 ∨ 6 < op then mbxReply s op 0x0010 tag.toNat []
  else if rsv then mbxReply s op 0x0011 tag.toNat []
  else match op with
    | 1 => doPing s tag
    | 2 => doTelemNow (draw s) tag (Config.sensors s.free)
    | 3 => doLogFlush s tag
    | 4 => doShutdown s tag
    | 5 =>
      let a := rg64 s 0 0x904
      doFwUpdate (draw s) tag (BitVec.ofNat 64 a) (BitVec.ofNat 32 (w 3)) (BitVec.ofNat 32 (w 4)) (Config.hostRead s.free a)
        (Config.unstated 0 [s.free] % 2 = 1)
    | _ => doFwQuery s tag

/-- A write of `STW_RW_CMD` (Table 14-11, R357, R358). -/
def rwCmd (s : State) (w : Nat) : State :=
  if bitN w 31 = false then
    wrg s 0 0x61C ((w &&& 0x3FFFF) + 2 ^ 30 * b2n (bitN (rg s 0 0x61C) 30))
  else match bits w 17 16 with
    | 1 =>
      let s := doLoad (draw s) (Config.hostRead s.free (rg64 s 0 0x610))
      wrg s 0 0x61C (rg s 0 0x61C ||| (w &&& 0xFFFF))
    | 2 => doRemove s (BitVec.ofNat 16 w)
    | _ => rwRefuse (wrg s 0 0x61C (w &&& 0x3FFFF)) 0x0041

/-- A write of a Steward register (R364, R400). -/
def stwWrite (s : State) (o w : Nat) : State :=
  match stwRefusal s o w with
  | some code => refuse (noteRsv s 0 o w) 0 code o
  | none =>
    if o = 0x61C then rwCmd s w
    else if o = 0x920 then (if bitN w 31 then mbxGo s else s)
    else if o = 0x980 then (if bitN w 1 then doPop s else s)
    else storeReg s 0 o w

/-! ## Power page -/

/-- The refusal code of a power register (Table 16-9). -/
def pwrRefusal (s : State) (o w : Nat) : Option Nat :=
  let rsv : Bool := match fmtPwr o with
    | some f => w &&& f.rsv ≠ 0
    | none => false
  let c (h l : Nat) : Nat := bits w h l
  let in6 (x : Nat) : Bool := decide (24 ≤ x ∧ x ≤ 48)
  if o = 0x400 ∧ (c 31 16 < c 15 0 ∨ 460 < c 31 16) then some 0x0201
  else if o = 0x404 ∧ (sext 16 (c 31 16) ≤ sext 16 (c 15 0) ∨ 880 < sext 16 (c 31 16)) then some 0x0202
  else if o = 0x408 ∧ (c 7 0 < s.pwr.fusedGuard ∨ 100 < c 7 0 ∨ c 15 8 < 20 ∨ 150 < c 15 8) then some 0x0203
  else if o = 0x410 ∧ !(in6 (c 5 0) && in6 (c 13 8) && in6 (c 21 16) && decide (c 21 16 ≤ c 13 8 ∧ c 13 8 ≤ c 5 0)) then
    some 0x0204
  else if rsv then some 0x0205
  else none

/-- A write of a power register (R401). -/
def pwrWrite (s : State) (o w : Nat) : State :=
  if o = 0x40C then writeNMax s w
  else match pwrRefusal s o w with
    | some code => refuse (noteRsv s 2 o w) 2 code o
    | none => let s := storeReg s 2 o w; if o = 0x410 then retarget s else s

/-! ## Intake page -/

/-- A write of `INK_JOB_CMD` (Table 2-7). The route image is read from host memory: a free value (log 12). -/
def jobCmd (s : State) (w : Nat) : State :=
  let j := bits w 7 0
  if bitN w 31 = false then
    let old := rg s 3 0x800
    wrg s 3 0x800 ((w &&& 0x107FF) + 2 ^ 30 * b2n (bitN old 30))
  else match bits w 10 8 with
    | 1 => doBind (draw s) j (Config.hostRead s.free (rg64 s 3 0x810)) (bitN w 16)
    | 2 => doUnbind s j (bitN w 16)
    | 3 => doSave s j (bitN w 16)
    | 4 => doRestore (draw s) j (Config.hostRead s.free (rg64 s 3 0x810)) (bitN w 16)
    | op =>
      let s := jobStore s j op (bitN w 16)
      match jobGateCheck s with
      | some c => jobRefuse s (c, 0, 0)
      | none => jobRefuse s (0x034B, 0, 0)

/-- A write of an Intake register (R44, R289). -/
def inkWrite (s : State) (o w : Nat) : State :=
  if o = 0x800 then jobCmd s w
  else if o = 0x880 then
    let s := noteRsv s 3 o w
    if bitN w 31 then doResume s (bits w 11 0)
    else wrg s 3 o (bits w 11 0 + 2 ^ 30 * b2n (bitN (rg s 3 o) 30))
  else if (0x400 ≤ o ∧ o < 0x800) ∨ (0x840 ≤ o ∧ o < 0x880) then (if enabled s 3 then s else storeReg s 3 o w)
  else storeReg s 3 o w

/-! ## Other pages -/

/-- A write of a register that is gated by `ENABLE` from 0x400 onwards (Table 19-4). -/
def gatedWrite (s : State) (p o w : Nat) : State := if 0x400 ≤ o ∧ enabled s p then s else storeReg s p o w

/-- A write on a submission ring page (R71, R83, R84, R90). -/
def sqWrite (s : State) (p o w : Nat) : State :=
  let ring (i : Nat) : Nat := (p - 0x100) * 16 + i
  if 0x020 ≤ o ∧ o < 0x060 then doDoorbell s (ring ((o - 0x020) / 4))
  else if 0x400 ≤ o ∧ o < 0x800 then
    let n := ring ((o - 0x400) / 0x40)
    if o % 0x40 = 0 then sqCtrl s n w else if (sqAt s n).st = .disabled then storeReg s p o w else s
  else s

/-- A write on a completion ring page (R77, R78, R90). -/
def cqWrite (s : State) (p o w : Nat) : State :=
  let ring (i : Nat) : Nat := (p - 0x200) * 16 + i
  if 0x020 ≤ o ∧ o < 0x060 then cqHead s (ring ((o - 0x020) / 4)) w
  else if 0x400 ≤ o ∧ o < 0x800 then
    let c := ring ((o - 0x400) / 0x40)
    if o % 0x40 = 0 then cqCtrl s c w else if (cqAt s c).on then s else storeReg s p o w
  else s

/-- A write on a Causeway port page (R330, Table 13-7). -/
def portWrite (s : State) (k o w : Nat) : State :=
  if o = 0x024 then portCmd s k w
  else if 0x400 ≤ o ∧ o < 0x500 then
    let h := (o - 0x400) / 0x20
    if (o - 0x400) % 0x20 = 0 then halfCfg s k h w
    else if (halfAt s k h).st = .unbound then storeReg s (cwyPage k) o w else s
  else s

/-- A write on the Tollgate page (R311, R319). -/
def tgWrite (s : State) (o w : Nat) : State :=
  if o = 0x020 then
    if bitN w 31 then tgCmd s w else wrg s 0x020 o ((w &&& 0xFFF) + 2 ^ 30 * b2n (bitN (rg s 0x020 o) 30))
  else if 0x400 ≤ o ∧ o < 0x800 then tgCfg s ((o - 0x400) / 4) w
  else storeReg s 0x020 o w

/-- A write on the Milepost control page (Tables 12-8, 12-9). -/
def mpWrite (s : State) (o w : Nat) : State :=
  if o = 0x020 then
    if bitN w 31 then mpOp s w else wrg s 0x580 o ((w &&& 0xFFFFF) + 2 ^ 30 * b2n (bitN (rg s 0x580 o) 30))
  else if o = 0x044 then (if bitN w 31 then doDump s else s)
  else gatedWrite s 0x580 o w

/-- A write of a register beyond its W1C fields, as its page states. -/
def pageWrite (s : State) (p o w : Nat) : State :=
  match pageKind p with
  | none => s
  | some k =>
    if o = 0x008 then pageCtrl s p w
    else if o = 0x018 then storeReg s p o w
    else if o < 0x020 then s
    else match k with
      | 0x00 => stwWrite s o w
      | 0x01 => if o = 0x048 ∧ (fltRefusal s o w).isNone then doFreeze s (bitN w 0) else fltWrite s o w
      | 0x02 => pwrWrite s o w
      | 0x03 => inkWrite s o w
      | 0x08 | 0x09 | 0x0A | 0x0C => gatedWrite s p o w
      | 0x0B => if o = 0x800 then doProbe s w else storeReg s p o w
      | 0x0D => portWrite s (pageInst p) o w
      | 0x30 => tgWrite s o w
      | 0x10 => sqWrite s p o w
      | 0x20 => cqWrite s p o w
      | 0x50 => if p = 0x580 then mpWrite s o w else s
      | _ => s

/-- Writes that `HALTED` applies besides W1C fields (R449). -/
def haltedOk (p o w : Nat) : Bool :=
  decide (p < 3) || decide (p = 0x580 ∧ o ≠ 0x020) || decide (p = 3 ∧ (o = 0x080 ∨ o = 0x088)) ||
  decide ((p = 8 ∨ p = 9 ∨ p = 0xA) ∧ o = 0x028) || decide ((p = 0xC ∨ p = 0x020) ∧ o = 0x024) ||
  decide (p = 0xB ∧ (o = 0x024 ∨ o = 0x830 ∨ (0x800 ≤ o ∧ o ≤ 0x820))) || (decide (p = 3 ∧ o = 0x800) && bitN w 31)

/-- A control-port write that passed its parity (R10, R408, R409, R449). -/
def regWrite (s : State) (p o w : Nat) : State :=
  match pageKind p with
  | none => s
  | some 0xF0 => s
  | some _ =>
    let c := w1cWrite s p o w
    if c.2 then c.1
    else if s.blk.st = .selfTest then s
    else if s.blk.st = .halted ∧ haltedOk p o w = false then s
    else pageWrite s p o w

/-- The answer of the control port (Table 18-3). -/
def answer (s : State) (data : Nat) (err : Bool) : State :=
  { s with pins := { s.pins with ctlData := BitVec.ofNat 32 data, ctlErr := err } }

/-- Whether the control port accepts a transaction (R408, R410). -/
def ctlReady (s : State) : Bool := s.blk.st ≠ .cold && s.blk.resetBy = .none

/-- REGISTER_WRITE (R427, R428). -/
def doRegWrite (s : State) (a : Nat) (w : Word) (par : BitVec 4) : State :=
  if ctlReady s = false then s
  else if par ≠ wordPar w then raise (answer s 0 true) 8 127 0xFFFF
  else regWrite (answer s 0 false) (a / 1024) (a % 1024 * 4) w.toNat

/-! ## Reads -/

/-- What reading a register does besides returning its value: the low word of a 64-bit counter latches its high
word (R12), `SHP_LAST_REFUSE.VALID` and `MP_DUMP_STATUS.SKIPPED` clear, and the host observes a release in `TG_STATE` (R313). -/
def readEffect (s : State) (p o : Nat) : State :=
  if 0x100 ≤ o ∧ o < 0x300 then
    if o % 8 = 0 ∧ wide p o ∧ o % 0x100 < 8 * counters p then
      let m := if o < 0x200 then s.regs.latched else s.regs.live
      let h : Word := BitVec.ofNat 32 (half64 (sgetD m (wa p o) 0) 1)
      { s with regs := { s.regs with hi := sput s.regs.hi (wa p o) h } }
    else s
  else if p = 9 ∧ o = 0x024 then wrg s 9 0x024 (rg s 9 0x024 % 2 ^ 31)
  else if p = 0x020 ∧ 0x800 ≤ o ∧ o < 0xC00 then modGate s ((o - 0x800) / 4) fun g => { g with unseen := false }
  else if p = 0x580 ∧ o = 0x040 then { s with mps := { s.mps with dumpSkipped := false } }
  else s

/-- REGISTER_READ (R12, R427). -/
def doRegRead (s : State) (a : Nat) : State :=
  if ctlReady s = false then s
  else readEffect (answer s (readWord s (a / 1024) (a % 1024 * 4)) false) (a / 1024) (a % 1024 * 4)

/-- The meaning of REGISTER_WRITE. -/
def execRegisterWrite (a : BitVec 22) (w : Word) (par : BitVec 4) (s : State) : Host.Outcome State Fault Refusal :=
  .next (doRegWrite s a.toNat w par)
/-- The meaning of REGISTER_READ. -/
def execRegisterRead (a : BitVec 22) (s : State) : Host.Outcome State Fault Refusal := .next (doRegRead s a.toNat)
/-- The meaning of PAGE_ENABLE_SET. -/
def execPageEnableSet (p : BitVec 12) (s : State) : Host.Outcome State Fault Refusal := .next (doPageCtrl s p.toNat 1)
/-- The meaning of PAGE_ENABLE_CLEAR. -/
def execPageEnableClear (p : BitVec 12) (s : State) : Host.Outcome State Fault Refusal := .next (doPageCtrl s p.toNat 0)
/-- The meaning of PAGE_DRAIN. -/
def execPageDrain (p : BitVec 12) (s : State) : Host.Outcome State Fault Refusal := .next (doPageDrain s p.toNat)

end Sys2Proof.Machine
end

