-- ==== Sys2Proof/Machine/Store.lean ====
section
/-! DEFINITION. Pictures: planes and formats, the picture descriptor, bands, raw layouts, concealment, and the compressed
reference store (spec/04_bitstream_decode.md R98, R105, R107, R109, R112 to R115, R120 to R123). -/

namespace Sys2Proof.Machine

/-! ## Planes -/

/-- Planes of a format (Table 4-10). -/
def fmtPlanes (f : Nat) : Nat := if f % 4 = 0 then 1 else 3

/-- Horizontal and vertical subsampling of plane `k` in a format. -/
def fmtSub (f k : Nat) : Nat × Nat :=
  if k = 0 then (1, 1) else match f % 4 with
    | 1 => (2, 2)
    | 2 => (2, 1)
    | _ => (1, 1)

/-- Width and height of plane `k` of a picture `w` x `h`. -/
def planeDims (f w h k : Nat) : Nat × Nat := (ceilDiv w (fmtSub f k).1, ceilDiv h (fmtSub f k).2)

/-- Sample depth of plane `k`. -/
def Picture.depth (p : Picture) (k : Nat) : Nat := if k = 0 then p.depthL else p.depthC

/-- Width and height of plane `k` of a picture. -/
def Picture.dims (p : Picture) (k : Nat) : Nat × Nat := planeDims p.format p.width p.height k

/-- Sample (x, y) of plane `k`, positions outside clamped to the nearest edge sample. -/
def Picture.at (p : Picture) (k : Nat) (x y : Int) : Nat :=
  let d := p.dims k
  let cx := (max 0 (min x (d.1 - 1 : Int))).toNat
  let cy := (max 0 (min y (d.2 - 1 : Int))).toNat
  (p.planes.getD k []).getD (cy * d.1 + cx) 0

/-- Replaces sample values of plane `k` by `f x y old`. -/
def Picture.mapPlane (p : Picture) (k : Nat) (f : Nat → Nat → Nat → Nat) : Picture :=
  let d := p.dims k
  { p with planes := p.planes.set k ((p.planes.getD k []).zipIdx.map fun v => f (v.2 % max 1 d.1) (v.2 / max 1 d.1) v.1) }

/-- A picture without samples. -/
def Picture.none : Picture where
  width := 0
  height := 0
  format := 0
  depthL := 8
  depthC := 8
  matrix := 2
  range := 0
  frameNo := 0
  order := 0
  srcHash := 0
  concealed := 0
  pflags := 0
  stream := 0
  planes := []
  motion := []

/-- Bytes of one sample at depth `d` (R98, R105). -/
def sampleBytes (d : Nat) : Nat := if d = 8 then 1 else 2

/-! ## Picture descriptor and bands -/

/-- `DEPTH` of a descriptor (Table 4-10). -/
def depthByte (l c : Nat) : Nat := (l - 8) % 16 + 16 * ((c - 8) % 16)

/-- The picture descriptor (Table 4-10). -/
def pictureDesc (p : Picture) : List Byte :=
  leBytes 2 p.width ++ leBytes 2 p.height ++ leBytes 1 p.format ++ leBytes 1 (depthByte p.depthL p.depthC) ++
  leBytes 1 p.matrix ++ leBytes 1 p.range ++ leBytes 4 p.frameNo ++ leBytes 4 (ofInt 32 p.order) ++ leBytes 8 p.srcHash ++
  leBytes 4 p.concealed ++ leBytes 2 p.pflags ++ leBytes 2 p.stream

/-- The picture that a descriptor describes, without samples. -/
def parsePicture (b : List Byte) : Picture where
  width := fieldLe b 0 2
  height := fieldLe b 2 2
  format := fieldLe b 4 1
  depthL := 8 + fieldLe b 5 1 % 16
  depthC := 8 + fieldLe b 5 1 / 16
  matrix := fieldLe b 6 1
  range := fieldLe b 7 1
  frameNo := fieldLe b 8 4
  order := sext 32 (fieldLe b 12 4)
  srcHash := fieldLe b 16 8
  concealed := fieldLe b 24 4
  pflags := fieldLe b 28 2
  stream := fieldLe b 30 2
  planes := []
  motion := []

/-- The bands of partitions (x, y, w, h) (R107). -/
def cutBands (parts : List (Nat × Nat × Nat × Nat)) : List Band :=
  parts.zipIdx.flatMap fun p =>
    let (x, y, w, h) := p.1
    (List.range (ceilDiv h 64)).map fun i => ⟨p.2, x, y + 64 * i, w, min 64 (h - 64 * i)⟩

/-- The samples of plane `k` that band `b` covers, as (x, y) in raster order. -/
def bandSpots (p : Picture) (b : Band) (k : Nat) : List (Nat × Nat) :=
  let q := fmtSub p.format k
  let d := p.dims k
  let x0 := b.x / q.1
  let x1 := min d.1 (ceilDiv (b.x + b.w) q.1)
  let y0 := b.y / q.2
  let y1 := min d.2 (ceilDiv (b.y + b.rows) q.2)
  (List.range (y1 - y0)).flatMap fun j => (List.range (x1 - x0)).map fun i => (x0 + i, y0 + j)

/-- Bytes of the sample planes of band `b` (R105). -/
def bandBytes (p : Picture) (b : Band) : List Byte :=
  (List.range (fmtPlanes p.format)).flatMap fun k =>
    (bandSpots p b k).flatMap fun c => leBytes (sampleBytes (p.depth k)) (p.at k c.1 c.2)

/-- The operations that decode a partition of picture `pic` in bands `bs` (index, band), 4,096 luma samples each on along the
partition; none ends more than `n` bands (R107; an operation may stop before its samples are done). -/
def planPart (pic part n : Nat) (bs : List (Nat × Band)) : List PlanOp :=
  let ends : List (Nat × Nat × Nat) := (bs.foldl (fun (a : List (Nat × Nat × Nat) × Nat) b =>
    let z := max 1 (b.2.w * b.2.rows)
    (a.1 ++ [(b.1, a.2 / 4096, (a.2 + z - 1) / 4096)], a.2 + z)) ([], 0)).1
  (List.range (((ends.map (·.2.2)).foldl max 0) + 1)).flatMap fun k =>
    let starts := (ends.filter fun e => e.2.1 = k).map (·.1)
    let done := (ends.filter fun e => e.2.2 = k).map (·.1)
    let m := max 1 (ceilDiv done.length (max 1 n))
    (List.range m).map fun i =>
      let here := (done.drop (i * max 1 n)).take (max 1 n)
      let new := starts.filter fun b => here.contains b || (i + 1 = m && !done.contains b)
      ⟨pic, part, new, here⟩

/-- The operations of picture `pic` in bands `bs`. -/
def planPicture (pic n : Nat) (bs : List Band) : List PlanOp :=
  let parts := (bs.map (·.part)).dedup
  parts.flatMap fun k => planPart pic k n ((bs.zipIdx.filter fun b => b.1.part = k).map fun b => (b.2, b.1))

/-- The partitions of a picture in a span (R109): tile columns, CTU rows, slices, or the whole picture. -/
def partitions (op : Nat) (o : Config.CodecPic) (w h : Nat) : List (Nat × Nat × Nat × Nat) :=
  if 2 ≤ op ∧ op ≤ 4 ∧ 2 ≤ o.tileCols.length then
    o.tileCols.zipIdx.map fun x => (x.1, 0, o.tileCols.getD (x.2 + 1) w - x.1, h)
  else if 2 ≤ op ∧ op ≤ 3 ∧ 0 < o.wavefront then
    (List.range (ceilDiv h o.wavefront)).map fun i => (0, i * o.wavefront, w, min o.wavefront (h - i * o.wavefront))
  else if 2 ≤ o.slices.length then o.slices
  else [(0, 0, w, h)]

/-- Whether band `a` lies within 16 samples of band `b`: filters across their boundary need its strip (R110). -/
def bandNear (a b : Band) : Bool :=
  decide (a.x < b.x + b.w + 16 ∧ b.x < a.x + a.w + 16 ∧ a.y < b.y + b.rows + 16 ∧ b.y < a.y + a.rows + 16)

/-! ## Raw input -/

/-- Source bytes that a raw layout requires (Table 4-6). -/
def rawNeed (layout s h : Nat) : Nat :=
  match layout with
  | 1 => h * s + 2 * (ceilDiv h 2 * (s / 2))
  | 2 => h * s + ceilDiv h 2 * s
  | 3 => 2 * h * s
  | 4 => 3 * h * s
  | _ => h * s

/-- Format of a raw layout (Table 4-6, R106). -/
def rawFormat (layout : Nat) : Nat :=
  match layout with
  | 0 => 0
  | 1 | 2 => 1
  | 3 | 5 => 2
  | 4 => 3
  | _ => 7

/-- Source offset of sample (x, y) of plane `k` of a raw layout with `e` bytes a sample (Table 4-6). -/
def rawOfs (layout s h e k x y : Nat) : Nat :=
  match layout, k with
  | _, 0 => y * s + (if layout = 5 then 2 * x else if layout = 6 then 3 * x else if layout = 7 then 4 * x else x) * e
  | 1, k => h * s + (k - 1) * (ceilDiv h 2 * (s / 2)) + y * (s / 2) + x * e
  | 2, k => h * s + y * s + (2 * x + (k - 1)) * e
  | 3, k => h * s + (k - 1) * (h * (s / 2)) + y * (s / 2) + x * e
  | 4, k => k * (h * s) + y * s + x * e
  | 5, k => y * s + (4 * x + (2 * k - 1)) * e
  | 6, k => y * s + (3 * x + k) * e
  | _, k => y * s + (4 * x + k) * e

/-- The raw picture of source bytes `b` under parameter block `q` (R98, R106). -/
def rawPicture (q b : List Byte) : Picture :=
  let w := fieldLe q 8 2
  let h := fieldLe q 10 2
  let lay := fieldLe q 12 1
  let d := fieldLe q 13 1
  let s := fieldLe q 16 4
  let e := sampleBytes d
  let f := rawFormat lay
  let plane (k : Nat) : List Nat :=
    let n := planeDims f w h k
    (List.range (n.1 * n.2)).map fun i =>
      let o := rawOfs lay s h e k (i % max 1 n.1) (i / max 1 n.1)
      leNat ((b.drop o).take e) % 2 ^ d
  { Picture.none with
    width := w, height := h, format := f, depthL := d, depthC := d
    matrix := if 6 ≤ lay then 0 else 2, range := if 6 ≤ lay then 1 else 0
    planes := (List.range (fmtPlanes f)).map plane }

/-! ## Concealment -/

/-- Concealment units in a row, and in a picture. -/
def unitCols (p : Picture) : Nat := ceilDiv p.width 16
/-- Concealment units of a picture. -/
def unitCount (p : Picture) : Nat := unitCols p * ceilDiv p.height 16

/-- The unit of sample (x, y) of plane `k`. -/
def unitOf (p : Picture) (k x y : Nat) : Nat :=
  let q := fmtSub p.format k
  y * q.2 / 16 * unitCols p + x * q.1 / 16

/-- The units of raw samples that lie past the end of the source (R98, R120). -/
def rawLost (q : List Byte) (n : Nat) (p : Picture) : List Nat :=
  let e := sampleBytes p.depthL
  (List.range (fmtPlanes p.format)).foldl (fun a k =>
    let d := p.dims k
    (List.range (d.1 * d.2)).foldl (fun a i =>
      let x := i % max 1 d.1
      let y := i / max 1 d.1
      if n < rawOfs (fieldLe q 12 1) (fieldLe q 16 4) p.height e k x y + e then nins a (unitOf p k x y) else a) a) []

/-- Division rounded to the nearest integer, ties away from zero. -/
def roundAway (a : Int) (b : Nat) : Int :=
  let m := (2 * a.natAbs + b) / (2 * b)
  if a < 0 then -(m : Int) else m

/-- The median of three integers. -/
def median3 (a b c : Int) : Int := max (min a b) (min (max a b) c)

/-- The vector of concealed unit `u` from its decoded inter neighbours (R121). -/
def concealVector (p : Picture) (vs : List (Option (Int × Int))) (lost : List Nat) (u : Nat) : Int × Int :=
  let n := unitCols p
  let c := u % max 1 n
  let v (ok : Bool) (i : Nat) : Option (Int × Int) := if ok && !lost.contains i then (vs[i]?).join else Option.none
  let l := [v (decide (0 < c)) (u - 1), v (decide (n ≤ u)) (u - n), v (decide (n ≤ u ∧ c + 1 < n)) (u - n + 1)].filterMap id
  match l with
  | [a, b, c] => (median3 a.1 b.1 c.1, median3 a.2 b.2 c.2)
  | a :: _ => a
  | [] => (0, 0)

/-- Conceals unit `u` by copying from `ref` along its vector, or without one by repeating the row above (R121, R122). -/
def concealUnit (p : Picture) (ref : Option Picture) (v : Int × Int) (u : Nat) : Picture :=
  (List.range (fmtPlanes p.format)).foldl (fun p k =>
    let q := fmtSub p.format k
    let rows := 16 / q.2
    let top := u / max 1 (unitCols p) * rows
    match ref with
    | some r =>
      let dx := roundAway v.1 (4 * q.1)
      let dy := roundAway v.2 (4 * q.2)
      p.mapPlane k fun x y old => if unitOf p k x y = u then r.at k (x + dx) (y + dy) else old
    | Option.none =>
      p.mapPlane k fun x y old =>
        if unitOf p k x y = u then (if top = 0 then 2 ^ (p.depth k - 1) else p.at k x (top - 1)) else old) p

/-- Conceals units `lost`, in raster order (R121, R122). -/
def conceal (p : Picture) (ref : Option Picture) (vs : List (Option (Int × Int))) (lost : List Nat) : Picture :=
  lost.foldl (fun p u => concealUnit p ref (concealVector p vs lost u) u) p

/-! ## Reference store -/

/-- Reference blocks across and down plane `k` (R112): every plane is rounded up to multiples of 16. -/
def refGrid (p : Picture) (k : Nat) : Nat × Nat := (ceilDiv (p.dims k).1 16, ceilDiv (p.dims k).2 16)

/-- Reference blocks of planes `ks`. -/
def refBlocks (p : Picture) (ks : List Nat) : Nat := (ks.map fun k => (refGrid p k).1 * (refGrid p k).2).sum

/-- Planes of a picture. -/
def Picture.planeList (p : Picture) : List Nat := List.range (fmtPlanes p.format)

/-- `n` rounded up to a multiple of `m`. -/
def roundUp (n m : Nat) : Nat := ceilDiv n m * m

/-- Bytes of a unit map of `b` blocks (R112, R113). -/
def mapBytes (b : Nat) : Nat := roundUp (ceilDiv (2 * b) 8) 128

/-- Bytes of picture buffer that a picture needs (R113). -/
def refNeed (p : Picture) : Nat :=
  let b := refBlocks p p.planeList
  mapBytes b + 384 * b + 16 * refBlocks p [0] + 16384

/-- The 256 samples of reference block `i` of plane `k`; the margin repeats the nearest sample (R112). -/
def refSamples (p : Picture) (k i : Nat) : List Nat :=
  let g := (refGrid p k).1
  (List.range 256).map fun n => p.at k (i % max 1 g * 16 + n % 16 : Nat) (i / max 1 g * 16 + n / 16 : Nat)

/-- Payload bits packed from bit 0 of each byte upwards: (value, width) in order. -/
def packBits (l : List (Nat × Nat)) : Nat × Nat := l.foldl (fun a v => (a.1 + v.1 % 2 ^ v.2 * 2 ^ a.2, a.2 + v.2)) (0, 0)

/-- The fewest bits that hold `v`. -/
def bitLen (v : Nat) : Nat := if v = 0 then 0 else Nat.log2 v + 1

/-- Mode 2 of a block: widths, minimums, and offsets of the sixteen 4 x 4 sub-blocks (R114). -/
def packedBlock (d : Nat) (ss : List Nat) : List (Nat × Nat) :=
  let sub (i : Nat) : List Nat := (List.range 16).map fun n => ss.getD ((i / 4 * 4 + n / 4) * 16 + i % 4 * 4 + n % 4) 0
  let lo (i : Nat) : Nat := (sub i).foldl min ((sub i).headD 0)
  let w (i : Nat) : Nat := bitLen ((sub i).foldl max 0 - lo i)
  (List.range 16).map (fun i => (w i, 4)) ++ (List.range 16).map (fun i => (lo i, d)) ++
    (List.range 16).flatMap fun i => (sub i).map fun v => (v - lo i, w i)

/-- The compressed units of a block of depth `d` (R114, R115). -/
def refUnits (d : Nat) (ss : List Nat) : List Byte :=
  let build (mode base : Nat) (l : List (Nat × Nat)) : List Byte :=
    let b := packBits l
    let n := max 1 (ceilDiv (32 + b.2) 1024)
    leBytes 4 ((n - 1) + 4 * mode + 16 * (d - 8) + 2 ^ 16 * base) ++ leBytes (128 * n - 4) b.1
  let pk := packedBlock d ss
  let v := ss.headD 0
  if ss.all fun x => x = v then build 1 v []
  else if 32 + (packBits pk).2 ≤ 2048 then build 2 0 pk
  else build 0 0 (ss.map fun x => (x, d))

/-- The units of planes `ks` of a picture, block by block. -/
def refPlanes (p : Picture) (ks : List Nat) : List (List Byte) :=
  ks.flatMap fun k => (List.range ((refGrid p k).1 * (refGrid p k).2)).map fun i => refUnits (p.depth k) (refSamples p k i)

/-- The unit map of blocks (R112). -/
def unitMap (us : List (List Byte)) : List Byte :=
  leBytes (mapBytes us.length) (packBits (us.map fun u => (u.length / 128 - 1, 2))).1

/-- The contiguous parts of a buffer with units `us`: the unit map and each block's units in its slot, as (offset,
bytes). -/
def storeParts (us : List (List Byte)) : List (Nat × List Byte) :=
  (0, unitMap us) :: us.zipIdx.map fun u => (mapBytes us.length + 384 * u.2, u.1)

/-- Whether the samples of a picture may enter the store (R115). -/
def storable (p : Picture) : Bool := decide (p.depthL ≤ 10 ∧ p.depthC ≤ 10)

/-- The blocks of a picture in buffer order, each as its plane, its number there, and the luma position of its last sample
(R112). -/
def blockList (p : Picture) : List (Nat × Nat × Nat × Nat) :=
  p.planeList.flatMap fun k =>
    let g := refGrid p k
    let q := fmtSub p.format k
    (List.range (g.1 * g.2)).map fun i =>
      (k, i, min p.width ((i % max 1 g.1 + 1) * 16 * q.1) - 1, min p.height ((i / max 1 g.1 + 1) * 16 * q.2) - 1)

/-- The blocks, by number in the buffer, whose last sample lies in band `b`: the operation that ends the band writes them, so
that each member writes its own blocks (R110). -/
def bandBlocks (p : Picture) (b : Band) : List Nat :=
  ((blockList p).zipIdx.filter fun x =>
    decide (b.x ≤ x.1.2.2.1 ∧ x.1.2.2.1 < b.x + b.w ∧ b.y ≤ x.1.2.2.2 ∧ x.1.2.2.2 < b.y + b.rows)).map (·.2)

/-- The units of block `i` of a picture. -/
def blockUnits (p : Picture) (i : Nat) : List Byte :=
  match (blockList p)[i]? with
  | some x => refUnits (p.depth x.1) (refSamples p x.1 x.2.1)
  | Option.none => []

/-- Bytes of the unit map of a picture. -/
def pictureMap (p : Picture) : Nat := mapBytes (refBlocks p p.planeList)

/-- The parts of a buffer that the end of bands `bs` of a picture writes, as (offset, bytes): its blocks. -/
def blockParts (p : Picture) (bs : List Band) : List (Nat × List Byte) :=
  (bs.flatMap (bandBlocks p)).map fun i => (pictureMap p + 384 * i, blockUnits p i)

/-- The parts that the last operation of a picture writes: the unit map, and from the next multiple of 128 bytes each the motion
store and the picture-state area, which are Bilith's own, their bytes free values (R112, log 16). -/
def ownParts (p : Picture) (a : Nat) : List (Nat × List Byte) :=
  let n := refBlocks p p.planeList
  let o := pictureMap p + 384 * n
  let z := 16 * refBlocks p [0]
  let free (j m : Nat) : List Byte := (List.range m).map fun i => BitVec.ofNat 8 (Config.unstated 16 [a, j, i])
  [(0, unitMap ((List.range n).map (blockUnits p))), (o, free 0 z), (o + roundUp z 128, free 1 16384)]

end Sys2Proof.Machine
end

