-- ==== Sys2Proof/Machine/Units.lean ====
section
/-! DEFINITION. Framing of source bytes into units, and the units that Bilith discards (spec/04_bitstream_decode.md R95, R106).
Unit types and markers are those of the coding standards (log 59). -/

namespace Sys2Proof.Machine

/-- A unit of a bitstream: the offset of its first byte and its bytes. -/
abbrev SrcUnit := Nat × List Byte

/-- Offsets that follow a start code 0x00_0001. -/
def startCodes : Nat → List Byte → List Nat
  | _, [] => []
  | i, a :: l => if a = 0 ∧ l.take 2 = [0, 1] then (i + 3) :: startCodes (i + 1) l else startCodes (i + 1) l

/-- A list without its trailing zeros. -/
def trimZeros (l : List Byte) : List Byte := (l.reverse.dropWhile (· = 0)).reverse

/-- The NAL units of a byte stream. -/
def nalUnits (b : List Byte) : List SrcUnit :=
  let ss := startCodes 0 b
  ss.zipIdx.map fun s => (s.1, trimZeros ((b.take ((ss.getD (s.2 + 1) (b.length + 3)) - 3)).drop s.1))

/-- Whether Bilith discards a NAL unit of decoder `op` (R95). -/
def nalDropped (op : Nat) (u : SrcUnit) : Bool :=
  let a := (u.2.getD 0 0).toNat
  let b := (u.2.getD 1 0).toNat
  match op with
  | 1 => [6, 14, 15, 20].contains (a % 32)
  | 2 => a % 2 ≠ 0 || b / 8 ≠ 0 || [39, 40].contains (a / 2 % 64)
  | _ => a % 64 ≠ 0 || [23, 24].contains (b / 8)

/-- A value of seven bits a byte, least significant first, and its length; at most `n` bytes. -/
def leb128 : Nat → List Byte → Nat × Nat
  | 0, _ => (0, 0)
  | _, [] => (0, 0)
  | n + 1, b :: l => if b.toNat < 128 then (b.toNat, 1) else
      let r := leb128 n l
      (b.toNat % 128 + 128 * r.1, r.2 + 1)

/-- The OBUs of a temporal unit that starts at offset `o`; at most `n` of them. -/
def obuUnits : Nat → Nat → List Byte → List SrcUnit
  | 0, _, _ => []
  | _, _, [] => []
  | n + 1, o, b =>
    let a := (b.headD 0).toNat
    let hdr := 1 + a / 4 % 2
    let z := leb128 8 (b.drop hdr)
    let len := if a / 2 % 2 = 1 then hdr + z.2 + z.1 else b.length
    (o, b.take len) :: obuUnits n (o + len) (b.drop len)

/-- Whether Bilith discards an OBU: metadata or padding (R95). -/
def obuDropped (u : SrcUnit) : Bool := [5, 15].contains ((u.2.getD 0 0).toNat / 8 % 16)

/-- Bytes of entropy-coded data up to the next marker other than a restart marker. -/
def scanBytes : List Byte → Nat
  | [] => 0
  | a :: l =>
    let m := (l.headD 0).toNat
    if a = 0xFF ∧ !l.isEmpty ∧ m ≠ 0 ∧ !decide (0xD0 ≤ m ∧ m ≤ 0xD7) then 0 else scanBytes l + 1

/-- The segments of a JPEG that starts at offset `o`, a scan with its entropy-coded data; at most `n` of them. -/
def jpegUnits : Nat → Nat → List Byte → List SrcUnit
  | 0, _, _ => []
  | _, _, [] => []
  | n + 1, o, b =>
    let m := (b.getD 1 0).toNat
    let seg := 2 + (b.getD 2 0).toNat * 256 + (b.getD 3 0).toNat
    let len := if (0xD0 ≤ m ∧ m ≤ 0xD9) ∨ m = 1 then 2 else if m = 0xDA then seg + scanBytes (b.drop seg) else seg
    (o, b.take len) :: jpegUnits n (o + len) (b.drop len)

/-- The marker of a segment. -/
def segMarker (u : SrcUnit) : Nat := (u.2.getD 1 0).toNat

/-- A JFIF APP0 segment. -/
def isJfif (u : SrcUnit) : Bool := segMarker u = 0xE0 && (u.2.drop 4).take 5 = [0x4A, 0x46, 0x49, 0x46, 0]

/-- An Exif APP1 segment. -/
def isExif (u : SrcUnit) : Bool := segMarker u = 0xE1 && (u.2.drop 4).take 6 = [0x45, 0x78, 0x69, 0x66, 0, 0]

/-- An APP14 colour-transform segment: its length field is 14 and its last byte a transform code of 0 or 1 (R95). -/
def isApp14 (u : SrcUnit) : Bool :=
  segMarker u = 0xEE && (u.2.drop 2).take 2 = [0, 14] && decide (u.2.length = 16) && decide ((u.2.getD 15 2).toNat ≤ 1)

/-- Whether Bilith discards a JPEG segment: COM, and APPn but those it reads (R95). -/
def segDropped (u : SrcUnit) : Bool :=
  segMarker u = 0xFE || (decide (0xE0 ≤ segMarker u ∧ segMarker u ≤ 0xEF) && !isJfif u && !isExif u && !isApp14 u)

/-- The units of source bytes that decoder `op` keeps (R95). -/
def keptUnits (op : Nat) (b : List Byte) : List SrcUnit :=
  match op with
  | 1 | 2 | 3 => (nalUnits b).filter fun u => !nalDropped op u
  | 4 => (obuUnits b.length 0 b).filter fun u => !obuDropped u
  | 5 => (jpegUnits b.length 0 b).filter fun u => !segDropped u
  | _ => [(0, b)]

end Sys2Proof.Machine
end

