-- ==== Sys2Proof/Machine/Codec.lean ====
section
/-! DEFINITION. Judgements on what a bitstream presents: profiles, formats and refused tools, resynchronisation and lost units,
colour, forwarded pictures and parameter-set slots (spec/04_bitstream_decode.md R93 to R95, R101 to R106, R120, R123). The
pictures and events themselves are `Config.codec`. -/

namespace Sys2Proof.Machine

/-- Whether decoder `op` accepts profile `p` (Table 4-1). -/
def profileOf (op : Nat) : Config.Profile → Bool
  | .h264ConstrainedBaseline | .h264Main | .h264High | .h264High10 => op = 1
  | .hevcMain | .hevcMain10 | .hevcMain422x10 => op = 2
  | .vvcMain10 => op = 3
  | .av1Main => op = 4
  | .jpegBaseline | .jpegExtended8 | .jpegProgressive => op = 5
  | .other => false

/-- Chroma formats of a profile (Table 4-1): 0 monochrome, 1 4:2:0, 2 4:2:2, 3 4:4:4. A JPEG is judged by its components and
sampling factors. -/
def profileChroma : Config.Profile → List Nat
  | .h264ConstrainedBaseline | .h264Main | .hevcMain | .hevcMain10 => [1]
  | .h264High | .h264High10 | .vvcMain10 | .av1Main => [0, 1]
  | .hevcMain422x10 => [0, 1, 2]
  | _ => [0, 1, 2, 3]

/-- Whether a tool is one that Table 4-3 names for decoder `op`: each with code 0x0822, 12-bit JPEG samples among them (log 59). -/
def toolRefused (op : Nat) : Config.Tool → Bool
  | .fieldCoding | .separatePlanes | .losslessBypass => op = 1
  | .resampledReference => op = 3
  | .jpegFrame | .jpeg12Bit => op = 5

/-- The refusal of Table 4-3 that an event calls for, under the profile last seen. -/
def featureRefused (op : Nat) (p : Config.Profile) : Config.CodecEvent → Option Nat
  | .profile p => if profileOf op p then none else some 0x0820
  | .format c l d => if 10 < l ∨ 10 < d ∨ !(profileChroma p).contains c then some 0x0826 else none
  | .components n => if n = 1 ∨ n = 3 then none else some 0x0826
  | .sampling f => if f = 1 ∨ f = 2 then none else some 0x0826
  | .tool t => if toolRefused op t then some 0x0822 else none
  | _ => none

/-- The kind, byte offset and reach of the corruption that an event is, for a source of `n` bytes (Tables 4-13, R123). -/
def corruption (n : Nat) : Config.CodecEvent → Option (Nat × Nat × Bool)
  | .badSyntax el w => some (1, el, w)
  | .entropy b => some (2, b, false)
  | .truncated => some (3, n, false)
  | .paramMissing h w => some (4, h, w)
  | .refMissing h => some (5, h, false)
  | .marker u w => some (8, u, w)
  | .overlap b => some (9, b, false)
  | .gap => some (9, n, false)
  | .store u => some (10, u, true)
  | _ => none

/-! ## Parameter sets -/

/-- The slot that a parameter set takes: that of the set held under its kind and identifier, or the lowest free one of 1 to 63
(R101). -/
def setSlot (held : List (Nat × Config.ParamSet)) (kind ident : Nat) : Option Nat :=
  ((held.find? fun x => x.2.kind = kind ∧ x.2.ident = ident).map (·.1)).or
    (((List.range 63).map (· + 1)).find? fun k => !held.any fun x => x.1 = k)

/-- The 1 KiB image of a parameter-set slot (R101). -/
def slotImage (x : Config.ParamSet) : List Byte :=
  slice (leBytes 4 (x.kind % 16 + 2 ^ 8 * (x.ident % 256) + 2 ^ 16 * x.bytes.length) ++ leBytes 4 (crc32 x.bytes) ++ x.bytes) 0 1024

/-- Whether the CRC-32 of a slot as read back matches (R102). -/
def slotGood (b : List Byte) : Bool := decide (b.length = 1024) && fieldLe b 4 4 = crc32 ((b.drop 8).take (fieldLe b 2 2))

/-! ## Pictures -/

/-- `MATRIX`, `RANGE` and `FORMAT`[2] of a picture with `n` planes (R106). A JPEG stored as R, G, B takes full range (log 59). -/
def colourOf (op : Nat) (us : List SrcUnit) (o : Config.CodecOut) (n : Nat) : Nat × Nat × Bool :=
  if op = 5 then
    let turn := match us.find? isExif with
      | some u => 2 * ((Config.exifOrient u.2 - 1) % 8)
      | none => 0
    if us.any isJfif then (6, 1 + turn, false)
    else if n = 1 then (2, 1 + turn, false)
    else if (us.find? isApp14).any fun u => u.2.getD 15 2 = 0 then (0, 1 + turn, true)
    else (6, 1 + turn, false)
  else match o.colour with
    | some c => (c.1, b2n c.2, false)
    | none => (2, 0, false)

/-- A reconstructed picture with its colour description; `ORDER` is 0 but for video standards (Table 4-10). -/
def pictureOf (op : Nat) (us : List SrcUnit) (o : Config.CodecOut) (c : Config.Coded) : Picture :=
  let k := colourOf op us o c.planes.length
  { Picture.none with
    width := c.width, height := c.height, format := c.format % 4 + 4 * b2n k.2.2, depthL := c.depthL, depthC := c.depthC
    matrix := k.1, range := k.2.1, order := if op ≤ 4 then c.order else 0, pflags := 4 * b2n c.grain + 8 * b2n c.intra
    planes := c.planes, motion := c.motion }

/-- The forwarded picture among those of an entry (R103). -/
def forwardedOf (op : Nat) (l : List (Config.CodecPic × Nat)) : Option Nat :=
  (l.find? fun x => x.1.output || op = 5).map (·.2)

/-- The pictures of an entry that are decoded, with their indices: no RASL picture, and of a still up to the first picture
(R97, R103). -/
def decodedOf (op : Nat) (still : Bool) (o : Config.CodecOut) : List (Config.CodecPic × Nat) :=
  let l := o.pics.zipIdx.filter fun x => !(x.1.rasl && (op = 2 || op = 3))
  if still then l.take (((l.findIdx? fun x => x.1.output || op = 5).getD l.length) + 1) else l

/-! ## Lost areas -/

/-- Where decoding resumes after damage (Table 4-14): kind, byte offset and first block of the next point. -/
def resumeAt (op : Nat) (b : Config.Break) : Option (Config.Resync × Nat × Nat) :=
  let l := sortBy (b.points.filter fun p => op ≠ 1 || decide (b.block < p.2.2)) fun x y => decide (x.2.1 ≤ y.2.1)
  let next (k : Config.Resync) : Option (Config.Resync × Nat × Nat) := l.find? fun p => decide (p.1 = k)
  match op with
  | 1 => next .slice
  | 2 => (next .entryPoint).or (next .independentSlice)
  | 3 => (next .entryPoint).or (next .slice)
  | 4 => (next .tile).or (next .obu)
  | 5 => (next .restart).or (next .scan)
  | _ => none

/-- The coding blocks that damage takes away: from the block in which it was found up to where decoding resumes (R120). -/
def lostBlocks (op : Nat) (x : Config.CodecPic) : List Nat :=
  x.breaks.flatMap fun b =>
    let z := ((resumeAt op b).map (·.2.2)).getD x.blocks.length
    (List.range (z - b.block)).map (b.block + ·)

/-- Samples that two areas (x, y, w, h) share. -/
def overlapOf (a b : Nat × Nat × Nat × Nat) : Nat :=
  (min (a.1 + a.2.2.1) (b.1 + b.2.2.1) - max a.1 b.1) * (min (a.2.1 + a.2.2.2) (b.2.1 + b.2.2.2) - max a.2.1 b.2.1)

/-- The area of concealment unit `u` within the picture. -/
def unitArea (p : Picture) (u : Nat) : Nat × Nat × Nat × Nat :=
  let x := u % max 1 (unitCols p) * 16
  let y := u / max 1 (unitCols p) * 16
  (x, y, min 16 (p.width - x), min 16 (p.height - y))

/-- The units of which a sample falls in a lost block or in no block (R120, Table 4-13 `COVERAGE`). -/
def lostUnits (op : Nat) (x : Config.CodecPic) (p : Picture) : List Nat :=
  let lost := lostBlocks op x
  let kept := (x.blocks.zipIdx.filter fun b => !lost.contains b.2).map (·.1)
  (List.range (unitCount p)).filter fun u =>
    let a := unitArea p u
    decide ((kept.map (overlapOf a)).sum < a.2.2.1 * a.2.2.2)

end Sys2Proof.Machine
end

