-- ==== Sys2Proof/Machine/Decoder.lean ====
section
/-! DEFINITION. DECODE: intake of the source, header checks, refusals, corruption, concealment, stream state, the cache, and tile
operations (spec/04_bitstream_decode.md R93 to R127). What the coding standards prescribe is `Config.codec`. -/

namespace Sys2Proof.Machine

/-! ## Records -/

/-- An empty record of the candidate's entry at its node. -/
def collectJob (c : Cand) : DecodeJob :=
  { job := c.j, member := c.h, node := c.n, rank := c.rank, pic := Picture.none, bands := [], cached := false, slot := none
    poisoned := false, src := [], works := [], shown := none, plan := [], left := [], announced := [], whole := false, ref := none
    field := [], next := none }

/-- The record of the candidate's entry at its node. -/
def pictureAt (s : State) (c : Cand) : Option DecodeJob :=
  s.decodes.find? fun d => d.job = c.j ∧ d.member = c.h ∧ d.node = c.n ∧ d.rank = c.rank

/-- Changes the record of the candidate's entry. -/
def modPicture (s : State) (c : Cand) (f : DecodeJob → DecodeJob) : State :=
  { s with decodes := s.decodes.map fun d =>
      if d.job = c.j ∧ d.member = c.h ∧ d.node = c.n ∧ d.rank = c.rank then f d else d }

/-- Puts a record on its list, in place of an earlier one. -/
def putPicture (s : State) (c : Cand) (d : DecodeJob) : State :=
  if (pictureAt s c).isSome then modPicture s c fun _ => d else { s with decodes := s.decodes ++ [d] }

/-! ## Source -/

/-- The bytes of a source taken in so far. -/
def sourceBytes (d : DecodeJob) : List Byte := d.src.map (·.2)

/-- Takes the next piece of the source bytes out of the Marrow and lets its slot go (R25, R297). -/
def takeSource (s : State) (c : Cand) (e : Entry) : Option State :=
  match (liveIns s c.j c.h e.path (c.node s)).head? with
  | none => none
  | some x =>
    let pieces := sourceEdge (c.route s) x
    match fullSlot s c.j c.h x c.rank (if pieces then c.tile else 0) with
    | none => none
    | some k =>
      let g := edgeOf s c.j x
      let n := if pieces then ((sourcePieces s { c with n := g.producer } e).getD c.tile (0, 0)).2
        else min e.body.srcLen.toNat (slotBytes g)
      let r := (Rd.start s).bytes (some (candOp s c false)) (c.home s) (slotAddr g k) n
      if r.1.hit then none
      else if r.1.pois then some (consume r.1.st c [] r.1.lines)
      else
        let d := (pictureAt s c).getD (collectJob c)
        let s := putPicture r.1.st c { d with src := d.src ++ (r.2.zipIdx d.src.length).map fun b => (b.2, b.1) }
        let s := if pieces then releaseSlot s c.j c.h x k (.pod (podAt s c.p).logical 1) else s
        some (advanceWork s c (c.tile + 2))

/-- Whether the source of an entry is taken in; a node that `INGEST` does not feed gets it in one slot. -/
def sourceHere (s : State) (c : Cand) (e : Entry) (d : DecodeJob) : Bool :=
  decide (e.body.srcLen.toNat ≤ d.src.length) ||
    !((liveIns s c.j c.h e.path (c.node s)).head?.any (sourceEdge (c.route s)))

/-! ## What the decoder finds -/

/-- A picture as the decoder takes it back. -/
def codedOf (p : Picture) : Config.Coded :=
  ⟨p.width, p.height, p.format, p.depthL, p.depthC, p.order, bitN p.pflags 2, bitN p.pflags 3, p.planes, p.motion⟩

/-- What raw source bytes `b` present under parameter block `q` (R98, R117). -/
def rawOut (q b : List Byte) : Config.CodecOut :=
  let p := rawPicture q b
  { events := [.claim p.width p.height 0 0, .header p.width p.height p.format] ++
      (if b.length < rawNeed (fieldLe q 12 1) (fieldLe q 16 4) p.height then [Config.CodecEvent.truncated] else [])
    pics := [{ (default : Config.CodecPic) with output := true }], colour := none, dpb := [], activates := [], state := []
    hintBits := 0 }

/-- What the decoder finds in source bytes `b` of entry `e` with parameter sets `ps`. -/
def codecOut (op : Nat) (e : Entry) (q b : List Byte) (t : Option Stream) (ps : List (Nat × Config.ParamSet)) : Config.CodecOut :=
  if op = 6 then rawOut q b
  else Config.codec ⟨op, decide (e.opcode = 1), (t.map (·.codecState)).getD [], ps,
    ((t.map (·.dpb)).getD []).map fun d => codedOf d.pic, keptUnits op b⟩

/-- What becomes of a picture: refused (closing its stream or not), a STRICT stop at a byte, headers lost, or decoded with the last
error kind met. -/
inductive PicPlan where
  | refuse (code : Nat) (closes : Bool)
  | stop (kind ofs : Nat)
  | whole (kind : Nat)
  | go (kind : Nat)
  deriving DecidableEq, Repr

/-- Whether a claimed size is outside Table 4-2; `video`: not a still. -/
def sizeRefused (video : Bool) (w h : Nat) : Bool :=
  !decide (16 ≤ w ∧ w ≤ 8192 ∧ 16 ≤ h ∧ h ≤ 8192) || (video && decide (35389440 < w * h))

/-- Whether a `MOTION` node fed by the candidate's node cannot hold the picture (spec/05 R133). -/
def motionTooBig (s : State) (c : Cand) (p : Picture) : Bool :=
  (outEdges (c.node s)).any fun k =>
    let x := nodeOf s c.j (edgeOf s c.j k).consumer
    let q := nodeBlock (c.route s) x
    let g := if fieldLe q 0 1 = 0 then 4 else 8
    let bl := refBlocks p [0]
    x.kind = 2 && decide (fieldLe q 8 4 < mapBytes bl + 384 * bl + roundUp (4 * ceilDiv p.width g * ceilDiv p.height g) 128)

/-- The refusal of a limit of Table 4-2 that an event exceeds, and of a picture too large for its buffers (R93, R113; spec/05
R133). A `SAMPLE` has no motion reference, a hidden picture counts (log 60). -/
def limitRefused (s : State) (c : Cand) (e : Entry) : Config.CodecEvent → Option (Nat × Bool)
  | .slices n | .tiles n => if 1024 < n then some (0x0822, false) else none
  | .buffers n => if fieldLe (c.block s) 2 1 < n then some (0x0825, false) else none
  | .header w h f =>
    let p : Picture := { Picture.none with width := w, height := h, format := f }
    if (c.node s).opcode ≠ 6 ∧ fieldLe (c.block s) 4 4 < refNeed p then some (0x0823, false)
    else if e.opcode = 2 ∧ motionTooBig s c p then some (0x0833, true) else none
  | _ => none

/-- Takes the events of a bitstream in order up to the one that decides, with the profile and error kind last seen and the
parameter sets that arrived (R94, R117, R118, R123). -/
def scanEvents (s : State) (c : Cand) (e : Entry) (held : List (Nat × Config.ParamSet)) :
    List Config.CodecEvent → Config.Profile → Nat → List (Nat × Config.ParamSet) → PicPlan × List (Nat × Config.ParamSet)
  | [], _, k, new => (.go k, new)
  | ev :: es, pr, k, new =>
    let op := (c.node s).opcode
    let bad (k o : Nat) : PicPlan := if sqConceal s e.sq then .whole k else .stop k o
    let pr' := match ev with
      | .profile p => p
      | _ => pr
    match (featureRefused op pr ev).map (·, true) |>.or (limitRefused s c e ev) with
    | some r => (.refuse r.1 r.2, new)
    | none => match ev with
      | .set kind ident bytes =>
        match setSlot (new.foldl (fun m x => sput m x.1 x.2) held) kind ident with
        | some n => scanEvents s c e held es pr' k (new ++ [(n, ⟨kind, ident, bytes⟩)])
        | none => (.refuse 0x0824 false, new)
      | .claim w h o hd =>
        let ceil := sqr s e.sq 0x14
        if bits ceil 13 0 < w ∨ bits ceil 29 16 < h then (bad 6 o, new)
        else if sizeRefused (decide (e.opcode = 2)) w h then (.refuse 0x0821 false, new)
        else if e.opcode = 1 ∧ op ≠ 6 ∧ bitN (sqr s e.sq 0x04) 6 = false ∧ 4096 * e.body.srcLen.toNat < w * h then (bad 7 hd, new)
        else scanEvents s c e held es pr' k new
      | ev => match corruption e.body.srcLen.toNat ev with
        | some (k', o, w) =>
          if sqConceal s e.sq = false then (.stop k' o, new)
          else if w then (.whole k', new) else scanEvents s c e held es pr' k' new
        | none => scanEvents s c e held es pr' k new

/-! ## Parameter sets -/

/-- Whether the set held in slot `k` is replaced by one that arrives among events `es`. -/
def slotReplaced (t : Stream) (es : List Config.CodecEvent) (k : Nat) : Bool :=
  es.any fun ev => match ev with
    | .set kind ident _ => setSlot t.params kind ident = some k
    | _ => false

/-- The parameter-set slots that the pictures of an entry activate and that are read back (R102); a set that the entry itself
brings is at hand (log 63). -/
def slotsToRead (t : Stream) (o : Config.CodecOut) : List Nat :=
  (o.activates.filter fun k => (sget? t.params k).isSome && !slotReplaced t o.events k).dedup

/-- Reads slots `ks` of context `k` back, in quarters, for the entry of rank `r` (R102). -/
def askSlots (s : State) (k r : Nat) (ks : List Nat) : State :=
  let s : State := { s with streams := smod s.streams k fun t => { t with asked := some r, slotGot := [] } }
  ks.foldl (fun s x => (List.range 4).foldl (fun s q =>
    sendReq s (readReq (streamAddr s k (1024 * x + 256 * q)) 256 (rg s 8 0x408) 0 127 (.param k x q))) s) s

/-- Whether a write to the area of context `k` is unanswered. -/
def contextBusy (s : State) (k : Nat) : Bool :=
  behind s (some (3, k)) || s.mem.reqs.any (fun r => r.write && r.purpose.area = some (3, k)) ||
    s.mem.held.any fun r => r.write && r.purpose.area = some (3, k)

/-- What comes of reading parameter sets back: it still waits (asking if need be), or the slots whose CRC failed. -/
inductive SetsRead where
  | wait
  | ask (ks : List Nat)
  | read (bad : List Nat)
  deriving DecidableEq, Repr

/-- How far the reading of the sets that entry `e` activates has come (R102). -/
def setsRead (s : State) (e : Entry) (t : Option Stream) (o : Config.CodecOut) : SetsRead :=
  match t with
  | none => .read []
  | some t =>
    let ks := slotsToRead t o
    if ks.isEmpty then .read []
    else if t.asked ≠ some e.rank then (if contextBusy s e.body.stream.toNat then .wait else .ask ks)
    else if ks.all fun k => (List.range 4).all fun q => (sget? t.slotGot (4 * k + q)).isSome then
      .read (ks.filter fun k => !slotGood ((List.range 4).flatMap fun q => sgetD t.slotGot (4 * k + q) []))
    else .wait

/-- Writes parameter sets that arrived to their slots (R101). -/
def writeSets (s : State) (e : Entry) (l : List (Nat × Config.ParamSet)) : State :=
  let k := e.body.stream.toNat
  l.foldl (fun s x => (List.range 4).foldl (fun s i =>
    memWrite s (streamAddr s k (x.1 * 1024 + 256 * i)) (slice (slotImage x.2) (256 * i) 256) (rg s 8 0x408) 1 127
      (.context k e.job e.rank)) s) s

/-- Changes the stream of a `FRAME` entry. -/
def modStream (s : State) (e : Entry) (f : Stream → Stream) : State :=
  if e.opcode = 2 then { s with streams := smod s.streams e.body.stream.toNat f } else s

/-- The parameter sets that arrived are held and written (R101). -/
def holdSets (s : State) (e : Entry) (l : List (Nat × Config.ParamSet)) : State :=
  if e.opcode = 2 then
    writeSets (modStream s e fun t => { t with params := l.foldl (fun m x => sput m x.1 x.2) t.params }) e l
  else s

/-! ## Stream state -/

/-- CRC-64 continued over more bytes. -/
def crc64More (c : Nat) (bs : List Byte) : Nat := bs.foldl crc64Step c

/-- The source hash of an entry with source bytes `b` (R124). -/
def sourceHash (b : List Byte) (t : Option Stream) : Nat := crc64More ((t.map (·.runHash)).getD 0) b

/-- The most recent reference picture of a stream in decode order (R121). -/
def lastRef (t : Stream) : Option DpbRec := (t.dpb.filter fun d => bitN d.dflags 1 || bitN d.dflags 2).getLast?

/-- A picture of value 2^(d - 1) with the shape of `p` (R123). -/
def flatPicture (p : Picture) : Picture :=
  { p with planes := p.planeList.map fun k => List.replicate ((p.dims k).1 * (p.dims k).2) (2 ^ (p.depth k - 1)), motion := [] }

/-- The DPB after an entry: `mine` are the records of its own pictures, by index, `p` the shape of a substitute, which keeps the
buffer of the picture that it repeats (R101, R123). A hidden AV1 frame stays in the DPB (R103). -/
def nextDpb (t : Stream) (l : List Config.DpbNext) (mine : List (Nat × DpbRec)) (hidden : List Nat) (p : Picture) : List DpbRec :=
  let mark (d : DpbRec) (a b : Bool) : DpbRec := { d with dflags := d.dflags / 8 % 4 * 8 + 1 + 2 * b2n a + 4 * b2n b }
  let named := l.filterMap fun x => match x with
    | .keep i a b => t.dpb[i]?.map fun d => mark d a b
    | .pic i a b => (sget? mine i).map fun d => mark d a b
    | .substitute => some (match lastRef t with
      | some d => { d with dflags := 17 + d.dflags / 8 % 2 * 8 }
      | none => ⟨0, 0xFFFFFFFF, 17, flatPicture p⟩)
  let has (i : Nat) : Bool := l.any fun x => match x with
    | .pic j _ _ => i = j
    | _ => false
  named ++ (hidden.filter fun i => !has i).filterMap fun i => (sget? mine i).map fun d => mark d false false

/-- Gives back the picture buffers that left the DPB (R100). -/
def freeLeft (s : State) (cls : Nat) (old new : List DpbRec) : State :=
  ((heldBufs old).filter fun a => !(heldBufs new).contains a).foldl (fun s a => freePoolOf s cls a) s

/-- What every picture of a stream leaves in its context besides samples: hash, last error, decoder state (Table 4-8). -/
def streamNext (s : State) (e : Entry) (o : Config.CodecOut) (kind hash : Nat) : State :=
  modStream s e fun t => { t with
    codecState := o.state, hintBits := o.hintBits, runHash := hash, lastErr := if kind = 0 then t.lastErr else kind
    asked := none, slotGot := [] }

/-- A picture enters the stream's record as its forwarded picture (R104, Table 4-8). -/
def streamShown (s : State) (e : Entry) (p : Picture) : State :=
  modStream s e fun t => { t with
    frameNo := (t.frameNo + 1) % 2 ^ 32, width := p.width, height := p.height, format := p.format
    depth := depthByte p.depthL p.depthC, prev := some p }

/-! ## Cache -/

/-- The cache entry that a picture hits (R124, R125). -/
def cacheFind (s : State) (e : Entry) (op frameNo hash : Nat) : Option CacheEnt :=
  s.cache.find? fun c => c.stream = e.body.stream.toNat ∧ c.frameNo = frameNo ∧ c.hash = hash ∧ c.job = e.job ∧ c.codec = op

/-- The slot that an insertion takes: a free one, or that of the unpinned entry with the oldest use, which is evicted
(R126, R127). -/
def cacheSlot (s : State) : Option (Nat × Bool) :=
  let busy (k : Nat) : Bool := (pinnedSlots s).contains k || s.decodes.any (·.slot = some k)
  match (List.range (rgf s 8 0x414 14 0)).find? fun k => !(busy k || s.cache.any (·.slot = k)) with
  | some k => some (k, false)
  | none =>
    (sortBy (s.cache.filter fun c => !busy c.slot) fun a b => decide (a.last < b.last ∨ (a.last = b.last ∧ a.slot ≤ b.slot))).head?.map
      fun c => (c.slot, true)

/-- Whether a picture that misses would be inserted (R126). -/
def cacheable (s : State) (q : List Byte) (p : Picture) : Bool :=
  fieldLe q 1 1 = 2 && storable p && decide (0 < rgf s 8 0x414 14 0) && decide (refNeed p ≤ rgf s 8 0x414 27 16 * 65536)

/-! ## Readiness -/

/-- Whether a record holds a context set (R108). -/
def pictureOpen (d : DecodeJob) : Bool := d.works ≠ [] && d.plan ≠ []

/-- Context sets taken on Pod `p` (R108). -/
def setsTaken (s : State) (p : Nat) : Nat :=
  let b := podAt s p
  let q := max 1 (jobP s b.job)
  (s.decodes.filter fun d =>
    let x := nodeOf s d.job d.node
    d.job = b.job && x.kind = 1 && decide ((b.member + q - d.member) % q < spanWidth x) && pictureOpen d).length

/-- Whether every Pod of the candidate's span has a free context set (R108). -/
def setsFree (s : State) (c : Cand) : Bool :=
  let q := max 1 (jobP s c.j)
  (List.range (min q (spanWidth (c.node s)))).all fun i =>
    decide (setsTaken s ((memberPod s c.j ((c.h + i) % q)).getD 127) < 4)

/-- Whether the picture of entry `x` of the candidate's stream is decoded and in its buffer (R104). -/
def pictureReady (s : State) (c : Cand) (x : Entry) : Bool :=
  x.st = .done || (x.sinks.contains c.n && !moveOpen s c.j x.rank)

/-- Whether the pictures before the candidate's let it start (R104): all are in their buffers, or in a span all but the last, of
which the bands `need` are announced (R110). -/
def mayStart (s : State) (c : Cand) (e : Entry) (need : List Nat) : Bool :=
  let before := (streamMates s e).filter fun x => decide (x.rank < e.rank)
  let last := before.foldl (fun a x => max a x.rank) 0
  e.opcode ≠ 2 || before.all fun x =>
    pictureReady s c x ||
    (decide (1 < spanWidth (c.node s)) && x.rank = last && !(s.mem.moves.any fun m => m.job = c.j && m.rank = x.rank && m.ends = .write) &&
      match pictureAt s { c with rank := x.rank } with
      | some d => d.works ≠ [] && need.all fun b => d.announced.contains ((d.shown.getD (d.works.length - 1)), b)
      | none => false)

/-- Whether the pictures before the candidate's are decoded as far as its headers need (R104): only in a span may the last one be
under way. -/
def mayParse (s : State) (c : Cand) (e : Entry) : Bool := mayStart s c e []

/-! ## Pictures -/

/-- The entry forwards no picture: it completes, and what follows `DECODE` is passed over (R103, R123). -/
def passOver (s : State) (e : Entry) (status count : Nat) : State :=
  let s := finish s e status 0 count (2 ^ 32 * 0xFFFFFFFF)
  let s := purge (removeUnit s e.sq e.rank) e.job
  arrivals (endStreams (fenceClose s e.sq) e.job) e.job

/-- Bands that the output edges of the candidate's node take at once. -/
def edgeDepth (s : State) (c : Cand) : Nat := max 1 ((outEdges (c.node s)).foldl (fun a k => min a (edgeOf s c.j k).depth) 65536)

/-- The pictures of an entry go to work: their operations, and the record of the forwarded one. -/
def beginPictures (s : State) (c : Cand) (e : Entry) (ws : List PicWork) (shown : Option Nat) (f : DecodeJob → DecodeJob) : State :=
  let plan := ws.zipIdx.flatMap fun w => planPicture w.2 (if shown = some w.2 then edgeDepth s c else 2 ^ 32) w.1.bands
  let w := shown.bind fun i => ws[i]?
  let n := (ws.map (·.pic.concealed)).sum
  let s := modEntry s e.sq e.slot fun y => { y with concealed := min 0xFFFFFFFE n }
  let s := modStream s e fun t => { t with concealed := min 0xFFFFFFFF (t.concealed + n) }
  modPicture s c fun d => f { d with
    pic := (w.map (·.pic)).getD Picture.none, bands := (w.map (·.bands)).getD [], works := ws, shown := shown, plan := plan
    left := List.range plan.length }

/-- The bands of a picture of which the coded form is `x` (R107, R109). -/
def bandsOf (s : State) (c : Cand) (x : Config.CodecPic) (p : Picture) : List Band :=
  cutBands (if spanWidth (c.node s) = 1 then [(0, 0, p.width, p.height)] else partitions (c.node s).opcode x p.width p.height)

/-- The headers of a picture are lost: the previous picture is forwarded again, or nothing (R123). -/
def repeatPicture (s : State) (c : Cand) (e : Entry) (t : Option Stream) (o : Config.CodecOut) (kind hash : Nat) : State :=
  let s := streamNext s e o kind hash
  match t.bind (·.prev), e.opcode with
  | some p, 2 =>
    let n := min 0xFFFFFFFE (unitCount p)
    let p := { p with frameNo := (t.map (·.frameNo)).getD 0, srcHash := hash, concealed := n,
                      pflags := 17 + p.pflags / 4 % 4 * 4 }
    beginPictures (streamShown s e p) c e [⟨p, cutBands [(0, 0, p.width, p.height)], none, none, []⟩] (some 0) id
  | _, _ => passOver s e stConcealed 0xFFFFFFFF

/-- Asks for what is missing of `n` buffers of class `cls`; `none` while the port owes them (R108). -/
def askBuffers (s : State) (cls n : Nat) (u : PoolUser) : Option State :=
  let owed := ((s.mem.poolAsk ++ s.mem.poolWait).filter fun x => x.2 = u).length
  let miss := n - (gotBuffers s u).length - owed
  if miss = 0 then none else some ((List.range miss).foldl (fun s _ => askPool s cls u) s)

/-- The reconstructed pictures of an entry, in decode order, with the units concealed or predicted from a substitute counted;
each is concealed from the reference picture before it (R120 to R123). `dpb` are the pictures held. -/
def reconstruct (op : Nat) (q b : List Byte) (us : List SrcUnit) (o : Config.CodecOut) (kind : Nat) (dpb : List Picture)
    (ref : Option Picture) (l : List (Config.CodecPic × Nat)) : List Picture :=
  (l.foldl (fun (a : List Picture × Option Picture) x =>
    let p := if op = 6 then { rawPicture q b with pflags := 8 } else pictureOf op us o x.1.coded
    let p := match x.1.existing.bind fun i => dpb[i]? with
      | some h => { h with order := p.order, pflags := p.pflags }
      | none => p
    let lost := if kind = 0 ∨ x.1.existing.isSome then []
      else if op = 6 then rawLost q b.length p else lostUnits op x.1 p
    let n := ((if kind = 0 then [] else x.1.substRead).foldl nins lost).length
    let p := { conceal p a.2 x.1.vectors lost with concealed := min 0xFFFFFFFE n, frameNo := 0xFFFFFFFF }
    let isRef := o.dpb.any fun y => match y with
      | .pic i m k => i = x.2 && (m || k)
      | _ => false
    (a.1 ++ [p], if isRef then some p else a.2)) ([], ref)).1

/-- How a picture is read back from the buffer at `a`: its blocks by band (R116, R125). -/
def readBack (p : Picture) (a xl : Nat) (bs : List Band) : List (Nat × BlockRead) :=
  bs.zipIdx.flatMap fun b => (bandBlocks p b.1).map fun i => (b.2, ⟨a, pictureMap p, i, (blockUnits p i).length / 128, xl⟩)

/-- The reference blocks that the bands of a picture read, from the DPB and from the pictures before it in the entry (R116). -/
def readsOf (bufs : List (Nat × Nat × Picture)) (x : Config.CodecPic) : List (Nat × BlockRead) :=
  x.reads.filterMap fun r =>
    match bufs[r.2.1]? with
    | some (a, xl, p) =>
      let n := (blockUnits p r.2.2).length / 128
      if a = 0 ∨ n = 0 then none else some (r.1, ⟨a, pictureMap p, r.2.2, n, xl⟩)
    | none => none

/-- Decodes the pictures of an entry whose headers are sound: concealment, the cache, buffers and the stream's new state. `none`:
it waits for buffers or for bands of the picture before it. -/
def decodePictures (s : State) (c : Cand) (e : Entry) (b : List Byte) (t : Option Stream) (o : Config.CodecOut)
    (kind : Nat) : Option State :=
  let op := (c.node s).opcode
  let q := c.block s
  let k := e.body.stream.toNat
  let u := PoolUser.picture k
  let cls := fieldLe q 0 1
  let hash := sourceHash b t
  let frameNo := (t.map (·.frameNo)).getD 0
  let us := keptUnits op b
  let l := decodedOf op (decide (e.opcode = 1)) o
  let dpb := (t.map (·.dpb)).getD []
  let idx := forwardedOf op l
  let shown := idx.bind fun i => l.findIdx? fun x => x.2 = i
  if mayStart s c e ((l.head?.map (·.1.refBands)).getD []) = false then none
  else
    let ps := reconstruct op q b us o kind (dpb.map (·.pic)) ((t.bind lastRef).map (·.pic)) l
    let first := (shown.bind fun i => ps[i]?).getD Picture.none
    let fresh := shown.isSome && !(shown.bind fun i => l[i]?).any fun x => x.1.existing.isSome
    let mode := if op = 6 ∨ rgf s 8 0x414 14 0 = 0 ∨ fresh = false then 0 else fieldLe q 1 1
    let hit := if mode = 0 ∨ kind ≠ 0 then none else cacheFind s e op frameNo hash
    let tries := hit.isNone && mode = 2 && cacheable s q first
    let slot := if tries then cacheSlot s else none
    let z := (hit.map (·.slot)).or (slot.map (·.1))
    let inDpb (i : Nat) : Bool := o.dpb.any fun x => match x with
      | .pic j _ _ => i = j
      | _ => false
    let hidden := (l.filter fun x => op = 4 && some x.2 ≠ idx).map (·.2)
    let wants := if e.opcode ≠ 2 ∨ op = 6 then [] else
      (l.zipIdx.filter fun x => x.1.1.existing.isNone && (inDpb x.1.2 || hidden.contains x.1.2) &&
        !(some x.2 = shown && z.isSome) && (ps[x.2]?).any storable).map (·.2)
    if (gotBuffers s u).length < wants.length then askBuffers s cls wants.length u
    else
      let bufs := (gotBuffers s u).take wants.length
      let s := takeBuffers s wants.length u
      let s := if mode = 0 then s else bump s 8 (if hit.isSome then 2 else 3)
      let s := if tries && slot.isNone then bump s 8 5 else s
      let s := match slot with
        | some (z, true) => bump { s with cache := s.cache.filter fun x => x.slot ≠ z } 8 4
        | _ => s
      let s : State := match hit with
        | some h => { s with cache := s.cache.map fun x => if x.slot = h.slot then { x with last := s.time } else x }
        | none => s
      let xl := sqXlat s e.sq
      let cxl := rg s 8 0x418
      let final (p : Picture) (i : Nat) : Picture :=
        if some i ≠ shown then { p with stream := k }
        else { p with
          planes := (hit.map (·.pic.planes)).getD p.planes, motion := (hit.map (·.pic.motion)).getD p.motion
          frameNo := frameNo, srcHash := hash, stream := k
          pflags := b2n (decide (p.concealed ≠ 0)) + 2 * b2n hit.isSome + p.pflags / 4 * 4 }
      let ps := ps.zipIdx.map fun p => final p.1 p.2
      let home (i : Nat) : Option (Nat × Nat) :=
        if some i = shown ∧ z.isSome then some (slotAddress s (z.getD 0), cxl)
        else (wants.idxOf? i).bind fun n => bufs[n]?.map fun a => (a, xl)
      let old := dpb.map fun d => (d.buf, if bitN d.dflags 3 then cxl else xl, d.pic)
      let works := (l.zip ps).zipIdx.map fun w =>
        let x := w.1.1.1
        let p := w.1.2
        let bs := bandsOf s c x p
        let served := some w.2 = shown && hit.isSome
        let source := if served then home w.2 else x.existing.bind fun i => (old[i]?).bind fun d => if d.1 = 0 then none else some (d.1, d.2.1)
        let mine := (l.zip ps).zipIdx.map fun v => (((home v.2).map (·.1)).getD 0, ((home v.2).map (·.2)).getD 0, v.1.2)
        (⟨p, bs, if served then none else home w.2, source,
          match source with
          | some a => readBack p a.1 a.2 bs
          | none => if served ∨ x.existing.isSome then [] else readsOf (old ++ mine) x⟩ : PicWork)
      let recs := (l.zip ps).zipIdx.map fun w =>
        (w.1.1.2, (⟨((home w.2).map (·.1)).getD 0, w.1.2.frameNo, 8 * b2n (decide (some w.2 = shown ∧ z.isSome)), w.1.2⟩ : DpbRec))
      let s := modEntry (streamNext s e o kind hash) e.sq e.slot fun y => { y with hash := hash }
      let s := match t with
        | some t =>
          let new := nextDpb t o.dpb recs hidden first
          modStream (freeLeft s cls t.dpb new) e fun t => { t with dpb := new }
        | none => s
      let s := if shown.isSome then streamShown s e ((shown.bind fun i => ps[i]?).getD first) else s
      if works.isEmpty then some (passOver s e stOk 0)
      else
        let s := beginPictures s c e works shown fun d => { d with cached := hit.isSome, slot := z }
        if shown.isSome then some s
        else
          let s := modEntry s e.sq e.slot fun y => { y with
            sinks := ((entryNodes s e.job e.member e.opcode).filter (· ≠ c.n)).foldl nins y.sinks }
          some (fenceClose (removeUnit s e.sq e.rank) e.sq)

/-- Starts the pictures of entry `e`, whose source bytes are taken in. `none`: it is not ready. -/
def startPictures (s : State) (c : Cand) (e : Entry) (d : DecodeJob) : Option State :=
  if setsFree s c = false ∨ mayParse s c e = false then none
  else
    let op := (c.node s).opcode
    let q := c.block s
    let b := sourceBytes d
    let t := if e.opcode = 2 then sget? s.streams e.body.stream.toNat else none
    let held := (t.map (·.params)).getD []
    let o := codecOut op e q b t held
    match setsRead s e t o with
    | .wait => none
    | .ask ks => some (askSlots s e.body.stream.toNat e.rank ks)
    | .read bad =>
      let s := if bad.isEmpty then s else pageErr s 8 1
      let o := if bad.isEmpty then o else codecOut op e q b t (held.filter fun x => !bad.contains x.1)
      let g := scanEvents s c e held o.events .other 0 []
      match g.1 with
      | .refuse code true => some (refuseStream s e code)
      | .refuse code false => some (refuseEntry (holdSets s e g.2) e code)
      | .stop k i => some (stopEntry (modStream s e fun t => { t with lastErr := k, asked := none, slotGot := [] }) e k i)
      | .whole k => some (repeatPicture (holdSets s e g.2) c e t o k (sourceHash b t))
      | .go k => decodePictures (holdSets s e g.2) c e b t o k

/-! ## Bands -/

/-- The output slots of the candidate's next `n` bands, if all are empty: `n` slots on from the next one of every edge. -/
def bandSlots (s : State) (c : Cand) (n : Nat) : Option (List (List (Nat × Nat))) :=
  (List.range n).foldl (fun a i => match a with
    | none => none
    | some l =>
      let slots := (outEdges (c.node s)).map fun e => (c.h * 4096 + e, ((edgeAt s c.j c.h e).prodNext + i) % max 1 (edgeOf s c.j e).depth)
      if slots.all fun o => slotEmpty s c.j c.h (o.1 % 4096) o.2 && !fedEdge s c.j c.h (o.1 % 4096) then some (l ++ [slots]) else none)
    (some [])

/-- The Marrow bytes of band `b`, hand-off `i` of its picture, in output slots; bytes past a slot's end are lost (R105, R117). -/
def bandWrites (s : State) (c : Cand) (p : Picture) (i : Nat) (b : Band) (outs : List (Nat × Nat)) : List WByte :=
  let bs := (if i = 0 then pictureDesc p else []) ++ bandBytes p b
  outs.flatMap fun o =>
    let e := edgeOf s c.j (o.1 % 4096)
    wBytes (c.home s) (slotAddr e o.2) (bs.take (slotBytes e))

/-- Bands of the forwarded picture that operations issued so far have handed out. -/
def handedOut (d : DecodeJob) : Nat :=
  ((d.plan.zipIdx.filter fun x => some x.1.pic = d.shown && !d.left.contains x.2).map (·.1.ends.length)).sum

/-- Whether operation `x` of a record may run (R104, R110): the entry's earlier pictures are in their buffers, the strips of earlier
partitions that its bands are filtered with are announced, and no band of the forwarded picture is handed out before its first. -/
def planReady (s : State) (c : Cand) (d : DecodeJob) (x : PlanOp) : Bool :=
  let bands (i : Nat) : List Band := ((d.works[i]?).map (·.bands)).getD []
  let mine := bands x.pic
  (x.pic = 0 || ((List.range x.pic).all (fun i => (List.range (bands i).length).all fun b => d.announced.contains (i, b)) &&
    !(s.mem.moves.any fun m => m.job = c.j && m.rank = c.rank && m.ends = .write))) &&
  (x.ends.all fun i => mine.zipIdx.all fun a => match mine[i]? with
    | some b => !(decide (a.1.part < b.part) && bandNear a.1 b) || d.announced.contains (x.pic, a.2)
    | none => true) &&
  (some x.pic ≠ d.shown || x.ends.isEmpty || x.ends.head? = some 0 || decide (0 < handedOut d))

/-- The requests that write buffer parts of a picture at address `a`. -/
def storeReqs (a xl p n : Nat) (pois : Bool) (parts : List (Nat × List Byte)) : List MemReq :=
  (parts.flatMap fun y => writeReqs (a + y.1) y.2 [] xl p 0 0 n).map fun r => { r with pois := if pois then 2 ^ r.lines - 1 else 0 }

/-- Host byte addresses that a block read covers: its map entry and its units (R116). -/
def blockKeys (b : BlockRead) : List Nat :=
  (b.buf + b.block / 4) :: (List.range (128 * b.units)).map (b.buf + b.map + 384 * b.block + ·)

/-- The reads of blocks `bs`, by `XLAT_CTX`. -/
def blockReqs (bs : List BlockRead) (p n : Nat) : List MemReq :=
  ((bs.map (·.xlat)).dedup).flatMap fun xl => coverReqs ((bs.filter fun b => b.xlat = xl).flatMap blockKeys) xl p 0 0 n

/-- Issues operation `i` of a record: the reference blocks of the bands it begins are fetched, the bands it ends go to their slots,
and after its verdict their blocks to the picture's buffer, with the buffer's other parts after the picture's last operation
(R107, R110, R116, R342). -/
def bandOp (s : State) (c : Cand) (d : DecodeJob) (i : Nat) (x : PlanOp) (w : PicWork) : Option State :=
  let shown := decide (some x.pic = d.shown)
  match if shown then bandSlots s c x.ends.length else some [] with
  | none => none
  | some slots =>
    let h := handedOut d
    let total := w.bands.length
    let parts := slots.zipIdx.map fun o => (o.1, h + o.2, (w.bands[x.ends.getD o.2 0]?).getD ⟨0, 0, 0, 0, 0⟩)
    let ws := parts.flatMap fun o => bandWrites s c w.pic o.2.1 o.2.2 o.1
    let outs := slots.flatten
    let bs := x.ends.filterMap fun b => w.bands[b]?
    let lastHere := !(d.left.any fun k => k ≠ i && (d.plan[k]?).any fun y => y.pic = x.pic)
    let n := s.nextOp
    let reads := (w.reads.filter fun r => x.starts.contains r.1).map (·.2)
    let after := match w.store with
      | some a => tileUp (storeReqs a.1 a.2 c.p n d.poisoned (blockParts w.pic bs ++ if lastHere then ownParts w.pic a.1 else []))
      | none => []
    let f (o : TileOp) : TileOp := { o with
      tile := i, outs := outs, awaiting := b2n (reads ≠ [] : Bool), after := after
      fills := parts.flatMap fun y => fillsOf s c y.1 y.2.1 (decide (total ≤ y.2.1 + 1)) (some y.2.2) }
    let s := modPicture s c fun d => { d with left := ndel d.left i }
    let s := issueWrites (beginWork s { c with outs := outs }) { c with tile := d.plan.length - d.left.length, fresh := false }
      d.plan.length ws (if d.poisoned then wLines ws else []) f
    some (startMove s c.j (podAt s c.p).member c.n c.rank (tileUp (blockReqs reads c.p n)) (.fetch n) reads)

/-- The next operation of the candidate's entry that falls to its Pod: partition k runs on span member k mod S (R109). -/
def nextBand (s : State) (c : Cand) (d : DecodeJob) : Option State :=
  let q := max 1 (jobP s c.j)
  let me := ((podAt s c.p).member + q - c.h) % q
  match d.left.find? fun i => (d.plan[i]?).any fun x => x.part % min q (spanWidth (c.node s)) = me with
  | none => none
  | some i => match d.plan[i]? with
    | none => none
    | some x => match d.works[x.pic]? with
      | none => none
      | some w => if planReady s c d x then bandOp s c d i x w else none

/-- A DECODE tile operation: the next one of the pictures under way; before that span member 0 takes the source in and starts them.
An entry that reaches the node while the page is disabled is refused (R129). -/
def decodeOp (s : State) (c : Cand) : Option State :=
  match c.entry s with
  | none => none
  | some e =>
    let lead := decide ((podAt s c.p).member = c.h)
    match pictureAt s c with
    | some d =>
      if d.works ≠ [] then nextBand s c d
      else if lead = false then none
      else if sourceHere s c e d then startPictures s c e d
      else takeSource s c e
    | none =>
      if lead = false then none
      else if enabled s 8 = false then some (refuseEntry s e 0x0827)
      else if e.srcPoison then some (consume s c [] 1)
      else takeSource s c e

/-- The meaning of DECODE_TILE_OP. -/
def execDecodeTileOp (p : Fin 100) (s : State) : Host.Outcome State Fault Refusal := .next (runStation s p.val 1 decodeOp)

end Sys2Proof.Machine
end

