-- ==== Sys2Proof/Machine/Fp.lean ====
section
/-! DEFINITION. Number formats and arithmetic: element encodings, conversion and rounding, FP32 operations and the
correctly rounded functions (spec/09_pod_arithmetic.md R215 to R220, R232). -/

namespace Sys2Proof.Machine

/-- A number: not a number, an infinity, or (-1)^neg x n x 2^e; a zero keeps its sign (R216). -/
inductive Fv where
  | nan
  | inf (neg : Bool)
  | fin (neg : Bool) (n : Nat) (e : Int)
  deriving DecidableEq, Repr, Inhabited

/-- `a` x 2^`e` as a numerator and a denominator. -/
def scale2 (a : Nat) (e : Int) : Nat × Nat := if 0 ≤ e then (a * 2 ^ e.toNat, 1) else (a, 2 ^ (-e).toNat)

/-- floor(log2(a / b)) of positive numbers. -/
def floorLog (a b : Nat) : Int :=
  let k : Int := (Nat.log2 a : Int) - Nat.log2 b
  let x := scale2 b k
  if x.1 ≤ a * x.2 then k else k - 1

/-- Rounds `a` / `b` to a multiple of 2^`e`: RNE, or stochastically with the word `w` (R219). -/
def roundUnit (a b : Nat) (e : Int) (w : Option Nat) : Nat :=
  let x := scale2 b e
  let n := a * x.2
  let q := n / x.1
  let r := n % x.1
  match w with
  | none => if x.1 < 2 * r ∨ (2 * r = x.1 ∧ q % 2 = 1) then q + 1 else q
  | some w => if r ≠ 0 ∧ 2 ^ 32 ≤ r * 2 ^ 32 / x.1 + w then q + 1 else q

/-- A floating-point type: mantissa bits, exponent of the smallest normal, bias, and width of the exponent field
(Table 9-1). -/
structure FFmt where
  m : Nat
  emin : Int
  bias : Int
  ew : Nat
  deriving DecidableEq, Repr

/-- FP32. -/
def fp32 : FFmt := ⟨23, -126, 127, 8⟩
/-- FP16. -/
def fp16 : FFmt := ⟨10, -14, 15, 5⟩
/-- BF16. -/
def bf16 : FFmt := ⟨7, -126, 127, 8⟩
/-- E5M2. -/
def e5m2 : FFmt := ⟨2, -14, 15, 5⟩
/-- E4M3. -/
def e4m3 : FFmt := ⟨3, -6, 7, 4⟩
/-- E2M1. -/
def e2m1 : FFmt := ⟨1, 0, 1, 2⟩
/-- IEEE 754 binary64 (R157). -/
def fp64 : FFmt := ⟨52, -1022, 1023, 11⟩

/-- Rounds `a` / `b` to the grid of a type with unbounded exponents above (R218): q and e of q x 2^e. -/
def roundGrid (f : FFmt) (a b : Nat) (w : Option Nat) : Nat × Int :=
  if a = 0 then (0, 0)
  else
    let e := max (floorLog a b) f.emin - f.m
    (roundUnit a b e w, e)

/-- Exponent above the largest finite value of a type whose largest exponent field encodes infinity. -/
def FFmt.emax (f : FFmt) : Int := 2 ^ f.ew - 1 - f.bias

/-- Rounds a signed magnitude to a type with infinities, RNE. -/
def roundTo (f : FFmt) (neg : Bool) (a b : Nat) : Fv :=
  let q := roundGrid f a b none
  if q.1 ≠ 0 ∧ f.emax ≤ floorLog q.1 1 + q.2 then .inf neg else .fin neg q.1 q.2

/-- Rounds a number to a type with infinities. -/
def Fv.round (f : FFmt) : Fv → Fv
  | .fin s n e => let x := scale2 n e; roundTo f s x.1 x.2
  | v => v

/-! ## Patterns -/

/-- The bits of q x 2^e on the grid of a type. -/
def packFloat (f : FFmt) (neg : Bool) (q : Nat) (e : Int) : Nat :=
  let sign := b2n neg * 2 ^ (f.m + f.ew)
  if q = 0 then sign
  else
    let k := floorLog q 1 + e
    if k < f.emin then sign + q
    else
      let x := scale2 q (e - (k - f.m))
      sign + (k + f.bias).toNat * 2 ^ f.m + (x.1 / x.2 - 2 ^ f.m)

/-- The number that bits `v` of a type encode, without its special exponents. -/
def unpackFloat (f : FFmt) (v : Nat) : Fv :=
  let s := bitN v (f.m + f.ew)
  let e := bits v (f.m + f.ew - 1) f.m
  let m := v % 2 ^ f.m
  if e = 0 then .fin s m (f.emin - f.m) else .fin s (2 ^ f.m + m) ((e : Int) - f.bias - f.m)

/-- The format of a floating-point `DTYPE`. -/
def dtFloat (t : Nat) : Option FFmt :=
  match t with
  | 4 => some e2m1
  | 5 => some e4m3
  | 6 => some e5m2
  | 7 => some fp16
  | 8 => some bf16
  | 9 => some fp32
  | _ => none

/-- Least and greatest value of an integer `DTYPE` (Table 9-1). -/
def dtRange (t : Nat) : Int × Int :=
  match t with
  | 0 => (-8, 7)
  | 1 => (-128, 127)
  | 2 => (0, 255)
  | 3 => (0, 65535)
  | _ => (-2147483648, 2147483647)

/-- An integer as a number; zero is +0. -/
def ofZ (v : Int) : Fv := .fin (decide (v < 0)) v.natAbs 0

/-- The value of an element of `DTYPE` `t` with bits `v` (R215). -/
def decodeElem (t v : Nat) : Fv :=
  match dtFloat t with
  | some f =>
    let e := bits v (f.m + f.ew - 1) f.m
    let m := v % 2 ^ f.m
    if t = 5 ∧ v % 128 = 127 then .nan
    else if 6 ≤ t ∧ e = 2 ^ f.ew - 1 then (if m = 0 then .inf (bitN v (f.m + f.ew)) else .nan)
    else unpackFloat f v
  | none =>
    match t with
    | 0 => ofZ (sext 4 v)
    | 1 => ofZ (sext 8 v)
    | 2 | 3 => ofZ v
    | _ => ofZ (sext 32 v)

/-- Multiplies by 2^k. -/
def Fv.shift (k : Int) : Fv → Fv
  | .fin s n e => .fin s n (e + k)
  | v => v

/-- The value of a scaled element with scale byte `b` (R217). -/
def decodeScaled (t v b : Nat) : Fv :=
  if b = 255 then .nan else (decodeElem t v).shift ((b : Int) - 127 - (if t = 1 then 6 else 0))

/-- The canonical NaN of a type (R216). -/
def canonNan (t : Nat) : Nat :=
  match t with
  | 5 | 6 => 0x7F
  | 7 => 0x7E00
  | 8 => 0x7FC0
  | 9 => 0x7FC00000
  | _ => 0

/-- Whether a type has no NaN (R220). -/
def noNan (t : Nat) : Bool := !(decide (5 ≤ t ∧ t ≤ 9))

/-- The bits of the largest finite magnitude of a float type. -/
def maxBits (t : Nat) : Nat :=
  match t with
  | 4 => 7
  | 5 => 0x7E
  | 6 => 0x7B
  | 7 => 0x7BFF
  | 8 => 0x7F7F
  | _ => 0x7F7FFFFF

/-- Converts a number to `DTYPE` `t`, rounding with word `w` if one is drawn: the bits, and whether a NaN was flagged
(R218 to R220, Table 9-2). -/
def convert (t : Nat) (w : Option Nat) (v : Fv) : Nat × Bool :=
  match dtFloat t with
  | some f =>
    let sign (s : Bool) : Nat := b2n s * 2 ^ (f.m + f.ew)
    let top (s : Bool) : Nat := sign s + if t ≤ 5 then maxBits t else (2 ^ f.ew - 1) * 2 ^ f.m
    match v with
    | .nan => (canonNan t, noNan t)
    | .inf s => (top s, false)
    | .fin s n e =>
      let x := scale2 n e
      let q := roundGrid f x.1 x.2 w
      let last := unpackFloat f (maxBits t)
      let beyond := match last with
        | .fin _ m k =>
          let y := scale2 m k
          let z := scale2 q.1 q.2
          decide (y.1 * z.2 < z.1 * y.2)
        | _ => false
      (if beyond then top s else packFloat f s q.1 q.2, false)
  | none =>
    let r := dtRange t
    let width := match t with
      | 0 => 4
      | 1 | 2 => 8
      | 3 => 16
      | _ => 32
    match v with
    | .nan => (0, true)
    | .inf s => (ofInt width (if s then r.1 else r.2), false)
    | .fin s n e =>
      let x := scale2 n e
      let q : Int := roundUnit x.1 x.2 0 w
      (ofInt width (max r.1 (min r.2 (if s then -q else q))), false)

/-- Whether converting to type `t` may round values of type `u` (R218). -/
def lossless (t u : Nat) : Bool :=
  decide (t = u) || (t = 9 && u ≠ 10) || (t = 10 && decide (u < 4))

/-- FP32 bits of a number that is on the FP32 grid. -/
def f32Bits (v : Fv) : Nat := (convert 9 none v).1
/-- The number of FP32 bits. -/
def ofF32 (v : Nat) : Fv := decodeElem 9 v
/-- The number of FP16 bits. -/
def ofF16 (v : Nat) : Fv := decodeElem 7 v

/-! ## Arithmetic -/

/-- Sign of a number. -/
def Fv.neg? : Fv → Bool
  | .nan => false
  | .inf s => s
  | .fin s _ _ => s

/-- Negation. -/
def Fv.negate : Fv → Fv
  | .nan => .nan
  | .inf s => .inf !s
  | .fin s n e => .fin (!s) n e

/-- Whether a number is zero. -/
def Fv.zero? : Fv → Bool
  | .fin _ 0 _ => true
  | _ => false

/-- Whether a number is NaN. -/
def Fv.nan? : Fv → Bool
  | .nan => true
  | _ => false

/-- +0. -/
def fzero : Fv := .fin false 0 0
/-- 1. -/
def fone : Fv := .fin false 1 0

/-- The exact sum; a zero sum of opposite signs is +0. -/
def exactAdd (a b : Fv) : Fv :=
  match a, b with
  | .nan, _ | _, .nan => .nan
  | .inf s, .inf t => if s = t then .inf s else .nan
  | .inf s, _ | _, .inf s => .inf s
  | .fin s n e, .fin t m k =>
    if n = 0 ∧ m = 0 then .fin (s && t) 0 0
    else
      let l := min e k
      let x : Int := (if s then -1 else 1) * (n * 2 ^ (e - l).toNat : Nat)
      let y : Int := (if t then -1 else 1) * (m * 2 ^ (k - l).toNat : Nat)
      .fin (decide (x + y < 0)) (x + y).natAbs l

/-- The exact product. -/
def exactMul (a b : Fv) : Fv :=
  match a, b with
  | .nan, _ | _, .nan => .nan
  | .inf s, y => if y.zero? then .nan else .inf (xor s y.neg?)
  | x, .inf t => if x.zero? then .nan else .inf (xor x.neg? t)
  | .fin s n e, .fin t m k => .fin (xor s t) (n * m) (e + k)

/-- The FP32 sum. -/
def fadd (a b : Fv) : Fv := (exactAdd a b).round fp32
/-- The FP32 difference. -/
def fsub (a b : Fv) : Fv := fadd a b.negate
/-- The FP32 product. -/
def fmul (a b : Fv) : Fv := (exactMul a b).round fp32
/-- a x b + c with one rounding. -/
def fma (a b c : Fv) : Fv := (exactAdd (exactMul a b) c).round fp32

/-- The quotient in a type. -/
def divIn (f : FFmt) (a b : Fv) : Fv :=
  match a, b with
  | .nan, _ | _, .nan => .nan
  | .inf _, .inf _ => .nan
  | .inf s, y => .inf (xor s y.neg?)
  | x, .inf t => .fin (xor x.neg? t) 0 0
  | .fin s n e, .fin t m k =>
    if m = 0 then (if n = 0 then .nan else .inf (xor s t))
    else
      let x := scale2 n e
      let y := scale2 m k
      roundTo f (xor s t) (x.1 * y.2) (x.2 * y.1)

/-- The FP32 quotient. -/
def fdiv (a b : Fv) : Fv := divIn fp32 a b

/-- Whether a < b, both no NaN; zeros are equal. -/
def Fv.lt (a b : Fv) : Bool :=
  match exactAdd a b.negate with
  | .fin s n _ => s && decide (n ≠ 0)
  | .inf s => s
  | .nan => match a, b with
    | .inf s, .inf t => s && !t
    | _, _ => false

/-- Maximum of IEEE 754-2019. -/
def fmax (a b : Fv) : Fv :=
  if a.nan? || b.nan? then .nan
  else if a.zero? && b.zero? then (if a.neg? then b else a)
  else if a.lt b then b else a

/-- Minimum of IEEE 754-2019. -/
def fmin (a b : Fv) : Fv :=
  if a.nan? || b.nan? then .nan
  else if a.zero? && b.zero? then (if a.neg? then a else b)
  else if b.lt a then b else a

/-- `v` limited to [0, 1]. -/
def clamp01 (v : Fv) : Fv := fmin (fmax v fzero) fone

/-- floor of a finite number. -/
def Fv.floor : Fv → Int
  | .fin s n e =>
    let x := scale2 n e
    if s then -((x.1 + x.2 - 1) / x.2 : Nat) else (x.1 / x.2 : Nat)
  | _ => 0

/-! ## Roots -/

/-- Integer square root by bits, from bit `k` down. -/
def isqrtFrom (n : Nat) : Nat → Nat → Nat
  | 0, r => r
  | k + 1, r => isqrtFrom n k (if (r + 2 ^ k) * (r + 2 ^ k) ≤ n then r + 2 ^ k else r)

/-- floor(sqrt n). -/
def isqrt (n : Nat) : Nat := isqrtFrom n (Nat.log2 n / 2 + 1) 0

/-- A root with one more bit that says whether it is inexact. -/
def stickyRoot (n : Nat) : Nat := let r := isqrt n; 2 * r + b2n (decide (r * r ≠ n))

/-- Square root, correctly rounded in FP32. -/
def fsqrt : Fv → Fv
  | .nan => .nan
  | .inf s => if s then .nan else .inf false
  | .fin s n e =>
    if n = 0 then .fin s 0 0
    else if s then .nan
    else
      let n := if e % 2 = 0 then n else 2 * n
      let e := e - e % 2
      (Fv.fin false (stickyRoot (n * 4 ^ 64)) (e / 2 - 65)).round fp32

/-- 1 / sqrt, correctly rounded. -/
def frsqrt : Fv → Fv
  | .nan => .nan
  | .inf s => if s then .nan else fzero
  | .fin s n e =>
    if n = 0 then .inf s
    else if s then .nan
    else
      let n := if e % 2 = 0 then n else 2 * n
      let e := e - e % 2
      let q := 4 ^ 128 / n
      let r := isqrt q
      (Fv.fin false (2 * r + b2n (decide (r * r * n ≠ 4 ^ 128))) (-(e / 2) - 129)).round fp32

/-! ## Transcendental functions

Values are computed to 320 fractional bits and rounded once; no FP32 result of these functions lies so near a rounding
boundary that this differs from the exact value, but for the exact cases, which the computation meets exactly. -/

/-- Fractional bits of the fixed-point values. -/
def fixP : Nat := 320

/-- A fixed-point number. -/
def fixOf (s : Bool) (n : Nat) (e : Int) : Int :=
  let x := scale2 n (e + fixP)
  (if s then -1 else 1) * (x.1 / x.2 : Nat)

/-- Terms t^(2i+1) / (2i+1), `alt` alternating their signs, of a fixed-point t: atanh or atan. -/
def oddSeries (alt : Bool) (t2 : Int) : Nat → Nat → Int → Int → Int
  | 0, _, _, acc => acc
  | k + 1, i, p, acc =>
    let term := p / (2 * i + 1 : Nat)
    oddSeries alt t2 k (i + 1) (p * t2 / 2 ^ fixP) (if alt && i % 2 = 1 then acc - term else acc + term)

/-- atanh or atan of a fixed-point number of magnitude at most 1 / 3. -/
def oddSum (alt : Bool) (t : Int) : Int := oddSeries alt (t * t / 2 ^ fixP) 110 0 t 0

/-- ln 2. -/
def fixLn2 : Int := 2 * oddSum false (2 ^ fixP / 3)
/-- pi. -/
def fixPi : Int := 16 * oddSum true (2 ^ fixP / 5) - 4 * oddSum true (2 ^ fixP / 239)

/-- Taylor terms of e^r. -/
def expSeries (r : Int) : Nat → Nat → Int → Int → Int
  | 0, _, _, acc => acc
  | k + 1, i, p, acc => expSeries r k (i + 1) (p * r / 2 ^ fixP / (i + 1 : Nat)) (acc + p)

/-- e^x of a fixed-point x as (s, k): s x 2^(k - 320). -/
def expFix (x : Int) : Nat × Int :=
  let k := x / fixLn2
  ((expSeries (x - k * fixLn2) 90 0 (2 ^ fixP) 0).toNat, k)

/-- Whether a finite magnitude exceeds 200. -/
def big200 (n : Nat) (e : Int) : Bool := let x := scale2 n e; decide (200 * x.2 < x.1)

/-- e^x. -/
def fexp : Fv → Fv
  | .nan => .nan
  | .inf s => if s then fzero else .inf false
  | .fin s n e =>
    if big200 n e then (if s then fzero else .inf false)
    else let y := expFix (fixOf s n e); (Fv.fin false y.1 (y.2 - fixP)).round fp32

/-- 1 / (1 + e^-x) of the exact x. -/
def fsigmoid : Fv → Fv
  | .nan => .nan
  | .inf s => if s then fzero else fone
  | .fin s n e =>
    if big200 n e then (if s then fzero else fone)
    else
      let y := expFix (fixOf true n e)
      let one := 2 ^ (fixP - y.2).toNat
      roundTo fp32 false (if s then y.1 else one) (one + y.1)

/-- Hyperbolic tangent. -/
def ftanh : Fv → Fv
  | .nan => .nan
  | .inf s => .fin s 1 0
  | .fin s n e =>
    if big200 n e then .fin s 1 0
    else if n = 0 ∨ floorLog n 1 + e < -60 then .fin s n e
    else
      let y := expFix (2 * fixOf true n e)
      let one := 2 ^ (fixP - y.2).toNat
      roundTo fp32 s (one - y.1) (one + y.1)

/-- Natural logarithm of a positive number, fixed-point. -/
def lnFix (n : Nat) (e : Int) : Int :=
  let k := Nat.log2 n
  let t : Int := (((n - 2 ^ k) * 2 ^ fixP / (n + 2 ^ k) : Nat) : Int)
  2 * oddSum false t + ((k : Int) + e) * fixLn2

/-- Natural logarithm. -/
def flog : Fv → Fv
  | .nan => .nan
  | .inf s => if s then .nan else .inf false
  | .fin s n e =>
    if n = 0 then .inf true
    else if s then .nan
    else
      let y := lnFix n e
      (Fv.fin (decide (y < 0)) y.natAbs (-fixP)).round fp32

/-- Taylor terms of sin (from r) or cos (from 1). -/
def trigSeries (r2 : Int) : Nat → Nat → Int → Int → Int
  | 0, _, _, acc => acc
  | k + 1, i, p, acc => trigSeries r2 k (i + 2) (-(p * r2 / 2 ^ fixP / ((i * (i + 1) : Nat) : Int))) (acc + p)

/-- sin of a fixed-point angle of small magnitude. -/
def sinFix (r : Int) : Int := trigSeries (r * r / 2 ^ fixP) 70 2 r 0
/-- cos of a fixed-point angle of small magnitude. -/
def cosFix (r : Int) : Int := trigSeries (r * r / 2 ^ fixP) 70 1 (2 ^ fixP) 0

/-- A fixed-point number rounded to a type. -/
def fixRound (f : FFmt) (v : Int) : Fv := (Fv.fin (decide (v < 0)) v.natAbs (-fixP)).round f

/-- cos and sin of `a` x 2^-16 degrees, exact at multiples of 90, fixed-point (R163). -/
def turnFix (a : Int) : Int × Int :=
  let q := a / 5898240
  let r := a % 5898240
  let t := r * fixPi / (180 * 65536)
  let c := cosFix t
  let n := sinFix t
  match (q % 4).toNat with
  | 0 => (c, n)
  | 1 => (-n, c)
  | 2 => (-c, -n)
  | _ => (n, -c)

/-- A composite of `VECTOR` lanes: SILU (Table 9-9). -/
def fsilu (x : Fv) : Fv := fmul x (fsigmoid x)

/-- The FP32 value nearest to a decimal fraction a / b. -/
def fconst (a b : Nat) : Fv := roundTo fp32 false a b

/-- GELU (R234). -/
def fgelu (x : Fv) : Fv :=
  let u := fmul (fmul x x) x
  let u := fma (fconst 44715 1000000) u x
  let c2 := (Fv.fin false (stickyRoot ((2 * 2 ^ (2 * fixP) * 2 ^ fixP / fixPi.toNat))) (-(fixP : Int) - 1)).round fp32
  let u := ftanh (fmul u c2)
  fmul (fmul (fconst 1 2) x) (fadd fone u)

/-- A lane function of one input (Table 9-9). -/
def lane1 (f : Nat) (x : Fv) : Fv :=
  match f with
  | 1 => fmax x fzero
  | 2 => fgelu x
  | 3 => fsilu x
  | 4 => fsigmoid x
  | 5 => ftanh x
  | 6 => fexp x
  | 7 => flog x
  | 8 => fdiv fone x
  | 9 => frsqrt x
  | 10 => fsqrt x
  | _ => x

/-- A lane function of two inputs (Table 9-9). -/
def lane2 (f : Nat) (a b : Fv) : Fv :=
  match f with
  | 16 => fadd a b
  | 17 => fsub a b
  | 18 => fmul a b
  | 19 => fmax a b
  | 20 => fmin a b
  | _ => fdiv a b

end Sys2Proof.Machine
end

