-- ==== Sys2Proof/Machine/Motion.lean ====
section
/-! DEFINITION. How `MOTION` and `SHAPE` take the bands of a picture in, and MOTION tile operations
(spec/05_motion_fields.md R131 to R144; spec/04 R105). -/

namespace Sys2Proof.Machine

/-! ## Collecting a picture -/

/-- Planes whose samples have not arrived: free values (log 16). -/
def freePlanes (key : List Nat) (p : Picture) : List (List Nat) :=
  p.planeList.map fun k => (List.range ((p.dims k).1 * (p.dims k).2)).map fun i => Config.unstated 18 (key ++ [k, i]) % 2 ^ p.depth k

/-- Places the band bytes `bs` in a picture; what a slot had no room for stays as it was. -/
def fillBand (p : Picture) (b : Band) (bs : List Byte) : Picture :=
  (p.planeList.foldl (fun (a : Picture × Nat) k =>
    let spots := bandSpots p b k
    let w := sampleBytes (p.depth k)
    (a.1.mapPlane k fun x y old => match spots.idxOf? (x, y) with
      | some i => if a.2 + (i + 1) * w ≤ bs.length then fieldLe bs (a.2 + i * w) w else old
      | none => old, a.2 + spots.length * w)) (p, 0)).1

/-- The record of the picture at the node that feeds the candidate's node, if that node stands on this board. -/
def feedPicture (s : State) (c : Cand) : Option DecodeJob :=
  s.decodes.find? fun d => d.job = c.j ∧ d.member = c.h ∧ d.node = (edgeOf s c.j (c.node s).inFirst).producer ∧ d.rank = c.rank

/-- The motion records that travel with a picture (spec/05 R136); those of a picture decoded elsewhere are free values (log 16). -/
def feedMotion (s : State) (c : Cand) (p : Picture) : List (List Int) :=
  match feedPicture s c with
  | some d => d.pic.motion
  | none => (List.range (ceilDiv p.width 16 * ceilDiv p.height 16)).map fun i =>
      (List.range 6).map fun k => sext 16 (Config.unstated 19 [c.j, c.rank, i, k])

/-- Bytes of the sample planes of band `b`. -/
def bandSize (p : Picture) (b : Band) : Nat := (p.planeList.map fun k => (bandSpots p b k).length * sampleBytes (p.depth k)).sum

/-- Band `i` of the candidate's picture in its full slot. -/
def bandFill (s : State) (c : Cand) (i : Nat) : Option (Nat × Fill) :=
  let e := (c.node s).inFirst
  (edgeAt s c.j c.h e).fills.find? fun f => f.2.rank = c.rank ∧ f.2.band = i ∧ slotFull s c.j c.h e f.1

/-- The area of hand-off `i` of picture `p`; one that another board decoded comes in bands of the whole picture. -/
def fillBandOf (p : Picture) (f : Fill) (i : Nat) : Band :=
  f.area.getD ⟨0, 0, 64 * i, p.width, min 64 (p.height - 64 * i)⟩

/-- Takes the next band of the candidate's picture into the node's record: the descriptor with the first, then its samples (spec/04
R105, R107). Answers the reader, the record and the slot. -/
def takeBand (s : State) (c : Cand) (d : DecodeJob) : Option (Rd × DecodeJob × Nat) :=
  let i := d.bands.length
  (bandFill s c i).map fun f =>
    let x := edgeOf s c.j (c.node s).inFirst
    let o := some (candOp s c false)
    let r0 := (Rd.start s).bytes o (c.home s) (slotAddr x f.1) (if i = 0 then min 32 (slotBytes x) else 0)
    let p := if i = 0 then
        let p := parsePicture r0.2
        let p := { p with planes := freePlanes [c.j, c.rank] p }
        { p with motion := feedMotion s c p }
      else d.pic
    let b := fillBandOf p f.2 i
    let head := if i = 0 then 32 else 0
    let r := r0.1.bytes o (c.home s) (slotAddr x f.1 + head) (min (bandSize p b) (slotBytes x - head))
    (r.1, { d with
      pic := fillBand p b r.2, bands := d.bands ++ [b]
      whole := if f.2.area.isSome then f.2.last else decide (p.height ≤ 64 * (i + 1)) }, f.1)

/-- Whether an earlier picture of the entry's stream has not passed the candidate's node. -/
def earlierOpen (s : State) (c : Cand) (e : Entry) : Bool :=
  (streamMates s e).any fun x => decide (x.rank < e.rank) && decide (x.st ≠ .done) && !x.sinks.contains c.n

/-- Bytes `bs` placed at byte `o` of the candidate's output slots; what does not fit is lost. -/
def putAt (s : State) (c : Cand) (o : Nat) (bs : List Byte) : List WByte :=
  c.outs.flatMap fun x =>
    let e := edgeOf s c.j (x.1 % 4096)
    wBytes (c.home s) (slotAddr e x.2 + o) (bs.take (slotBytes e - o))

/-- The candidate's work stands on record without an operation issued for this step. -/
def holdWork (s : State) (c : Cand) : State :=
  let s := if c.fresh then beginWork s c else s
  modNode s c.j c.h c.n fun t => { t with
    works := sortBy ((t.works.filter fun w => w.rank ≠ c.rank) ++ [(⟨c.rank, c.task, c.tile, c.tile + 1, c.ins, c.outs⟩ : Work)])
      fun (a b : Work) => decide (a.task ≤ b.task) }

/-! ## Vectors -/

/-- Scales a vector component by a / b (R136). -/
def mvScale (x a b : Int) : Int :=
  let p := x * a
  let q : Int := (p.natAbs + b.natAbs / 2) / b.natAbs
  let q := if p.sign * b.sign < 0 then -q else q
  max (-16384) (min 16384 q)

/-- Scales a vector. -/
def vecScale (v : Int × Int) (a b : Int) : Int × Int := (mvScale v.1 a b, mvScale v.2 a b)

/-- A search: granularity, rate weight, current and reference picture. -/
structure Field where
  g : Nat
  lambda : Nat
  cur : Picture
  ref : Picture

/-- The reference sample at quarter-sample position (x, y), bilinear (R138). -/
def refAt (f : Field) (x y : Int) : Nat :=
  let fx := (x % 4).toNat
  let fy := (y % 4).toNat
  let p (i j : Int) : Nat := f.ref.at 0 (x / 4 + i) (y / 4 + j)
  ((4 - fx) * (4 - fy) * p 0 0 + fx * (4 - fy) * p 1 0 + (4 - fx) * fy * p 0 1 + fx * fy * p 1 1 + 8) / 16

/-- Sum of absolute differences of block (bx, by) at vector `v` (R138). -/
def sad (f : Field) (bx by' : Nat) (v : Int × Int) : Nat :=
  ((List.range (f.g * f.g)).map fun (i : Nat) =>
    let x : Int := bx * f.g + i % f.g
    let y : Int := by' * f.g + i / f.g
    ((f.cur.at 0 x y : Int) - refAt f (4 * x + v.1) (4 * y + v.2)).natAbs).sum

/-- L(x) of R138. -/
def rateL (x : Int) : Nat := 2 * bitLen x.natAbs + 1

/-- J(v) of R138 with predictor `p`. -/
def mvCost (f : Field) (bx by' : Nat) (p v : Int × Int) : Nat :=
  16 * sad f bx by' v + f.lambda * (rateL (v.1 - p.1) + rateL (v.2 - p.2))

/-- The first vector of least cost; `start` ranks first. -/
def bestVec (cost : Int × Int → Nat) (start : Int × Int) (l : List (Int × Int)) : Int × Int :=
  (l.foldl (fun (a : (Int × Int) × Nat) v => let k := cost v; if k < a.2 then (v, k) else a) (start, cost start)).1

/-- Positions around `v` at step `u`, from -n to n, in raster order, without the centre. -/
def ringOf (v : Int × Int) (u : Int) (n : Nat) : List (Int × Int) :=
  (List.range ((2 * n + 1) * (2 * n + 1))).filterMap fun i =>
    let dx : Int := (i % (2 * n + 1) : Nat) - (n : Int)
    let dy : Int := (i / (2 * n + 1) : Nat) - (n : Int)
    if dx = 0 ∧ dy = 0 then none else some (v.1 + u * dx, v.2 + u * dy)

/-- Confidence from two sums (R140). -/
def confidence (f : Field) (s1 s2 : Nat) : Nat := 255 * (s2 - s1) / (s2 + s1 + f.g * f.g * 2 ^ (f.cur.depthL - 8))

/-- `SEARCH` on one block: vector and confidence (R139, R140). -/
def searchBlock (f : Field) (bx by' : Nat) (p : Int × Int) (cands : List (Int × Int)) : (Int × Int) × Nat :=
  let cost := mvCost f bx by' p
  let l := (cands.map fun v => (4 * roundAway v.1 4, 4 * roundAway v.2 4)).eraseDups
  let start := bestVec cost (l.headD (0, 0)) (l.drop 1)
  let around := ringOf start 4 4
  let whole := bestVec cost start around
  let half := bestVec cost whole (ringOf whole 2 1)
  let quarter := bestVec cost half (ringOf half 1 1)
  let far := (start :: around).filter fun v => 8 ≤ max (v.1 - whole.1).natAbs (v.2 - whole.2).natAbs
  match far.map (sad f bx by') with
  | [] => (quarter, 0)
  | x :: xs => (quarter, confidence f (sad f bx by' whole) (xs.foldl min x))

/-- `SEED` on one block (R139, R140). -/
def seedBlock (f : Field) (bx by' : Nat) (p : Int × Int) (cands : List (Int × Int)) : (Int × Int) × Nat :=
  let l := cands.eraseDups
  let v := bestVec (mvCost f bx by' p) (l.headD (0, 0)) (l.drop 1)
  match (l.filter (· ≠ v)).map (sad f bx by') with
  | [] => (v, 0)
  | x :: xs => (v, confidence f (sad f bx by' v) (xs.foldl min x))

/-- What the candidates of a field need: the node's block, the decoder's opcode, td, the previous field. -/
structure FieldCtx where
  f : Field
  fw : Nat
  cands : Nat
  search : Bool
  raw : Bool
  td : Int
  stored : Option MotionRef

/-- Vector and confidence of block (bx, by), the final vectors of earlier blocks being `done`; `top`: the first block row of a band
(Table 5-3, R137). The predictor uses its neighbours whatever `CANDS` enables (log 64). -/
def fieldBlock (k : FieldCtx) (done : List (Nat × (Int × Int))) (top : Bool) (bx by' : Nat) : (Int × Int) × Nat :=
  let at' (ok : Bool) (x y : Nat) : Option (Int × Int) := if ok then sget? done (y * k.fw + x) else none
  let near := [at' (decide (0 < bx)) (bx - 1) by', at' (!top) bx (by' - 1),
    at' (!top && decide (bx + 1 < k.fw)) (bx + 1) (by' - 1)].filterMap id
  let p := match near with
    | [a, b, c] => (median3 a.1 b.1 c.1, median3 a.2 b.2 c.2)
    | a :: _ => a
    | [] => (0, 0)
  let m := k.f.cur.motion.getD ((by' * k.f.g + k.f.g / 2) / 16 * ceilDiv k.f.cur.width 16 + (bx * k.f.g + k.f.g / 2) / 16) []
  let coded (i : Nat) : List (Int × Int) :=
    let tb := m.getD (3 * i + 2) 0
    if k.raw ∨ tb = 0 ∨ k.td = 0 then [] else [vecScale (m.getD (3 * i) 0, m.getD (3 * i + 1) 0) k.td tb]
  let temporal : List (Int × Int) := match k.stored with
    | some r => if r.present ∧ r.td ≠ 0 then [vecScale (r.vectors.getD (by' * k.fw + bx) (0, 0)) k.td r.td] else []
    | none => []
  let on (i : Nat) (l : List (Int × Int)) : List (Int × Int) := if bitN k.cands i then l else []
  let cands := (0, 0) :: on 0 (coded 0 ++ coded 1) ++ on 1 near ++ on 2 temporal
  if k.search then searchBlock k.f bx by' p cands else seedBlock k.f bx by' p cands

/-- The blocks of granularity `g` whose first sample lies in band `b`, in raster order. -/
def bandBlocksOf (g : Nat) (b : Band) : List (Nat × Nat) :=
  let x0 := ceilDiv b.x g
  let y0 := ceilDiv b.y g
  (List.range (ceilDiv (b.y + b.rows) g - y0)).flatMap fun j => (List.range (ceilDiv (b.x + b.w) g - x0)).map fun i => (x0 + i, y0 + j)

/-! ## The node -/

/-- ORDER difference; for AV1 its relative distance over the OrderHint bits (R135). -/
def orderDist (av1 : Bool) (bits' : Nat) (a b : Int) : Int :=
  if av1 ∧ 0 < bits' then let d := (a - b) % (2 ^ bits' : Int); if d < 2 ^ (bits' - 1) then d else d - 2 ^ bits' else a - b

/-- One vector as stored (R141). -/
def vecBytes (fmt : Nat) (v : Int × Int) : List Byte :=
  let one (x : Int) : List Byte :=
    leBytes 2 (if fmt = 0 then ofInt 16 x else (convert 7 none (.fin (decide (x < 0)) x.natAbs (-2))).1)
  one v.1 ++ one v.2

/-- The field header, padded to 64 bytes (Table 5-4). -/
def fieldHeader (p : Picture) (g fmt flags refNo : Nat) (td : Int) (fw fh : Nat) : List Byte :=
  leBytes 2 fw ++ leBytes 2 fh ++ leBytes 2 p.width ++ leBytes 2 p.height ++ leBytes 1 g ++ leBytes 1 fmt ++ leBytes 2 flags ++
  leBytes 4 p.frameNo ++ leBytes 4 refNo ++ leBytes 2 (ofInt 16 td) ++ leBytes 2 p.stream ++
  leBytes 4 (roundUp (4 * fw) 64) ++ leBytes 4 (roundUp fw 64) ++ List.replicate 32 (0 : Byte)

/-- The bytes of block (x, y) of a field record: vector and confidence, in the last column with the padding of their rows, which is
written 0 (R141, log 64). -/
def fieldBytes (fmt fw fh x y : Nat) (v : (Int × Int) × Nat) : List (Nat × List Byte) :=
  let vs := roundUp (4 * fw) 64
  let cs := roundUp fw 64
  let pad (n : Nat) : List Byte := if x + 1 = fw then List.replicate n 0 else []
  [(64 + y * vs + 4 * x, vecBytes fmt v.1 ++ pad (vs - 4 * fw)), (64 + fh * vs + y * cs + x, leBytes 1 v.2 ++ pad (cs - fw))]

/-- The contents of a motion-reference buffer (R132). -/
def mrefParts (p : Picture) (vs : List (Int × Int)) : List (Nat × List Byte) :=
  let us := refPlanes p [0]
  let o := mapBytes us.length + 384 * us.length
  storeParts us ++ [(o, vs.flatMap fun v => leBytes 2 (ofInt 16 v.1) ++ leBytes 2 (ofInt 16 v.2))]

/-- The reads of a motion reference for blocks `bl` of granularity `g`: the reference blocks around them, and their stored vectors
where `temporal` (R132, log 65). -/
def mrefReads (r : MotionRef) (g : Nat) (bl : List (Nat × Nat)) (temporal : Bool) (xl : Nat) : List BlockRead × List Nat :=
  let fw := ceilDiv r.pic.width g
  let n := refBlocks r.pic [0]
  let m := mapBytes n
  let gx := (refGrid r.pic 0).1
  let x0 := bl.foldl (fun a b => min a b.1) fw * g - 16
  let x1 := bl.foldl (fun a b => max a b.1) 0 * g + g + 16
  let y0 := bl.foldl (fun a b => min a b.2) 8192 * g - 16
  let y1 := bl.foldl (fun a b => max a b.2) 0 * g + g + 16
  (((List.range n).filter fun i =>
      let x := i % max 1 gx * 16
      let y := i / max 1 gx * 16
      decide (x < x1 ∧ x0 < x + 16 ∧ y < y1 ∧ y0 < y + 16)).map fun i =>
    ⟨r.buf, m, i, (refUnits r.pic.depthL (refSamples r.pic 0 i)).length / 128, xl⟩,
   if temporal then bl.flatMap fun b => (List.range 4).map fun k => r.buf + m + 384 * n + 4 * (b.2 * fw + b.1) + k else [])

/-- The stream of a `FRAME` entry, if its context is still open. -/
def fieldStream (s : State) (e : Entry) : Option Stream :=
  if e.opcode = 2 then (sget? s.streams e.body.stream.toNat).filter fun t => t.sq = e.sq && t.task = e.task else none

/-- The motion reference of a picture (R135). -/
def searchRef (t : Option Stream) (p : Picture) : Option MotionRef :=
  (t.filter fun t => !t.sampled).bind fun t => t.mref.filter fun r => decide (r.pic.width = p.width ∧ r.pic.height = p.height)

/-- What an operation knows of its field: the entry, its node's record, its number, the band it works on, the band's slot and the
operation's number in the band. -/
structure FieldOp where
  e : Entry
  d : DecodeJob
  num : Nat
  band : Nat
  slot : Nat
  part : Nat
  deriving DecidableEq, Repr

/-- Luma granularity of a `MOTION` node's block. -/
def granOf (q : List Byte) : Nat := if fieldLe q 0 1 = 0 then 4 else 8

/-- Tile operations of a band (R144). A `SAMPLE` has no blocks. -/
def bandTiles (q : List Byte) (e : Entry) (b : Band) : Nat :=
  if e.opcode = 2 then max 1 (ceilDiv (bandBlocksOf (granOf q) b).length 2048) else 1

/-- The blocks of operation `k`: up to 2,048 of its band (R144). -/
def fieldBlocks (s : State) (c : Cand) (k : FieldOp) : List (Nat × Nat) :=
  let q := c.block s
  if k.e.opcode = 2 then ((bandBlocksOf (granOf q) (k.d.bands.getD k.band ⟨0, 0, 0, 0, 0⟩)).drop (2048 * k.part)).take 2048 else []

/-- The decoder whose pictures a `MOTION` node searches. -/
def fieldDecoder (s : State) (c : Cand) : Node := nodeOf s c.j (edgeOf s c.j (c.node s).inFirst).producer

/-- Distance in ORDER from the motion reference, or 0 without one (R135). -/
def fieldDist (s : State) (c : Cand) (k : FieldOp) : Int :=
  match k.d.ref with
  | some r => orderDist (decide ((fieldDecoder s c).opcode = 4)) (((fieldStream s k.e).map (·.hintBits)).getD 0) k.d.pic.order r.pic.order
  | none => 0

/-- The vectors of a field with those of operation `k`, and the vector and confidence of each of its blocks (R135 to R140). -/
def fieldGot (s : State) (c : Cand) (k : FieldOp) : List (Nat × (Int × Int)) × List ((Nat × Nat) × (Int × Int) × Nat) :=
  let q := c.block s
  let g := granOf q
  let p := k.d.pic
  let b := k.d.bands.getD k.band ⟨0, 0, 0, 0, 0⟩
  let fw := if k.e.opcode = 2 then ceilDiv p.width g else 0
  (fieldBlocks s c k).foldl (fun (a : List (Nat × (Int × Int)) × List ((Nat × Nat) × (Int × Int) × Nat)) x =>
    let v := match k.d.ref with
      | some r =>
        if bitN p.pflags 4 then (((0, 0) : Int × Int), 0)
        else fieldBlock ⟨⟨g, fieldLe q 4 2, p, r.pic⟩, fw, fieldLe q 2 1, decide ((c.node s).opcode = 1),
          decide ((fieldDecoder s c).opcode = 6), fieldDist s c k, some r⟩ a.1 (decide (x.2 = ceilDiv b.y g)) x.1 x.2
      | none => ((0, 0), 0)
    (sput a.1 (x.2 * fw + x.1) v.1, a.2 ++ [(x, v)])) (k.d.field, [])

/-- What operation `k` writes: its blocks, the first of a record its header too (R141). -/
def fieldWrites (s : State) (c : Cand) (k : FieldOp) : List WByte :=
  let q := c.block s
  let g := granOf q
  let fmt := fieldLe q 1 1
  let p := k.d.pic
  let ref := k.d.ref
  let fw := if k.e.opcode = 2 then ceilDiv p.width g else 0
  let fh := if k.e.opcode = 2 then ceilDiv p.height g else 0
  let td := max (-32768) (min 32767 (fieldDist s c k))
  let flags := b2n ref.isSome + 2 * b2n (bitN p.pflags 4) + 4 * b2n (bitN p.pflags 0) + 8 * b2n (ref.any fun r => bitN r.pic.pflags 0)
  let head := fieldHeader p g fmt (if k.e.opcode = 2 then flags else 0) ((ref.map fun r => r.pic.frameNo).getD 0xFFFFFFFF) td fw fh
  (if k.num = 0 then putAt s c 0 head else []) ++
    (fieldGot s c k).2.flatMap fun b => (fieldBytes fmt fw fh b.1.1 b.1.2 b.2).flatMap fun y => putAt s c y.1 y.2

/-- The operations of a field with operation `k` among them. -/
def fieldPlan (k : FieldOp) : List PlanOp :=
  if k.num < k.d.plan.length then k.d.plan else k.d.plan ++ [⟨k.band, k.part, [k.slot], []⟩]

/-- Whether operation `k` is the last of its field (R144). -/
def fieldLast (s : State) (c : Cand) (k : FieldOp) : Bool :=
  k.d.whole && (ndel k.d.left k.num).isEmpty && decide ((fieldPlan k).length = (k.d.bands.map (bandTiles (c.block s) k.e)).sum)

/-- The motion reference that the field of which `k` is the last operation makes of its picture (R134, R135). -/
def fieldNext (s : State) (c : Cand) (k : FieldOp) : Option MotionRef :=
  let p := k.d.pic
  let g := granOf (c.block s)
  match fieldStream s k.e with
  | some t =>
    if fieldLast s c k = false ∨ bitN p.pflags 4 ∨ 10 < p.depthL then none
    else ((t.mref.map (·.buf)).or (gotBuffers s (.motion k.e.body.stream.toNat)).head?).map fun buf =>
      ⟨buf, { p with motion := [] }, (List.range (ceilDiv p.width g * ceilDiv p.height g)).map fun i => sgetD (fieldGot s c k).1 i (0, 0),
       max (-32768) (min 32767 (fieldDist s c k)), k.d.ref.isSome⟩
  | none => none

/-- The reads of the motion reference that operation `k` makes. -/
def fieldReads (s : State) (c : Cand) (k : FieldOp) : List BlockRead × List Nat :=
  let q := c.block s
  match k.d.ref with
  | some r => if bitN k.d.pic.pflags 4 then ([], [])
    else mrefReads r (granOf q) (fieldBlocks s c k) (bitN (fieldLe q 2 1) 2 && r.present) (sqXlat s k.e.sq)
  | none => ([], [])

/-- One MOTION operation: its blocks are searched against the motion reference and written; the first writes the header, and the
last makes the motion reference of the next picture (R134 to R144). -/
def fieldOp (s : State) (c : Cand) (k : FieldOp) : State :=
  let ends := decide (k.part + 1 = bandTiles (c.block s) k.e (k.d.bands.getD k.band ⟨0, 0, 0, 0, 0⟩))
  let next := fieldNext s c k
  let n := s.nextOp
  let xl := sqXlat s k.e.sq
  let after := match next with
    | some m => tileUp (storeReqs m.buf xl c.p n false (mrefParts m.pic m.vectors))
    | none => []
  let reads := fieldReads s c k
  let tiles := tileUp (blockReqs reads.1 c.p n ++ coverReqs reads.2 xl c.p 0 0 n)
  let ws := fieldWrites s c k
  let s' := putPicture s c { k.d with field := (fieldGot s c k).1, next := next, plan := fieldPlan k, left := ndel k.d.left k.num }
  let s' := issueWrites s' c (if fieldLast s c k then c.tile + 1 else c.tile + 2) ws [] fun o => { o with
    tile := k.num, awaiting := b2n (tiles ≠ [] : Bool), after := after
    ins := (o.ins ++ if ends then [(c.h * 4096 + (c.node s).inFirst, k.slot)] else []).dedup }
  startMove s' c.j (podAt s c.p).member c.n c.rank tiles (.fetch n) reads.1

/-- Whether the field of every earlier picture of the stream is verified and stored (R134). -/
def fieldsBefore (s : State) (c : Cand) (e : Entry) : Bool :=
  e.opcode ≠ 2 || (streamMates s e).all fun x => decide (e.rank ≤ x.rank) || pictureReady s c x

/-- Whether the field of picture `p` needs a buffer that the stream has not got (R132). -/
def needsMref (s : State) (e : Entry) (p : Picture) : Bool :=
  (fieldStream s e).any (fun t => t.mref.isNone) && !bitN p.pflags 4 && decide (p.depthL ≤ 10) &&
    (gotBuffers s (.motion e.body.stream.toNat)).isEmpty

/-- A MOTION tile operation: up to 2,048 blocks of one band, on span member k mod S for band k (R144): one that a save put back, the
next of the band under way, or the first of the next band. The field's first waits for the motion reference of the picture before,
and for the stream's buffer. -/
def motionOp (s : State) (c : Cand) : Option State :=
  match c.entry s with
  | none => none
  | some e =>
    let q := c.block s
    let d := (pictureAt s c).getD (collectJob c)
    let n := max 1 (jobP s c.j)
    let mine (i : Nat) : Bool := ((podAt s c.p).member + n - c.h) % n = i % min n (spanWidth (c.node s))
    let ops := (d.bands.map (bandTiles q e)).sum
    match d.left.head?.bind fun i => (d.plan[i]?).map fun x => (i, x) with
    | some (i, x) => if mine x.pic then some (fieldOp s c ⟨e, d, i, x.pic, x.starts.headD 0, x.part⟩) else none
    | none =>
      if d.plan.length < ops then
        match d.plan.getLast? with
        | some x => if mine x.pic then some (fieldOp s c ⟨e, d, d.plan.length, x.pic, x.starts.headD 0, x.part + 1⟩) else none
        | none => none
      else if mine d.bands.length = false ∨ (c.fresh ∧ fieldsBefore s c e = false) then none
      else match takeBand s c d with
        | none => none
        | some (r, d', k) =>
          if r.hit then none
          else if r.pois then some (consume r.st c [] r.lines)
          else if c.fresh ∧ needsMref s e d'.pic then askBuffers s (fieldLe q 3 1) 1 (.motion e.body.stream.toNat)
          else
            let d' := if c.fresh then { d' with ref := searchRef (fieldStream s e) d'.pic } else d'
            some (fieldOp r.st c ⟨e, d', d.plan.length, d.bands.length, k, 0⟩)

/-- The meaning of MOTION_TILE_OP. -/
def execMotionTileOp (p : Fin 100) (s : State) : Host.Outcome State Fault Refusal := .next (runStation s p.val 2 motionOp)

end Sys2Proof.Machine
end

