-- ==== Sys2Proof/Machine/Shape.lean ====
section
/-! DEFINITION. SHAPE tile operations: parameter records and draws, crop, pre-reduction, polyphase resize, colour,
jitter, geometry and the output record (spec/06_pixel_shaping.md R147 to R167; spec/08 R200). -/

namespace Sys2Proof.Machine

/-! ## Parameter records -/

/-- A parameter record (Table 6-3); gains and biases are FP16 bits. -/
structure ShapeRec where
  cropX : Int
  cropY : Int
  cropW : Nat
  cropH : Nat
  outW : Nat
  outH : Nat
  angle : Int
  gflags : Nat
  gain : List Nat
  bias : List Nat
  deriving DecidableEq, Repr

/-- The 32 bytes of a record with `ESRC` and `EFLAGS`. -/
def shapeEcho (r : ShapeRec) (esrc eflags : Nat) : List Byte :=
  leBytes 2 (ofInt 16 r.cropX) ++ leBytes 2 (ofInt 16 r.cropY) ++ leBytes 2 r.cropW ++ leBytes 2 r.cropH ++ leBytes 2 r.outW ++
  leBytes 2 r.outH ++ leBytes 4 (ofInt 32 r.angle) ++ leBytes 1 r.gflags ++ leBytes 1 esrc ++ leBytes 2 eflags ++
  r.gain.flatMap (leBytes 2) ++ r.bias.flatMap (leBytes 2)

/-- A host record. -/
def parseShape (b : List Byte) : ShapeRec where
  cropX := sext 16 (fieldLe b 0 2)
  cropY := sext 16 (fieldLe b 2 2)
  cropW := fieldLe b 4 2
  cropH := fieldLe b 6 2
  outW := fieldLe b 8 2
  outH := fieldLe b 10 2
  angle := sext 32 (fieldLe b 12 4)
  gflags := fieldLe b 16 1
  gain := (List.range 3).map fun k => fieldLe b (0x14 + 2 * k) 2
  bias := (List.range 3).map fun k => fieldLe b (0x1A + 2 * k) 2

/-- Defaults of Table 6-3 under node block `q` for picture `p`. -/
def defaultShape (q : List Byte) (p : Picture) : ShapeRec :=
  ⟨0, 0, p.width, p.height, fieldLe q 4 2, fieldLe q 6 2, 0, 0, [0x3C00, 0x3C00, 0x3C00], [0, 0, 0]⟩

/-- Whether an output size of a record is legal (Table 6-3). -/
def outLegal (w h : Nat) : Bool :=
  (w = 0 && h = 0) || decide (8 ≤ w ∧ w ≤ 4096 ∧ 8 ≤ h ∧ h ≤ 4096)

/-- Whether FP16 bits are finite. -/
def finite16 (v : Nat) : Bool := bits v 14 10 ≠ 31

/-- Whether the fields of the groups of a host record that are taken lie inside Table 6-3 (R150). -/
def hostLegal (r : ShapeRec) (g : Nat) : Bool :=
  let on (k : Nat) (ok : Bool) : Bool := !bitN g k || ok
  on 0 (decide (1 ≤ r.cropW ∧ r.cropW ≤ 8192 ∧ 1 ≤ r.cropH ∧ r.cropH ≤ 8192)) && on 1 (outLegal r.outW r.outH) &&
    on 2 (decide (-11796480 ≤ r.angle ∧ r.angle ≤ 11796480)) && r.gflags < 16 && on 5 (r.gain.all finite16) &&
    on 6 (r.bias.all finite16)

/-- Whether a crop is legal for a picture (R153). -/
def cropLegal (p : Picture) (r : ShapeRec) : Bool :=
  let q := fmtSub p.format 1
  r.cropX % q.1 = 0 && r.cropW % q.1 = 0 && r.cropY % q.2 = 0 && r.cropH % q.2 = 0

/-- The groups that a node disables (R149). -/
def groupOff (q : List Byte) (k : Nat) : Bool :=
  match k with
  | 2 => fieldLe q 0x38 4 = 0 && fieldLe q 0x3C 4 = 0
  | 3 => fieldLe q 0x34 2 = 0 && fieldLe q 0x36 2 = 0
  | 4 => !bitN (fieldLe q 0x0B 1) 0
  | 5 => fieldLe q 0x40 2 = 0x3C00 && fieldLe q 0x42 2 = 0x3C00
  | 6 => (ofF16 (fieldLe q 0x44 2)).zero? && (ofF16 (fieldLe q 0x46 2)).zero?
  | _ => false

/-- u of a drawn word (R152). -/
def drawU (w : Nat) : Fv := .fin false (w / 256) (-24)

/-- lo + (hi - lo) x u in FP32 (Table 6-4). -/
def drawIn (lo hi : Fv) (w : Nat) : Fv := fadd lo (fmul (fsub hi lo) (drawU w))

/-- round(v) = floor(v + 0.5) (R153). -/
def roundHalf (v : Fv) : Int := (exactAdd v (.fin false 1 (-1))).floor

/-- The drawn crop of picture `p` (R153), `w` giving the words of elements 0 to 3. -/
def drawnCrop (q : List Byte) (p : Picture) (w : Nat → Nat) : Int × Int × Nat × Nat :=
  let sub := fmtSub p.format 1
  let a := drawIn (ofF16 (fieldLe q 0x2C 2)) (ofF16 (fieldLe q 0x2E 2)) (w 0)
  let r := drawIn (ofF16 (fieldLe q 0x30 2)) (ofF16 (fieldLe q 0x32 2)) (w 1)
  let area := fmul ((ofZ (p.width * p.height : Nat)).round fp32) a
  let cw := (roundHalf (fsqrt (fmul area r))).toNat
  let ch := (roundHalf (fsqrt (fdiv area r))).toNat
  let fit (c lim s : Nat) : Nat := let m := min c (lim - lim % s); max s (m - m % s)
  let cw := fit cw p.width sub.1
  let ch := fit ch p.height sub.2
  let x := w 2 / 256 * (p.width - cw + 1) / 2 ^ 24
  let y := w 3 / 256 * (p.height - ch + 1) / 2 ^ 24
  ((x - x % sub.1 : Nat), (y - y % sub.2 : Nat), cw, ch)

/-- A drawn flip with probability field `f` (Table 6-4). -/
def drawFlip (f w : Nat) : Bool := f = 0xFFFF || decide (w / 2 ^ 16 < f)

/-- The record drawn under block `q` (R152); groups that the node disables keep their defaults. -/
def drawnShape (q : List Byte) (p : Picture) (w : Nat → Nat) : ShapeRec :=
  let d := defaultShape q p
  let c := drawnCrop q p w
  let amin := sext 32 (fieldLe q 0x38 4)
  let amax := sext 32 (fieldLe q 0x3C 4)
  let half (lo hi k : Nat) : Nat := (convert 7 none (drawIn (ofF16 (fieldLe q lo 2)) (ofF16 (fieldLe q hi 2)) (w k))).1
  let flip (o k : Nat) : Bool := fieldLe q o 2 ≠ 0 && drawFlip (fieldLe q o 2) (w k)
  { d with
    cropX := c.1, cropY := c.2.1, cropW := c.2.2.1, cropH := c.2.2.2
    angle := if groupOff q 2 then 0 else amin + (w 7 / 256 : Nat) * (amax - amin + 1) / 2 ^ 24
    gflags := (if groupOff q 3 then 0 else b2n (flip 0x34 4) + 2 * b2n (flip 0x36 5)) + (if groupOff q 4 then 0 else 4 * (w 6 / 2 ^ 30))
    gain := if groupOff q 5 then d.gain else (List.range 3).map fun k => half 0x40 0x42 (8 + k)
    bias := if groupOff q 6 then d.bias else (List.range 3).map fun k => half 0x44 0x46 (11 + k) }

/-- Words that the draws of the groups outside mask `g` consume (R152). -/
def drawCount (q : List Byte) (g : Nat) : Nat :=
  let on (k n : Nat) : Nat := if bitN g k || groupOff q k then 0 else n
  on 0 4 + on 2 1 + on 3 (b2n (fieldLe q 0x34 2 ≠ 0) + b2n (fieldLe q 0x36 2 ≠ 0)) + on 4 1 + on 5 3 + on 6 3

/-- The record whose groups in mask `g` come from `a` and the others from `b`. -/
def pickGroups (a b : ShapeRec) (g : Nat) : ShapeRec :=
  let r := if bitN g 0 then a else b
  let o := if bitN g 1 then a else b
  { cropX := r.cropX, cropY := r.cropY, cropW := r.cropW, cropH := r.cropH, outW := o.outW, outH := o.outH
    angle := if bitN g 2 then a.angle else b.angle
    gflags := (if bitN g 3 then a.gflags else b.gflags) % 4 + (if bitN g 4 then a.gflags else b.gflags) / 4 % 4 * 4
    gain := if bitN g 5 then a.gain else b.gain, bias := if bitN g 6 then a.bias else b.bias }

/-- Groups taken from the host (R149). -/
def hostGroups (q aug : List Byte) : Nat :=
  match fieldLe q 3 1 with
  | 1 => 127
  | 3 => fieldLe aug 0x12 2 % 128
  | _ => 0

/-- Horizontal flip and clockwise quarter turns of the JPEG orientation (R162). -/
def orientTurns (q : List Byte) (p : Picture) : Bool × Nat :=
  if bitN (fieldLe q 0x0B 1) 1 then
    [(false, 0), (true, 0), (false, 2), (true, 2), (true, 3), (false, 1), (true, 1), (false, 3)].getD (p.range / 2 % 8) (false, 0)
  else (false, 0)

/-- Whether stage 7 turns the picture an odd number of quarter turns. -/
def oddTurn (q : List Byte) (p : Picture) (r : ShapeRec) : Bool := (r.gflags / 4 + (orientTurns q p).2) % 2 = 1

/-- The output size that a token budget gives (R200): `b` tokens, patches of `p`. -/
def budgetSize (b p : Nat) (noUp odd : Bool) (r : ShapeRec) : Nat × Nat :=
  let cw := if odd then r.cropH else r.cropW
  let ch := if odd then r.cropW else r.cropH
  let gmax := 4096 / p
  let gy := isqrt (b * ch / cw)
  let gy := if noUp then min gy (ch / p) else gy
  let gy := max 1 (min gmax gy)
  let gx := (gy * cw + ch / 2) / ch
  let gx := if noUp then min gx (cw / p) else gx
  let gx := max 1 (min (min gmax (b / gy)) gx)
  (gx * p, gy * p)

/-- The `TOKENISE` block with a budget that a `SHAPE` node feeds (R200). -/
def budgetBlock (s : State) (c : Cand) : Option (List Byte) :=
  (outEdges (c.node s)).findSome? fun k =>
    let x := nodeOf s c.j (edgeOf s c.j k).consumer
    let b := nodeBlock (c.route s) x
    if x.kind = 4 ∧ x.opcode = 0x10 ∧ fieldLe b 4 2 ≠ 0 then some b else none

/-- The resolved record of a sample with its `EFLAGS`, or a refusal (R149, R150, R200). -/
def resolveShape (s : State) (c : Cand) (e : Entry) (p : Picture) : Except Nat (ShapeRec × Nat) :=
  let q := c.block s
  let aug := fieldLe q 3 1
  let g := hostGroups q e.aug
  let host := parseShape e.aug
  let word (i : Nat) : Nat := (keyedWord s.rng.table (job s c.j).seed e.body c.n i).toNat
  if (aug = 1 ∨ aug = 3) ∧ e.body.augAddr = 0 then .error 0x0922
  else if (aug = 1 ∨ aug = 3) ∧ hostLegal host g = false then .error 0x0920
  else if bitN g 0 ∧ cropLegal p host = false then .error 0x0921
  else
    let d := defaultShape q p
    let base := if aug = 2 ∨ aug = 3 then drawnShape q p word else d
    let r := pickGroups host base g
    let r := if r.outW = 0 then { r with outW := d.outW, outH := d.outH } else r
    match budgetBlock s c with
    | some b =>
      let n := budgetSize (fieldLe b 4 2) (fieldLe b 0 1) (bitN (fieldLe b 2 1) 0) (oddTurn q p r) r
      .ok ({ r with outW := n.1, outH := n.2 }, g + 128)
    | none => .ok (r, g)

/-! ## Crop, pre-reduction, resize -/

/-- The window of plane `k`: origin and extent in its samples (R154); extents that subsampling does not divide round down (log
67). -/
def planeWindow (p : Picture) (r : ShapeRec) (k : Nat) : Int × Int × Nat × Nat :=
  let q := fmtSub p.format k
  (r.cropX / q.1, r.cropY / q.2, r.cropW / q.1, r.cropH / q.2)

/-- Black of plane `k` (R154). -/
def blackOf (p : Picture) (full : Bool) (k : Nat) : Nat :=
  let d := p.depth k
  if k = 0 ∨ bitN p.format 2 then (if full then 0 else 16 * 2 ^ (d - 8)) else 2 ^ (d - 1)

/-- Sample (x, y) of the window of plane `k`, clamped to the window; black outside the picture (R154). -/
def windowAt (p : Picture) (full : Bool) (r : ShapeRec) (k : Nat) (x y : Int) : Nat :=
  let w := planeWindow p r k
  let d := p.dims k
  let ax := w.1 + max 0 (min x (w.2.2.1 - 1 : Int))
  let ay := w.2.1 + max 0 (min y (w.2.2.2 - 1 : Int))
  if 0 ≤ ax ∧ ax < d.1 ∧ 0 ≤ ay ∧ ay < d.2 then p.at k ax ay else blackOf p full k

/-- The pre-reduction factor of extent `e` for target `t` (R155). -/
def reduceK (e t : Nat) : Nat := ((List.range 9).map (2 ^ ·)).find? (fun k => e ≤ 4 * k * t) |>.getD 256

/-- Reduced sample (x, y), clamped to the reduced plane (R155). -/
def reducedAt (f : Int → Int → Nat) (ex ey kx ky : Nat) (x y : Int) : Nat :=
  let x := max 0 (min x (ceilDiv ex kx - 1 : Int))
  let y := max 0 (min y (ceilDiv ey ky - 1 : Int))
  if kx * ky = 1 then f x y
  else
    let sum := ((List.range (kx * ky)).map fun i => f (x * kx + (i % kx : Nat)) (y * ky + (i / kx : Nat))).sum
    (sum + kx * ky / 2) / (kx * ky)

/-- P of R156: window luma extent, target, subsampling, twice the siting offset, factor, output index. -/
def phasePos (e t sp h2 k x : Nat) : Int :=
  (65536 * (((2 * x + 1) * e : Nat) - ((1 + h2) * t : Nat) - ((k - 1) * sp * t : Nat) : Int)) / (2 * sp * k * t : Nat)

/-- First tap position and phase of R156. -/
def phaseOf (p : Int) : Int × Nat :=
  let i := p / 65536
  let f := ((p % 65536).toNat + 512) / 1024
  if f = 64 then (i + 1, 0) else (i, f)

/-! ### Kernels, in binary64 -/

/-- Sum in binary64. -/
def dadd (a b : Fv) : Fv := (exactAdd a b).round fp64
/-- Product in binary64. -/
def dmul (a b : Fv) : Fv := (exactMul a b).round fp64
/-- Quotient in binary64. -/
def ddiv (a b : Fv) : Fv := divIn fp64 a b
/-- Magnitude. -/
def Fv.abs : Fv → Fv
  | .fin _ n e => .fin false n e
  | .inf _ => .inf false
  | .nan => .nan
/-- sin of a binary64 value, correctly rounded. -/
def dsin : Fv → Fv
  | .fin s n e => if n = 0 then .fin s 0 0 else fixRound fp64 (sinFix (fixOf s n e))
  | _ => .nan
/-- pi in binary64. -/
def dpi : Fv := fixRound fp64 fixPi

/-- K(t) of Table 6-6; `chroma` selects Lanczos-2. -/
def kernelK (kernel : Nat) (chroma : Bool) (t : Fv) : Fv :=
  let a := t.abs
  let lt (v : Nat) : Bool := a.lt (ofZ v)
  let c (m : Int) (e : Int) : Fv := .fin (decide (m < 0)) m.natAbs e
  match kernel with
  | 0 => if lt 1 then dadd fone a.negate else fzero
  | 1 =>
    let a2 := dmul a a
    let a3 := dmul a2 a
    if lt 1 then dadd (dadd (dmul (c 3 (-1)) a3) (dmul (c (-5) (-1)) a2)) fone
    else if lt 2 then dadd (dadd (dadd (dmul (c (-1) (-1)) a3) (dmul (c 5 (-1)) a2)) (dmul (c (-4) 0) a)) (c 2 0)
    else fzero
  | _ =>
    let n := if chroma then 2 else 3
    if t.zero? then fone
    else if lt n then
      let x := dmul dpi t
      ddiv (dmul (dmul (ofZ n) (dsin x)) (dsin (ddiv x (ofZ n)))) (dmul (dmul dpi dpi) (dmul t t))
    else fzero

/-- The stretch s of an axis (R157, Table 6-6). -/
def stretch (kernel : Nat) (chroma : Bool) (e k t : Nat) : Fv :=
  let top : Fv := match kernel, chroma with
    | 0, false => ofZ 4
    | 0, true => ofZ 2
    | 1, false => ofZ 2
    | 2, false => ddiv (ofZ 4) (ofZ 3)
    | 3, false => ofZ 7
    | 3, true => ofZ 3
    | _, _ => fone
  fmin (fmax (ddiv (ofZ e) (ofZ (k * t : Nat))) fone) top

/-- The raw weight at distance `t` (R157). -/
def rawWeight (kernel : Nat) (chroma : Bool) (s t : Fv) : Fv :=
  if kernel = 3 then
    let h : Fv := .fin false 1 (-1)
    let r := dmul s h
    fmax fzero (dadd (fmin (dadd t h) r) (fmax (dadd t h.negate) r.negate).negate)
  else kernelK kernel chroma (ddiv t s)

/-- The coefficients of one phase (R157). -/
def tapCoeffs (kernel : Nat) (chroma : Bool) (s : Fv) (phi : Nat) : List Int :=
  let n := if chroma then 4 else 8
  let ws := (List.range n).map fun (i : Nat) =>
    let t : Int := 64 * ((i : Int) - (n / 2 - 1 : Nat)) - phi
    rawWeight kernel chroma s (.fin (decide (t < 0)) t.natAbs (-6))
  let sum := ws.foldl dadd fzero
  let cs := ws.map fun w => (dadd (ddiv (dmul (ofZ 4096) w) sum) (.fin false 1 (-1))).floor
  let miss := 4096 - cs.sum
  let big := cs.foldl max (cs.headD 0)
  cs.zipIdx.map fun c => if miss ≠ 0 ∧ some c.2 = cs.idxOf? big then c.1 + miss else c.1

/-- What resizing a plane needs on one axis. -/
structure Axis where
  luma : Nat
  ext : Nat
  target : Nat
  sp : Nat
  h2 : Nat
  k : Nat
  s : Fv

/-- The taps of output index `x`: reduced positions with coefficients (R156). -/
def axisTaps (kernel : Nat) (chroma : Bool) (a : Axis) (x : Nat) : List (Int × Int) :=
  let p := phaseOf (phasePos a.luma a.target a.sp a.h2 a.k x)
  let n : Nat := if chroma then 4 else 8
  (tapCoeffs kernel chroma a.s p.2).zipIdx.map fun c => (p.1 - (n / 2 : Nat) + 1 + c.2, c.1)

/-- Plane `k` resized onto the luma grid of the target `tw` x `th`, in raster order (R156 to R158). `soft`: AV1 or JPEG
chroma siting. Only `FORMAT`[2] makes planes 1 and 2 planes of an RGB picture (log 67). -/
def resizePlane (p : Picture) (full soft : Bool) (kernel : Nat) (r : ShapeRec) (tw th k : Nat) : List Nat :=
  let q := fmtSub p.format k
  let chroma := decide (0 < k) && !bitN p.format 2
  let w := planeWindow p r k
  let axis (luma ext target sp h2 : Nat) : Axis :=
    let kk := reduceK ext target
    ⟨luma, ext, target, sp, h2, kk, stretch kernel chroma ext kk target⟩
  let ax := axis r.cropW w.2.2.1 tw q.1 (b2n (soft && decide (q.1 = 2)))
  let ay := axis r.cropH w.2.2.2 th q.2 (b2n (decide (q.2 = 2)))
  let at' := reducedAt (windowAt p full r k) ax.ext ay.ext ax.k ay.k
  let tx := (List.range tw).map (axisTaps kernel chroma ax)
  let ty := (List.range th).map (axisTaps kernel chroma ay)
  ty.flatMap fun ys => tx.map fun xs =>
    let v := (ys.map fun y => y.2 * (xs.map fun x => x.2 * (at' x.1 y.1 : Int)).sum).sum
    (max 0 (min (2 ^ p.depth k - 1 : Int) ((v + 2 ^ 23) / 2 ^ 24))).toNat

/-! ## Colour and geometry -/

/-- An image of channels: its size and the channel values at (x, y). -/
structure Img where
  w : Nat
  h : Nat
  get : Nat → Nat → List Fv

/-- Normalisation constants o and m of a plane (Table 6-9). -/
def normConst (full chroma : Bool) (d : Nat) : Fv × Fv :=
  let one (v : Nat) : Fv := fconst 1 v
  match full, chroma with
  | false, false => (ofZ (16 * 2 ^ (d - 8) : Nat), one (219 * 2 ^ (d - 8)))
  | false, true => (ofZ (2 ^ (d - 1) : Nat), one (224 * 2 ^ (d - 8)))
  | true, false => (fzero, one (2 ^ d - 1))
  | true, true => (ofZ (2 ^ (d - 1) : Nat), one (2 ^ d - 1))

/-- (S - o) x m in FP32. -/
def normal (k : Fv × Fv) (v : Nat) : Fv := fmul (fsub (ofZ v) k.1) k.2

/-- The matrix code in force: 0, 1, 5 (BT.601) or 9 (R160). -/
def matrixOf (q : List Byte) (p : Picture) : Nat :=
  let m := if fieldLe q 9 1 ≠ 0 then fieldLe q 9 1 else p.matrix
  match m with
  | 0 => 0
  | 1 => 1
  | 5 | 6 => 5
  | 9 => 9
  | _ => if p.height ≤ 576 then 5 else 1

/-- Kr and Kb in units of 10^-4 (Table 6-10). -/
def matrixK (m : Nat) : Nat × Nat :=
  match m with
  | 1 => (2126, 722)
  | 9 => (2627, 593)
  | _ => (2990, 1140)

/-- Whether the samples are read in full range (R160). -/
def fullRange (q : List Byte) (p : Picture) : Bool :=
  match fieldLe q 10 1 with
  | 0 => bitN p.range 0
  | 1 => false
  | _ => true

/-- The channels of one pixel from its plane samples (R159, R160). -/
def pixelColour (q : List Byte) (p : Picture) (vs : List Nat) : List Fv :=
  let full := fullRange q p
  let d (k : Nat) : Nat := p.depth k
  let v (k : Nat) : Nat := vs.getD k 0
  let y (k : Nat) : Fv := normal (normConst full false (d k)) (v k)
  let mono := fmtPlanes p.format = 1
  let m := matrixOf q p
  let rgb : List Fv := if bitN p.format 2 then [y 0, y 1, y 2] else [y 2, y 0, y 1]
  let isRgb := !mono && (bitN p.format 2 || m = 0)
  let out : List Fv := match fieldLe q 1 1 with
    | 0 => p.planeList.map fun k => fmul (ofZ (v k)) (fconst 1 (2 ^ d k - 1))
    | 1 =>
      if mono then [y 0, y 0, y 0]
      else if isRgb then rgb
      else
        let cb := normal (normConst full true (d 1)) (v 1)
        let cr := normal (normConst full true (d 2)) (v 2)
        let k := matrixK m
        let kg := 10000 - k.1 - k.2
        let vr := fconst (2 * (10000 - k.1)) 10000
        let ub := fconst (2 * (10000 - k.2)) 10000
        let ug := fconst (2 * k.2 * (10000 - k.2)) (10000 * kg)
        let vg := fconst (2 * k.1 * (10000 - k.1)) (10000 * kg)
        [fadd (y 0) (fmul vr cr), fsub (fsub (y 0) (fmul ug cb)) (fmul vg cr), fadd (y 0) (fmul ub cb)]
    | _ =>
      if isRgb then
        [fadd (fadd (fmul (fconst 2126 10000) (rgb.getD 0 fzero)) (fmul (fconst 7152 10000) (rgb.getD 1 fzero)))
          (fmul (fconst 722 10000) (rgb.getD 2 fzero))]
      else [y 0]
  out.map clamp01

/-- Gain and bias (R161). -/
def jitter (r : ShapeRec) (l : List Fv) : List Fv :=
  l.zipIdx.map fun c => clamp01 (fadd (fmul (ofF16 (r.gain.getD c.2 0)) c.1) (ofF16 (r.bias.getD c.2 0)))

/-- One clockwise quarter turn (Table 6-11). -/
def Img.turn (i : Img) : Img := ⟨i.h, i.w, fun x y => i.get y (i.h - 1 - x)⟩
/-- Horizontal flip. -/
def Img.hflip (i : Img) : Img := { i with get := fun x y => i.get (i.w - 1 - x) y }
/-- Vertical flip. -/
def Img.vflip (i : Img) : Img := { i with get := fun x y => i.get x (i.h - 1 - y) }
/-- `n` clockwise quarter turns. -/
def Img.turns : Nat → Img → Img
  | 0, i => i
  | n + 1, i => Img.turns n i.turn

/-- Stage 7 (R162). -/
def dihedral (q : List Byte) (p : Picture) (r : ShapeRec) (i : Img) : Img :=
  let o := orientTurns q p
  let i := if o.1 then i.hflip else i
  let i := Img.turns (o.2 % 4) i
  let i := Img.turns (r.gflags / 4 % 4) i
  let i := if bitN r.gflags 0 then i.hflip else i
  if bitN r.gflags 1 then i.vflip else i

/-- Stage 8 at output pixel (x, y) (R163); a fraction that rounds to 1 in FP32 weighs 256 (log 67). -/
def rotatePixel (q : List Byte) (r : ShapeRec) (i : Img) (x y : Nat) : List Fv :=
  let half : Fv := .fin false 1 (-1)
  let cs := turnFix r.angle
  let c := fixRound fp32 cs.1
  let sn := fixRound fp32 cs.2
  let cx := Fv.fin false r.outW (-1)
  let cy := Fv.fin false r.outH (-1)
  let dx := fsub (fadd (ofZ x) half) cx
  let dy := fsub (fadd (ofZ y) half) cy
  let px := fsub (fadd (fadd cx (fmul c dx)) (fmul sn dy)) half
  let py := fsub (fadd (fsub cy (fmul sn dx)) (fmul c dy)) half
  let ix := px.floor
  let iy := py.floor
  let fx := ((fmul (fsub px (ofZ ix)) (ofZ 256)).floor).toNat
  let fy := ((fmul (fsub py (ofZ iy)) (ofZ 256)).floor).toNat
  let inside (a b : Int) : Bool := decide (0 ≤ a ∧ a < i.w ∧ 0 ≤ b ∧ b < i.h)
  let n := (i.get 0 0).length
  (List.range n).map fun k =>
    let fill := ofF16 (fieldLe q (0x0C + 2 * k) 2)
    let near (a b : Int) : Fv := if inside a b then (i.get a.toNat b.toNat).getD k fzero else fill
    let none' := !inside ix iy && !inside (ix + 1) iy && !inside ix (iy + 1) && !inside (ix + 1) (iy + 1)
    if none' then fill
    else
      let w (m : Nat) (v : Fv) : Fv := fmul (ofZ m) v
      let v := fadd (fadd (fadd (w ((256 - fx) * (256 - fy)) (near ix iy)) (w (fx * (256 - fy)) (near (ix + 1) iy)))
        (w ((256 - fx) * fy) (near ix (iy + 1)))) (w (fx * fy) (near (ix + 1) (iy + 1)))
      fmul v (.fin false 1 (-16))

/-- `DTYPE` of an `OTYPE` (Table 6-1). -/
def otypeDt (o : Nat) : Nat :=
  match o with
  | 0 => 2
  | 1 => 3
  | 2 => 1
  | 3 => 7
  | 4 => 8
  | _ => 9

/-- Stage 9: affine and conversion of one channel (R164). -/
def affineOut (q : List Byte) (k : Nat) (v : Fv) : Nat :=
  let a := ofF32 (fieldLe q (0x14 + 4 * k) 4)
  let b := ofF32 (fieldLe q (0x20 + 4 * k) 4)
  (convert (otypeDt (fieldLe q 0 1)) none (fadd (fmul a v) b)).1

/-- The shaped channels of every output pixel, in raster order (R148). -/
def shapePixels (q : List Byte) (soft : Bool) (p : Picture) (r : ShapeRec) : List (List Nat) :=
  let odd := oddTurn q p r
  let tw := if odd then r.outH else r.outW
  let th := if odd then r.outW else r.outH
  let planes := p.planeList.map fun k => resizePlane p (fullRange q p) soft (fieldLe q 2 1) r tw th k
  let img : Img := ⟨tw, th, fun x y => jitter r (pixelColour q p (planes.map fun l => l.getD (y * tw + x) 0))⟩
  let img := dihedral q p r img
  (List.range (r.outW * r.outH)).map fun i =>
    let x := i % max 1 r.outW
    let y := i / max 1 r.outW
    let v := if r.angle = 0 then img.get x y else rotatePixel q r img x y
    v.zipIdx.map fun c => affineOut q c.2 c.1

/-- Bytes of an output element, and of a row with `n` channels (R165). -/
def shapeRow (q : List Byte) (r : ShapeRec) (n : Nat) : Nat × Nat :=
  let w := dtBits (otypeDt (fieldLe q 0 1)) / 8
  (w, roundUp (r.outW * w * (if fieldLe q 8 1 = 1 then n else 1)) 64)

/-- The header of an output record with `n` channels (Table 6-12). -/
def shapeHeader (q : List Byte) (e : Entry) (p : Picture) (r : ShapeRec) (eflags n : Nat) : List Byte :=
  let lay := fieldLe q 8 1
  let row := (shapeRow q r n).2
  shapeEcho r (fieldLe q 3 1) eflags ++ leBytes 1 n ++ leBytes 1 (fieldLe q 0 1) ++ leBytes 1 lay ++ leBytes 1 0 ++
  leBytes 4 row ++ leBytes 4 (if lay = 0 then row * r.outH else 0) ++ leBytes 4 p.frameNo ++ leBytes 8 e.body.sampleIndex.toNat ++
  leBytes 2 e.body.stream.toNat ++ leBytes 2 p.pflags ++ leBytes 4 0

/-- The bytes of output pixel `i` with channels `v`, as (offset, bytes); the last pixel of a row with the row's padding (R165). -/
def pixelBytes (q : List Byte) (r : ShapeRec) (i : Nat) (v : List Nat) : List (Nat × List Byte) :=
  let (w, row) := shapeRow q r v.length
  let x := i % max 1 r.outW
  let y := i / max 1 r.outW
  let pad (n : Nat) : List Byte := if x + 1 = r.outW then List.replicate (row - n) 0 else []
  if fieldLe q 8 1 = 1 then [(64 + y * row + x * w * v.length, v.flatMap (leBytes w) ++ pad (r.outW * w * v.length))]
  else v.zipIdx.map fun c => (64 + (c.2 * r.outH + y) * row + x * w, leBytes w c.1 ++ pad (r.outW * w))

/-! ## The node -/

/-- A sample refused by `SHAPE` (R151, Table 6-13). -/
def refuseShape (s : State) (e : Entry) (code : Nat) : State :=
  let s := wrg (bump s 9 1) 9 0x024 (code + 2 ^ 16 * e.sq + 2 ^ 31)
  refuseStream s e code

/-- The source samples of a shaped picture: those of the windows of its planes (R166). -/
def shapeSource (p : Picture) (r : ShapeRec) : Nat := (p.planeList.map fun k => (planeWindow p r k).2.2.1 * (planeWindow p r k).2.2.2).sum

/-- The tile operations of a picture, each from one output pixel up to another: at most 4,096 pixels in raster order, in a span within
one band of 64 rows, and more of them where the source samples would exceed 2,097,152 each (R147, R166, log 66). -/
def shapeCuts (p : Picture) (r : ShapeRec) (span : Bool) : List (Nat × Nat) :=
  let total := r.outW * r.outH
  let band := if span then 64 * r.outW else max 1 total
  let chunks := (List.range (ceilDiv total (max 1 band))).flatMap fun b =>
    let n := min band (total - b * band)
    (List.range (ceilDiv n 4096)).map fun i => (b * band + 4096 * i, min 4096 (n - 4096 * i))
  let m := max 1 (ceilDiv (ceilDiv (shapeSource p r) 2097152) (max 1 chunks.length))
  chunks.flatMap fun k => (List.range m).map fun i => (k.1 + k.2 * i / m, k.1 + k.2 * (i + 1) / m)

/-- The counters of Table 6-13 for a shaped picture, whose groups in mask `g` came from the host. -/
def shapeCounts (s : State) (q : List Byte) (r : ShapeRec) (g : Nat) : State :=
  let s := bump s 9 0
  let s := if fieldLe q 3 1 = 2 ∨ fieldLe q 3 1 = 3 then bump (bump s 9 2 (drawCount q g)) 0x00B 0 (drawCount q g) else s
  if r.angle ≠ 0 then bump s 9 3 else s

/-- What operation `c` of a shaped picture writes: its output pixels `cut`, the first of a record its header (R165). -/
def shapeWrites (s : State) (c : Cand) (e : Entry) (d : DecodeJob) (r : ShapeRec) (g : Nat) (cut : Nat × Nat) : List WByte :=
  let q := c.block s
  let dec := nodeOf s c.j (edgeOf s c.j (c.node s).inFirst).producer
  let px := shapePixels q (decide (dec.opcode = 4 ∨ dec.opcode = 5)) d.pic r
  (if c.tile = 0 then putAt s c 0 (shapeHeader q e d.pic r g (px.headD []).length) else []) ++
    ((px.zipIdx.drop cut.1).take (cut.2 - cut.1)).flatMap fun v => (pixelBytes q r v.2 v.1).flatMap fun y => putAt s c y.1 y.2

/-- The next operation of a picture that is taken in, on the span member of its output band (R147): it writes its pixels, the first
of a record its header. -/
def shapeTile (s : State) (c : Cand) (e : Entry) (d : DecodeJob) (r : ShapeRec) (g : Nat) : Option State :=
  let q := c.block s
  let n := max 1 (jobP s c.j)
  let cuts := shapeCuts d.pic r (decide (1 < spanWidth (c.node s)))
  match cuts[c.tile]? with
  | none => none
  | some cut =>
    if ((podAt s c.p).member + n - c.h) % n ≠ cut.1 / max 1 (64 * r.outW) % min n (spanWidth (c.node s)) then none
    else
      let ws := shapeWrites s c e d r g cut
      some (issueWrites (if c.tile + 1 < cuts.length then s else shapeCounts s q r g) c cuts.length ws [])

/-- A SHAPE tile operation. Bands are taken in by span member 0 as they come, each slot released at once (log 66); a sample is
refused with its first. -/
def shapeOp (s : State) (c : Cand) : Option State :=
  match c.entry s with
  | none => none
  | some e =>
    let d := (pictureAt s c).getD (collectJob c)
    if d.whole then
      match resolveShape s c e d.pic with
      | .error code => some (refuseShape s e code)
      | .ok r => shapeTile s c e d r.1 r.2
    else if (podAt s c.p).member ≠ c.h then none
    else if c.fresh ∧ enabled s 9 = false then some (refuseShape s e 0x0924)
    else match takeBand s c d with
      | none => none
      | some (r, d', k) =>
        if r.hit then none
        else if r.pois then some (consume r.st c [] r.lines)
        else match resolveShape r.st c e d'.pic with
          | .error code => some (refuseShape r.st e code)
          | .ok _ =>
            let s := releaseSlot (putPicture r.st c d') c.j c.h (c.node s).inFirst k (.pod (podAt s c.p).logical 3)
            some (holdWork s c)

/-- The meaning of SHAPE_TILE_OP. -/
def execShapeTileOp (p : Fin 100) (s : State) : Host.Outcome State Fault Refusal := .next (runStation s p.val 3 shapeOp)

end Sys2Proof.Machine
end

