-- ==== Sys2Proof/Machine/Layout.lean ====
section
/-! DEFINITION. Transformation tile operations of `LAYOUT` nodes: COPY, GATHER, SCATTER, their paths and order
(spec/07_tensor_descriptors.md R174 to R192). -/

namespace Sys2Proof.Machine

/-! ## Paths and tiles -/

/-- The source index of destination index `i` (R180). -/
def copySource (b : List Byte) (src dst : Desc) (i : List Nat) : List Int :=
  (List.range 8).map fun k =>
    if k < src.rank then
      (List.range dst.rank).foldl (fun a d => if copyMap b d = k then a + copyCoef b d * (i.getD d 0 : Nat) else a) (copyOrigin b k)
    else 0

/-- Paths of Table 7-9: turned names the dimension T. -/
inductive Path where
  | straight
  | turned (t : Nat)
  | row
  | element
  deriving DecidableEq, Repr

/-- Whether dimension `k` of a descriptor has |`STRIDE`| = 1. -/
def unitStride (d : Desc) (k : Nat) : Bool := (d.st k).natAbs = 1

/-- The path of a transformation (R185, Table 7-9). -/
def pathOf (op : Nat) (b : List Byte) (src dst : Desc) : Path :=
  let d := dst.runDim
  let unit := unitStride dst d
  if op = 1 then
    let a := copyMap b d
    let near := decide ((src.st a).natAbs ≤ 1)
    let first := (List.range src.rank).find? fun k => decide (1 < src.sz k) && unitStride src k
    let turn := (first.bind fun k => (List.range dst.rank).find? fun i => copyMap b i = k).filter fun t =>
      permuting b src dst && unit && !near && t ≠ d && decide (8 ≤ dtBits dst.dtype)
    if permuting b src dst && unit && near then .straight
    else match turn with
      | some t => .turned t
      | none =>
        if expanding b src dst && unit && near && copyCoef b d = 1 &&
            ((List.range dst.rank).filter fun i => copyMap b i = a).length = 1 then .row
        else .element
  else if fieldLe b 0 1 ≠ d && unit && unitStride src d then .straight
  else .element

/-- The two dimensions of an exact in-place transpose (R191). -/
def transposeDims (b : List Byte) (src dst : Desc) : Option (Nat × Nat) :=
  match (List.range dst.rank).filter fun k => decide (1 < dst.sz k) with
  | [x, y] => if inPlace b src dst then some (x, y) else none
  | _ => none

/-- Pairs i ≤ j below `n`. -/
def tilePairs (n : Nat) : List (Nat × Nat) :=
  (List.range n).flatMap fun i => (List.range (n - i)).map fun k => (i, i + k)

/-- The destination segments of tile operation `t`, 64 of them, on the turned path along `tt` (R187). -/
def turnedTile (d : Desc) (tt t : Nat) : List (List Nat) :=
  let rd := d.runDim
  let blk (k : Nat) : Nat := if k = rd ∨ k = tt then ceilDiv (d.sz k) 64 else d.sz k
  let at' := ((rd :: (List.range d.rank).filter (· ≠ rd)).foldl (fun (a : List (Nat × Nat) × Nat) k =>
    (a.1 ++ [(k, a.2 % max 1 (blk k))], a.2 / max 1 (blk k))) ([], t)).1
  let base (k : Nat) : Nat := ((at'.find? fun x => x.1 = k).map (·.2)).getD 0
  (List.range (min 64 (d.sz tt - 64 * base tt))).flatMap fun j => (List.range (min 64 (d.sz rd - 64 * base rd))).map fun i =>
    (List.range 8).map fun k => if k = rd then 64 * base rd + i else if k = tt then 64 * base tt + j else base k

/-- Tile operations of a transformation that enumerates tensor `d` along dimension `rd` (R187). -/
def layoutTiles (p : Path) (d : Desc) (rd : Nat) : Nat :=
  match p with
  | .turned t => (List.range d.rank).foldl (fun a k => a * (if k = rd ∨ k = t then ceilDiv (d.sz k) 64 else d.sz k)) 1
  | _ => ceilDiv (d.segments rd) 64

/-- The indices of tile operation `t`. -/
def layoutTile (p : Path) (d : Desc) (rd t : Nat) : List (List Nat) :=
  match p with
  | .turned k => turnedTile d k t
  | _ => (List.range (min 64 (d.segments rd - 64 * t))).flatMap fun s => d.segIndices rd (64 * t + s)

/-! ## Moving elements -/

/-- Element `i` of `dst` from source index `a`, or `PAD` outside (R174); at a block head also the block's scale. Each takes the
poison of its own source line (R192). -/
def moveElem (s : State) (c : Cand) (src dst : Desc) (a : List Int) (i : List Nat) : List Moved :=
  let head := dst.scaled && i.getD dst.blockDim 0 % 32 = 0
  if src.inside a then
    let n := a.map Int.toNat
    (putElem s c dst i (elemAt s c src n), (elemKeys s c src n).any (keyPois s)) ::
      if head then [(putScale s c dst i (scaleAt s c src n), (scaleKey s c src n).any (keyPois s))] else []
  else (putElem s c dst i src.pad, false) :: if head then [(putScale s c dst i 127, false)] else []

/-- Counts an operation by its path (Table 7-15). -/
def countPath (s : State) (p : Path) : State :=
  bump s 0x00A (match p with
    | .straight | .turned _ => 0
    | .row => 1
    | .element => 2)

/-- The elements that operation `t` of an in-place transpose of dimensions `x` and `y` writes: one pair of tiles (R191). -/
def transposeTile (dst : Desc) (x y t : Nat) : List (List Nat) :=
  let t := (tilePairs (dst.sz x / 64)).getD t (0, 0)
  let spot (i j : Nat) : List (List Nat) := (List.range 4096).map fun k =>
    ((List.replicate 8 0).set x (64 * i + k % 64)).set y (64 * j + k / 64)
  spot t.1 t.2 ++ if t.1 = t.2 then [] else spot t.2 t.1

/-- An index with its coordinates `x` and `y` exchanged. -/
def swapDims (x y : Nat) (i : List Nat) : List Nat := (i.set x (i.getD y 0)).set y (i.getD x 0)

/-- What an operation of an in-place transpose leaves in the node's scratch: free values (R191, log 18). -/
def transposeScratch (s : State) (c : Cand) (dst : Desc) (n : Nat) : List WByte :=
  wBytes (c.home s) (scratchOf (c.route s) c.n * 4096)
    ((List.range (n * dtBits dst.dtype / 8)).map fun i => BitVec.ofNat 8 (Config.unstated 20 [c.j, c.n, c.tile, i]))

/-- An in-place transpose operation: two tiles turned into each other's place through scratch (R191). -/
def transposeOp (s : State) (c : Cand) (src dst : Desc) (x y : Nat) : Option State :=
  let is := transposeTile dst x y c.tile
  let r := (Rd.start (countPath s (pathOf 1 (c.block s) src dst))).elems (some (candOp s c false)) c src (is.map (swapDims x y))
  finishMove r c (tilePairs (dst.sz x / 64)).length ((transposeScratch s c dst is.length, false) ::
    is.flatMap fun i => moveElem r.st c src dst (toInts (swapDims x y i)) i) false

/-- A `COPY` operation (R180, R181). -/
def copyOp (s : State) (c : Cand) : Option State :=
  let b := c.block s
  let src := nodeDesc (c.route s) (c.node s) 0
  let dst := nodeDesc (c.route s) (c.node s) 1
  match transposeDims b src dst with
  | some (x, y) => transposeOp s c src dst x y
  | none =>
    let p := pathOf 1 b src dst
    let is := layoutTile p dst dst.runDim c.tile
    let from' (i : List Nat) : List Int := copySource b src dst i
    let live := is.filter fun i => src.inside (from' i)
    let r := (Rd.start (countPath s p)).elems (some (candOp s c false)) c src (live.map fun i => (from' i).map Int.toNat)
    finishMove r c (layoutTiles p dst dst.runDim) (is.flatMap fun i => moveElem r.st c src dst (from' i) i) false

/-- Index tensor entry `j` (R182). -/
def indexAt (s : State) (c : Cand) (idx : Desc) (j : Nat) : Int :=
  let v := elemAt s c idx [j, 0, 0, 0, 0, 0, 0, 0]
  if idx.dtype = 3 then v else sext 32 v

/-- Whether an element index stands for its whole index `j` in the counters: its other coordinates are 0 (log 18). -/
def headOther (axis : Nat) (i : List Nat) : Bool := (i.set axis 0).all (· = 0)

/-- A `GATHER` operation (R182). -/
def gatherOp (s : State) (c : Cand) : Option State :=
  let b := c.block s
  let axis := fieldLe b 0 1
  let src := nodeDesc (c.route s) (c.node s) 0
  let idx := nodeDesc (c.route s) (c.node s) 1
  let dst := nodeDesc (c.route s) (c.node s) 2
  let p := pathOf 2 b src dst
  let is := layoutTile p dst dst.runDim c.tile
  let o := some (candOp s c false)
  let r0 := (Rd.start (countPath s p)).elems o c idx (is.map fun i => [i.getD axis 0, 0, 0, 0, 0, 0, 0, 0])
  let from' (i : List Nat) : List Int := (toInts i).set axis (indexAt r0.st c idx (i.getD axis 0))
  let live := is.filter fun i => src.inside (from' i)
  let lost := is.filter fun i => headOther axis i && !src.inside (from' i)
  let r := r0.elems o c src (live.map fun i => (from' i).map Int.toNat)
  let r := { r with st := bump r.st 0x00A 3 lost.length }
  finishMove r c (layoutTiles p dst dst.runDim) (is.flatMap fun i => moveElem r.st c src dst (from' i) i) r0.pois

/-- An integer `DTYPE`. -/
def dtInt (t : Nat) : Bool := (dtFloat t).isNone

/-- The accumulated value of `old` and updates in ascending position, and whether an INT32 sum saturated (R183). -/
def scatterSum (t old : Nat) (us : List Nat) : Nat × Bool :=
  let val (v : Nat) : Int := match decodeElem t v with
    | .fin sg n e => let x := scale2 n e; (if sg then -1 else 1) * (x.1 / x.2 : Nat)
    | _ => 0
  if dtInt t then
    let r := us.foldl (fun (a : Int × Bool) u =>
      let v := a.1 + val u
      let w := max (-2147483648) (min 2147483647 v)
      (w, a.2 || decide (v ≠ w))) (val old, false)
    ((convert t none (ofZ r.1)).1, r.2)
  else ((convert t none (us.foldl (fun a u => fadd a (decodeElem t u)) (decodeElem t old))).1, false)

/-- A `SCATTER` node in the reach of an operation: its axis, its descriptors, and the entries of its index tensor. -/
structure ScatterCtx where
  axis : Nat
  upd : Desc
  idx : Desc
  dst : Desc
  ix : List Int

/-- The descriptors of a candidate's `SCATTER` node with the index tensor as `s` holds it (R183). -/
def scatterCtx (s : State) (c : Cand) : ScatterCtx :=
  let r := c.route s
  let x := c.node s
  let idx := nodeDesc r x 1
  ⟨fieldLe (c.block s) 0 1, nodeDesc r x 0, idx, nodeDesc r x 2, (List.range (idx.sz 0)).map (indexAt s c idx)⟩

/-- The element that update `i` goes to; outside, it is dropped (R183). -/
def ScatterCtx.target (k : ScatterCtx) (i : List Nat) : List Int := (toInts i).set k.axis (k.ix.getD (i.getD k.axis 0) (-1))

/-- The positions along the axis of the updates that go where update `i` goes. -/
def ScatterCtx.same (k : ScatterCtx) (i : List Nat) : List Nat :=
  (List.range (k.idx.sz 0)).filter fun j => k.ix.getD j 0 = k.ix.getD (i.getD k.axis 0) (-1)

/-- The updates of operation `t`. -/
def ScatterCtx.tile (k : ScatterCtx) (op : Path) (t : Nat) : List (List Nat) := layoutTile op k.upd k.dst.runDim t

/-- The updates of operation `t` that are the last for their element (R183, log 18). -/
def ScatterCtx.final (k : ScatterCtx) (op : Path) (t : Nat) : List (List Nat) :=
  (k.tile op t).filter fun i => k.dst.inside (k.target i) && (k.same i).getLast? = some (i.getD k.axis 0)

/-- What the element of update `i` receives, and whether its sum saturated: the update (`mode` 0), or the sum of its own value and
every update that goes to it (R183). -/
def ScatterCtx.move (k : ScatterCtx) (s : State) (c : Cand) (mode : Nat) (i : List Nat) : List Moved × Bool :=
  let t := (k.target i).map Int.toNat
  if mode = 0 then (moveElem s c k.upd k.dst (toInts i) t, false)
  else
    let js := (k.same i).map fun j => i.set k.axis j
    let v := scatterSum k.dst.dtype (elemAt s c k.dst t) (js.map (elemAt s c k.upd))
    ([(putElem s c k.dst t v.1, (js.flatMap (elemKeys s c k.upd) ++ elemKeys s c k.dst t).any (keyPois s))], v.2)

/-- A `SCATTER` operation: the targets whose last update lies in this operation take their value (R183, log 18). -/
def scatterOp (s : State) (c : Cand) : Option State :=
  let b := c.block s
  let q := scatterCtx s c
  let p := pathOf 3 b q.upd q.dst
  let o := some (candOp s c false)
  let r0 := (Rd.start (countPath s p)).elems o c q.idx ((List.range (q.idx.sz 0)).map fun j => [j, 0, 0, 0, 0, 0, 0, 0])
  let k := scatterCtx r0.st c
  let fin := k.final p c.tile
  let mode := fieldLe b 1 1
  let r := r0.elems o c k.upd (if mode = 0 then fin else fin.flatMap fun i => (k.same i).map fun j => i.set k.axis j)
  let r := if mode = 0 then r else r.elems o c k.dst (fin.map fun i => (k.target i).map Int.toNat)
  let out := fin.map (k.move r.st c mode)
  let heads := (k.tile p c.tile).filter (headOther k.axis)
  let s := bump (bump r.st 0x00A 4 (heads.filter fun i => !k.dst.inside (k.target i)).length) 0x00A 5
    (heads.filter fun i => k.dst.inside (k.target i) && (k.same i).head? ≠ some (i.getD k.axis 0)).length
  let s := if out.any (·.2) then pageErr s 0x00A 0 else s
  finishMove { r with st := s } c (layoutTiles p k.upd k.dst.runDim) (out.flatMap (·.1)) r0.pois

/-- A LAYOUT tile operation of a transformation opcode. -/
def layoutOp (s : State) (c : Cand) : Option State :=
  match (c.node s).opcode, c.entry s with
  | _, none => none
  | op, some e =>
    if op = 0x10 ∨ op = 0x11 then none
    else if c.fresh ∧ enabled s 0x00A = false then some (refuseEntry s e 0x0A24)
    else match op with
      | 1 => copyOp s c
      | 2 => gatherOp s c
      | _ => scatterOp s c

/-- The meaning of LAYOUT_TILE_OP. -/
def execLayoutTileOp (p : Fin 100) (s : State) : Host.Outcome State Fault Refusal := .next (runStation s p.val 4 layoutOp)

end Sys2Proof.Machine
end

