-- ==== Sys2Proof/Machine/Matrix.lean ====
section
/-! DEFINITION. Values of tensors as numbers, conversion into a destination, and tile operations of `MATRIX` nodes
(spec/09_pod_arithmetic.md R217 to R228). -/

namespace Sys2Proof.Machine

/-! ## Elements as numbers -/

/-- The number at index `i` of a descriptor whose lines were checked; outside, its `PAD` (R174, R178, R217). -/
def valueAt (s : State) (c : Cand) (d : Desc) (i : List Nat) : Fv :=
  if d.inside (toInts i) then
    if d.scaled then decodeScaled d.dtype (elemAt s c d i) (scaleAt s c d i) else decodeElem d.dtype (elemAt s c d i)
  else decodeElem d.dtype d.pad

/-- Whether rounding `a` / `b` to multiples of 2^`e` loses a part. -/
def losesPart (a b : Nat) (e : Int) : Bool := let x := scale2 b e; decide (a * x.2 % x.1 ≠ 0)

/-- Whether stochastic rounding of a number to type `t` draws a word: its fraction is not 0 (R219). -/
def drawsWord (t : Nat) : Fv → Bool
  | .fin _ n e =>
    let x := scale2 n e
    match dtFloat t with
    | some f => n ≠ 0 && losesPart x.1 x.2 (max (floorLog x.1 x.2) f.emin - f.m)
    | none => losesPart x.1 x.2 0
  | _ => false

/-- The word of an element of destination `d`, if one is drawn (R219): its position is the element index. -/
def srWord (s : State) (c : Cand) (b : EntryBody) (d : Desc) (i : List Nat) : Nat :=
  (keyedWord s.rng.table (job s c.j).seed b c.n (d.pos i)).toNat

/-- Counts a drawn word and a flagged NaN (R220, R259, Table 9-12). -/
def countConvert (s : State) (p : Nat) (draw nan : Bool) : State :=
  let s := if draw then bump s 0x00B 0 else s
  if nan then bump (pageErr s (podPage p) 1) (podPage p) 3 else s

/-- Converts one number into element `i` of destination `d` (R218 to R220). -/
def putValue (c : Cand) (b : EntryBody) (d : Desc) (sr : Bool) (a : State × List WByte) (x : List Nat × Fv) :
    State × List WByte :=
  let draw := sr && drawsWord d.dtype x.2
  let y := convert d.dtype (if draw then some (srWord a.1 c b d x.1) else none) x.2
  (countConvert a.1 c.p draw y.2, a.2 ++ putElem a.1 c d x.1 y.1)

/-- Converts numbers into a destination. -/
def putValues (s : State) (c : Cand) (b : EntryBody) (d : Desc) (sr : Bool) (xs : List (List Nat × Fv)) : State × List WByte :=
  xs.foldl (putValue c b d sr) (s, [])

/-! ## Accumulation -/

/-- The largest exponent of products that are not zero. -/
def topExp (ps : List Fv) : Option Int :=
  ps.foldl (fun a v => match v with
    | .fin _ n e => if n = 0 then a else
        let k := floorLog n 1 + e
        some (match a with
          | some m => max m k
          | none => k)
    | _ => a) none

/-- A product truncated toward zero to multiples of 2^`l`. -/
def truncTo (l : Int) : Fv → Int
  | .fin s n e =>
    let x := scale2 n (e - l)
    (if s then -1 else 1) * (x.1 / x.2 : Nat)
  | _ => 0

/-- Whether a number is a given infinity. -/
def Fv.infIs (s : Bool) : Fv → Bool
  | .inf t => s == t
  | _ => false

/-- The sum of a chunk's products in the float class (R225). -/
def chunkSum (ps : List Fv) : Fv :=
  let pos := ps.any (Fv.infIs false)
  let neg := ps.any (Fv.infIs true)
  if ps.any Fv.nan? || (pos && neg) then .nan
  else if pos then .inf false
  else if neg then .inf true
  else match topExp ps with
    | none => .fin (ps.all Fv.neg?) 0 0
    | some e =>
      let t := (ps.map (truncTo (e - 60))).sum
      if t = 0 then fzero else (Fv.fin (decide (t < 0)) t.natAbs (e - 60)).round fp32

/-- An INT32 limited to its range, and whether that changed it (R225). -/
def clampInt (v : Int) : Int × Bool :=
  let w := max (-2147483648) (min 2147483647 v)
  (w, decide (w ≠ v))

/-- Adds a chunk's products to an accumulator: its new bits and whether a clamp changed it (R225). -/
def accumulate (int : Bool) (acc : Word) (ps : List Fv) : Word × Bool :=
  if int then
    let v := clampInt (sext 32 acc.toNat + (ps.map Fv.floor).sum)
    (BitVec.ofInt 32 v.1, v.2)
  else (BitVec.ofNat 32 (f32Bits (fadd (ofF32 acc.toNat) (chunkSum ps))), false)

/-- The number that an accumulator holds. -/
def accValue (int : Bool) (w : Word) : Fv := decodeElem (if int then 10 else 9) w.toNat

/-- Replaces the elements of accumulator tile `t` of Pod `p`. -/
def setTile (s : State) (p t : Nat) (ws : List Word) : State :=
  let lo := akey p t 0
  let new := (ws.take 4096).zipIdx.filterMap fun w => if w.1 = 0 then none else some (lo + w.2, w.1)
  modMarrow s fun m =>
    { m with acc := m.acc.filter (fun e => decide (e.1 < lo)) ++ new ++ m.acc.filter (fun e => decide (lo + 4096 ≤ e.1)) }

/-! ## Tile operations of MATRIX -/

/-- Whether a candidate may open its group (R224, R226, R228): no other group of the node is open on the member, no node
of another segment holds its tiles live, no group of any home that the node keeps on the member uses them, and under `ACC_OUT` 1
the output slot is empty and its set of tiles consumed. -/
def groupOpens (s : State) (c : Cand) (q : MatPos) (slot base : Nat) : Bool :=
  let r := c.route s
  let x := c.node s
  let p := (job s c.j).members.length
  let m := (podAt s c.p).member
  let tiles := (List.range (max 1 (q.group.rows * q.group.cols))).map (base + ·)
  let open' (h : Nat) : Bool := (nodeAt s c.j h c.n).works.any fun w =>
    let y := matPos r x (matSteps r x) w.tile
    y.first ≠ 0 && groupMember x h y.num p = m
  !((spanHomes x m p).any open') && tilesFree s c.j m c.n tiles &&
    !(tiles.any fun t => (heldTiles s c.j m c.n).contains t) &&
    (!accOut r x ||
      (slotEmpty s c.j c.h x.outFirst slot && (halfOn s c.j c.h x.outFirst false).isNone &&
        (List.range (edgeOf s c.j x.outFirst).depth).all fun k =>
          k = slot || k % 2 ≠ slot % 2 || slotEmpty s c.j c.h x.outFirst k))

/-- Takes the output slot of a group (R297, R228). -/
def takeGroup (s : State) (c : Cand) (e slot : Nat) : State :=
  let s := takeEmpty s c.j c.h e slot
  modEdge s c.j c.h e fun t => { t with prodNext := if slot + 1 < (edgeOf s c.j e).depth then slot + 1 else 0 }

/-- The tile row and column of an operation. -/
def MatPos.spot (q : MatPos) : Nat × Nat :=
  (q.group.row + q.tile / max 1 q.group.cols, q.group.col + q.tile % max 1 q.group.cols)

/-- The operands of an operation over chunks `k0` to `k1`: for each of the 64 rows of A, and each of the 64 columns of B, its
values chunk by chunk (R224). -/
def matSides (s : State) (c : Cand) (q : MatPos) (k0 k1 : Nat) : List (List (List Fv)) × List (List (List Fv)) :=
  let r := c.route s
  let x := c.node s
  let kap := chunkLen r x
  let at3 (a b : Nat) : List Nat := [a, b, q.prod, 0, 0, 0, 0, 0]
  let chunks := (List.range (k1 - k0)).map (k0 + ·)
  let ks (k : Nat) : List Nat := (List.range kap).map (k * kap + ·)
  ((List.range 64).map fun i => chunks.map fun k => (ks k).map fun z => valueAt s c (nodeDesc r x 0) (at3 z (64 * q.spot.1 + i)),
   (List.range 64).map fun j => chunks.map fun k => (ks k).map fun z => valueAt s c (nodeDesc r x 1) (at3 (64 * q.spot.2 + j) z))

/-- The accumulators of an operation after its chunks, with the clamps that changed one (R224, R225). -/
def tileValues (s : State) (c : Cand) (q : MatPos) (tile : Nat) (sides : List (List (List Fv)) × List (List (List Fv))) :
    List (Word × Nat) :=
  let r := c.route s
  let x := c.node s
  let C0 := nodeDesc r x 3
  let int := intClass r x
  let init := fieldLe (c.block s) 6 1 = 1
  let at3 (a b : Nat) : List Nat := [a, b, q.prod, 0, 0, 0, 0, 0]
  (List.range 4096).map fun n =>
    let start : Word := if q.step ≠ 0 then accAt s c.p tile n
      else if init then BitVec.ofNat 32 (if int then ofInt 32 (valueAt s c C0 (at3 (64 * q.spot.2 + n % 64) (64 * q.spot.1 + n / 64))).floor
        else f32Bits (valueAt s c C0 (at3 (64 * q.spot.2 + n % 64) (64 * q.spot.1 + n / 64))))
      else 0
    ((sides.1.getD (n / 64) []).zip (sides.2.getD (n % 64) [])).foldl (fun (a : Word × Nat) (y : List Fv × List Fv) =>
      let v := accumulate int a.1 (y.1.zipWith exactMul y.2)
      (v.1, a.2 + b2n v.2)) (start, 0)

/-! ## Row and column checksums -/

/-- Whether a number is finite. -/
def Fv.finite? : Fv → Bool
  | .fin _ _ _ => true
  | _ => false

/-- The magnitude of a number. -/
def Fv.mag : Fv → Fv
  | .nan => .nan
  | .inf _ => .inf false
  | .fin _ n e => .fin false n e

/-- The FP32 sum of numbers in order, each addition by RNE. -/
def sumInOrder (vs : List Fv) : Fv := vs.foldl fadd fzero

/-- The checksum line of 64 lines: chunk by chunk and position by position, the sum over the lines in ascending index (R230). -/
def checksumLine (add : List Fv → Fv) (lines : List (List (List Fv))) : List (List Fv) :=
  let shape := lines.headD []
  shape.zipIdx.map fun c => (List.range c.1.length).map fun k => add (lines.map fun l => (l.getD c.2 []).getD k fzero)

/-- What the checker makes of one line of a float-class tile: `none` where it excludes the line, else whether it passes; `cross`
are the 64 lines of the other operand (R230, R340). -/
def floatLine (cross : List (List (List Fv))) (line : List (List Fv)) : Option Bool :=
  let check := sumInOrder ((checksumLine sumInOrder cross).zipWith (fun a b => chunkSum (a.zipWith exactMul b)) line)
  let sums := line.zipIdx.flatMap fun l => cross.map fun x => chunkSum ((x.getD l.2 []).zipWith exactMul l.1)
  let ref := sumInOrder sums
  let mags := checksumLine sumInOrder (cross.map fun x => x.map fun c => c.map Fv.mag)
  let mag := sumInOrder ((mags.zip line).flatMap fun (l : List Fv × List Fv) => l.1.zipWith (fun a b => fmul a b.mag) l.2)
  if check.finite? && ref.finite? && mag.finite? && sums.all Fv.finite? then
    some (!((fmul mag (.fin false 1 (-16))).lt (fsub check ref).mag))
  else none

/-- Whether a line of an integer-class tile passes: exact sums, before any clamp (R230, R340). -/
def intLine (cross : List (List (List Fv))) (line : List (List Fv)) : Bool :=
  let exact (vs : List Fv) : Fv := vs.foldl exactAdd fzero
  let dot (a b : List Fv) : Fv := exact (a.zipWith exactMul b)
  let check := exact ((checksumLine exact cross).zipWith dot line)
  let ref := exact (line.zipIdx.flatMap fun l => cross.map fun x => dot (x.getD l.2 []) l.1)
  (exactAdd check ref.negate).zero?

/-- The check of an operation: how many of its 128 lines are excluded, and the line that fails, numbered as the source's `INFO`:
bit 6 set for a column (R340, Table 15-1). With several failing lines the row of lowest index comes first (DESIGN CHOICE, log 68). -/
def tileCheck (int : Bool) (sides : List (List (List Fv)) × List (List (List Fv))) : Nat × Option Nat :=
  let judge (cross : List (List (List Fv))) (line : List (List Fv)) : Option Bool :=
    if int then some (intLine cross line) else floatLine cross line
  let all := (sides.1.map (judge sides.2)).zipIdx ++ (sides.2.map (judge sides.1)).zipIdx.map fun x => (x.1, 64 + x.2)
  ((all.filter fun x => x.1 = none).length, (all.find? fun x => x.1 = some false).map (·.2))

/-- The in-bounds indices of a tile among `a` by `b` sizes, with the element number in the tile. -/
def tileIndices (d : Desc) (q : MatPos) : List (List Nat × Nat) :=
  ((List.range 4096).map fun n => ([64 * q.spot.2 + n % 64, 64 * q.spot.1 + n / 64, q.prod, 0, 0, 0, 0, 0], n)).filter fun i =>
    d.inside (toInts i.1)

/-- The operand elements that an operation reads: those of A, B and, at its first step, C0. -/
def matReads (s : State) (c : Cand) (q : MatPos) (k0 k1 : Nat) (r0 : Rd) : Rd :=
  let r := c.route s
  let x := c.node s
  let A := nodeDesc r x 0
  let B := nodeDesc r x 1
  let C0 := nodeDesc r x 3
  let kap := chunkLen r x
  let ks := (List.range ((k1 - k0) * kap)).map (k0 * kap + ·)
  let side (d : Desc) (f : Nat → Nat → List Nat) : List (List Nat) :=
    ((List.range 64).flatMap fun i => ks.map fun k => f i k).filter fun i => d.inside (toInts i)
  let o := some (candOp s c false)
  let r1 := r0.elems o c A (side A fun i k => [k, 64 * q.spot.1 + i, q.prod, 0, 0, 0, 0, 0])
  let r1 := r1.elems o c B (side B fun j k => [64 * q.spot.2 + j, k, q.prod, 0, 0, 0, 0, 0])
  if q.step = 0 ∧ fieldLe (c.block s) 6 1 = 1 then r1.elems o c C0 ((tileIndices C0 q).map (·.1)) else r1

/-- A MATRIX operation: one output tile over up to `KOP` chunks (R224 to R227). -/
def matrixOp (s : State) (c : Cand) : Option State :=
  match c.entry s with
  | none => none
  | some ent =>
    let r := c.route s
    let x := c.node s
    let b := c.block s
    let n := matSteps r x
    let q := matPos r x n c.tile
    let out := accOut r x
    let e := x.outFirst
    let slot := if !out then 0 else if q.first = 0 then (edgeAt s c.j c.h e).prodNext else takenSlot s c.j c.h e
    let base := accBase r c.n + setBase r x slot
    if memberPod s c.j (groupMember x c.h q.num (job s c.j).members.length) ≠ some c.p then none
    else if q.first = 0 && !groupOpens s c q slot base then none
    else
      let kop := max 1 (fieldLe b 2 2)
      let k0 := q.step * kop
      let k1 := min (matChunks r x) (k0 + kop)
      let tile := base + q.tile
      let rd := matReads s c q k0 k1 (Rd.start s)
      if rd.hit then none
      else
        let sides := matSides rd.st c q k0 k1
        let vs := tileValues rd.st c q tile sides
        let chk := tileCheck (intClass r x) sides
        let clamps := (vs.map (·.2)).sum
        let pois := rd.pois || (q.step ≠ 0 && accPois rd.st c.p tile)
        let s := bump (bump (setAccPois (setTile rd.st c.p tile (vs.map (·.1))) c.p tile pois) (podPage c.p) 0 (k1 - k0))
          (podPage c.p) 2 clamps
        let s := if clamps ≠ 0 then pageErr s (podPage c.p) 0 else s
        let done := decide (q.step + 1 = n)
        let d := nodeDesc r x 2
        let y := if !out && (done || pois) then
            putValues s c ent.body d (fieldLe b 4 1 = 1) ((tileIndices d q).map fun i =>
              (i.1, accValue (intClass r x) (vs.getD i.2 (0, 0)).1))
          else (s, [])
        if pois then some (consume y.1 c y.2 rd.lines)
        else
          let s := if out && q.first = 0 then takeGroup y.1 c e slot else y.1
          let total := matTotal r x n
          let size := max 1 (q.group.rows * q.group.cols)
          if out then
            let k := c.h * 4096 + e
            let hand := done && q.tile + 1 = size
            some (issue s c total fun o =>
              let o := { o with excluded := chk.1, failing := chk.2 }
              if hand then
                { o with outs := [(k, slot)], fills := [(k, slot, ⟨c.rank, c.task, q.num, decide (c.tile + 1 = total), ent.stage, none⟩)] } else o)
          else some (issueWrites s c total y.2 [] fun o => { o with excluded := chk.1, failing := chk.2 })

/-- The meaning of MATRIX_TILE_OP. -/
def execMatrixTileOp (p : Fin 100) (s : State) : Host.Outcome State Fault Refusal := .next (runStation s p.val 5 matrixOp)

end Sys2Proof.Machine
end

