-- ==== Sys2Proof/Machine/Vector.lean ====
section
/-! DEFINITION. Tile operations of `VECTOR` nodes: lane functions, reductions, composites, quantisation and sum trees
(spec/09_pod_arithmetic.md R231 to R237). -/

namespace Sys2Proof.Machine

/-! ## Trees -/

/-- One level of a tree: neighbours combine, and a last one alone passes (R233, R236). -/
def pairUp {α : Type} (f : α → α → α) : List α → List α
  | a :: b :: l => f a b :: pairUp f l
  | l => l

/-- `n` levels of a tree. -/
def levels {α : Type} (f : α → α → α) : Nat → List α → List α
  | 0, l => l
  | n + 1, l => levels f n (pairUp f l)

/-- Cuts a list into pieces of `n`; `k` bounds their number. -/
def cutEvery {α : Type} (n : Nat) : Nat → List α → List (List α)
  | 0, _ => []
  | k + 1, l => if l.isEmpty then [] else l.take n :: cutEvery n k (l.drop n)

/-- The tree of R233 over segments of an axis, going on from the running partial `r` of the segments before them. -/
def treeFrom (f : Fv → Fv → Fv) (r : Option Fv) (l : List Fv) : Fv :=
  match r.toList ++ (cutEvery 64 l.length l).map fun g => (levels f 6 g).headD .nan with
  | [] => .nan
  | g :: gs => gs.foldl f g

/-- The tree of R233 over an axis. -/
def tree (f : Fv → Fv → Fv) (l : List Fv) : Fv := treeFrom f none l

/-- The tree of R236 over parts. -/
def partTree {α : Type} (f : α → α → α) (z : α) (l : List α) : α := (levels f 10 l).headD z

/-! ## Values of a line -/

/-- `n` as FP32 (R234). -/
def lenOf (n : Nat) : Fv := (ofZ n).round fp32

/-- The first tree of a composite over a line, which the accumulator tile carries between operations: how it combines, and what it
takes of each element (R233, R234). -/
def firstPass (op sub : Nat) : (Fv → Fv → Fv) × (Fv → Fv) :=
  match op with
  | 3 => (if sub = 0 then fadd else if sub = 1 then fmax else fmin, id)
  | 4 => (fmax, id)
  | _ => (fadd, if sub = 1 then fun x => fmul x x else id)

/-- SOFTMAX of a line whose maximum is `m` (R234). -/
def softmax (m : Fv) (xs : List Fv) : List Fv :=
  let es := xs.map fun x => fexp (fsub x m)
  let t := tree fadd es
  es.map fun e => fdiv e t

/-- NORM of a line, with gamma and beta if present; `t` is its sum, or its sum of squares under `SUBOP` 1 (R234). -/
def normLine (rms : Bool) (eps : Fv) (g b : Option (List Fv)) (t : Fv) (xs : List Fv) : List Fv :=
  let n := lenOf xs.length
  let ds := if rms then xs else let mu := fdiv t n; xs.map fun x => fsub x mu
  let v := fdiv (if rms then t else tree fadd (ds.map fun d => fmul d d)) n
  let r := frsqrt (fadd v eps)
  let ys := ds.map fun d => fmul d r
  match g, b with
  | some g, some b => (ys.zip (g.zip b)).map fun y => fma y.1 y.2.1 y.2.2
  | some g, none => ys.zipWith fmul g
  | none, _ => ys

/-! ## QUANTISE -/

/-- floor(log2 |x|), infinity taken as 2^128; none for zero. -/
def magLog : Fv → Option Int
  | .inf _ => some 128
  | .fin _ n e => if n = 0 then none else some (floorLog n 1 + e)
  | .nan => none

/-- emax of R235. -/
def quantMax (t : Nat) : Int := if t = 4 then 2 else if t = 5 then 8 else if t = 6 then 15 else 0

/-- The scale byte of a block (R235). -/
def quantScale (t : Nat) (xs : List Fv) : Nat :=
  if xs.any Fv.nan? then 255
  else match (xs.filterMap magLog).foldl (fun (a : Option Int) k => some (match a with
    | some m => max m k
    | none => k)) none with
    | none => 127
    | some k => (max (-127) (min 127 (k - quantMax t)) + 127).toNat

/-- A value on the grid of an element before rounding: x / scale, INT8 in units of 2^-6 (R235). -/
def quantIn (t sc : Nat) (x : Fv) : Fv := x.shift (127 - (sc : Int) + if t = 1 then 6 else 0)

/-- An element of a block under its scale (R235): it saturates to the largest finite magnitude. -/
def quantElem (t sc : Nat) (xs : List Fv) (w : Option Nat) (x : Fv) : Nat :=
  if sc = 255 then canonNan t
  else if xs.all Fv.zero? then 0
  else
    let v := (convert t w (quantIn t sc x)).1
    if t = 6 ∧ v % 128 = 0x7C then v - 1 else v

/-! ## Tile operations -/

/-- Number of FP32 input `i` of descriptor `d` (R232). -/
def laneAt (s : State) (c : Cand) (d : Desc) (i : List Nat) : Fv := (valueAt s c d i).round fp32

/-- The index in a RANK 1 descriptor. -/
def at1 (k : Nat) : List Nat := [k, 0, 0, 0, 0, 0, 0, 0]

/-- The lines of a tensor along `axis`: line `l` as its indices in order. -/
def lineIndices (d : Desc) (axis l : Nat) : List (List Nat) :=
  let idx := ((List.range 8).foldl (fun (a : List Nat × Nat) k =>
    if k = axis then (a.1 ++ [0], a.2) else (a.1 ++ [a.2 % d.sz k], a.2 / d.sz k)) ([], l)).1
  (List.range (d.sz axis)).map fun t => idx.set axis t

/-- Lines of a tensor along `axis`. -/
def lineCount (d : Desc) (axis : Nat) : Nat := (List.range d.rank).foldl (fun a k => if k = axis then a else a * d.sz k) 1

/-- Descriptors of a node that an operation uses, by role. -/
structure VecPlan where
  ins : List Desc
  out : Desc
  axis : Nat
  sr : Bool
  deriving DecidableEq, Repr

/-- The plan of a node. -/
def vecPlan (r : Route) (x : Node) : VecPlan :=
  let b := nodeBlock r x
  let q := vectorRoles r x
  ⟨q.1, q.2, fieldLe b 2 1, fieldLe b 1 1 = 1⟩

/-- What an operation produces: the state after counting, its writes, and the number of INT32 clamps. -/
structure VecOut where
  st : State
  ws : List WByte
  clamps : Nat

/-- MAP and AFFINE of element `i` whose input is `a` (R232). -/
def laneOf (s : State) (c : Cand) (pl : VecPlan) (op f : Nat) (i : List Nat) (a : Fv) : Fv :=
  if op = 2 then
    let at' (n : Nat) : Fv := laneAt s c (pl.ins.getD n pl.out) (at1 (i.getD 0 0))
    lane1 f (fma a (at' 1) (at' 2))
  else match pl.ins[1]? with
    | some d => lane2 f a (laneAt s c d i)
    | none => lane1 f a

/-- The operand elements besides the input that MAP or AFFINE of the elements `is` reads. -/
def laneReads (o : Option TileOp) (c : Cand) (pl : VecPlan) (op : Nat) (is : List (List Nat)) (r : Rd) : Rd :=
  (pl.ins.drop 1).foldl (fun r d => r.elems o c d (if op = 2 then is.map fun i => at1 (i.getD 0 0) else is)) r

/-- A MAP or AFFINE operation on descriptors: 64 segments of the destination. -/
def mapOp (s : State) (c : Cand) (ent : Entry) (pl : VecPlan) : Option State :=
  let op := (c.node s).opcode
  let f := fieldLe (c.block s) 0 1
  let d0 := pl.ins.getD 0 pl.out
  let is := (List.range (min 64 (pl.out.segments pl.out.runDim - 64 * c.tile))).flatMap fun k => pl.out.segIndices pl.out.runDim (64 * c.tile + k)
  let o := some (candOp s c false)
  let r := laneReads o c pl op is ((Rd.start s).elems o c d0 is)
  let y := putValues (bump r.st (podPage c.p) 1) c ent.body pl.out pl.sr
    (is.map fun i => (i, laneOf r.st c pl op f i (laneAt r.st c d0 i)))
  finishOp { r with st := y.1 } c (ceilDiv (pl.out.segments pl.out.runDim) 64) y.2

/-- A MAP or AFFINE operation on a finished accumulator tile (R226). The last tile of a group releases the group. -/
def accOp (s : State) (c : Cand) (ent : Entry) (pl : VecPlan) : Option State :=
  let rt := c.route s
  let x := c.node s
  let e := x.inFirst
  let m := (edgeOf s c.j e).producer
  let y := nodeOf s c.j m
  let q := matPos rt y 1 c.tile
  match fullSlot s c.j c.h e c.rank q.num with
  | none => none
  | some k =>
    if memberPod s c.j (groupMember y c.h q.num (job s c.j).members.length) ≠ some c.p then none
    else
      let tile := accBase rt m + setBase rt y k + q.tile
      let is := tileIndices (nodeDesc rt y 2) q
      let r := laneReads (some (candOp s c false)) c pl x.opcode (is.map (·.1)) (Rd.start s)
      let r := { r with pois := r.pois || accPois s c.p tile }
      let v := putValues (bump r.st (podPage c.p) 1) c ent.body pl.out pl.sr (is.map fun i =>
        (i.1, laneOf r.st c pl x.opcode (fieldLe (c.block s) 0 1) i.1 ((accValue (intClass rt y) (accAt s c.p tile i.2)).round fp32)))
      if r.hit then none
      else if r.pois then some (consume v.1 c v.2 r.lines)
      else
        let id' := s.nextOp
        let t := issueWrites v.1 c (matTotal rt y 1) v.2 []
        some (if q.tile + 1 = q.group.rows * q.group.cols then
          modOp t id' fun o => { o with ins := o.ins ++ [(c.h * 4096 + e, k)] } else t)

/-- Elements that a line gives, whose first tree has the value `t`: their indices in the destination and values. -/
def lineOut (s : State) (c : Cand) (pl : VecPlan) (op sub : Nat) (eps t : Fv) (l : Nat) : List (List Nat × Fv) :=
  let d := pl.ins.getD 0 pl.out
  let is := lineIndices d pl.axis l
  let xs := is.map (laneAt s c d)
  let along (k : Nat) : Option (List Fv) := pl.ins[k]?.map fun g => (List.range (d.sz pl.axis)).map fun t => laneAt s c g (at1 t)
  match op with
  | 3 => [((is.headD []).set pl.axis 0, t)]
  | 4 => is.zip (softmax t xs)
  | _ => is.zip (normLine (sub = 1) eps (along 1) (along 2) t xs)

/-- Segments `a` to `b - 1` of the lines of a tensor along `axis`, as indices (R233). -/
def lineSegments (d : Desc) (axis a b : Nat) : List (List Nat) :=
  let per := max 1 (ceilDiv (d.sz axis) 64)
  (List.range (b - a)).flatMap fun k => ((lineIndices d axis ((a + k) / per)).drop ((a + k) % per * 64)).take 64

/-- Where a REDUCE, SOFTMAX or NORM operation stands: segments of a line, and the first and the last segment of the operation (R233). -/
structure LineSpan where
  per : Nat
  segs : Nat
  lo : Nat
  hi : Nat
  deriving DecidableEq, Repr

/-- The segments of operation `t` on tensor `d`, 64 at most. -/
def lineSpan (d : Desc) (axis t : Nat) : LineSpan :=
  let per := max 1 (ceilDiv (d.sz axis) 64)
  let segs := lineCount d axis * per
  ⟨per, segs, 64 * t, min segs (64 * t + 64)⟩

/-- Whether the last line of an operation goes on in the next. -/
def LineSpan.goesOn (k : LineSpan) : Bool := decide (k.hi % k.per ≠ 0)

/-- Whether the first line of an operation goes on from the one before. -/
def LineSpan.begun (k : LineSpan) : Bool := decide (k.lo % k.per ≠ 0)

/-- The lines that end in an operation. -/
def LineSpan.lines (k : LineSpan) : List Nat := (List.range (k.hi / k.per - k.lo / k.per)).map (k.lo / k.per + ·)

/-- The first tree of line `l` as far as an operation brings it, going on from the accumulator tile's element 0 (R233). -/
def linePart (s : State) (c : Cand) (pl : VecPlan) (k : LineSpan) (l : Nat) : Fv :=
  let f := firstPass (c.node s).opcode (fieldLe (c.block s) 4 1)
  let d := pl.ins.getD 0 pl.out
  treeFrom f.1 (if l * k.per < k.lo then some (accValue false (accAt s c.p (accBase (c.route s) c.n) 0)) else none)
    ((lineSegments d pl.axis (max k.lo (l * k.per)) (min k.hi (l * k.per + k.per))).map fun i => f.2 (laneAt s c d i))

/-- The values of the lines that end in an operation (R233, R234). -/
def lineValues (s : State) (c : Cand) (pl : VecPlan) (k : LineSpan) : List (List Nat × Fv) :=
  let b := c.block s
  k.lines.flatMap fun l =>
    lineOut s c pl (c.node s).opcode (fieldLe b 4 1) (ofF32 (fieldLe b 8 4)) (linePart s c pl k l) l

/-- Whether an operation may keep a line under way in the node's accumulator tile: it runs on the home member, and for a line that
goes on the tile is free of other tasks and segments (R228, R233). -/
def lineKeeps (s : State) (c : Cand) (k : LineSpan) : Bool :=
  let m := (podAt s c.p).member
  !((k.goesOn || k.begun) && m ≠ c.h) &&
  !(k.goesOn && (((nodeAt s c.j m c.n).works.any fun w => w.rank ≠ c.rank && decide (64 * w.tile % k.per ≠ 0)) ||
    !tilesFree s c.j m c.n [accBase (c.route s) c.n]))

/-- A REDUCE, SOFTMAX or NORM operation: 64 segments of the input; the lines that end in it are written, and the running partial
of a line that goes on stays in element 0 of the node's accumulator tile (R233, R234; DESIGN CHOICE, log 20: the element, that
SOFTMAX and NORM carry their first tree and read the line again where it ends, and that under `SPAN` a line's operations then run on
the home member). -/
def lineOp (s : State) (c : Cand) (ent : Entry) (pl : VecPlan) : Option State :=
  let op := (c.node s).opcode
  let d := pl.ins.getD 0 pl.out
  let k := lineSpan d pl.axis c.tile
  let o := some (candOp s c false)
  let base := accBase (c.route s) c.n
  let is := lineSegments d pl.axis (if op = 3 ∨ k.lines = [] then k.lo else k.lo / k.per * k.per) k.hi
  let r := (Rd.start s).elems o c d is
  let r := if k.lines = [] then r else
    (pl.ins.drop 1).foldl (fun r g => r.elems o c g ((List.range (d.sz pl.axis)).map at1)) r
  let r := { r with pois := r.pois || (k.begun && accPois s c.p base) }
  if lineKeeps s c k = false then none
  else
    let y := putValues (bump r.st (podPage c.p) 1) c ent.body pl.out pl.sr (lineValues r.st c pl k)
    let s := if k.goesOn then
        setAcc (setAccPois y.1 c.p base false) c.p base 0 (BitVec.ofNat 32 (f32Bits (linePart r.st c pl k (k.hi / k.per))))
      else y.1
    finishOp { r with st := s } c (ceilDiv k.segs 64) y.2

/-- Writes of one block of a QUANTISE line (R235). -/
def quantBlock (c : Cand) (b : EntryBody) (pl : VecPlan) (a : State × List WByte) (g : List (List Nat × Fv)) : State × List WByte :=
  let t := pl.out.dtype
  let xs := g.map (·.2)
  let sc := quantScale t xs
  let a := (a.1, a.2 ++ putScale a.1 c pl.out ((g.map (·.1)).headD []) sc)
  g.foldl (fun a x =>
    let draw := pl.sr && sc ≠ 255 && drawsWord t (quantIn t sc x.2)
    let w := if draw then some (srWord a.1 c b pl.out x.1) else none
    (countConvert a.1 c.p draw false, a.2 ++ putElem a.1 c pl.out x.1 (quantElem t sc xs w x.2))) a

/-- A QUANTISE operation: 64 segments along `AXIS`, of two blocks each (R235). -/
def quantOp (s : State) (c : Cand) (ent : Entry) (pl : VecPlan) : Option State :=
  let d := pl.ins.getD 0 pl.out
  let per := max 1 (ceilDiv (d.sz pl.axis) 64)
  let segs := lineCount d pl.axis * per
  let lo := 64 * c.tile
  let hi := min segs (lo + 64)
  let r := (Rd.start s).elems (some (candOp s c false)) c d (lineSegments d pl.axis lo hi)
  let blocks := (List.range (hi - lo)).flatMap fun k =>
    cutEvery 32 2 ((lineSegments d pl.axis (lo + k) (lo + k + 1)).map fun i => (i, laneAt r.st c d i))
  let y := blocks.foldl (quantBlock c ent.body pl) (bump r.st (podPage c.p) 1, [])
  finishOp { r with st := y.1 } c (ceilDiv segs 64) y.2

/-- The sum of an element's parts, and the clamps of INT32 sums (R236). -/
def partsOf (s : State) (c : Cand) (d : Desc) (k : Nat) (i : List Nat) : Fv × Nat :=
  let is := (List.range (d.sz k)).map fun q => i.set k q
  if d.dtype = 10 then
    let v := partTree (fun (a b : Int × Nat) => let y := clampInt (a.1 + b.1); (y.1, a.2 + b.2 + b2n y.2)) (0, 0)
      (is.map fun i => ((valueAt s c d i).floor, 0))
    (ofZ v.1, v.2)
  else (partTree fadd fzero (is.map (laneAt s c d)), 0)

/-- A SUMTREE operation: 64 segments of the destination (R236). -/
def sumTreeOp (s : State) (c : Cand) (ent : Entry) (pl : VecPlan) : Option State :=
  let d := pl.ins.getD 0 pl.out
  let k := pl.out.rank
  let is := (List.range (min 64 (pl.out.segments pl.out.runDim - 64 * c.tile))).flatMap fun n => pl.out.segIndices pl.out.runDim (64 * c.tile + n)
  let r := (Rd.start s).elems (some (candOp s c false)) c d (is.flatMap fun i => (List.range (d.sz k)).map fun q => i.set k q)
  let vs := is.map fun i => (i, partsOf r.st c d k i)
  let clamps := (vs.map (·.2.2)).sum
  let s1 := bump (bump r.st (podPage c.p) 1) (podPage c.p) 2 clamps
  let s1 := if clamps ≠ 0 then pageErr s1 (podPage c.p) 0 else s1
  let y := putValues s1 c ent.body pl.out pl.sr (vs.map fun v => (v.1, v.2.1))
  finishOp { r with st := y.1 } c (ceilDiv (pl.out.segments pl.out.runDim) 64) y.2

/-- A VECTOR operation. -/
def vectorOp (s : State) (c : Cand) : Option State :=
  match c.entry s with
  | none => none
  | some ent =>
    let pl := vecPlan (c.route s) (c.node s)
    match (c.node s).opcode with
    | 1 | 2 => if accIn (c.route s) (c.node s) then accOp s c ent pl else mapOp s c ent pl
    | 6 => quantOp s c ent pl
    | 7 => sumTreeOp s c ent pl
    | _ => lineOp s c ent pl

/-- The meaning of VECTOR_TILE_OP. -/
def execVectorTileOp (p : Fin 100) (s : State) : Host.Outcome State Fault Refusal := .next (runStation s p.val 6 vectorOp)

end Sys2Proof.Machine
end

