-- ==== Sys2Proof/Machine/Sample.lean ====
section
/-! DEFINITION. Tile operations of `SAMPLE` nodes (spec/10_randomness_and_sampling.md R254 to R258). -/

namespace Sys2Proof.Machine

/-- Sums of one segment from `carry`: each element's cumulative sum, and the local sum (R255). -/
def segSums (carry : Fv) : List Fv → Fv → List Fv × Fv
  | [], l => ([], l)
  | e :: es, l =>
    let l' := fadd l e
    let r := segSums carry es l'
    (fadd carry l' :: r.1, r.2)

/-- prefix(e) of R255. -/
def prefixSums (es : List Fv) : List Fv :=
  ((cutEvery 64 es.length es).foldl (fun (a : List Fv × Fv) g =>
    let r := segSums a.2 g fzero
    (a.1 ++ r.1, fadd a.2 r.2)) ([], fzero)).1

/-- The choice of a row: token, probability, whether the row is NaN or all -infinity, and whether its word was used. -/
structure Choice where
  token : Nat
  prob : Nat
  bad : Bool
  drew : Bool
  deriving DecidableEq, Repr

/-- Whether a number is -infinity. -/
def Fv.low? (v : Fv) : Bool := v.infIs true

/-- The least index whose number passes a test, or 0. -/
def firstIdx (f : Fv → Bool) (l : List Fv) : Nat := (l.findIdx? f).getD 0

/-- The random choice among candidates `cand` (token and z, in order), with the row's word `w` (R255). -/
def pickToken (cand : List (Nat × Fv)) (topP : Fv) (w : Nat) : Choice :=
  let m := (cand.map (·.2)).foldl fmax (.inf true)
  let es := cand.map fun x => fexp (fsub x.2 m)
  let cum := prefixSums es
  let n := cand.length
  let all := cum.getD (n - 1) fzero
  let cut := if topP.lt fone then firstIdx (fun c => !c.lt (fmul topP all)) cum else n - 1
  let t := cum.getD cut fzero
  let u := fmul (Fv.fin false (w / 256) (-24)) t
  let k := match (cum.take (cut + 1)).findIdx? fun c => u.lt c with
    | some k => k
    | none => ((List.range (cut + 1)).filter fun k => fzero.lt (es.getD k fzero)).getLastD 0
  ⟨(cand.getD k (0, fzero)).1, f32Bits (fdiv (es.getD k fzero) t), false, true⟩

/-- The token of a row of logits (R255). -/
def chooseToken (xs : List Fv) (temp topP : Fv) (topK w : Nat) : Choice :=
  if xs.any Fv.nan? || xs.all Fv.low? then ⟨0xFFFFFFFF, canonNan 9, true, false⟩
  else if temp.zero? then
    let m := xs.foldl fmax (.inf true)
    ⟨firstIdx (fun x => !x.lt m) xs, f32Bits fone, false, false⟩
  else
    let zs := xs.map fun x => fdiv x temp
    if zs.any (Fv.infIs false) then ⟨firstIdx (Fv.infIs false) zs, f32Bits fone, false, false⟩
    else
      let all := zs.zipIdx.map fun z => (z.2, z.1)
      pickToken (if topK = 0 then all else (sortBy all fun a b => !a.2.lt b.2).take topK) topP w

/-- The header of a result record (Table 10-4). -/
def sampleHeader (rows slot vocab base : Nat) : List Byte :=
  leBytes 2 rows ++ leBytes 1 slot ++ leBytes 1 0 ++ leBytes 4 vocab ++ leBytes 8 base ++ leBytes 16 0

/-- The result of row `c.tile` of a `SAMPLE` node: the token that the row's word chooses among its logits (R254, R255). -/
def rowChoice (s : State) (c : Cand) (e : Entry) : Choice :=
  let b := c.block s
  let d := nodeDesc (c.route s) (c.node s) 0
  let base := ((e.bases.find? fun u => u.1 = fieldLe b 0 1).map (·.2)).getD 0
  chooseToken ((List.range (d.sz 0)).map fun i => (valueAt s c d [i, c.tile, 0, 0, 0, 0, 0, 0]).round fp32) (ofF32 (fieldLe b 4 4))
    (ofF32 (fieldLe b 8 4)) (fieldLe b 2 2) (slotWord s.rng.table (job s c.j).seed (slotAdvance base c.tile)).toNat

/-- Rows of a `SAMPLE` node's logits. -/
def sampleRows (d : Desc) : Nat := if d.rank = 1 then 1 else d.sz 1

/-- What a SAMPLE operation with choice `ch` writes into its output slots: its row's result, the first the record's header too
(Tables 10-4, 10-5). -/
def sampleWrites (s : State) (c : Cand) (e : Entry) (ch : Choice) : List WByte :=
  let b := c.block s
  let d := nodeDesc (c.route s) (c.node s) 0
  let slot := fieldLe b 0 1
  let base := ((e.bases.find? fun u => u.1 = slot).map (·.2)).getD 0
  c.outs.flatMap fun o =>
    let x := edgeOf s c.j (o.1 % 4096)
    let at' (k : Nat) (bs : List Byte) : List WByte := wBytes (c.home s) (slotAddr x o.2 + k) (bs.take (slotBytes x - k))
    (if c.tile = 0 then at' 0 (sampleHeader (sampleRows d) slot (d.sz 0) base) else []) ++
      at' (32 + 8 * c.tile) (leBytes 4 ch.token ++ leBytes 4 ch.prob)

/-- A SAMPLE operation: row `c.tile`; the first also writes the record's header (R255 to R257). A poisoned line of logits poisons
the whole record (R258). -/
def sampleOp (s : State) (c : Cand) : Option State :=
  match c.entry s with
  | none => none
  | some ent =>
    let d := nodeDesc (c.route s) (c.node s) 0
    let rows := sampleRows d
    let r := (Rd.start s).elems (some (candOp s c false)) c d ((List.range (d.sz 0)).map fun i => [i, c.tile, 0, 0, 0, 0, 0, 0])
    let ch := rowChoice r.st c ent
    let s1 := bump (bump r.st 0x00B 2) 0x00B 1 (b2n ch.drew)
    let s1 := if ch.bad then pageErr s1 0x00B 1 else s1
    let record := c.outs.flatMap fun o =>
      let e := edgeOf s c.j (o.1 % 4096)
      wLines (wBytes (c.home s) (slotAddr e o.2) (List.replicate (min (slotBytes e) (32 + 8 * rows)) 0))
    finishOp { r with st := if r.pois then poisonLines s1 record else s1 } c rows (sampleWrites s c ent ch)

/-- The meaning of SAMPLE_TILE_OP. -/
def execSampleTileOp (p : Fin 100) (s : State) : Host.Outcome State Fault Refusal := .next (runStation s p.val 7 sampleOp)

end Sys2Proof.Machine
end

