-- ==== Sys2Proof/Machine/Tokens.lean ====
section
/-! DEFINITION. TOKENISE and PACK tile operations (spec/08_tokens_and_batches.md R197 to R207, R210, R211). -/

namespace Sys2Proof.Machine

/-! ## TOKENISE -/

/-- A byte of a record read from a slot; what the slot had no room for is a free value (log 16). -/
def recByte (key : List Nat) (b : List Byte) (i : Nat) : Byte :=
  match b[i]? with
  | some v => v
  | none => BitVec.ofNat 8 (Config.unstated 21 (key ++ [i]))

/-- Fields of an output record of `SHAPE` (Table 6-12): output size, channels, element bytes, `OTYPE`, layout, strides. -/
structure ShapedInfo where
  w : Nat
  h : Nat
  chans : Nat
  size : Nat
  otype : Nat
  lay : Nat
  row : Nat
  plane : Nat
  deriving DecidableEq, Repr

/-- Parses an output record's header. -/
def shapedInfo (b : List Byte) : ShapedInfo :=
  let o := fieldLe b 0x21 1
  ⟨fieldLe b 8 2, fieldLe b 10 2, fieldLe b 0x20 1, dtBits (otypeDt o) / 8, o, fieldLe b 0x22 1, fieldLe b 0x24 4, fieldLe b 0x28 4⟩

/-- The bytes of channel `c` of pixel (x, y) of a record. -/
def shapedPixel (key : List Nat) (b : List Byte) (x y c : Nat) : List Byte :=
  let i := shapedInfo b
  let o := 64 + if i.lay = 0 then c * i.plane + y * i.row + x * i.size else y * i.row + (x * i.chans + c) * i.size
  (List.range i.size).map fun k => recByte key b (o + k)

/-- Elements of a token (R198). -/
def tokenElems (q : List Byte) (i : ShapedInfo) : Nat := fieldLe q 1 1 * fieldLe q 0 1 * fieldLe q 0 1 * i.chans

/-- Tokens of a record (R198). -/
def tokenCount (q : List Byte) (i : ShapedInfo) : Nat := (i.w / max 1 (fieldLe q 0 1)) * (i.h / max 1 (fieldLe q 0 1))

/-- The vectors of a group of records, `ts` bytes apart (R198, R201). -/
def tokenVectors (key : List Nat) (q : List Byte) (rs : List (List Byte)) : List Byte :=
  let i := shapedInfo (rs.headD [])
  let p := max 1 (fieldLe q 0 1)
  let gx := max 1 (i.w / p)
  let d := tokenElems q i
  let ts := tstride d (8 * i.size)
  (List.range (tokenCount q i)).flatMap fun n =>
    slice ((List.range d).flatMap fun k =>
      let c := k % max 1 i.chans
      let k := k / max 1 i.chans
      let col := k % p
      let row := k / p % p
      let f := k / p / p
      shapedPixel (key ++ [f]) (rs.getD f []) (n % gx * p + col) (n / gx * p + row) c) 0 ts

/-- The header of a token record (Table 8-2): `e` is the group's last entry, `again` completion by repetition. -/
def tokenHeader (q : List Byte) (rs : List (List Byte)) (e : Entry) (again : Bool) : List Byte :=
  let b := rs.headD []
  let i := shapedInfo b
  let p := max 1 (fieldLe q 0 1)
  let d := tokenElems q i
  slice b 0 32 ++ leBytes 8 e.body.sampleIndex.toNat ++ leBytes 4 e.body.tag.toNat ++ leBytes 2 e.slot ++
  leBytes 2 e.body.stream.toNat ++ slice b 0x2C 4 ++ leBytes 2 (rs.foldl (fun a r => a ||| fieldLe r 0x3A 2) 0) ++
  leBytes 2 (i.w / p) ++ leBytes 2 (i.h / p) ++ leBytes 2 0 ++ leBytes 4 (tokenCount q i) ++ leBytes 4 d ++
  leBytes 4 (tstride d (8 * i.size)) ++ leBytes 1 (otypeDt i.otype) ++ leBytes 1 (fieldLe q 1 1) ++ leBytes 1 (fieldLe q 0 1) ++
  leBytes 1 (b2n again) ++ List.replicate 52 (0 : Byte)

/-- Operations of a token record: 64 segments of 64 elements each (R202). -/
def tokenTiles (n d : Nat) : Nat := max 1 (ceilDiv (n * ceilDiv d 64) 64)

/-- The records that the open group of the candidate's stream holds, in order. -/
def groupRecords (s : State) (c : Cand) (ranks : List Nat) : List (List Byte) :=
  ranks.map fun r => match s.decodes.find? fun d => d.job = c.j ∧ d.member = c.h ∧ d.node = c.n ∧ d.rank = r with
    | some d => (d.pic.planes.headD []).map (BitVec.ofNat 8)
    | none => []

/-- Pictures of stream `t` in the open group of the candidate's node. -/
def streamGroup (s : State) (c : Cand) (t : Nat) : List Nat :=
  (nodeAt s c.j c.h c.n).group.filter fun r => (entryRank s c.j r).any fun e => e.opcode = 2 ∧ e.body.stream.toNat = t

/-- The pictures of the group that the candidate works on: those of the work begun, or the open group of stream `t`. -/
def groupOf (s : State) (c : Cand) (t : Nat) : List Nat :=
  match if c.tile = 0 then none else sget? (nodeAt s c.j c.h c.n).units c.rank with
  | some l => l.filter (· ≠ c.rank)
  | none => streamGroup s c t

/-- A picture that completes no group joins it and is passed over in packing (R199, R205). -/
def joinGroup (s : State) (c : Cand) (e : Entry) (b : List Byte) : State :=
  let s := putPicture s c { collectJob c with pic := { Picture.none with planes := [b.map (·.toNat)] } }
  let s := removeUnit (modNode s c.j c.h c.n fun t => { t with group := t.group ++ [c.rank] }) e.sq e.rank
  fenceClose (issue s c 1 id) e.sq

/-- The pictures of a group other than the completing entry need nothing further (R205). -/
def releaseGroup (s : State) (c : Cand) (ranks : List Nat) : State :=
  ranks.foldl (fun s r => match entryRank s c.j r with
    | some e => modEntry s e.sq e.slot fun y => { y with sinks := (entryNodes s c.j c.h 2).foldl nins y.sinks }
    | none => s) s

/-- The bytes [a, a + n) of vectors `ts` bytes apart, `d` elements of `b` bytes each, that segments 64 t to 64 t + 63 fill:
the last segment of a vector takes the bytes up to the next vector (R201, R202). -/
def segSpan (d b ts t total : Nat) : Nat × Nat :=
  let per := max 1 (ceilDiv d 64)
  let at' (k : Nat) : Nat := k / per * ts + k % per * 64 * b
  let hi := min total (64 * t + 64)
  (at' (64 * t), at' hi - at' (64 * t))

/-- The bytes of the vectors that operation `t` writes. -/
def tokenSpan (i : ShapedInfo) (q : List Byte) (t : Nat) : Nat × Nat :=
  let d := tokenElems q i
  segSpan d i.size (tstride d (8 * i.size)) t (tokenCount q i * ceilDiv d 64)

/-- What operation `c` on a complete group writes: its segments of the vectors, the first the header too (R201, R202). -/
def tokenWrites (s : State) (c : Cand) (outs : List (Nat × Nat)) (lastE : Entry) (key : List Nat) (rs : List (List Byte))
    (again : Bool) : List WByte :=
  let q := c.block s
  let sp := tokenSpan (shapedInfo (rs.headD [])) q c.tile
  let two := decide (outs.length = 2)
  (if c.tile = 0 then putAt s { c with outs := outs.take 1 } 0 (tokenHeader q rs lastE again) else []) ++
    putAt s { c with outs := if two then outs.drop 1 else outs } ((if two then 0 else 128) + sp.1) (slice (tokenVectors key q rs) sp.1 sp.2)

/-- The next operation on a complete group: pictures `ranks` before the last, records `rs`. -/
def groupOp (s : State) (c : Cand) (lastE : Entry) (ranks : List Nat) (rs : List (List Byte)) (again : Bool) : Option State :=
  let q := c.block s
  let i := shapedInfo (rs.headD [])
  let differ := rs.any fun r => let k := shapedInfo r; k.w ≠ i.w || k.h ≠ i.h || k.otype ≠ i.otype
  let all := ranks ++ if ranks.contains lastE.rank then [] else [lastE.rank]
  if differ then
    some (all.foldl (fun s r => match entryRank s c.j r with
      | some e => refuseEntry s e 0x0A45
      | none => s) (modNode s c.j c.h c.n fun t => { t with group := t.group.filter fun r => !all.contains r }))
  else
    let total := tokenTiles (tokenCount q i) (tokenElems q i)
    let slots := if c.tile = 0 then nextSlots s c else some c.outs
    match slots with
    | none => none
    | some outs =>
      let c' := { c with outs := outs }
      let ws := tokenWrites s c outs lastE [c.j, c.rank] rs again
      let s := if c.tile = 0 then modNode s c.j c.h c.n fun t => { t with
          group := t.group.filter fun r => !all.contains r, units := sput t.units c.rank all } else s
      let s := if c.tile + 1 < total then s
        else
          let s := releaseGroup s c (ranks.filter (· ≠ c.rank))
          { s with decodes := s.decodes.filter fun d => !(d.job = c.j && d.member = c.h && d.node = c.n && all.contains d.rank) }
      some (issueWrites s c' total ws [])

/-- A TOKENISE operation on a shaped picture (R198, R199). -/
def tokenisePicture (s : State) (c : Cand) (e : Entry) : Option State :=
  let q := c.block s
  let t := max 1 (fieldLe q 1 1)
  let x := edgeOf s c.j (c.node s).inFirst
  if c.fresh ∧ enabled s 0x00A = false then some (refuseEntry s e 0x0A24)
  else if earlierOpen s c e then none
  else
    let r := (Rd.start s).bytes (some (candOp s c false)) (c.home s) (slotAddr x (slotIn c (c.node s).inFirst)) (slotBytes x)
    let b := r.2
    let i := shapedInfo b
    let p := max 1 (fieldLe q 0 1)
    let ranks := groupOf s c e.body.stream.toNat
    if r.1.hit then none
    else if r.1.pois then some (consume r.1.st c [] r.1.lines)
    else if i.w % p ≠ 0 ∨ i.h % p ≠ 0 then some (refuseEntry r.1.st e 0x0A43)
    else if e.opcode = 1 then groupOp r.1.st c e [] (List.replicate t b) false
    else if ranks.length + 1 < t then some (joinGroup r.1.st c e b)
    else groupOp r.1.st c e ranks (groupRecords s c ranks ++ [b]) false

/-- A TOKENISE operation on a group that `END_STREAM` completes by repeating its last picture (R199). -/
def tokeniseEnd (s : State) (c : Cand) (e : Entry) : Option State :=
  let ranks := groupOf s c e.body.stream.toNat
  if c.fresh ∧ enabled s 0x00A = false then some (refuseEntry (ranks.foldl (fun s r => match entryRank s c.j r with
    | some x => refuseEntry s x 0x0A24
    | none => s) s) e 0x0A24)
  else match ranks.getLast?.bind (entryRank s c.j) with
  | none => none
  | some lastE =>
    let t := max 1 (fieldLe (c.block s) 1 1)
    let rs := groupRecords s c ranks
    groupOp s c lastE ranks (rs ++ List.replicate (t - rs.length) (rs.getLastD [])) true

/-- The `END_STREAM` entries, in the order of the ready set, homed on a member whose stream's group is part-filled and whose frames are all in it or
past the node. -/
def endCands (s : State) (p : Nat) : List Cand :=
  if podReady s p = false then []
  else
    let b := podAt s p
    let q := (job s b.job).members.length
    sortBy ((List.range (job s b.job).route.nodes.length).flatMap fun n =>
      let x := nodeOf s b.job n
      if x.isTokenise = false then []
      else (spanHomes x b.member q).flatMap fun h =>
        (s.entries.filter fun e => e.job = b.job ∧ e.opcode = 3 ∧ e.st = .waiting ∧ e.member = h).filterMap fun e =>
          let t := ((nodeAt s b.job h n).works.find? fun w => w.rank = e.rank).map (·.tile)
          let c : Cand := ⟨b.job, h, n, p, e.rank, e.task, t.getD 0, t.isNone, [], []⟩
          let waits := s.entries.any fun y => y.job = e.job && y.opcode = 2 && y.body.stream = e.body.stream && decide (y.rank < e.rank) &&
            decide (y.st ≠ .done) && !y.sinks.contains n
          if (groupOf s c e.body.stream.toNat).isEmpty || waits then none else some c) candBefore

/-- A TOKENISE operation. -/
def tokeniseOp (s : State) (c : Cand) : Option State :=
  if (c.node s).isTokenise = false then none
  else match c.entry s with
    | none => none
    | some e => if e.opcode = 3 then tokeniseEnd s c e else tokenisePicture s c e

/-- TOKENISE_TILE_OP on Pod `p`. -/
def doTokenise (s : State) (p : Nat) : State := tryAll s tokeniseOp (sortBy (candidates s p 4 ++ endCands s p) candBefore)

/-! ## PACK -/

/-- The work that may go into the batches of rings assembled on Pod `p`: ring r on member r mod P (R204), in the order of the
ready set, while the Pod has a slot (R51). -/
def packCands (s : State) (p : Nat) : List Cand :=
  if podReady s p = false then []
  else
    let b := podAt s p
    let q := (job s b.job).members.length
    match packNode (job s b.job).route with
    | none => []
    | some n =>
      sortBy (((List.range q).flatMap fun h => nodeCands s p b.job h n).filter fun c =>
        (entryRank s b.job c.rank).any fun e => e.sq % max 1 q = b.member) candBefore

/-- Rings of job `j` that hold an assembly slot. -/
def slotsUsed (s : State) (j : Nat) : List Nat := (s.sqs.filter fun x => sqJob s x.1 = j).filterMap fun x => x.2.asm.slot

/-- Whether a packing unit before entry `e` on its ring, or a `FENCE`, still has its place (R205, R207). -/
def unitWaits (s : State) (e : Entry) : Bool :=
  s.entries.any fun x => x.sq = e.sq && decide (x.rank < e.rank) && (unitOpen s x || (x.opcode = 5 && decide (x.st ≠ .done)))

/-- The row and first position that a unit of `count` tokens takes in the open batch of ring `n`, and whether the rows are
full without it (R206). -/
def unitPlace (s : State) (n : Nat) (q : List Byte) (count : Nat) : Nat × Nat × Bool :=
  let b := (sqAt s n).asm.openB
  if fieldLe q 0 2 < b.rowUsed + count then (b.row + 1, 0, decide (fieldLe q 2 2 ≤ b.row + 1)) else (b.row, b.rowUsed, false)

/-- Whether the area of the open batch of ring `n` is free of an earlier batch (R204, Table 8-8). -/
def areaFree (s : State) (n : Nat) : Bool :=
  let a := (sqAt s n).asm
  !(a.closed.any fun b => b.number % 2 = a.openB.number % 2)

/-- The unit takes its place in the open batch of ring `n`; the last sample closes it (R206). -/
def placeUnit (s : State) (n : Nat) (q : List Byte) (u : BatchUnit) : State :=
  let s := modSq s n fun a => { a with asm := { a.asm with openB :=
    let b := a.asm.openB
    { b with row := u.row, rowUsed := u.first + u.count, units := b.units ++ [u]
             firstTime := if b.units.isEmpty then s.time else b.firstTime } } }
  if (sqAt s n).asm.openB.units.length = fieldLe q 4 2 then closeBatch s n 1 else s

/-- Writes of `bs` at window byte `a` of job `j`. -/
def winWrites (s : State) (j a : Nat) (bs : List Byte) : List WByte :=
  ((winKeys s j a bs.length).zip bs).map fun x => ⟨x.1, x.2, 0xFF⟩

/-- What a PACK operation writes: its segments of the unit's tokens, with the last of them the sample record, and the batch's
assembly state, whose layout the spec does not give (R204, R210, log 33). -/
def packWrites (s : State) (c : Cand) (n : Nat) (u : BatchUnit) (toks : List Byte) (last : Bool) : List WByte :=
  let r := c.route s
  let x := c.node s
  let q := c.block s
  let el := packElems r x
  let ts := tstride el.1 el.2.1
  let b := (sqAt s n).asm.openB
  let sp := segSpan el.1 (el.2.1 / 8) ts c.tile (u.count * ceilDiv el.1 64)
  let area := areaAddr s n q b.number
  winWrites s c.j (tokenAddr s n r x b.number u.row u.first + sp.1) (slice toks sp.1 sp.2) ++
  (if last then winWrites s c.j (area + 64 + 64 * b.units.length) (slice (sampleRecord u) 0 64) else []) ++
  winWrites s c.j (area - 4096) ((List.range 4096).map fun i => BitVec.ofNat 8 (Config.unstated 33 [s.free, i]))

/-- What a PACK operation reads: the reader, the token record's header, and the bytes of its vectors (R203). -/
def packSource (s : State) (c : Cand) : Rd × List Byte × List Byte :=
  let x := c.node s
  let e0 := edgeOf s c.j x.inFirst
  let o := some (candOp s c false)
  let r := (Rd.start s).bytes o (c.home s) (slotAddr e0 (slotIn c x.inFirst)) (slotBytes e0)
  let head := (List.range 128).map (recByte [c.j, c.rank, 0] r.2)
  if x.inCount = 2 then
    let e1 := edgeOf s c.j (x.inFirst + 1)
    let v := r.1.bytes o (c.home s) (slotAddr e1 (slotIn c (x.inFirst + 1))) (slotBytes e1)
    (v.1, head, v.2)
  else (r.1, head, r.2.drop 128)

/-- The entries whose tokens a PACK operation places: the group of its work. -/
def packRanks (s : State) (c : Cand) : List Nat :=
  sgetD (nodeAt s c.j c.h ((packFeed s c.j).getD 0)).units c.rank [c.rank]

/-- The unit that a token record with header `head` becomes in the open batch of ring `n` (R206). -/
def packUnit (s : State) (c : Cand) (n : Nat) (head : List Byte) : BatchUnit :=
  let p := unitPlace s n (c.block s) (fieldLe head 0x3C 4)
  let ranks := packRanks s c
  let sample := (ranks.head?.bind (entryRank s c.j)).any fun y => y.opcode = 1
  ⟨ranks, if sample then 0 else fieldLe head 0x30 4 / max 1 (fieldLe head 0x49 1) % 65536, p.1, p.2.1, fieldLe head 0x3C 4, head⟩

/-- The bytes of a record's vectors; what its slot has no room for are free values (log 16). -/
def packTokens (s : State) (c : Cand) (head b : List Byte) : List Byte :=
  let el := packElems (c.route s) (c.node s)
  (List.range (fieldLe head 0x3C 4 * tstride el.1 el.2.1)).map (recByte [c.j, c.rank, 1] b)

/-- The assembly slot that ring `n` holds or takes (R204). -/
def packSlot (s : State) (c : Cand) (n : Nat) : Option Nat :=
  (sqAt s n).asm.slot.or ((List.range (fieldLe (c.block s) 0x0E 2)).find? fun k => !(slotsUsed s c.j).contains k)

/-- Whether the unit of entry `e` may be placed: every unit before it is, the batch's area is free, and the ring has a slot (R204,
R205). -/
def packMay (s : State) (c : Cand) (e : Entry) : Bool := !unitWaits s e && areaFree s e.sq && (packSlot s c e.sq).isSome

/-- A PACK operation: it copies its segments into the assembly area, and the last one places its unit (R204 to R207,
R210). -/
def packOp (s : State) (c : Cand) : Option State :=
  match c.entry s with
  | none => none
  | some e =>
    let q := c.block s
    let n := e.sq
    if c.fresh ∧ enabled s 0x00A = false then some (refuseEntry s e 0x0A24)
    else if packMay s c e = false then none
    else
      let feed := (packFeed s c.j).getD 0
      let ranks := packRanks s c
      let slot := packSlot s c n
      let r := packSource s c
      let count := fieldLe r.2.1 0x3C 4
      let total := tokenTiles count (packElems (c.route s) (c.node s)).1
      let s := r.1.st
      if r.1.hit then none
      else if r.1.pois then some (consume s c [] r.1.lines)
      else if fieldLe q 0 2 < count then
        let s := removeUnit s n c.rank
        let s := c.ins.foldl (fun s i => discardSlot s c.j (i.1 / 4096) (i.1 % 4096) i.2) s
        let s := modNode s c.j c.h feed fun t => { t with units := sdel t.units c.rank }
        let s := ranks.foldl (fun s k => match entryRank s c.j k with
          | some y => refuseEntry s y 0x0A44
          | none => s) s
        some (endStreams (fenceClose s n) c.j)
      else if (unitPlace s n q count).2.2 ∧ c.tile = 0 then some (closeBatch s n 2)
      else
        let u := packUnit s c n r.2.1
        let last := decide (c.tile + 1 ≥ total)
        let s := modSq s n fun y => { y with asm := { y.asm with slot := slot } }
        let s := draw (issueWrites s c total (packWrites s c n u (packTokens s c r.2.1 r.2.2) last) [])
        if last then
          let s := placeUnit s n q u
          let s := modSq s n fun y => { y with asm := { y.asm with placed := (c.rank :: ranks).foldl nins y.asm.placed } }
          let s := modNode s c.j c.h feed fun t => { t with units := sdel t.units c.rank }
          some (fenceClose s n)
        else some s

/-- The meaning of TOKENISE_TILE_OP. -/
def execTokeniseTileOp (p : Fin 100) (s : State) : Host.Outcome State Fault Refusal := .next (doTokenise s p.val)
/-- The meaning of PACK_TILE_OP. -/
def execPackTileOp (p : Fin 100) (s : State) : Host.Outcome State Fault Refusal := .next (tryAll s packOp (packCands s p.val))

end Sys2Proof.Machine
end

