-- ==== Sys2Proof/Machine/Dispatch.lean ====
section
/-! DEFINITION. One arm per command: a direct call of its meaning. -/

namespace Sys2Proof.Machine

/-- The effect of a command on everything but the queue. -/
def exec (i : Instr) (s : State) : Host.Outcome State Fault Refusal :=
  match i with
  | .coldResetAssert => Sys2Proof.Machine.execColdResetAssert s
  | .coldResetRelease => Sys2Proof.Machine.execColdResetRelease s
  | .pllLock => Sys2Proof.Machine.execPllLock s
  | .pllLockLoss => Sys2Proof.Machine.execPllLockLoss s
  | .powerLoss => Sys2Proof.Machine.execPowerLoss s
  | .warmResetAssert => Sys2Proof.Machine.execWarmResetAssert s
  | .warmResetRelease => Sys2Proof.Machine.execWarmResetRelease s
  | .startUpStepDone r => Sys2Proof.Machine.execStartUpStepDone r s
  | .aliveTick refreshed => Sys2Proof.Machine.execAliveTick refreshed s
  | .registerWrite addr data par => Sys2Proof.Machine.execRegisterWrite addr data par s
  | .pageEnableSet page => Sys2Proof.Machine.execPageEnableSet page s
  | .pageEnableClear page => Sys2Proof.Machine.execPageEnableClear page s
  | .pageDrain page => Sys2Proof.Machine.execPageDrain page s
  | .bind job route => Sys2Proof.Machine.execBind job route s
  | .unbind job => Sys2Proof.Machine.execUnbind job s
  | .save job atStage => Sys2Proof.Machine.execSave job atStage s
  | .restore job route => Sys2Proof.Machine.execRestore job route s
  | .jobCommandStart job image => Sys2Proof.Machine.execJobCommandStart job image s
  | .jobLoadComplete job => Sys2Proof.Machine.execJobLoadComplete job s
  | .drainComplete pod => Sys2Proof.Machine.execDrainComplete pod s
  | .saveCommit job => Sys2Proof.Machine.execSaveCommit job s
  | .sqDoorbell sq data => Sys2Proof.Machine.execSqDoorbell sq data s
  | .ringOn ring => Sys2Proof.Machine.execRingOn ring s
  | .cqOff cq mask => Sys2Proof.Machine.execCqOff cq mask s
  | .ringDrain sq => Sys2Proof.Machine.execRingDrain sq s
  | .ringDrainDone sq walk last => Sys2Proof.Machine.execRingDrainDone sq walk last s
  | .retry sq => Sys2Proof.Machine.execRetry sq s
  | .skip sq => Sys2Proof.Machine.execSkip sq s
  | .dropBatch sq => Sys2Proof.Machine.execDropBatch sq s
  | .cqHeadWrite cq data => Sys2Proof.Machine.execCqHeadWrite cq data s
  | .cqMaskWrite cq mask => Sys2Proof.Machine.execCqMaskWrite cq mask s
  | .slotRescanTimer sq => Sys2Proof.Machine.execSlotRescanTimer sq s
  | .entrySample sq opcode e aug => Sys2Proof.Machine.execEntrySample sq opcode e aug s
  | .entryFrame sq e aug => Sys2Proof.Machine.execEntryFrame sq e aug s
  | .entryEndStream sq e => Sys2Proof.Machine.execEntryEndStream sq e s
  | .entryTensor sq e => Sys2Proof.Machine.execEntryTensor sq e s
  | .entryFence sq e => Sys2Proof.Machine.execEntryFence sq e s
  | .entryMilepostSet sq e => Sys2Proof.Machine.execEntryMilepostSet sq e s
  | .entryMilepostClear sq e => Sys2Proof.Machine.execEntryMilepostClear sq e s
  | .entryMilepostWait sq e => Sys2Proof.Machine.execEntryMilepostWait sq e s
  | .entryMilepostTake sq e => Sys2Proof.Machine.execEntryMilepostTake sq e s
  | .entryNop sq e => Sys2Proof.Machine.execEntryNop sq e s
  | .fenceRelease sq => Sys2Proof.Machine.execFenceRelease sq s
  | .milepostTimeout sq slot => Sys2Proof.Machine.execMilepostTimeout sq slot s
  | .completionWrite cq => Sys2Proof.Machine.execCompletionWrite cq s
  | .coalTimerExpire cq => Sys2Proof.Machine.execCoalTimerExpire cq s
  | .ingestTileOp pod => Sys2Proof.Machine.execIngestTileOp pod s
  | .decodeTileOp pod => Sys2Proof.Machine.execDecodeTileOp pod s
  | .motionTileOp pod => Sys2Proof.Machine.execMotionTileOp pod s
  | .shapeTileOp pod => Sys2Proof.Machine.execShapeTileOp pod s
  | .layoutTileOp pod => Sys2Proof.Machine.execLayoutTileOp pod s
  | .tokeniseTileOp pod => Sys2Proof.Machine.execTokeniseTileOp pod s
  | .packTileOp pod => Sys2Proof.Machine.execPackTileOp pod s
  | .matrixTileOp pod => Sys2Proof.Machine.execMatrixTileOp pod s
  | .vectorTileOp pod => Sys2Proof.Machine.execVectorTileOp pod s
  | .sampleTileOp pod => Sys2Proof.Machine.execSampleTileOp pod s
  | .digestTileOp pod => Sys2Proof.Machine.execDigestTileOp pod s
  | .replicaLateTimer group => Sys2Proof.Machine.execReplicaLateTimer group s
  | .transferTileOp pod => Sys2Proof.Machine.execTransferTileOp pod s
  | .emitTileOp pod => Sys2Proof.Machine.execEmitTileOp pod s
  | .batchEmit sq dir => Sys2Proof.Machine.execBatchEmit sq dir s
  | .batchFlushTimer sq => Sys2Proof.Machine.execBatchFlushTimer sq s
  | .dirSlotRetry sq dir => Sys2Proof.Machine.execDirSlotRetry sq dir s
  | .verdict pod op r => Sys2Proof.Machine.execVerdict pod op r s
  | .scrubLine pod => Sys2Proof.Machine.execScrubLine pod s
  | .memResponse target kind data parityOk => Sys2Proof.Machine.execMemResponse target kind data parityOk s
  | .memTimeout port tag => Sys2Proof.Machine.execMemTimeout port tag s
  | .mergeHoldExpire pod => Sys2Proof.Machine.execMergeHoldExpire pod s
  | .multicastDeadline pod op => Sys2Proof.Machine.execMulticastDeadline pod op s
  | .writeFaultRetry => Sys2Proof.Machine.execWriteFaultRetry s
  | .xferResume xfer => Sys2Proof.Machine.execXferResume xfer s
  | .poolResponse a => Sys2Proof.Machine.execPoolResponse a s
  | .poolRetryTimer cls => Sys2Proof.Machine.execPoolRetryTimer cls s
  | .poolTimeout => Sys2Proof.Machine.execPoolTimeout s
  | .milepostSet id => Sys2Proof.Machine.execMilepostSet id s
  | .milepostClear id => Sys2Proof.Machine.execMilepostClear id s
  | .misuseZero id => Sys2Proof.Machine.execMisuseZero id s
  | .mpDump => Sys2Proof.Machine.execMpDump s
  | .arrive gate gen => Sys2Proof.Machine.execArrive gate gen s
  | .recover gate => Sys2Proof.Machine.execRecover gate s
  | .fail gate => Sys2Proof.Machine.execFail gate s
  | .tgCfgWrite gate data => Sys2Proof.Machine.execTgCfgWrite gate data s
  | .tollgateRelease gate => Sys2Proof.Machine.execTollgateRelease gate s
  | .halfEn port half cfg => Sys2Proof.Machine.execHalfEn port half cfg s
  | .portReset port => Sys2Proof.Machine.execPortReset port s
  | .halfResume port half => Sys2Proof.Machine.execHalfResume port half s
  | .heartbeatTimer => Sys2Proof.Machine.execHeartbeatTimer s
  | .heartbeat port peer => Sys2Proof.Machine.execHeartbeat port peer s
  | .portLost port => Sys2Proof.Machine.execPortLost port s
  | .write port ch slot line prov pois data => Sys2Proof.Machine.execWrite port ch slot line prov pois data s
  | .poison port ch slot line mask => Sys2Proof.Machine.execPoison port ch slot line mask s
  | .set port ch slot => Sys2Proof.Machine.execSet port ch slot s
  | .cwyArrive port ch gate => Sys2Proof.Machine.execCwyArrive port ch gate s
  | .credit port ch slot => Sys2Proof.Machine.execCredit port ch slot s
  | .ack port ch slot => Sys2Proof.Machine.execAck port ch slot s
  | .abort port ch code => Sys2Proof.Machine.execAbort port ch code s
  | .cwyBind port ch depth lines => Sys2Proof.Machine.execCwyBind port ch depth lines s
  | .courierSend port ch => Sys2Proof.Machine.execCourierSend port ch s
  | .courierForwardLine port ch => Sys2Proof.Machine.execCourierForwardLine port ch s
  | .fedCredit port ch => Sys2Proof.Machine.execFedCredit port ch s
  | .fedTakeTimeout port ch => Sys2Proof.Machine.execFedTakeTimeout port ch s
  | .suspectDrainDone => Sys2Proof.Machine.execSuspectDrainDone s
  | .mapOutDone pod => Sys2Proof.Machine.execMapOutDone pod s
  | .podTestDone pod r => Sys2Proof.Machine.execPodTestDone pod r s
  | .rollTimer => Sys2Proof.Machine.execRollTimer s
  | .swapCopyStart => Sys2Proof.Machine.execSwapCopyStart s
  | .swapCopyDone => Sys2Proof.Machine.execSwapCopyDone s
  | .load image => Sys2Proof.Machine.execLoad image s
  | .remove pack => Sys2Proof.Machine.execRemove pack s
  | .faultEvent source inst info ctx => Sys2Proof.Machine.execFaultEvent source inst info ctx s
  | .wireFault source inst high ctx => Sys2Proof.Machine.execWireFault source inst high ctx s
  | .wireFaultClear source inst => Sys2Proof.Machine.execWireFaultClear source inst s
  | .fltSevereClear mask => Sys2Proof.Machine.execFltSevereClear mask s
  | .fltCfgWrite addr data => Sys2Proof.Machine.execFltCfgWrite addr data s
  | .freeze on => Sys2Proof.Machine.execFreeze on s
  | .freezeTimeout => Sys2Proof.Machine.execFreezeTimeout s
  | .factory => Sys2Proof.Machine.execFactory s
  | .tstInj src => Sys2Proof.Machine.execTstInj src s
  | .ping tag => Sys2Proof.Machine.execPing tag s
  | .telemNow tag sensors => Sys2Proof.Machine.execTelemNow tag sensors s
  | .logFlush tag => Sys2Proof.Machine.execLogFlush tag s
  | .shutdown tag => Sys2Proof.Machine.execShutdown tag s
  | .fwUpdate tag addr xlat size image storeOk => Sys2Proof.Machine.execFwUpdate tag addr xlat size image storeOk s
  | .fwQuery tag => Sys2Proof.Machine.execFwQuery tag s
  | .pop => Sys2Proof.Machine.execPop s
  | .logFlushTimer => Sys2Proof.Machine.execLogFlushTimer s
  | .telemetrySnapshot sensors => Sys2Proof.Machine.execTelemetrySnapshot sensors s
  | .throttleTick sensors => Sys2Proof.Machine.execThrottleTick sensors s
  | .rootStep => Sys2Proof.Machine.execRootStep s
  | .pwrVreqAck => Sys2Proof.Machine.execPwrVreqAck s
  | .pwrSwAck pod level copyOk => Sys2Proof.Machine.execPwrSwAck pod level copyOk s
  | .switchTimeout pod => Sys2Proof.Machine.execSwitchTimeout pod s
  | .idleGateTimer pod => Sys2Proof.Machine.execIdleGateTimer pod s
  | .pwrIlimReq level => Sys2Proof.Machine.execPwrIlimReq level s
  | .pwrIlimReqFall => Sys2Proof.Machine.execPwrIlimReqFall s
  | .pwrNMaxWrite data => Sys2Proof.Machine.execPwrNMaxWrite data s
  | .droopDetect pod mv => Sys2Proof.Machine.execDroopDetect pod mv s
  | .droopRecover pod => Sys2Proof.Machine.execDroopRecover pod s
  | .droopCapExpire => Sys2Proof.Machine.execDroopCapExpire s
  | .rngProbe ctrl => Sys2Proof.Machine.execRngProbe ctrl s
  | .registerRead addr => Sys2Proof.Machine.execRegisterRead addr s
  | .blockResetRelease => Sys2Proof.Machine.execBlockResetRelease s
  | .sparePodTestDue pod => Sys2Proof.Machine.execSparePodTestDue pod s
  | .illegalFlit port flit parityOk => Sys2Proof.Machine.execIllegalFlit port flit parityOk s

end Sys2Proof.Machine
end

