-- ==== Sys2Proof/Machine/Step.lean ====
section
/-! DEFINITION. One step: the command at the front of the queue, or a tick of the time base on an empty queue. -/

namespace Sys2Proof.Machine

/-- One tick of the 100 MHz time base (spec/00_scope.md R8): it counts from cold-reset release and wraps after 64
bits (log 7); the Causeway links serve a turn (log 62). -/
def tick (s : State) : State := if s.pins.coldN then linkTurns { s with time := (s.time + 1) % 2 ^ 64 } else s

/-- One step of the block (log 7). -/
def step (s : State) : Host.Outcome State Fault Refusal :=
  match s.pending with
  | [] => .next (tick s)
  | c :: rest => exec c { s with pending := rest }

/-- The state with the command that a table word spells put at the front of its queue. -/
def State.withFetchWord (s : State) (nbits w : Nat) : State :=
  match decodeTableWord nbits w with
  | some c => { s with pending := c :: s.pending }
  | none => s

end Sys2Proof.Machine
end

