-- ==== Sys2Proof/Safety.lean ====
section
/-! DEFINITION. What a safe step is, in the terms the statements use. -/

namespace Sys2Proof.Machine

/-- A step that ends in a next state. -/
def completes (c : Instr) (s : State) : Prop := ∃ t, exec c s = .next t

/-- Command `c` completes at `s`, in a state with property `P`. -/
def Becomes (c : Instr) (s : State) (P : State → Prop) : Prop := ∃ t, exec c s = .next t ∧ P t

/-- Page `p` of `t` reports a refusal with this code and offset: `PAGE_REFUSE` (spec/19 R446). -/
def refused (t : State) (p code o : Nat) : Prop :=
  rg t p 0x010 % 2 ^ 30 = code + 2 ^ 16 * o ∧ bitN (rg t p 0x010) 31 = true

/-- Every byte of the Marrow slice of physical Pod `p` reads 0 in `t`, and every byte of another Pod as in `s`. -/
def zeroisedPod (s t : State) (p : Nat) : Prop :=
  ∀ a, sgetD t.marrow.bytes a 0 = if a / 6291456 = p then 0 else sgetD s.marrow.bytes a 0

/-- The arbiter serves ring `n`, the slot at its fetch index is device-owned with `EFLAGS` of `e`, and no entry of that slot
is still open (spec/03 R68, R70, R73). -/
def fetches (s : State) (n : Nat) (e : EntryBody) : Prop :=
  (∃ fresh, nextRing s = some (n, fresh)) ∧ e.eflags.getLsbD 0 = (sqAt s n).phase ∧
  entryAt s n (sqAt s n).fetch = none

/-- The slot at ring `n`'s fetch index has left the ring in `t`: the index moved on, turning the phase at the end, and a
completion slot is reserved (spec/03 R68, R72). -/
def fetchedOne (s t : State) (n : Nat) : Prop :=
  let wrap := decide ((sqAt s n).fetch + 1 ≥ sqSize s n)
  (sqAt t n).fetch = (if wrap then 0 else (sqAt s n).fetch + 1) ∧ (sqAt t n).phase = xor (sqAt s n).phase wrap ∧
  (cqAt t (sqCq s n)).reserved = (cqAt s (sqCq s n)).reserved + 1

/-- A final completion of the entry `e` at ring `n`'s fetch index is due in `t` (spec/03 R75, Table 3-3). -/
def dueFinal (s t : State) (n : Nat) (e : EntryBody) (status detail : Nat) : Prop :=
  ∃ d ∈ (cqAt t (sqCq s n)).due, d.sq = n ∧ d.slot = (sqAt s n).fetch ∧ d.tag = e.tag.toNat ∧ d.status = status ∧
    d.detail = detail ∧ d.final = true

/-- A stop in an entry of ring `n` fetched before rank `r` holds what is fetched after it (spec/03 R81). -/
def stopAhead (s : State) (n r : Nat) : Bool := s.entries.any fun x => x.sq = n && x.st = .stopped && decide (x.rank < r)

/-- The entry `e` of ring `n`'s fetch slot waits in `t` for the end of a stop (spec/03 R81, R82). -/
def suspendedIn (s t : State) (n : Nat) (e : EntryBody) (refusal : Nat) : Prop :=
  ∃ x, entryAt t n (sqAt s n).fetch = some x ∧ x.body = e ∧ x.st = .suspended ∧ x.refusal = refusal

/-- `t` holds the memory requests, transfers and pools of `s`: only the record of the last direct read may differ. -/
def memKept (s t : State) : Prop := t.mem = { s.mem with direct := t.mem.direct }

/-- The reactions of source `src` hold no block reset (spec/15 Table 15-2). -/
def noReset (s : State) (src : Nat) : Prop := bitN (rg s 1 (0x400 + 4 * src)) 18 = false ∧ bitN (rg s 1 (0x400 + 4 * src)) 26 = false

/-- No request is held, kept for repetition, or still to be sent for a buffer (spec/11 R275, R282). -/
def portsQuiet (s : State) : Prop := s.mem.held = [] ∧ s.mem.retry = [] ∧ s.mem.moves = []

/-- The transfer and the tile operation that a request serves (spec/11 R278). -/
def transferOf (r : MemReq) : Option (Nat × Nat) := match r.purpose with
  | .transfer x _ i _ => some (x, i)
  | _ => none

/-- The stream and the quarter of a parameter-set slot that a read serves (spec/04 R102). -/
def paramOf (r : MemReq) : Option (Nat × Nat) := match r.purpose with
  | .param k x q => some (k, 4 * x + q)
  | _ => none

/-- Whether a request is a write of which an `OKAY` has no further effect: a completion, a message, a stream's context, a log
record or telemetry (spec/11 Table 11-2). -/
def plainWrite (r : MemReq) : Bool := r.write && match r.purpose with
  | .completion _ _ _ none | .message _ | .context _ _ _ | .log | .telemetry | .firmware => true
  | _ => false

/-- Whether a faulted write is kept and repeated: completions, directory records, messages and contexts (spec/11 R282). -/
def repeated (r : MemReq) : Bool := r.write && match r.purpose with
  | .completion _ _ _ _ | .directory _ | .message _ | .context _ _ _ => true
  | _ => false

/-- The job that a write which is not performed ends (spec/11 Table 11-2, R271). -/
def endsJob (s : State) (r : MemReq) : Option Nat := if r.write = false then none else match r.purpose with
  | .transfer _ _ i _ => (opAt s i).map (·.job)
  | .completion _ n _ _ | .directory n => some (sqJob s n)
  | .context _ j _ => some j
  | .commit j _ => if (job s j).st = .saving then some j else none
  | _ => none

/-- Nothing but its own rules keeps a tile operation from running: no line or accumulator tile is poisoned, no line is provisional or
in error, no Pod is being copied, and the next number is not in use (spec/11 R263, R265, spec/14 R345, R353). -/
def calm (s : State) : Prop :=
  s.marrow.poison = [] ∧ s.marrow.prov = [] ∧ s.marrow.ecc = [] ∧ s.marrow.accPoison = [] ∧ s.itg.rollPhase ≠ 3 ∧
  opAt s s.nextOp = none

/-- The work of candidate `c`, at operation `c.tile` of `total`, stands at the next one in `t`, or after the last is off its node's
list (spec/02 R51). -/
def workMoved (t : State) (c : Cand) (total : Nat) : Prop :=
  ((nodeAt t c.j c.h c.n).works.find? fun w => w.rank = c.rank).map (·.tile) = if c.tile + 1 < total then some (c.tile + 1) else none

/-- Operation `num` of the work of `c`, the last if `c.tile` is the last of `total`, is in flight in `t`: the bytes `ws` stand in
Marrow, their lines are provisional until its verdict, and every other byte is as in `s` (spec/11 R265, spec/14 R341). -/
def issued (s t : State) (c : Cand) (num total : Nat) (ws : List WByte) : Prop :=
  s.nextOp < t.nextOp ∧ (∀ o ∈ s.ops, o ∈ t.ops) ∧
  (∃ o, opAt t s.nextOp = some o ∧ o.pod = c.p ∧ o.job = c.j ∧ o.member = c.h ∧ o.node = c.n ∧ o.rank = c.rank ∧
    o.tile = num ∧ o.lines = wLines ws ∧ o.last = decide (total ≤ c.tile + 1)) ∧ workMoved t c total ∧
  (∀ l, l ∈ t.marrow.prov ↔ l ∈ wLines ws) ∧ t.marrow.poison = [] ∧
  (∀ w ∈ ws, w.mask = 0xFF → (∀ v ∈ ws, v.key = w.key → v = w) → t.marrow.byte w.key = w.val) ∧
  (∀ k, (∀ w ∈ ws, w.key ≠ k) → t.marrow.byte k = s.marrow.byte k) ∧ t.pods = s.pods ∧ t.gates = s.gates

/-- The same, of an operation of a station that sends no requests and ends no entry. -/
def computed (s t : State) (c : Cand) (total : Nat) (ws : List WByte) : Prop :=
  issued s t c c.tile total ws ∧ t.mem = s.mem ∧ t.entries = s.entries

/-- An operation of the work of `c` is in flight in `t` in transfer `x`, with its requests `rs` on the ports or held for merging
(spec/11 R274, R275, R282). -/
def sends (s t : State) (c : Cand) (total x : Nat) (rs : List MemReq) : Prop :=
  t.nextOp = s.nextOp + 1 ∧ t.marrow = s.marrow ∧ t.pods = s.pods ∧ t.gates = s.gates ∧ t.entries = s.entries ∧
  (∃ o, opAt t s.nextOp = some o ∧ o.pod = c.p ∧ o.job = c.j ∧ o.member = c.h ∧ o.node = c.n ∧ o.rank = c.rank ∧
    o.tile = c.tile ∧ o.xfer = some x ∧ o.sent = rs ∧ o.awaiting = rs.length ∧ o.last = decide (total ≤ c.tile + 1)) ∧
  workMoved t c total ∧ (∃ y, xferNum t x = some y ∧ y.state = 1) ∧
  ∀ r ∈ rs, ∃ q ∈ t.mem.reqs ++ t.mem.held, r.purpose ∈ q.purpose :: q.also

/-- A write of `data` at `a` for `pu` stands in `t`: outstanding, waiting, or kept behind a faulted write of its area. -/
def writes (t : State) (a : Nat) (data : List Byte) (xlat cls pod : Nat) (pu : Purpose) : Prop :=
  ∃ q ∈ t.mem.reqs ++ t.mem.held ++ t.mem.retry, q.write = true ∧ q.purpose = pu ∧
    q.addr = (writeReq a data xlat cls pod 0 pu).addr ∧ q.data = (writeReq a data xlat cls pod 0 pu).data ∧
    q.mask = (writeReq a data xlat cls pod 0 pu).mask ∧ q.xlat = xlat

/-- The stored registers whose write does no more than store it, in a block that is neither in self-test nor halted: argument
and selector registers, gated registers of a disabled page, and the registers of a ring that is off or of an unbound half
(spec/19 Table 19-4, spec/03 R90, spec/13 R330). -/
def storesOnly (s : State) (p o : Nat) : Bool :=
  (decide (o = 0x018) && pageKind p ≠ some 0xF0) || match pageKind p with
  | some 0x00 => decide (0x900 ≤ o ∧ o < 0x920)
  | some 0x03 => decide (o = 0x080 ∨ o = 0x088 ∨ (0x804 ≤ o ∧ o < 0x840)) ||
      (decide ((0x400 ≤ o ∧ o < 0x800) ∨ (0x840 ≤ o ∧ o < 0x880)) && !enabled s 3)
  | some 0x08 | some 0x09 | some 0x0A | some 0x0C => decide (0x020 ≤ o ∧ o < 0x400) || (decide (0x400 ≤ o) && !enabled s p)
  | some 0x0B => decide (o ≠ 0x800)
  | some 0x0D => decide (0x400 ≤ o ∧ o < 0x500 ∧ o % 0x20 ≠ 0 ∧ (halfAt s (pageInst p) ((o - 0x400) / 0x20)).st = .unbound)
  | some 0x10 => decide (0x400 ≤ o ∧ o < 0x800 ∧ o % 0x40 ≠ 0 ∧ (sqAt s ((p - 0x100) * 16 + (o - 0x400) / 0x40)).st = .disabled)
  | some 0x20 => decide (0x400 ≤ o ∧ o < 0x800 ∧ o % 0x40 ≠ 0 ∧ (cqAt s ((p - 0x200) * 16 + (o - 0x400) / 0x40)).on = false)
  | some 0x30 => decide (o = 0x024)
  | some 0x50 => p = 0x580 && (decide (o = 0x024) || (decide (0x400 ≤ o) && !enabled s p))
  | _ => false

/-- The writes that change nothing: of an unassigned page or one the Steward keeps, of a read-only header word, of a gated
register of an enabled page, and in `HALTED` those R449 does not apply (spec/19 R439, R441, R449, Table 19-4). -/
def writeIgnored (s : State) (p o w : Nat) : Bool :=
  pageKind p = none || pageKind p = some 0xF0 || decide (o < 0x008 ∨ o = 0x00C ∨ o = 0x01C) ||
  ([some 0x08, some 0x09, some 0x0A, some 0x0C].contains (pageKind p) && decide (0x400 ≤ o) && enabled s p) ||
  (pageKind p = some 0x03 && decide (0x400 ≤ o ∧ o < 0x800) && enabled s 3) ||
  (s.blk.st = .halted && !haltedOk p o w && !(w1cWrite s p o w).2)

/-- The command that a write of `w` to a command register gives: doorbells and heads, the controls of rings, pages, jobs,
transfers, gates, Mileposts, ports, halves and packs, and the registers whose write is a command of its own (spec/02 Table 2-7,
spec/03 Tables 3-10, 3-11, spec/11 R284, spec/12 Tables 12-9, 12-10, spec/13 Table 13-7, spec/14 R358, spec/16 R389, R401). -/
def commandOf (p o : Nat) (w : Word) : Option Instr :=
  let v := w.toNat
  let go (x : Nat) : Bool := decide (v = 2 ^ 31 + x)
  if o = 0x008 then
    if v = 1 then some (.pageEnableSet (BitVec.ofNat 12 p)) else if v = 0 then some (.pageEnableClear (BitVec.ofNat 12 p)) else none
  else match pageKind p with
  | some 0x00 =>
    if o = 0x980 ∧ v = 2 then some .pop
    else if o = 0x61C ∧ v / 2 ^ 16 = 2 ^ 15 + 2 then some (.remove (BitVec.ofNat 16 v)) else none
  | some 0x01 =>
    if o = 0x028 then some (.fltSevereClear w)
    else if o = 0x048 ∧ v ≤ 1 then some (.freeze (v = 1))
    else if o = 0x034 ∨ (0x400 ≤ o ∧ o < 0x484) then some (.fltCfgWrite (BitVec.ofNat 10 (o / 4)) w) else none
  | some 0x02 => if o = 0x40C then some (.pwrNMaxWrite w) else none
  | some 0x03 =>
    let j := BitVec.ofNat 8 v
    if o = 0x800 ∧ go (2 * 2 ^ 8 + v % 2 ^ 8) then some (.unbind j)
    else if o = 0x800 ∧ go (3 * 2 ^ 8 + v % 2 ^ 8) then some (.save j false)
    else if o = 0x800 ∧ go (3 * 2 ^ 8 + 2 ^ 16 + v % 2 ^ 8) then some (.save j true)
    else if o = 0x880 ∧ go (v % 2 ^ 12) then some (.xferResume (BitVec.ofNat 12 v)) else none
  | some 0x0B => if o = 0x800 ∧ 2 ^ 31 ≤ v then some (.rngProbe w) else none
  | some 0x0D =>
    let k := BitVec.ofNat 3 (pageInst p)
    if o = 0x024 ∧ v = 1 then some (.portReset k)
    else if o = 0x024 ∧ v < 32 ∧ v % 4 = 2 then some (.halfResume k (BitVec.ofNat 3 (v / 4)))
    else if 0x400 ≤ o ∧ o < 0x500 ∧ o % 0x20 = 0 ∧ v % 2 = 1 then some (.halfEn k (BitVec.ofNat 3 ((o - 0x400) / 0x20)) w)
    else none
  | some 0x10 =>
    if 0x020 ≤ o ∧ o < 0x060 then some (.sqDoorbell (BitVec.ofNat 12 ((p - 0x100) * 16 + (o - 0x020) / 4)) w)
    else if 0x400 ≤ o ∧ o < 0x800 ∧ o % 0x40 = 0 then
      let n := BitVec.ofNat 12 ((p - 0x100) * 16 + (o - 0x400) / 0x40)
      match v with
      | 1 => some (.ringOn (.sq n))
      | 2 => some (.ringDrain n)
      | 0x10 => some (.retry n)
      | 0x20 => some (.skip n)
      | 0x30 => some (.dropBatch n)
      | _ => none
    else none
  | some 0x20 =>
    if 0x020 ≤ o ∧ o < 0x060 then some (.cqHeadWrite (BitVec.ofNat 10 ((p - 0x200) * 16 + (o - 0x020) / 4)) w)
    else if 0x400 ≤ o ∧ o < 0x800 ∧ o % 0x40 = 0 ∧ v < 4 then
      let c := BitVec.ofNat 10 ((p - 0x200) * 16 + (o - 0x400) / 0x40)
      some (if v % 2 = 1 then .ringOn (.cq c (v = 3)) else .cqOff c (v = 2))
    else none
  | some 0x30 =>
    let b := BitVec.ofNat 8 v
    if 0x400 ≤ o ∧ o < 0x800 then some (.tgCfgWrite (BitVec.ofNat 8 ((o - 0x400) / 4)) w)
    else if o = 0x020 ∧ go (2 ^ 8 + v % 2 ^ 8) then some (.arrive b false)
    else if o = 0x020 ∧ go (2 ^ 11 + 2 ^ 8 + v % 2 ^ 8) then some (.arrive b true)
    else if o = 0x020 ∧ go (2 * 2 ^ 8 + v % 2 ^ 8) then some (.recover b)
    else if o = 0x020 ∧ go (3 * 2 ^ 8 + v % 2 ^ 8) then some (.fail b) else none
  | some 0x50 =>
    let i := BitVec.ofNat 18 v
    if p ≠ 0x580 then none
    else if o = 0x044 ∧ 2 ^ 31 ≤ v then some .mpDump
    else if o = 0x020 ∧ go (v % 2 ^ 18) then some (.milepostSet i)
    else if o = 0x020 ∧ go (2 ^ 18 + v % 2 ^ 18) then some (.milepostClear i)
    else if o = 0x020 ∧ go (2 ^ 19 + v % 2 ^ 18) then some (.misuseZero i) else none
  | _ => none

/-- The Marrow tables keep their canonical form: rising keys and no listed zero (spec/11 R262). -/
def Marrow.wf (m : Marrow) : Bool :=
  canon m.bytes 0 && nrising m.poison && nrising m.prov && canon m.ecc 0 && canon m.acc 0 && nrising m.accPoison

/-- The register tables keep their canonical form: rising keys, and no counter listed at 0. -/
def RegFile.wf (r : RegFile) : Bool :=
  rising r.words && nrising r.rsv && canon r.live 0 && rising r.latched && rising r.hi

/-- The root multiplier and its target lie within 24 to 48 (spec/01 R31). -/
def Power.wf (p : Power) : Bool :=
  decide (24 ≤ p.rootN ∧ p.rootN ≤ 48 ∧ 24 ≤ p.targetN ∧ p.targetN ≤ 48)

/-- The invariant of every step: canonical registers and Marrow, a root multiplier in range, and 100 physical Pods
(spec/01 R16). -/
structure Inv (s : State) : Prop where
  regs : s.regs.wf = true
  marrow : s.marrow.wf = true
  pwr : s.pwr.wf = true
  pods : s.pods.length = 100

end Sys2Proof.Machine
end

