-- ==== Sys2Proof/Certificates/Slice0/Obligations.lean ====
section
/-! DEFINITION. The statements for the provers. -/

open Sys2Proof Sys2Proof.Machine

/-! ## Steps and invariants -/

/-- One step with a command at the front of the queue is that command on the state with the queue's rest. -/
def Obligations.StepRunsFront : Prop :=
  ∀ (c : Instr) (rest : List Instr) (s : State),
    step { s with pending := c :: rest } = exec c { s with pending := rest }

/-- On an empty queue a step is one tick of the time base, which counts while cold reset is released; each open Causeway port
serves a turn of its link: one waiting flit leaves, in the order of its channel (R8, R322; that the idle step ticks is the
model's choice, log 7, and so is the turn at each tick, log 62). -/
def Obligations.IdleStepTicks : Prop :=
  ∀ s : State, s.pending = [] →
    (s.pins.coldN = false → step s = .next s) ∧
    (s.pins.coldN = true → ∃ t, step s = .next t ∧ t = { s with time := (s.time + 1) % 2 ^ 64, cwy := t.cwy } ∧
      (portOpen s = false → t.cwy = s.cwy) ∧
      ∀ k, let c := portAt s k
        let d := portAt t k
        d.st = c.st ∧ d.peerId = c.peerId ∧ d.halves = c.halves ∧
        ((d.tx = c.tx ∧ d.link = c.link ∧ (portOpen s = false ∨ ∀ f ∈ c.tx, f.kind ≠ 1 ∧ 4 ≤ f.ch)) ∨
          ∃ i f, c.tx[i]? = some f ∧ d.tx = c.tx.eraseIdx i ∧ d.link = c.link ++ [f] ∧
            ∀ j < i, ∀ g, c.tx[j]? = some g → if f.kind = 1 then g.kind ≠ 1 else g.ch ≠ f.ch))

/-- No command is ever refused, and a command faults exactly when it is not well-formed (the model's choice of
operands, log 1). -/
def Obligations.WellFormedCompletes : Prop :=
  ∀ (c : Instr) (s : State),
    (c.wf = true → ∃ t, exec c s = .next t) ∧ (c.wf = false → exec c s = .fault .illFormed)

/-- The state after reset meets the invariant. -/
def Obligations.ResetInvariant : Prop := Inv State.reset

/-- Every step keeps the invariant: register tables and Marrow in canonical form, the root multiplier and its target
within 24 to 48 (R31), 100 physical Pods. -/
def Obligations.StepInvariant : Prop := ∀ s t : State, Inv s → step s = .next t → Inv t

/-- A command is taken once: no meaning adds to the queue, takes from it or changes its order. -/
def Obligations.CommandsTakenInOrder : Prop :=
  ∀ s t : State, Inv s → step s = .next t → t.pending = s.pending.tail

/-! ## Resets and start-up -/

/-- COLD_RESET_ASSERT, POWER_LOSS and WARM_RESET_ASSERT: what the outputs become, what is lost and what stays
(R404, R410, R412, Table 17-6). -/
def Obligations.ResetsAssert : Prop :=
  ∀ s : State,
    Becomes .coldResetAssert s (fun t =>
      t.blk = State.reset.blk ∧ t.regs = State.reset.regs ∧ t.marrow = State.reset.marrow ∧ t.mps = State.reset.mps ∧
      t.mem = State.reset.mem ∧ t.flt = State.reset.flt ∧ t.rng = State.reset.rng ∧ t.itg = State.reset.itg ∧
      t.jobs = [] ∧ t.gates = [] ∧ t.entries = [] ∧ t.ops = [] ∧ t.sqs = [] ∧ t.cqs = [] ∧ t.streams = [] ∧
      t.cache = [] ∧ t.cwy = [] ∧ t.time = 0 ∧ t.pins.coldN = false ∧ t.pins.present = false ∧ t.pins.alive = false ∧
      t.pins.rstReq = false ∧ t.pins.warmN = s.pins.warmN ∧ t.stw.log = s.stw.log ∧ t.stw.logSeq = s.stw.logSeq) ∧
    Becomes .powerLoss s (fun t =>
      t.blk = State.reset.blk ∧ t.regs = State.reset.regs ∧ t.marrow = State.reset.marrow ∧ t.jobs = [] ∧
      t.pods = s.pods.map (fun _ => Pod.reset) ∧ t.pins.coldN = false ∧ t.pins.present = false ∧ t.stw.log = s.stw.log) ∧
    (s.pins.coldN = true → Becomes .warmResetAssert s (fun t =>
      t.pins.warmN = false ∧ t.pins.present = false ∧ t.pins.alive = false ∧ t.pins.rstReq = false ∧
      t.blk = { s.blk with resetBy := .warm } ∧ t.mem.reqs = [] ∧ t.mem.held = [] ∧ t.mem.retry = [] ∧
      t.pwr.ilimAck = false ∧ (∀ p ∈ t.pods, p.swReq = false ∧ p.isolated = true) ∧
      t.marrow = s.marrow ∧ t.regs = s.regs ∧ t.jobs = s.jobs ∧ t.mps = s.mps ∧ t.flt = s.flt ∧ t.stw = s.stw))

/-- COLD_RESET_RELEASE, PLL_LOCK and PLL_LOCK_LOSS: the time base restarts at 0, `COLD` lasts until the PLL locks, and a
lock lost later is a `CLOCK` event that leaves `LOCKED` at 1 (R8, R404, R421, Table 1-8). -/
def Obligations.ColdReleaseAndLock : Prop :=
  ∀ s : State,
    (s.pins.coldN = false → Becomes .coldResetRelease s (fun t =>
      t.pins = { s.pins with coldN := true } ∧ t.time = 0 ∧ t.blk.st = s.blk.st ∧ t.blk.lastRst = 0 ∧
      t.regs = s.regs ∧ t.pods = s.pods ∧ t.marrow = s.marrow)) ∧
    (s.pins.coldN = true → s.blk.st = .cold → Becomes .pllLock s (fun t =>
      t.blk = { s.blk with st := .selfTest, step := 1 } ∧ t.pwr = { s.pwr with locked := true } ∧ t.regs = s.regs ∧
      t.pods = s.pods ∧ t.marrow = s.marrow ∧ t.time = s.time)) ∧
    (s.pwr.locked = true → s.blk.st ≠ .cold → Becomes .pllLockLoss s (fun t =>
      t.pwr.locked = true ∧ t.flt.active.getLsbD 23 = true ∧ t.marrow = s.marrow ∧ t.jobs = s.jobs))

/-- WARM_RESET_RELEASE and BLOCK_RESET_RELEASE run start-up from step 3 with `BLK_PRESENT` high; rings, entries, streams
and the Marrow are cleared, saved jobs stay saved, every other job is gone, and `LAST_RST` tells the reset
(R405, R411 to R413, R416, Table 17-6). A block whose boot ROM serves runs none of the steps (R409). -/
def Obligations.ResetsRelease : Prop :=
  ∀ s : State,
    let cleared (t : State) (last : Nat) : Prop :=
      t.blk.st = .selfTest ∧ t.blk.resetBy = .none ∧ t.blk.lastRst = last ∧ t.pins.present = true ∧ t.pins.alive = false ∧
      t.entries = [] ∧ t.ops = [] ∧ t.sqs = [] ∧ t.cqs = [] ∧ t.streams = [] ∧ t.cache = [] ∧ t.gates = [] ∧ t.cwy = [] ∧
      t.marrow = State.reset.marrow ∧ t.mps = State.reset.mps ∧
      (s.stw.active ≠ 2 → s.blk.st ≠ .selfTest → t.blk.step = 3) ∧ (s.stw.active = 2 → t.blk.step = 2) ∧
      (∀ e ∈ t.jobs, e.2.st = .saved ∧ e.2.members = [] ∧ ∃ b ∈ s.jobs, b.1 = e.1 ∧
        (b.2.st = .saving ∨ b.2.st = .saved) ∧ e.2.ctxAddr = b.2.ctxAddr ∧ e.2.ctxSize = b.2.ctxSize ∧
        e.2.ctxCrc = b.2.ctxCrc) ∧
      (∀ b ∈ s.jobs, (b.2.st = .saving ∨ b.2.st = .saved) → ∃ e ∈ t.jobs, e.1 = b.1)
    (s.pins.warmN = false → s.pins.coldN = true → s.blk.st ≠ .cold → Becomes .warmResetRelease s (fun t =>
      cleared t 1 ∧ t.pins.warmN = true ∧ t.blk.warmCnt = min 65535 (s.blk.warmCnt + 1))) ∧
    (s.blk.resetBy = .block → Becomes .blockResetRelease s (fun t => cleared t 2 ∧ t.blk.warmCnt = s.blk.warmCnt))

/-- The Wayside log survives warm and block resets; a cold reset empties it (R379). -/
def Obligations.LogSurvivesWarmResets : Prop :=
  ∀ s : State,
    let kept (t : State) : Prop :=
      t.flt.newest = s.flt.newest ∧ ∀ k, (sget? t.flt.log k).map waysideBytes = (sget? s.flt.log k).map waysideBytes
    Becomes .warmResetAssert s kept ∧ Becomes .warmResetRelease s kept ∧ Becomes .blockResetRelease s kept ∧
    Becomes .coldResetAssert s (fun t => t.flt.log = [])

/-- START_UP_STEP_DONE: a passed step leads to the next, and the last to `READY` with every Pod in service `IDLE`; a Pod that
fails is mapped out with cause 7; the failures of Table 17-5 lead to `ROADSIDE` with their code and every Pod off
(R405 to R407, R418, R435, R436, R242). -/
def Obligations.StartUpSteps : Prop :=
  ∀ (s : State) (r : StepResult), r.wf = true → s.blk.st = .selfTest → s.blk.resetBy = .none →
    let roadside (code : Nat) : Prop := Becomes (.startUpStepDone r) s (fun t => t.blk.st = .roadside ∧ t.blk.bootCode = code ∧
      t.blk.readyTime = s.time ∧ ∀ p ∈ t.pods, p.st = .off ∧ p.swReq = false ∧ p.isolated = true)
    (s.blk.step = 1 → Becomes (.startUpStepDone r) s (fun t => t.pins.present = true ∧
      (fusesOk r.fuses = true → t.blk.st = .selfTest ∧ t.blk.step = 2 ∧ t.pwr.fusedGuard = bits (fuseWord r.fuses 11) 15 8) ∧
      (fusesOk r.fuses = false → t.blk.st = .roadside ∧ t.blk.bootCode = 0x0068 ∧
        ∀ p ∈ t.pods, p.st = .off ∧ p.swReq = false))) ∧
    (s.blk.step = 1 → fusesOk r.fuses = true → s.stw.log = [] → Inv s → Becomes (.startUpStepDone r) s (fun t =>
      ∀ p < 100, (podAt t p).role = fuseRole r.fuses p ∧
        (fuseRole r.fuses p = 0 → (podAt t p).logical = ((List.range p).filter fun k => fuseRole r.fuses k = 0).length) ∧
        (fuseRole r.fuses p ≠ 0 → (podAt t p).logical = 127))) ∧
    (s.blk.step = 2 → s.blk.lastRst = 0 → Becomes (.startUpStepDone r) s (fun t =>
      (r.storeKind ≠ .okay → t.blk.st = .roadside ∧ t.blk.bootCode = 0x0061 ∧ t.stw.active = 2) ∧
      (r.storeKind = .okay → t.stw.active = chooseSlot (readSlot r.slotA) (readSlot r.slotB) ∧
        (t.stw.active = 2 → t.blk.st = .roadside ∧ t.blk.bootCode = 0x0060) ∧
        (t.stw.active ≠ 2 → t.blk.st = .selfTest ∧ t.blk.step = 3 ∧
          (Inv s → ∀ p < 100, (podAt s p).role ≤ 1 → (podAt t p).st = .test ∧ (podAt t p).swReq = true))))) ∧
    (s.blk.step = 2 → s.blk.lastRst ≠ 0 → s.stw.active = 2 → roadside 0x0060) ∧
    (s.blk.step = 3 → s.blk.lastRst = 0 → r.sharedFail = true → roadside 0x0062) ∧
    (s.blk.step = 4 → s.blk.lastRst = 0 → r.sharedFail = true → roadside 0x0063) ∧
    (s.blk.step = 5 → r.sharedFail = true → roadside 0x0064) ∧
    (s.blk.step = 6 → r.sharedFail = true → roadside 0x0065) ∧
    (r.podFails = [] → testedPods s = [] → r.sharedFail = false → 3 ≤ s.blk.step → s.blk.step ≤ 6 → roadside 0x0066) ∧
    (r.podFails = [] → testedPods s ≠ [] → s.blk.step = 3 ∨ s.blk.step = 4 → (r.sharedFail = false ∨ s.blk.lastRst ≠ 0) →
      exec (.startUpStepDone r) s = .next { s with blk := { s.blk with step := s.blk.step + 1 } }) ∧
    (r.podFails = [] → testedPods s ≠ [] → s.blk.step = 5 → r.sharedFail = false → Inv s →
      Becomes (.startUpStepDone r) s (fun t =>
        t.blk = { s.blk with step := 6 } ∧ t.rng.tableOk = true ∧ enabled t 0x00B = true ∧
        t.rng.table = (if s.rng.table.isEmpty then chardTable else s.rng.table) ∧
        (∀ p < 100, podAt t p = if (podAt s p).role ≤ 1 then { podAt s p with copyOk := true } else podAt s p) ∧
        t.jobs = s.jobs ∧ t.marrow = s.marrow ∧ t.stw = s.stw)) ∧
    (r.podFails = [] → s.blk.step = 6 → r.sharedFail = false → s.itg.needSpare = [] → activeCount s ≠ 0 → Inv s →
      Becomes (.startUpStepDone r) s (fun t =>
        t.blk = { s.blk with st := .ready, step := 7, readyTime := s.time } ∧
        (∀ p < 100, inService s p = true → (podAt t p).st = .idle ∧ (podAt t p).logical = (podAt s p).logical) ∧
        (∀ p < 100, (podAt s p).role = 1 → (podAt t p).st = .off ∧ (podAt t p).swReq = false ∧ (podAt t p).testTime = s.time) ∧
        enabled t 2 = true ∧ enabled t 3 = true ∧ enabled t 0x020 = true ∧ rg t 0 0x600 = 24 ∧
        rg t 2 0x408 = (s.pwr.fusedGuard + 50 * 2 ^ 8) % 2 ^ 32 ∧ t.jobs = s.jobs ∧ t.marrow = s.marrow ∧ t.rng = s.rng)) ∧
    (3 ≤ s.blk.step → s.blk.step ≤ 6 → r.sharedFail = false → Inv s → noReset s 22 → ∀ p ∈ r.podFails, (podAt s p.val).role ≤ 1 →
      Becomes (.startUpStepDone r) s (fun t =>
        (podAt t p.val).role = 3 ∧ (podAt t p.val).logical = 127 ∧ (podAt t p.val).cause = 7 ∧ (podAt t p.val).st = .off ∧
        t.flt.active.getLsbD 22 = true))

/-- ALIVE_TICK: `BLK_ALIVE` changes level in the states of R417 while the Steward refreshes its liveness word, and stays
where it is otherwise. Nothing else changes. -/
def Obligations.AliveTicks : Prop :=
  ∀ s : State,
    (s.blk.st ≠ .cold → s.blk.st ≠ .selfTest → s.blk.resetBy = .none →
      exec (.aliveTick true) s = .next { s with pins := { s.pins with alive := !s.pins.alive } }) ∧
    exec (.aliveTick false) s = .next s ∧
    ((s.blk.st = .cold ∨ s.blk.st = .selfTest) → exec (.aliveTick true) s = .next s)

/-! ## Control port and pages -/

/-- REGISTER_WRITE: a write of a stored register stores its writable bits and notes a reserved bit, and changes nothing else; a
write that its page ignores changes only the port's answer; a write of a command register runs that command; a write with bad
parity is answered as an error and raises the control-port parity source (R10, R388, R427, R428, R449, R456, Table 19-4). -/
def Obligations.RegisterWriteStores : Prop :=
  ∀ (s : State) (w : Word), Inv s → ctlReady s = true → s.blk.st ≠ .selfTest →
    let u : State := { s with pins := { s.pins with ctlData := 0, ctlErr := false } }
    (s.blk.st ≠ .halted → ∀ p, (pageKind p).isSome = true → pageKind p ≠ some 0xF0 →
      Becomes (.registerWrite (BitVec.ofNat 22 (p * 1024 + 6)) w (wordPar w)) s (fun t =>
        t.pins = u.pins ∧ rgw t p 0x018 = w ∧
        (∀ p' o', wa p' o' ≠ wa p 0x018 → rgw t p' o' = rgw s p' o') ∧ t.regs.live = s.regs.live ∧ t.pods = s.pods ∧
        t.jobs = s.jobs ∧ t.sqs = s.sqs ∧ t.cqs = s.cqs ∧ t.marrow = s.marrow ∧ t.mps = s.mps ∧ t.mem = s.mem ∧ t.flt = s.flt)) ∧
    (s.blk.st ≠ .halted → ∀ (a : BitVec 22) (f : RegFmt), regFmt (a.toNat / 1024) (a.toNat % 1024 * 4) = some f →
      storesOnly s (a.toNat / 1024) (a.toNat % 1024 * 4) = true →
      let p := a.toNat / 1024
      let o := a.toNat % 1024 * 4
      Becomes (.registerWrite a w (wordPar w)) s (fun t =>
        rg t p o = (w.toNat &&& f.rw) ||| (rg s p o &&& (0xFFFFFFFF - f.rw)) ∧ rsvSet t p o = decide (w.toNat &&& f.rsv ≠ 0) ∧
        (∀ p' o', wa p' o' ≠ wa p o → rgw t p' o' = rgw s p' o' ∧ rsvSet t p' o' = rsvSet s p' o') ∧
        t = { u with regs := { s.regs with words := t.regs.words, rsv := t.regs.rsv } })) ∧
    (∀ a : BitVec 22, writeIgnored s (a.toNat / 1024) (a.toNat % 1024 * 4) w.toNat = true →
      exec (.registerWrite a w (wordPar w)) s = .next u) ∧
    (s.blk.st ≠ .halted → ∀ (a : BitVec 22) (c : Instr), commandOf (a.toNat / 1024) (a.toNat % 1024 * 4) w = some c →
      exec (.registerWrite a w (wordPar w)) s = exec c u) ∧
    (∀ (c : Instr) (op : Nat) (tag : BitVec 16), (c = .ping tag ∧ op = 1) ∨ (c = .logFlush tag ∧ op = 3) ∨
        (c = .shutdown tag ∧ op = 4) ∨ (c = .fwQuery tag ∧ op = 6) →
      rg s 0 0x900 = op + 2 ^ 16 * tag.toNat → (∀ i < 8, 0 < i → rg s 0 (0x900 + 4 * i) = 0) →
      exec (.registerWrite (BitVec.ofNat 22 0x248) 0x80000000 (wordPar 0x80000000)) s = exec c u) ∧
    ∀ (a : BitVec 22) (par : BitVec 4), par ≠ wordPar w → Becomes (.registerWrite a w par) s (fun t =>
      t.pins.ctlErr = true ∧ t.flt.active.getLsbD 8 = true ∧
      (s.blk.st ≠ .halted → t.marrow = s.marrow ∧ t.jobs = s.jobs ∧ t.sqs = s.sqs))

/-- A read returns the register's word, and changes no ring, job, memory or Marrow; a read of `TG_STATE` is how the host
observes a release (R12, R313, R427). -/
def Obligations.RegisterReadReturns : Prop :=
  ∀ (s : State) (a : BitVec 22), ctlReady s = true →
    Becomes (.registerRead a) s (fun t =>
      t.pins.ctlData = BitVec.ofNat 32 (readWord s (a.toNat / 1024) (a.toNat % 1024 * 4)) ∧ t.pins.ctlErr = false ∧
      t.regs.live = s.regs.live ∧ t.regs.latched = s.regs.latched ∧ t.blk = s.blk ∧ t.pods = s.pods ∧ t.jobs = s.jobs ∧
      t.sqs = s.sqs ∧ t.cqs = s.cqs ∧ t.marrow = s.marrow ∧ t.mem = s.mem ∧ t.flt = s.flt ∧ t.entries = s.entries ∧
      (∀ g, gateAt t g = gateAt s g ∨ (gateAt t g = { gateAt s g with unseen := false } ∧ a.toNat = 0x020 * 1024 + 0x200 + g)))

/-- R408: in `COLD` no transaction is accepted; in `SELF_TEST` every register reads its value, a write of a W1C field clears
bits (`PAGE_ERR` of every page among them) and every other write is ignored; doorbells and mailbox commands are ignored in
both, and a mailbox command has its reply from `ROADSIDE` or `READY` onwards. -/
def Obligations.ColdAndSelfTestPort : Prop :=
  ∀ s : State,
    (s.blk.st = .cold → ∀ a w par, exec (.registerWrite a w par) s = .next s ∧ exec (.registerRead a) s = .next s) ∧
    (s.blk.st = .selfTest → s.blk.resetBy = .none →
      (∀ a : BitVec 22, Becomes (.registerRead a) s (fun t => t.pins.ctlErr = false ∧
        t.pins.ctlData = BitVec.ofNat 32 (readWord s (a.toNat / 1024) (a.toNat % 1024 * 4)))) ∧
      (∀ (a : BitVec 22) (w : Word), (w1cWrite s (a.toNat / 1024) (a.toNat % 1024 * 4) w.toNat).2 = false →
        exec (.registerWrite a w (wordPar w)) s = .next { s with pins := { s.pins with ctlData := 0, ctlErr := false } }) ∧
      (∀ (a : BitVec 22) (w : Word), let u := { s with pins := { s.pins with ctlData := 0, ctlErr := false } }
        (pageKind (a.toNat / 1024)).isSome = true → pageKind (a.toNat / 1024) ≠ some 0xF0 →
        (w1cWrite u (a.toNat / 1024) (a.toNat % 1024 * 4) w.toNat).2 = true →
        exec (.registerWrite a w (wordPar w)) s = .next (w1cWrite u (a.toNat / 1024) (a.toNat % 1024 * 4) w.toNat).1) ∧
      (∀ (p : Nat) (w : Word), Inv s → (pageKind p).isSome = true → pageKind p ≠ some 0xF0 →
        Becomes (.registerWrite (BitVec.ofNat 22 (p * 1024 + 5)) w (wordPar w)) s (fun t =>
          rgw t p 0x014 = rgw s p 0x014 &&& ~~~ w ∧ t.jobs = s.jobs ∧ t.pods = s.pods ∧ t.sqs = s.sqs ∧ t.mem = s.mem))) ∧
    (s.blk.resetBy = .none → s.blk.st = .roadside ∨ s.blk.st = .ready ∨ s.blk.st = .running → s.stw.mbx.length < 8 → ∀ g,
      Becomes (.ping g) s (fun t => t.stw.mbx.length = s.stw.mbx.length + 1)) ∧
    ((s.blk.st = .cold ∨ s.blk.st = .selfTest) →
      (∀ n w, exec (.sqDoorbell n w) s = .next s) ∧
      (∀ g x a l z i o, x.wf = true → i.wf = true →
        exec (.ping g) s = .next s ∧ exec (.telemNow g x) s = .next s ∧ exec (.logFlush g) s = .next s ∧
        exec (.shutdown g) s = .next s ∧ exec (.fwUpdate g a l z i o) s = .next s ∧ exec (.fwQuery g) s = .next s))

/-- PAGE_ENABLE_SET and PAGE_ENABLE_CLEAR: an accepted check sets `ENABLE`, a failed one refuses with its code and offset
and leaves it 0; a page whose users are gone is disabled (R442 to R444, R446). -/
def Obligations.PageEnableChanges : Prop :=
  ∀ (s : State) (p : BitVec 12), Inv s → ctrlOpen s p.toNat = true → pageCaps p.toNat % 2 = 1 →
    (enabled s p.toNat = false → Becomes (.pageEnableSet p) s (fun t =>
      (pageCheck s p.toNat = none → enabled t p.toNat = true) ∧
      (∀ code o, pageCheck s p.toNat = some (code, o) → enabled t p.toNat = false ∧
        rgw t p.toNat 0x010 = BitVec.ofNat 32 (code + 2 ^ 16 * (o % 4096) +
          2 ^ 30 * b2n (bitN (rg s p.toNat 0x010) 31 || bitN (rg s p.toNat 0x010) 30) + 2 ^ 31)) ∧
      t.jobs = s.jobs ∧ t.sqs = s.sqs ∧ t.cqs = s.cqs ∧ t.pods = s.pods ∧ t.mem = s.mem)) ∧
    (enabled s p.toNat = true → pageKind p.toNat ≠ some 0x10 →
      (pageKind p.toNat = some 0x03 → s.jobs.all (fun b => b.2.st = .none) = true) →
      (pageKind p.toNat = some 0x08 → s.streams = []) → (pageKind p.toNat = some 0x0C → halves s = []) →
      (pageKind p.toNat = some 0x20 → ∀ i < 16, (cqAt s ((p.toNat - 0x200) * 16 + i)).on = false) →
      Becomes (.pageEnableClear p) s (fun t => enabled t p.toNat = false ∧ t.jobs = s.jobs ∧ t.sqs = s.sqs ∧
        t.cqs = s.cqs ∧ t.pods = s.pods ∧ t.mem = s.mem))

/-- PAGE_DRAIN of a submission ring page: every ring of the page that is not `DISABLED` drains; on a page without the drain
capability it is refused with the page kind's code FF (R84, R442). -/
def Obligations.PageDrainDrainsRings : Prop :=
  ∀ (s : State) (p : BitVec 12), Inv s → ctrlOpen s p.toNat = true →
    (0x100 ≤ p.toNat → p.toNat ≤ 0x1FF → enabled s p.toNat = true → Becomes (.pageDrain p) s (fun t =>
      ∀ i < 16, (sqAt t ((p.toNat - 0x100) * 16 + i)).st =
        if (sqAt s ((p.toNat - 0x100) * 16 + i)).st = .disabled then .disabled else .draining)) ∧
    (∀ k, pageKind p.toNat = some k → bitN (pageCaps p.toNat) 1 = false → Becomes (.pageDrain p) s (fun t =>
      refused t p.toNat (k * 2 ^ 8 + 0xFF) 0x008 ∧ t.sqs = s.sqs ∧ t.cqs = s.cqs ∧ t.jobs = s.jobs ∧ t.pods = s.pods ∧
      t.mem = s.mem))

/-! ## Rings -/

/-- RING_ON, CQ_OFF, CQ_MASK_WRITE and CQ_HEAD_WRITE: a ring whose check passes turns on at slot 0 with phase 1, a
completion ring that no ring names turns off, the mask is stored, a head within the unread completions is stored and any
other only sets `PAGE_ERR`[1] (R77, R78, R90). -/
def Obligations.RingControls : Prop :=
  ∀ s : State, Inv s → portLive s = true →
    (∀ n : BitVec 12, (sqAt s n.toNat).st = .disabled →
      sqCheck (storeReg s (sqPage n.toNat) (ringOfs n.toNat 0) 1) n.toNat = none →
      Becomes (.ringOn (.sq n)) s (fun t => sqAt t n.toNat = Sq.opened ∧
        (∀ m, m ≠ n.toNat → sqAt t m = sqAt s m) ∧ t.cqs = s.cqs ∧ t.jobs = s.jobs ∧ t.mem = s.mem)) ∧
    (∀ (c : BitVec 10) (m : Bool), (cqAt s c.toNat).on = false →
      cqCheck (storeReg s (cqPage c.toNat) (ringOfs c.toNat 0) (1 + 2 * b2n m)) c.toNat = none →
      Becomes (.ringOn (.cq c m)) s (fun t => cqAt t c.toNat = { Cq.empty with on := true, phase := true } ∧
        cqHeadLin t c.toNat = 0 ∧ (∀ d, d ≠ c.toNat → cqAt t d = cqAt s d) ∧ t.sqs = s.sqs ∧ t.jobs = s.jobs)) ∧
    (∀ (c : BitVec 10) (m : Bool), (cqAt s c.toNat).on = true →
      cqNamed (storeReg s (cqPage c.toNat) (ringOfs c.toNat 0) (2 * b2n m)) c.toNat = false →
      Becomes (.cqOff c m) s (fun t => cqAt t c.toNat = Cq.empty ∧ (∀ d, d ≠ c.toNat → cqAt t d = cqAt s d) ∧
        t.sqs = s.sqs ∧ t.mem = s.mem)) ∧
    (∀ (c : BitVec 10) (m : Bool), Becomes (.cqMaskWrite c m) s (fun t =>
      bitN (cqr t c.toNat 0x00) 1 = m ∧ t.cqs = s.cqs ∧ t.sqs = s.sqs ∧ t.jobs = s.jobs)) ∧
    (∀ (c : BitVec 10) (w : Word), Becomes (.cqHeadWrite c w) s (fun t =>
      let size := cqSize s c.toNat
      let pos := bits w.toNat 15 0 + (if bitN w.toNat 16 then size else 0)
      let ok : Prop := (cqAt s c.toNat).on = false ∨
        (bits w.toNat 15 0 < size ∧ (pos + 2 * size - cqHeadLin s c.toNat) % (2 * size) ≤ cqUsed s c.toNat)
      (ok → rg t (cqPage c.toNat) (0x020 + 4 * (c.toNat % 16)) = w.toNat &&& 0x1FFFF) ∧
      (¬ ok → rg t (cqPage c.toNat) (0x020 + 4 * (c.toNat % 16)) = rg s (cqPage c.toNat) (0x020 + 4 * (c.toNat % 16)) ∧
        bitN (rg t (cqPage c.toNat) 0x014) 1 = true) ∧ t.cqs = s.cqs ∧ t.sqs = s.sqs ∧ t.mem = s.mem))

/-- SQ_DOORBELL and SLOT_RESCAN_TIMER set the scan flags of a ring that may fetch, and nothing else changes (R71, R459). -/
def Obligations.DoorbellAndRescan : Prop :=
  ∀ (s : State) (n : BitVec 12) (w : Word),
    (portLive s = true → s.blk.shut = false → s.blk.st ≠ .roadside →
      (sqAt s n.toNat).st = .active ∨ (sqAt s n.toNat).st = .stopped →
      Becomes (.sqDoorbell n w) s (fun t =>
        sqAt t n.toNat = (if (sqAt s n.toNat).scan then { sqAt s n.toNat with rescan := true }
          else { sqAt s n.toNat with scan := true, rescan := (sqAt s n.toNat).rescan || s.blk.st = .draining }) ∧
        (∀ m, m ≠ n.toNat → sqAt t m = sqAt s m) ∧ t.cqs = s.cqs ∧ t.entries = s.entries ∧ t.jobs = s.jobs ∧
        t.regs = s.regs ∧ t.mem = s.mem)) ∧
    (working s = true → (sqAt s n.toNat).st = .active → (sqAt s n.toNat).backoff = true →
      Becomes (.slotRescanTimer n) s (fun t =>
        sqAt t n.toNat = { sqAt s n.toNat with scan := true, backoff := false } ∧
        (∀ m, m ≠ n.toNat → sqAt t m = sqAt s m) ∧ t.cqs = s.cqs ∧ t.entries = s.entries ∧ t.mem = s.mem)) ∧
    ((sqAt s n.toNat).st = .disabled ∨ (sqAt s n.toNat).st = .draining → exec (.sqDoorbell n w) s = .next s)

/-- RING_DRAIN and RING_DRAIN_DONE: a ring that is not `DISABLED` drains and fetches nothing more; each device-owned entry the
walk finds owes a final completion in slot order; a walk that finds none on a ring that owes no completion disables it (R84). -/
def Obligations.RingDrains : Prop :=
  ∀ (s : State) (n : BitVec 12), Inv s → portLive s = true →
    ((sqAt s n.toNat).st = .active ∨ (sqAt s n.toNat).st = .stopped → Becomes (.ringDrain n) s (fun t =>
      (sqAt t n.toNat).st = .draining ∧ (sqAt t n.toNat).scan = false ∧ (sqAt t n.toNat).rescan = false ∧
      (sqAt t n.toNat).fence = none ∧ (sqAt t n.toNat).walked = false ∧ (sqAt t n.toNat).drainStatus = stAborted ∧
      (∀ k e, entryAt t n.toNat k = some e → e.st = .done) ∧ t.pods = s.pods ∧ t.gates = s.gates)) ∧
    (∀ last, last = .okay ∨ last = .poison → (sqAt s n.toNat).st = .draining → (sqAt s n.toNat).walked = false →
      s.entries.all (fun e => e.sq ≠ n.toNat) = true →
      (cqAt s (sqCq s n.toNat)).due.all (fun d => d.sq ≠ n.toNat) = true →
      Becomes (.ringDrainDone n [] last) s (fun t => (sqAt t n.toNat).st = .disabled ∧ t.cqs = s.cqs ∧
        t.entries = s.entries ∧ t.jobs = s.jobs ∧ t.marrow = s.marrow)) ∧
    (∀ walk last, last = .okay ∨ last = .poison → (sqAt s n.toNat).st = .draining → (sqAt s n.toNat).walked = false →
      walk ≠ [] → walk.length < sqSize s n.toNat → (sqAt s n.toNat).fetch < sqSize s n.toNat →
      Becomes (.ringDrainDone n walk last) s (fun t =>
        (sqAt t n.toNat).st = .draining ∧ (sqAt t n.toNat).walked = true ∧
        (sqAt t n.toNat).fetch = ((sqAt s n.toNat).fetch + walk.length) % sqSize s n.toNat ∧
        (∀ i e, walk[i]? = some e → ∃ d ∈ (cqAt t (sqCq s n.toNat)).due, d.sq = n.toNat ∧
          d.slot = ((sqAt s n.toNat).fetch + i) % sqSize s n.toNat ∧ d.tag = e.tag.toNat ∧
          d.status = (sqAt s n.toNat).drainStatus ∧ d.final = true ∧ d.reserved = false) ∧
        t.entries = s.entries ∧ t.jobs = s.jobs ∧ t.marrow = s.marrow ∧ t.pods = s.pods))

/-- RETRY, SKIP and DROP_BATCH run a `STOPPED` ring again: RETRY processes the stop entry from its source bytes again, with
nothing of it left in flight; SKIP and DROP_BATCH end it with a final `STOPPED_CORRUPT` and remove its packing unit, and
DROP_BATCH ends every entry of the open batch `ABORTED` and consumes its number; what the stop suspended goes on
(R81, R82, R211, Table 3-5). On a ring that is not `STOPPED` they only set `PAGE_ERR`[2]. -/
def Obligations.ResumeActions : Prop :=
  ∀ (s : State) (n : BitVec 12) (e : Entry), Inv s → portLive s = true →
    ((sqAt s n.toNat).st = .stopped → entryAt s n.toNat (sqAt s n.toNat).stopSlot = some e → e.st = .stopped → e.opcode ≤ 2 →
      (∀ x ∈ s.entries, x.sq = n.toNat → x.st = .stopped → x = e) →
      let goOn (t : State) : Prop := ∀ k y, entryAt s n.toNat k = some y → y.st = .suspended → y.opcode ≤ 2 ∨ y.opcode = 4 →
        y.refusal = 0 → ∃ x, entryAt t n.toNat k = some x ∧ x.st ≠ .suspended ∧ x.rank = y.rank ∧ x.task = y.task
      (entryDone s { e with sinks := [] } = false → e.rank < 2 ^ 64 → Becomes (.retry n) s (fun t =>
        (sqAt t n.toNat).st = .active ∧ goOn t ∧
        (∃ x, entryAt t n.toNat e.slot = some x ∧ x.st = .running ∧ x.body = e.body ∧ x.rank = e.rank ∧ x.task = e.task ∧
          x.stage = e.stage ∧ x.member = e.member ∧ x.sinks = [] ∧ x.placed = 0 ∧ x.concealed = 0 ∧ x.stopKind = 0) ∧
        (∀ o ∈ t.ops, ¬ (o.job = e.job ∧ o.rank = e.rank)) ∧ (∀ d ∈ t.decodes, ¬ (d.job = e.job ∧ d.rank = e.rank)) ∧
        t.marrow.bytes = s.marrow.bytes ∧ t.pods = s.pods ∧ t.gates = s.gates)) ∧
      ∀ c : Instr, c = .skip n ∨ c = .dropBatch n → Becomes c s (fun t => (sqAt t n.toNat).st = .active ∧ goOn t ∧
        e.rank ∈ (sqAt t n.toNat).asm.removed ∧ (∃ x, entryAt t n.toNat e.slot = some x ∧ x.st = .done) ∧
        (∃ d ∈ (cqAt t (sqCq s n.toNat)).due, d.sq = n.toNat ∧ d.slot = e.slot ∧ d.tag = e.body.tag.toNat ∧
          d.status = stCorrupt ∧ d.final = true ∧ d.detail = e.stopKind ∧ d.count = e.stopOfs ∧ d.info = stopInfo s n.toNat) ∧
        (∀ b, jobPack s e.job = some b → c = .dropBatch n →
          (sqAt t n.toNat).asm.openB = Batch.fresh (((sqAt s n.toNat).asm.openB.number + 1) % 2 ^ 32) ∧
          ∀ u ∈ (sqAt s n.toNat).asm.openB.units, ∀ r ∈ u.ranks, ∀ y, entryRank s e.job r = some y → y.rank ≠ e.rank →
            y.sq = n.toNat → entryAt s n.toNat y.slot = some y → y.st ≠ .done →
            ∃ d ∈ (cqAt t (sqCq s n.toNat)).due, d.sq = n.toNat ∧ d.slot = y.slot ∧ d.tag = y.body.tag.toNat ∧
              d.status = stAborted ∧ d.final = true) ∧
        t.marrow.bytes = s.marrow.bytes ∧ t.pods = s.pods)) ∧
    ((sqAt s n.toNat).st = .active → ∀ c : Instr, c = .retry n ∨ c = .skip n ∨ c = .dropBatch n →
      Becomes c s (fun t => bitN (rg t (sqPage n.toNat) 0x014) 2 = true ∧ t.sqs = s.sqs ∧ t.cqs = s.cqs ∧
        t.entries = s.entries ∧ t.mem = s.mem))

/-- COMPLETION_WRITE, COAL_TIMER_EXPIRE, FENCE_RELEASE and MILEPOST_TIMEOUT: the next due completion is written to the slot at
the tail, which moves on, and a final one gives its entry's slot back (R68, R74 to R77); a timer makes a ring signal (R78); a
fence ends and lets its ring fetch again; a timed-out wait ends, and a timed-out `TAKE` counts as misuse (R66, R296, R307). -/
def Obligations.RingEvents : Prop :=
  ∀ s : State, portLive s = true →
    (∀ (c : BitVec 10) (d : Due), (cqAt s c.toNat).on = true → behind s (some (0, c.toNat)) = false →
      nextDue s c.toNat = some d →
      let q := cqAt s c.toNat
      let written (t : State) : Prop :=
        writes t (cqr s c.toNat 0x08 + 2 ^ 32 * cqr s c.toNat 0x0C + 32 * q.tail) (completionBytes d q.phase s.time)
          (cqr s c.toNat 0x20) 1 127 (.completion c.toNat d.sq d.slot d.xfer) ∧
        (cqAt t c.toNat).due = q.due.erase d ∧
        (cqAt t c.toNat).tail = (if q.tail + 1 ≥ cqSize s c.toNat then 0 else q.tail + 1) ∧
        (cqAt t c.toNat).phase = xor q.phase (decide (q.tail + 1 ≥ cqSize s c.toNat)) ∧
        (cqAt t c.toNat).reserved = (if d.reserved then q.reserved - 1 else q.reserved) ∧
        (∀ k, k ≠ c.toNat → cqAt t k = cqAt s k) ∧ t.jobs = s.jobs ∧ t.marrow = s.marrow
      (d.final = false → Becomes (.completionWrite c) s (fun t => written t ∧ t.sqs = s.sqs ∧ t.entries = s.entries)) ∧
      (d.final = true → d.reserved = true → (entryAt s d.sq d.slot).isSome = true → Becomes (.completionWrite c) s (fun t =>
        written t ∧ t.entries = s.entries.filter fun x => !(x.sq = d.sq && x.slot = d.slot)))) ∧
    (∀ c : BitVec 10, (cqAt s c.toNat).on = true → (cqAt s c.toNat).timing = true →
      bits (cqr s c.toNat 0x10) 31 16 ≠ 0 → Becomes (.coalTimerExpire c) s (fun t =>
        cqAt t c.toNat = { cqAt s c.toNat with irqPend := true, since := 0, timing := false } ∧
        (∀ k, k ≠ c.toNat → cqAt t k = cqAt s k) ∧ t.sqs = s.sqs ∧ t.entries = s.entries)) ∧
    (∀ (n : BitVec 12) (k : Nat) (f : Entry), (sqAt s n.toNat).fence = some k → entryAt s n.toNat k = some f →
      f.st ≠ .done → s.entries.any (fun e => e.sq = n.toNat && decide (e.rank < f.rank)) = false →
      Becomes (.fenceRelease n) s (fun t => (sqAt t n.toNat).fence = none ∧
        finalDue f stOk 0 0 (2 ^ 32 * 0xFFFFFFFF) ∈ (cqAt t (sqCq s n.toNat)).due ∧ t.marrow = s.marrow ∧ t.jobs = s.jobs)) ∧
    (∀ (n : BitVec 12) (slot : BitVec 16) (w : Waiter) (e : Entry),
      s.mps.waiters.find? (fun v => v.src = .ring n.toNat slot.toNat) = some w →
      entryAt s n.toNat slot.toNat = some e → e.st ≠ .done → Becomes (.milepostTimeout n slot) s (fun t =>
        (∀ v ∈ t.mps.waiters, v ≠ w) ∧ (w.take = false → t.mps.recs = s.mps.recs) ∧
        (w.take = true → (∀ k, k ≠ w.id → mpAt t k = mpAt s k) ∧ (mpAt t w.id).value = (mpAt s w.id).value ∧
          (mpAt t w.id).misTake = min 255 ((mpAt s w.id).misTake + 1)) ∧
        finalDue e stTimeout 0 0 0 ∈ (cqAt t (sqCq s n.toNat)).due ∧ t.jobs = s.jobs ∧ t.sqs = s.sqs))

/-! ## Jobs -/

/-- BIND: accepted, the job is `BINDING` with the Pods, route, window and seed of the argument registers; refused, it
sets `REFUSED`, reports its code and changes no job (R44 to R46, Tables 2-5, 2-7, 2-9). -/
def Obligations.BindRules : Prop :=
  ∀ (s : State) (j : BitVec 8) (r : HostRead), Inv s → portOpen s = true → r.wf = true →
    let a := jobStore s j.toNat 1 false
    let refusedJob (code : Nat) : Prop := Becomes (.bind j r) s (fun t =>
      t.jobs = s.jobs ∧ bitN (rg t 3 0x800) 30 = true ∧ refused t 3 code 0x800)
    (∀ code, jobGateCheck a = some code → refusedJob code) ∧
    (jobGateCheck a = none →
      ((job s j.toNat).st ≠ .none → refusedJob 0x034B) ∧
      ((job s j.toNat).st = .none → r.kind = .okay →
        (∀ x, setChecks a (parseRoute r.bytes) = some x → Becomes (.bind j r) s (fun t =>
          t.jobs = s.jobs ∧ bitN (rg t 3 0x800) 30 = true ∧ rg t 3 0x010 % 65536 = x.1 % 65536 ∧
          rg t 3 0x834 = x.2.1 % 2 ^ 32 ∧ rg t 3 0x830 = x.2.2 % 2 ^ 32)) ∧
        (setChecks a (parseRoute r.bytes) = none → Becomes (.bind j r) s (fun t =>
          (job t j.toNat).st = .binding ∧ (job t j.toNat).members = argPods a ∧
          (job t j.toNat).route = parseRoute r.bytes ∧ (job t j.toNat).window = rg a 3 0x824 ∧
          (job t j.toNat).seed = rg64 a 3 0x828 ∧
          (job t j.toNat).active = some (argCmd a .bind false (parseRoute r.bytes)) ∧
          (∀ k, k ≠ j.toNat → job t k = job s k) ∧ t.blk.st = .running ∧ t.marrow = s.marrow ∧ t.gates = s.gates ∧
          t.mps = s.mps ∧ t.sqs = s.sqs ∧ t.cqs = s.cqs ∧ t.entries = s.entries))))

/-- UNBIND, SAVE and RESTORE accepted: the job's Pods drain and its gates are free (UNBIND), its Pods drain now or the
command waits for a stage (SAVE, R54), a saved job restores (RESTORE); UNBIND and SAVE of a job in `NONE` are refused
with 0x034B (Table 2-9). -/
def Obligations.JobCommandsAccepted : Prop :=
  ∀ (s : State) (j : BitVec 8), Inv s → portOpen s = true → working s = true → enabled s 3 = true →
    let b := job s j.toNat
    let a := jobStore s j.toNat 3 false
    (b.st = .none → ∀ c : Instr, c = .unbind j ∨ (∃ x, c = .save j x) → Becomes c s (fun t =>
      t.jobs = s.jobs ∧ bitN (rg t 3 0x800) 30 = true ∧ refused t 3 0x034B 0x800 ∧ t.pods = s.pods)) ∧
    (b.st = .bound → b.queued = [] → b.active = none →
      ((∃ p ∈ jobPods s j.toNat, (podAt s p).st = .bound) → Becomes (.unbind j) s (fun t =>
        (job t j.toNat).st = .unbinding ∧ (job t j.toNat).active = some unbindCmd ∧ (job t j.toNat).reason = 0 ∧
        (∀ p ∈ jobPods s j.toNat, (podAt s p).st = .bound → (podAt t p).st = .draining) ∧
        (∀ g ∈ t.gates, g.2.assigned = true → g.2.job ≠ j.toNat))) ∧
      (rsvSet s 3 0x804 = false → imageBytes b.members.length b.window ≤ rg s 3 0x80C * 4096 →
        Becomes (.save j false) s (fun t => (job t j.toNat).st = .draining ∧
          (job t j.toNat).ctxAddr = rg64 s 3 0x804 ∧ (job t j.toNat).ctxSize = rg s 3 0x80C ∧
          (job t j.toNat).active = some (argCmd a .save false b.route) ∧
          (∀ p ∈ jobPods s j.toNat, (podAt s p).st = .bound → (podAt t p).st = .draining)) ∧
        (b.route.tollgates ≠ 0 → Becomes (.save j true) s (fun t =>
          (job t j.toNat).st = .bound ∧ (job t j.toNat).active = none ∧
          (job t j.toNat).queued = [argCmd a .save true b.route] ∧ t.pods = s.pods ∧ t.gates = s.gates ∧
          t.mps = s.mps ∧ t.marrow = s.marrow ∧ t.sqs = s.sqs)))) ∧
    (b.st = .saved → b.queued = [] → b.active = none → ∀ r : HostRead, r.wf = true → r.kind = .okay →
      let a := jobStore s j.toNat 4 false
      let route := parseRoute r.bytes
      setChecks a route = none → rsvSet s 3 0x804 = false → imageBytes b.srcPods (rg s 3 0x824) ≤ rg s 3 0x80C * 4096 →
      ((argPods s).length = b.srcPods ∨ (bitN route.flags 0 = true ∧ b.resizable = true)) →
      Becomes (.restore j r) s (fun t => (job t j.toNat).st = .restoring ∧
        (job t j.toNat).active = some (argCmd a .restore false route) ∧ (job t j.toNat).route = b.route ∧
        (∀ k, k ≠ j.toNat → job t k = job s k) ∧ t.marrow = s.marrow ∧ t.gates = s.gates ∧ t.mps = s.mps))

/-- JOB_COMMAND_START of a `BIND` or `RESTORE` whose Pods are all free: each becomes `RESTORING` and zeroised under its member
index and the reserved gates are assigned. A `BIND` starts the generator slots at k x 2^48 and its gates with `EXT` 0; a
`RESTORE` takes seed, slots, task number and gate words from an image that passes its checks, ends its job with the code of the
first check that fails, and does not start on an image whose read was answered `FAULT` (R46, R50, R57 to R60, R248, R311, R316). -/
def Obligations.BindStarts : Prop :=
  ∀ (s : State) (j : BitVec 8) (img : HostRead) (c : JobCmd), Inv s → img.wf = true → working s = true →
    (job s j.toNat).active = some c → c.unstarted ≠ [] → (∀ g ∈ c.gates, (gateAt s g).assigned = false) →
    (∀ l ∈ c.unstarted, ∃ p, physOf s l = some p ∧ (podAt s p).st = .idle ∧ (podAt s p).gated = false ∧
      (podAt s p).copyOk = true) →
    let b := job s j.toNat
    let started (t : State) : Prop :=
      (job t j.toNat).active = some { c with unstarted := [], gates := [] } ∧ (job t j.toNat).st = b.st ∧
      (job t j.toNat).members = c.pods ∧ (job t j.toNat).route = c.route ∧ (job t j.toNat).window = c.window ∧
      (∀ g ∈ c.gates, (gateAt t g).assigned = true ∧ (gateAt t g).job = j.toNat ∧ (gateAt t g).parts = c.pods.length) ∧
      (∀ l ∈ c.unstarted, ∀ p, physOf s l = some p → (podAt t p).st = .restoring ∧ (podAt t p).job = j.toNat ∧
        (podAt t p).bindValid = true ∧ (∀ m, c.pods.findIdx? (· = l) = some m → (podAt t p).member = m) ∧
        (∀ k, k / 6291456 = p → sgetD t.marrow.bytes k 0 = 0)) ∧
      (∀ k, k ≠ j.toNat → job t k = job s k) ∧ t.sqs = s.sqs
    (c.op = .bind → b.st = .binding → Becomes (.jobCommandStart j img) s (fun t => started t ∧
      (job t j.toNat).seed = c.seed ∧ (job t j.toNat).slotPos = (List.range 64).map (· * 2 ^ 48) ∧
      (∀ g ∈ c.gates, (gateAt t g).ext = 0) ∧ t.entries = s.entries ∧ t.mem = s.mem)) ∧
    (c.op = .restore → b.st = .restoring → img.kind = .okay →
      (imageCheck c c.route img.bytes = none → c.gates.Nodup → Becomes (.jobCommandStart j img) s (fun t => started t ∧
        (job t j.toNat).seed = fieldLe (img.bytes.drop 128) 0 8 ∧
        (job t j.toNat).slotPos = ((List.range 64).map fun k => fieldLe (img.bytes.drop 128) (0x40 + 8 * k) 8) ∧
        (job t j.toNat).nextTask = fieldLe img.bytes 0x28 8 ∧ (job t j.toNat).srcPods = fieldLe img.bytes 9 1 ∧
        (job t j.toNat).ctxAddr = c.imageAddr ∧ (job t j.toNat).ctxSize = c.imageSize ∧
        (∀ k g, (sortBy c.gates fun a b => decide (a ≤ b))[k]? = some g →
          (gateAt t g).gen = bitN (fieldLe (img.bytes.drop 128) (0x240 + 4 * k) 4) 0 ∧
          (gateAt t g).ext = BitVec.ofNat 9 (bits (fieldLe (img.bytes.drop 128) (0x240 + 4 * k) 4) 18 10) ∧
          (gateAt t g).broken = bitN (fieldLe (img.bytes.drop 128) (0x240 + 4 * k) 4) 28))) ∧
      (∀ code, imageCheck c c.route img.bytes = some code → Becomes (.jobCommandStart j img) s (fun t =>
        (job t j.toNat).st = .failed ∧ (job t j.toNat).reason = code ∧ bitN (rg t 3 0x014) 0 = true ∧
        ∀ n ∈ jobRings s j.toNat, (sqAt t n).st = .draining ∨ (sqAt t n).st = .disabled))) ∧
    (c.op = .restore → img.kind = .fault → noReset s 11 → Becomes (.jobCommandStart j img) s (fun t =>
      t.jobs = s.jobs ∧ t.pods = s.pods ∧ t.gates = s.gates ∧ t.marrow = s.marrow ∧ t.flt.active.getLsbD 11 = true))

/-- JOB_LOAD_COMPLETE: once the Pods are loaded, they and the job become `BOUND`; only the job's own gates may count a member
that has nothing left (R53, R297, R312, R361). -/
def Obligations.LoadCompletes : Prop :=
  ∀ (s : State) (j : BitVec 8) (c : JobCmd), Inv s → working s = true → (job s j.toNat).active = some c → c.unstarted = [] →
    (job s j.toNat).st = .binding ∨ (job s j.toNat).st = .restoring → sharesOpen s j.toNat = false →
    (∀ x ∈ halves s, x.2.2.job = j.toNat → x.2.2.st = .parked → x.2.2.member < (job s j.toNat).members.length) →
    Becomes (.jobLoadComplete j) s (fun t =>
      (job t j.toNat).st = .bound ∧ (job t j.toNat).active = none ∧
      (job t j.toNat).members = (job s j.toNat).members ∧ (job t j.toNat).route = (job s j.toNat).route ∧
      (∀ p ∈ jobPods s j.toNat, (podAt s p).st = .restoring → (podAt t p).st = .bound) ∧
      (∀ k, k ≠ j.toNat → job t k = job s k) ∧ t.marrow = s.marrow ∧ t.entries = s.entries ∧ t.sqs = s.sqs ∧
      (∀ g, g ∉ (job s j.toNat).gates → gateAt t g = gateAt s g) ∧ (s.mem.moves = [] → t.mem = s.mem))

/-- DRAIN_COMPLETE frees a drained Pod of an ended job, and SAVE_COMMIT ends a save: the Pods are unbound and zeroised,
the gates free, the job `SAVED` (R34, R53, R54, R58, Table 2-11). -/
def Obligations.DrainAndSaveEnd : Prop :=
  ∀ s : State, Inv s → portLive s = true →
    (∀ p : Fin 100, (podAt s p.val).st = .draining → (podAt s p.val).bindValid = true → podDrained s p.val = true →
      (job s (podAt s p.val).job).st ≠ .unbinding → (job s (podAt s p.val).job).st ≠ .draining →
      s.itg.rollSpare = none → (podAt s p.val).due = false → Becomes (.drainComplete p) s (fun t =>
        (podAt t p.val).st = .idle ∧ (podAt t p.val).bindValid = false ∧ zeroisedPod s t p.val ∧
        (∀ q, q ≠ p.val → podAt t q = podAt s q) ∧ t.jobs = s.jobs ∧ t.gates = s.gates ∧ t.sqs = s.sqs ∧ t.mem = s.mem)) ∧
    (∀ j : BitVec 8, (job s j.toNat).st = .saving → (job s j.toNat).phase = 4 → (job s j.toNat).queued = [] →
      Becomes (.saveCommit j) s (fun t =>
        (job t j.toNat).st = .saved ∧ (job t j.toNat).active = none ∧ (job t j.toNat).gates = [] ∧
        (job t j.toNat).ctxAddr = (job s j.toNat).ctxAddr ∧ (job t j.toNat).ctxSize = (job s j.toNat).ctxSize ∧
        (∀ p ∈ jobPods s j.toNat, (podAt t p).bindValid = false ∧
          ∀ k, k / 6291456 = p → sgetD t.marrow.bytes k 0 = 0) ∧
        (∀ g ∈ t.gates, g.2.assigned = true → g.2.job ≠ j.toNat) ∧ t.entries = s.entries ∧ t.sqs = s.sqs ∧ t.mem = s.mem))

/-! ## Entries -/

/-- ENTRY_SAMPLE and ENTRY_TENSOR: an accepted entry takes the next rank and task number of its job, advances its
generator slots and runs on member task mod P; one that R67 refuses completes `REFUSED` with its code; a stop in an earlier
entry suspends either (R67, R81, R248, R249). -/
def Obligations.TaskEntries : Prop :=
  ∀ (s : State) (n : BitVec 12) (e : EntryBody) (aug : HostRead) (c : Instr) (op : Nat),
    (c = .entrySample n 1 e aug ∧ aug.wf = true ∧ (aug.kind = .okay ∨ e.augAddr = 0) ∧ op = 1) ∨
      (c = .entryTensor n e ∧ op = 4) →
    fetches s n.toNat e → entryCheck s n.toNat op e = none →
    let j := e.job.toNat
    let held := stopAhead s n.toNat (job s j).nextRank
    (refusal67 s n.toNat op e = none → refusal193 s op e = none → Becomes c s (fun t =>
      fetchedOne s t n.toNat ∧ (job t j).nextTask = (job s j).nextTask + 1 ∧ (job t j).nextRank = (job s j).nextRank + 1 ∧
      (job t j).slotPos = (slotUses (job s j).route).foldl
        (fun l u => l.set u.1 (slotAdvance (l.getD u.1 0) u.2)) (job s j).slotPos ∧
      (∃ x, entryAt t n.toNat (sqAt s n.toNat).fetch = some x ∧ x.body = e ∧ x.opcode = op ∧ x.job = j ∧
        x.task = (job s j).nextTask ∧ x.rank = (job s j).nextRank ∧ x.stage = (job s j).stage ∧
        x.member = (job s j).nextTask % max 1 (job s j).members.length ∧
        x.st = (if held then .suspended else .running)) ∧
      (∀ k, k ≠ j → job t k = job s k) ∧ t.marrow = s.marrow ∧ t.pods = s.pods ∧ t.gates = s.gates ∧
      t.mps = s.mps ∧ memKept s t ∧ t.streams = s.streams)) ∧
    (∀ code, refusal67 s n.toNat op e = some code → Becomes c s (fun t =>
      fetchedOne s t n.toNat ∧ (held = false → dueFinal s t n.toNat e stRefused code) ∧
      (held = true → suspendedIn s t n.toNat e code) ∧ t.marrow.bytes = s.marrow.bytes ∧ t.pods = s.pods ∧
      t.streams = s.streams))

/-- ENTRY_FRAME and ENTRY_END_STREAM: a `NEW_STREAM` frame opens its context for its ring, job and task, a later frame
joins the task of its context, and an accepted `END_STREAM` closes the stage and waits (R67, R100, R310, Table 3-2). -/
def Obligations.StreamEntries : Prop :=
  ∀ (s : State) (n : BitVec 12) (e : EntryBody) (aug : HostRead), fetches s n.toNat e →
    let j := e.job.toNat
    let slot := (sqAt s n.toNat).fetch
    (aug.wf = true → (aug.kind = .okay ∨ e.augAddr = 0) → entryCheck s n.toNat 2 e = none →
      refusal67 s n.toNat 2 e = none → refusal193 s 2 e = none →
      (e.arg = 1 → Becomes (.entryFrame n e aug) s (fun t =>
        fetchedOne s t n.toNat ∧ (job t j).nextTask = (job s j).nextTask + 1 ∧
        (∃ x, entryAt t n.toNat slot = some x ∧ x.task = (job s j).nextTask ∧ x.opcode = 2) ∧
        (∃ k, sget? t.streams e.stream.toNat = some k ∧ k.cstate = 1 ∧ k.job = j ∧ k.sq = n.toNat ∧
          k.task = (job s j).nextTask ∧ k.frameNo = 0 ∧ k.concealed = 0) ∧
        (∀ k, k ≠ e.stream.toNat → sget? t.streams k = sget? s.streams k) ∧ t.marrow = s.marrow ∧ t.pods = s.pods)) ∧
      (e.arg = 0 → Becomes (.entryFrame n e aug) s (fun t =>
        fetchedOne s t n.toNat ∧ (job t j).nextTask = (job s j).nextTask ∧ t.streams = s.streams ∧
        (∃ x k, entryAt t n.toNat slot = some x ∧ ownStream s n.toNat e = some k ∧ x.task = k.task ∧ x.opcode = 2) ∧
        t.marrow = s.marrow ∧ t.pods = s.pods))) ∧
    (entryCheck s n.toNat 3 e = none → refusal67 s n.toNat 3 e = none → Becomes (.entryEndStream n e) s (fun t =>
      fetchedOne s t n.toNat ∧ (job t j).stage = (job s j).stage + 1 ∧ (job t j).nextTask = (job s j).nextTask ∧
      (∃ x, entryAt t n.toNat slot = some x ∧ x.opcode = 3 ∧ x.stage = (job s j).stage ∧
        x.st = (if stopAhead s n.toNat (job s j).nextRank then .suspended else x.st)) ∧
      t.streams = s.streams ∧ t.marrow = s.marrow ∧ t.pods = s.pods))

/-- ENTRY_FENCE closes the stage and holds its ring's fetch; ENTRY_NOP completes at once, or after the stop that holds it
(R66, R81, R310, Table 3-2). -/
def Obligations.FenceAndNop : Prop :=
  ∀ (s : State) (n : BitVec 12) (e : EntryBody), fetches s n.toNat e →
    (entryCheck s n.toNat 5 e = none → Becomes (.entryFence n e) s (fun t =>
      fetchedOne s t n.toNat ∧ (sqAt t n.toNat).fence = some (sqAt s n.toNat).fetch ∧
      (∃ x, entryAt t n.toNat (sqAt s n.toNat).fetch = some x ∧ x.body = e ∧ x.opcode = 5 ∧ x.stage = (job s e.job.toNat).stage) ∧
      (job t e.job.toNat).stage = (job s e.job.toNat).stage + 1 ∧
      (∀ fresh, nextRing t ≠ some (n.toNat, fresh)) ∧ t.marrow = s.marrow ∧ t.pods = s.pods ∧ t.streams = s.streams)) ∧
    (entryCheck s n.toNat 7 e = none → Becomes (.entryNop n e) s (fun t =>
      fetchedOne s t n.toNat ∧
      (if stopAhead s n.toNat (job s e.job.toNat).nextRank then suspendedIn s t n.toNat e 0 else dueFinal s t n.toNat e stOk 0) ∧
      (job t e.job.toNat).nextTask = (job s e.job.toNat).nextTask ∧ t.marrow = s.marrow ∧ t.pods = s.pods ∧
      t.gates = s.gates ∧ t.mps = s.mps ∧ memKept s t ∧ t.streams = s.streams))

/-- ENTRY_MILEPOST_SET, CLEAR, WAIT and TAKE on an owned Milepost: `SET` and `CLEAR` change it and complete; `WAIT` and
`TAKE` complete at once on a set one and wait on a clear one; a `TAKE` clears what it takes; behind a stop each waits for the
stop's end and touches no Milepost (R81, R293, Tables 3-2, 12-1). -/
def Obligations.MilepostEntries : Prop :=
  ∀ (s : State) (n : BitVec 12) (e : EntryBody), fetches s n.toNat e →
    let id := e.arg.toNat % 2 ^ 18
    let held := stopAhead s n.toNat (job s e.job.toNat).nextRank
    let kept (t : State) : Prop := (∀ k, k ≠ id → mpAt t k = mpAt s k) ∧ t.marrow = s.marrow ∧ t.gates = s.gates ∧ t.pods = s.pods
    let waits (t : State) (take : Bool) : Prop :=
      t.mps.waiters = s.mps.waiters ++ [⟨id, take, .ring n.toNat (sqAt s n.toNat).fetch, s.mps.seq⟩] ∧
      t.mps.recs = s.mps.recs ∧ ∃ x, entryAt t n.toNat (sqAt s n.toNat).fetch = some x ∧ x.st = .waiting
    (held = false →
      (entryCheck s n.toNat 6 (withMpOp e 0) = none → mpOwned s id = true → (mpAt s id).value = false →
        (∀ w ∈ s.mps.waiters, w.id ≠ id) → Becomes (.entryMilepostSet n e) s (fun t =>
          fetchedOne s t n.toNat ∧ dueFinal s t n.toNat e stOk 0 ∧ kept t ∧ (mpAt t id).value = true ∧
          (mpAt t id).setTime = s.time ∧ t.mps.waiters = s.mps.waiters)) ∧
      (entryCheck s n.toNat 6 (withMpOp e 1) = none → mpOwned s id = true → (mpAt s id).value = true →
        Becomes (.entryMilepostClear n e) s (fun t =>
          fetchedOne s t n.toNat ∧ dueFinal s t n.toNat e stOk 0 ∧ kept t ∧ (mpAt t id).value = false ∧
          t.mps.waiters = s.mps.waiters)) ∧
      (entryCheck s n.toNat 6 (withMpOp e 2) = none → Becomes (.entryMilepostWait n e) s (fun t =>
        fetchedOne s t n.toNat ∧ ((mpAt s id).value = true → dueFinal s t n.toNat e stOk 0 ∧ t.mps = s.mps) ∧
        ((mpAt s id).value = false → waits t false) ∧ t.marrow = s.marrow)) ∧
      (entryCheck s n.toNat 6 (withMpOp e 3) = none → Becomes (.entryMilepostTake n e) s (fun t =>
        fetchedOne s t n.toNat ∧ ((mpAt s id).value = true → dueFinal s t n.toNat e stOk 0 ∧ kept t ∧
          (mpAt t id).value = false ∧ (mpAt t id).consumed = true) ∧
        ((mpAt s id).value = false → waits t true) ∧ t.marrow = s.marrow))) ∧
    (held = true → ∀ (c : Instr) (k : Nat), (c = .entryMilepostSet n e ∧ k = 0) ∨ (c = .entryMilepostClear n e ∧ k = 1) ∨
        (c = .entryMilepostWait n e ∧ k = 2) ∨ (c = .entryMilepostTake n e ∧ k = 3) →
      entryCheck s n.toNat 6 (withMpOp e k) = none → Becomes c s (fun t =>
        fetchedOne s t n.toNat ∧ suspendedIn s t n.toNat (withMpOp e k) 0 ∧ t.mps = s.mps ∧ t.marrow = s.marrow ∧
        t.gates = s.gates ∧ t.pods = s.pods))

/-- A malformed entry halts the block: `HALTED` holds the ring, slot, code and offset, the time and the entry (R86,
R87). No completion of it becomes due. -/
def Obligations.MalformedEntryHalts : Prop :=
  ∀ (s : State) (n : BitVec 12) (e : EntryBody) (x : Nat × Nat), fetches s n.toNat e →
    ∀ (c : Instr) (op : Nat), (c = .entryTensor n e ∧ op = 4) ∨ (c = .entryFence n e ∧ op = 5) ∨ (c = .entryNop n e ∧ op = 7) ∨
      (c = .entryEndStream n e ∧ op = 3) ∨ (∃ aug : HostRead, aug.wf = true ∧ c = .entryFrame n e aug ∧ op = 2) →
    entryCheck s n.toNat op e = some x → Becomes c s (fun t =>
      t.blk.st = .halted ∧ t.blk.haltWhere = BitVec.ofNat 32 (n.toNat + 2 ^ 16 * (sqAt s n.toNat).fetch) ∧
      t.blk.haltWhy = BitVec.ofNat 32 (x.1 + 2 ^ 16 * x.2 + 2 ^ 31) ∧ t.blk.haltTime = s.time ∧
      t.blk.haltEntry = (toWords 16 (entryBytes op e)).map (BitVec.ofNat 32) ∧ t.entries = s.entries ∧ t.jobs = s.jobs ∧
      (cqAt t (sqCq s n.toNat)).due = (cqAt s (sqCq s n.toNat)).due ∧ t.pods = s.pods ∧ t.streams = s.streams)

/-! ## Tile operations -/

/-- The ready set of a station is ordered by task, then node, then the entries of the task in fetch order, then tile (R51, R67);
what it begins has its input slots full and its output slots empty, and a Pod that is not `BOUND` or a block that does not work
has none (R39, Tables 2-10, 17-1). -/
def Obligations.ReadySetOrdered : Prop :=
  ∀ (s : State) (p k : Nat),
    (candidates s p k).Pairwise (fun a b => a.task < b.task ∨ (a.task = b.task ∧ (a.n < b.n ∨ (a.n = b.n ∧
      (a.rank < b.rank ∨ (a.rank = b.rank ∧ a.tile ≤ b.tile)))))) ∧
    (∀ c ∈ candidates s p k, c.fresh = true →
      (∀ x ∈ c.ins, ∃ e, x.1 = c.h * 4096 + e ∧ slotFull s c.j c.h e x.2 = true) ∧
      (∀ x ∈ c.outs, ∃ e, x.1 = c.h * 4096 + e ∧ slotEmpty s c.j c.h e x.2 = true)) ∧
    ((podAt s p).st ≠ .bound ∨ working s = false → candidates s p k = [])

/-- DECODE, MOTION, SHAPE, LAYOUT, TOKENISE, PACK, MATRIX, VECTOR, SAMPLE, DIGEST, TRANSFER, INGEST and EMIT tile
operations: the station issues the first operation of its ready set that can issue, and with none the state stays (R51). Of
DECODE, MOTION, SHAPE, TOKENISE and PACK that is, where no line is poisoned, provisional or in error: a piece of source taken in, or
the bands that an operation ends written to its slots (R25, R107, R110); the vectors of its blocks (R141, R144); a band taken in, or
its output pixels (R147, R165, R166); a picture that joins its group, or its segments of the group's tokens (R198 to R202); its
segments of a unit copied into the batch's area (R204 to R206, R210). -/
def Obligations.StationsIssueFirst : Prop :=
  (∀ (s : State) (p : Fin 100) (cmd : Instr) (l : List Cand) (f : State → Cand → Option State),
    (cmd, l, f) ∈ ([(.ingestTileOp p, candidates s p 0, ingestOp), (.decodeTileOp p, candidates s p 1, decodeOp),
      (.motionTileOp p, candidates s p 2, motionOp), (.shapeTileOp p, candidates s p 3, shapeOp),
      (.layoutTileOp p, candidates s p 4, layoutOp),
      (.tokeniseTileOp p, sortBy (candidates s p 4 ++ endCands s p) candBefore, tokeniseOp),
      (.packTileOp p, packCands s p, packOp), (.matrixTileOp p, candidates s p 5, matrixOp),
      (.vectorTileOp p, candidates s p 6, vectorOp), (.sampleTileOp p, candidates s p 7, sampleOp),
      (.digestTileOp p, furlongCands s p ++ (candidates s p 8).filter (fun c => (c.node s).opcode = 2), digestOp),
      (.emitTileOp p, candidates s p 10, emitOp)] : List (Instr × List Cand × (State → Cand → Option State))) ∨
      (refetch s p = none ∧ cmd = .transferTileOp p ∧ l = candidates s p 9 ∧ f = transferOp) →
    ((∀ c ∈ l, f s c = none) → exec cmd s = .next s) ∧
    (∀ a c b u, l = a ++ c :: b → (∀ x ∈ a, f s x = none) → f s c = some u → exec cmd s = .next u)) ∧
  ∀ (s : State) (p : Fin 100), Inv s → calm s →
    let kept (t : State) : Prop := t.marrow = s.marrow ∧ t.nextOp = s.nextOp ∧ t.ops = s.ops ∧ t.mem = s.mem ∧ t.pods = s.pods
    let free (c : Cand) (e k : Nat) : Prop :=
      mpOwned s (fullId s c.j c.h e k) = true ∧ (mpAt s (emptyId s c.j c.h e k)).value = false
    let at' (c : Cand) : Nat := ((podAt s c.p).member + max 1 (jobP s c.j) - c.h) % max 1 (jobP s c.j)
    let width (c : Cand) : Nat := min (max 1 (jobP s c.j)) (spanWidth (c.node s))
    (∀ c b, candidates s p 1 = c :: b → ∀ e, c.entry s = some e →
      ((podAt s c.p).member = c.h → (pictureAt s c = none → enabled s 8 = true ∧ e.srcPoison = false) →
        let d := (pictureAt s c).getD (collectJob c)
        d.works = [] → (sourceHere s c e d = false ∨ pictureAt s c = none) →
        ∀ x, (liveIns s c.j c.h e.path (c.node s)).head? = some x → sourceEdge (c.route s) x = true →
        ∀ k, fullSlot s c.j c.h x c.rank c.tile = some k → free c x k →
        let g := edgeOf s c.j x
        let n := ((sourcePieces s { c with n := g.producer } e).getD c.tile (0, 0)).2
        Becomes (.decodeTileOp p) s (fun t => kept t ∧
          (pictureAt t c).map (·.src) = some (d.src ++ (List.range n).map fun i =>
            (d.src.length + i, s.marrow.byte (mkey (c.home s) (slotAddr g k + i)))) ∧
          slotFull t c.j c.h x k = false ∧ workMoved t c (c.tile + 2))) ∧
      (∀ d, pictureAt s c = some d → d.works ≠ [] →
        ∀ i, d.left.find? (fun i => (d.plan[i]?).any fun x => x.part % width c = at' c) = some i →
        ∀ x, d.plan[i]? = some x → ∀ w, d.works[x.pic]? = some w → planReady s c d x = true → d.poisoned = false →
        ∀ slots, (if some x.pic = d.shown then bandSlots s c x.ends.length else some []) = some slots →
        let ws := slots.zipIdx.flatMap fun o => bandWrites s c w.pic (handedOut d + o.2)
          ((w.bands[x.ends.getD o.2 0]?).getD ⟨0, 0, 0, 0, 0⟩) o.1
        Becomes (.decodeTileOp p) s (fun t =>
          issued s t { c with tile := d.plan.length - d.left.length } i d.plan.length ws ∧ t.entries = s.entries ∧
          (pictureAt t c).map (·.left) = some (ndel d.left i) ∧
          (∃ o, opAt t s.nextOp = some o ∧ o.outs = slots.flatten ∧ (o.awaiting = 0 ∨ (moveAt t (s.nextOp + 1)).isSome = true))))) ∧
    (∀ c b, candidates s p 2 = c :: b → ∀ e, c.entry s = some e →
      let d := (pictureAt s c).getD (collectJob c)
      let all := (d.bands.map (bandTiles (c.block s) e)).sum
      let writes (k : FieldOp) : Prop := Becomes (.motionTileOp p) s (fun t =>
        issued s t c k.num (if fieldLast s c k then c.tile + 1 else c.tile + 2) (fieldWrites s c k) ∧ t.entries = s.entries ∧
        (pictureAt t c).map (·.field) = some (fieldGot s c k).1)
      (∀ i, d.left.head? = some i → ∀ x, d.plan[i]? = some x → x.pic % width c = at' c → writes ⟨e, d, i, x.pic, x.starts.headD 0, x.part⟩) ∧
      (d.left = [] → d.plan.length < all → ∀ x, d.plan.getLast? = some x → x.pic % width c = at' c →
        writes ⟨e, d, d.plan.length, x.pic, x.starts.headD 0, x.part + 1⟩) ∧
      (d.left = [] → all ≤ d.plan.length → d.bands.length % width c = at' c → (c.fresh = true → fieldsBefore s c e = true) →
        ∀ r, takeBand s c d = some r → (c.fresh = true → needsMref s e r.2.1.pic = false) →
        writes ⟨e, if c.fresh then { r.2.1 with ref := searchRef (fieldStream s e) r.2.1.pic } else r.2.1, d.plan.length, d.bands.length,
          r.2.2, 0⟩)) ∧
    (∀ c b, candidates s p 3 = c :: b → ∀ e, c.entry s = some e →
      let d := (pictureAt s c).getD (collectJob c)
      (d.whole = true → ∀ r, resolveShape s c e d.pic = .ok r →
        let cuts := shapeCuts d.pic r.1 (decide (1 < spanWidth (c.node s)))
        ∀ cut, cuts[c.tile]? = some cut → cut.1 / max 1 (64 * r.1.outW) % width c = at' c →
        Becomes (.shapeTileOp p) s (computed s · c cuts.length (shapeWrites s c e d r.1 r.2 cut))) ∧
      (d.whole = false → (podAt s c.p).member = c.h → (c.fresh = true → enabled s 9 = true) → ∀ r, takeBand s c d = some r →
        ∀ q, resolveShape s c e r.2.1.pic = .ok q → free c (c.node s).inFirst r.2.2 → Becomes (.shapeTileOp p) s (fun t =>
          kept t ∧ pictureAt t c = some r.2.1 ∧ slotFull t c.j c.h (c.node s).inFirst r.2.2 = false))) ∧
    (∀ c b, sortBy (candidates s p 4 ++ endCands s p) candBefore = c :: b → (c.node s).isTokenise = true → ∀ e, c.entry s = some e →
      (c.fresh = true → enabled s 0x00A = true) →
      let q := c.block s
      let t0 := max 1 (fieldLe q 1 1)
      let x := edgeOf s c.j (c.node s).inFirst
      let rec' := (List.range (slotBytes x)).map fun i => s.marrow.byte (mkey (c.home s) (slotAddr x (slotIn c (c.node s).inFirst) + i))
      let i := shapedInfo rec'
      let ranks := groupOf s c e.body.stream.toNat
      let writes (last : Entry) (rs : List (List Byte)) (again : Bool) : Prop :=
        let k := shapedInfo (rs.headD [])
        (∀ r ∈ rs, (shapedInfo r).w = k.w ∧ (shapedInfo r).h = k.h ∧ (shapedInfo r).otype = k.otype) →
        ∀ outs, (if c.tile = 0 then nextSlots s c else some c.outs) = some outs →
        Becomes (.tokeniseTileOp p) s (fun t =>
          issued s t { c with outs := outs } c.tile (tokenTiles (tokenCount q k) (tokenElems q k))
            (tokenWrites s c outs last [c.j, c.rank] rs again) ∧ t.mem = s.mem)
      (e.opcode = 1 ∨ e.opcode = 2 → earlierOpen s c e = false → i.w % max 1 (fieldLe q 0 1) = 0 → i.h % max 1 (fieldLe q 0 1) = 0 →
        (e.opcode = 1 → writes e (List.replicate t0 rec') false) ∧
        (e.opcode = 2 → t0 ≤ ranks.length + 1 → writes e (groupRecords s c ranks ++ [rec']) false) ∧
        (e.opcode = 2 → ranks.length + 1 < t0 → Becomes (.tokeniseTileOp p) s (fun t =>
          (nodeAt t c.j c.h c.n).group = (nodeAt s c.j c.h c.n).group ++ [c.rank] ∧ c.rank ∈ (sqAt t e.sq).asm.removed ∧
          (∃ o, opAt t s.nextOp = some o ∧ o.pod = c.p ∧ o.rank = c.rank ∧ o.lines = [] ∧ o.last = true) ∧
          t.marrow = s.marrow ∧ t.pods = s.pods))) ∧
      (e.opcode = 3 → ∀ r, ranks.getLast? = some r → ∀ y, entryRank s c.j r = some y →
        writes y (groupRecords s c ranks ++ List.replicate (t0 - ranks.length) ((groupRecords s c ranks).getLastD [])) true)) ∧
    (∀ c b, packCands s p = c :: b → ∀ e, c.entry s = some e → (c.fresh = true → enabled s 0x00A = true) → packMay s c e = true →
      let n := e.sq
      let r := packSource s c
      let count := fieldLe r.2.1 0x3C 4
      let total := tokenTiles count (packElems (c.route s) (c.node s)).1
      count ≤ fieldLe (c.block s) 0 2 → ((unitPlace s n (c.block s) count).2.2 = true → c.tile ≠ 0) →
      let u := packUnit s c n r.2.1
      let v := modSq s n fun y => { y with asm := { y.asm with slot := packSlot s c n } }
      Becomes (.packTileOp p) s (fun t =>
        issued s t c c.tile total (packWrites v c n u (packTokens s c r.2.1 r.2.2) (decide (c.tile + 1 ≥ total))) ∧
        (sqAt t n).asm.slot = packSlot s c n ∧
        (total ≤ c.tile + 1 → c.rank ∈ (sqAt t n).asm.placed ∧
          ∃ x ∈ (sqAt t n).asm.openB :: (sqAt t n).asm.closed, x.number = (sqAt s n).asm.openB.number ∧
            x.units = (sqAt s n).asm.openB.units ++ [u])))

/-- INGEST, EMIT, TRANSFER and MULTICAST tile operations: an operation that fetches or stores takes its transfer's context and sends
its requests (R25, R274, R277, R282, R458); `MULTICAST` writes its tile to every receiver with a free slot and waits for the others,
and a dropped receiver reads it once its slot is free (R280, R281); an `INGEST` operation without source bytes and an `EMIT`
operation end their entry's part at once (the operations of INGEST and EMIT are the model's, log 8). -/
def Obligations.MemoryTileOps : Prop :=
  ∀ (s : State) (p : Fin 100), s.itg.rollPhase ≠ 3 → opAt s s.nextOp = none →
    (∀ c b, candidates s p 0 = c :: b → ∀ e, c.entry s = some e →
      let qs := if e.opcode = 1 ∨ e.opcode = 2 then sourcePieces s c e else []
      let es := outEdges (c.node s)
      (ownOutputs (c.route s) (c.node s) = true →
        (edgeSlots s c (if qs.length ≤ c.tile + 1 then es else es.filter (sourceEdge (c.route s)))).isSome = true) →
      (∀ q, qs[c.tile]? = some q → ∀ u, contextFor s c.p c.j c.n c.rank c.h = some u →
        let rs := readReqs q.1 q.2 (sqXlat s e.sq) c.p u.2 c.tile s.nextOp
        tokensFree s c.p rs = true → Becomes (.ingestTileOp p) s (sends s · c qs.length u.2 rs)) ∧
      (qs[c.tile]? = none → Inv s → calm s → Becomes (.ingestTileOp p) s (computed s · c 1 []))) ∧
    (∀ c b, candidates s p 10 = c :: b → ∀ u, contextFor s c.p c.j c.n c.rank c.h = some u →
      Becomes (.emitTileOp p) s (sends s · c 1 u.2 [])) ∧
    (refetch s p = none → ∀ c b, candidates s p 9 = c :: b → ∀ e, c.entry s = some e →
      let src := nodeDesc (c.route s) (c.node s) 0
      let dst := nodeDesc (c.route s) (c.node s) 1
      let is := xferElems dst c.tile
      ((c.node s).opcode = 1 → ∀ u, contextFor s c.p c.j c.n c.rank c.h = some u →
        let rs := coverReqs (hostKeys src e.body.srcAddr.toNat is) (sqXlat s e.sq) c.p u.2 c.tile s.nextOp
        tokensFree s c.p rs = true → Becomes (.transferTileOp p) s (sends s · c (xferTiles dst) u.2 rs)) ∧
      ((c.node s).opcode = 2 → calm s → ∀ u, contextFor s c.p c.j c.n c.rank c.h = some u →
        let a := e.body.dstAddr.toNat
        let ws := (moveWith s c src dst is (hostPut dst a) fun i v => [⟨a + dst.scaleAddr i, BitVec.ofNat 8 v, 0xFF⟩]).2.flatMap (·.1)
        let rs := scatterReqs ws [] (sqXlat s e.sq) c.p u.2 c.tile s.nextOp
        (∀ w ∈ ws, w.mask ≠ 0xFF → ∀ o ∈ s.ops, o.job = c.j → o.node = c.n → 0 < o.awaiting →
          ∀ q ∈ o.sent, ¬ (q.addr ≤ w.key ∧ w.key < q.addr + 64 * q.lines)) →
        tokensFree s c.p rs = true → Becomes (.transferTileOp p) s (sends s · c (xferTiles dst) u.2 rs)) ∧
      ((c.node s).opcode = 4 → Inv s → calm s → Becomes (.transferTileOp p) s (fun t =>
        let d := { c with outs := castSlots s c }
        computed s t d (xferTiles dst) ((castMoves s d).flatMap (·.1)) ∧
        ∃ o, opAt t s.nextOp = some o ∧ o.dropped = castLeft s c ∧ o.awaiting = (if castLeft s c = [] then 0 else 1)))) ∧
    (Inv s → calm s → podIssues s p = true → ∀ o ∈ s.ops, o.job = (podAt s p).job → o.kind = 9 → o.pod ≠ 127 → opAt s o.id = some o →
      (podAt s p).member ∈ o.dropped → (∀ x ∈ s.ops, x.kind = 9 → (podAt s p).member ∈ x.dropped → x = o) →
      let m := (podAt s p).member
      let e := (nodeDesc (job s o.job).route (nodeOf s o.job o.node) 1).edge
      let k := (edgeAt s o.job m e).prodNext
      (∀ x ∈ s.ops, x.pod ≠ 127) → slotEmpty s o.job m e k = true → fedEdge s o.job m e = false → Becomes (.transferTileOp p) s (fun t =>
        (∃ x, opAt t o.id = some x ∧ x.dropped = ndel o.dropped m ∧ (∀ l ∈ o.lines, l ∈ x.lines) ∧
          (∀ l ∈ t.marrow.prov, l ∈ x.lines) ∧ (x.dropped = [] → x.awaiting = 0)) ∧
        slotEmpty t o.job m e k = false ∧ t.mem = s.mem ∧ t.pods = s.pods ∧ t.entries = s.entries))

/-- LAYOUT, MATRIX, VECTOR, SAMPLE and TRANSFER `MOVE`: the bytes an operation writes stand in their lines, which are
provisional until the verdict (R265); every other byte of Marrow stays, and one operation is in flight more. Where no line is
poisoned, provisional or in error, the first operation of the station's ready set so writes: a COPY its elements or a pair of
tiles exchanged, a GATHER and a SCATTER theirs, a MATRIX its accumulator tile and, at the last step, its destination, a VECTOR its
lanes, lines, blocks or sums, a SAMPLE its row's token, a MOVE its segments (R180 to R192, R224 to R237, R255 to R257, R277). -/
def Obligations.ResultsProvisional : Prop :=
  (∀ (s : State) (p : Fin 100) (cmd : Instr) (l : List Cand) (f : State → Cand → Option State) (c : Cand) (b : List Cand)
      (r : State) (total : Nat) (ws : List WByte),
      (cmd, l, f) ∈ ([(.layoutTileOp p, candidates s p 4, layoutOp), (.matrixTileOp p, candidates s p 5, matrixOp),
        (.vectorTileOp p, candidates s p 6, vectorOp), (.sampleTileOp p, candidates s p 7, sampleOp)] :
        List (Instr × List Cand × (State → Cand → Option State))) ∨
        (refetch s p = none ∧ cmd = .transferTileOp p ∧ l = candidates s p 9 ∧ f = transferOp) →
      l = c :: b → f s c = some (issueWrites r c total ws []) → r.marrow.wf = true → r.marrow.ecc = [] →
      r.itg.rollPhase ≠ 3 →
      Becomes cmd s (fun t =>
        (∀ k ∈ wLines ws, k ∈ t.marrow.prov) ∧ (∀ k ∈ r.marrow.prov, k ∈ t.marrow.prov) ∧
        (∀ w ∈ ws, w.mask = 0xFF → (∀ v ∈ ws, v.key = w.key → v = w) → t.marrow.byte w.key = w.val) ∧
        (∀ k, k / 64 ∉ wLines ws → t.marrow.byte k = r.marrow.byte k) ∧ t.marrow.acc = r.marrow.acc ∧
        t.nextOp = r.nextOp + 1 ∧ ∃ o, t.ops = r.ops ++ [o] ∧ o.id = r.nextOp ∧ o.pod = c.p ∧ o.rank = c.rank ∧
          o.lines = wLines ws)) ∧
  ∀ (s : State) (p : Fin 100), Inv s → calm s →
    (∀ c b, candidates s p 4 = c :: b → (c.entry s).isSome = true → (c.fresh = true → enabled s 0x00A = true) →
      let q := c.block s
      let d (k : Nat) : Desc := nodeDesc (c.route s) (c.node s) k
      let axis := fieldLe q 0 1
      let writes (total : Nat) (ms : List Moved) : Prop := Becomes (.layoutTileOp p) s (fun t =>
        computed s t c total (ms.flatMap (·.1)) ∧ t.marrow.acc = s.marrow.acc)
      ((c.node s).opcode = 1 → transposeDims q (d 0) (d 1) = none →
        let path := pathOf 1 q (d 0) (d 1)
        writes (layoutTiles path (d 1) (d 1).runDim) ((layoutTile path (d 1) (d 1).runDim c.tile).flatMap fun i =>
          moveElem s c (d 0) (d 1) (copySource q (d 0) (d 1) i) i)) ∧
      ((c.node s).opcode = 1 → ∀ x, transposeDims q (d 0) (d 1) = some x →
        let is := transposeTile (d 1) x.1 x.2 c.tile
        writes (tilePairs ((d 1).sz x.1 / 64)).length ((transposeScratch s c (d 1) is.length, false) ::
          is.flatMap fun i => moveElem s c (d 0) (d 1) (toInts (swapDims x.1 x.2 i)) i)) ∧
      ((c.node s).opcode = 2 →
        let path := pathOf 2 q (d 0) (d 2)
        writes (layoutTiles path (d 2) (d 2).runDim) ((layoutTile path (d 2) (d 2).runDim c.tile).flatMap fun i =>
          moveElem s c (d 0) (d 2) ((toInts i).set axis (indexAt s c (d 1) (i.getD axis 0))) i)) ∧
      ((c.node s).opcode = 3 →
        let path := pathOf 3 q (d 0) (d 2)
        let k := scatterCtx s c
        writes (layoutTiles path (d 0) (d 2).runDim) (((k.final path c.tile).map (k.move s c (fieldLe q 1 1))).flatMap (·.1)))) ∧
    (∀ c b, candidates s p 5 = c :: b → ∀ e, c.entry s = some e →
      let r := c.route s
      let x := c.node s
      let n := matSteps r x
      let q := matPos r x n c.tile
      let slot := if accOut r x = false then 0
        else if q.first = 0 then (edgeAt s c.j c.h x.outFirst).prodNext else takenSlot s c.j c.h x.outFirst
      let base := accBase r c.n + setBase r x slot
      memberPod s c.j (groupMember x c.h q.num (jobP s c.j)) = some c.p → (q.first = 0 → groupOpens s c q slot base = true) →
      let kop := max 1 (fieldLe (c.block s) 2 2)
      let vs := tileValues s c q (base + q.tile) (matSides s c q (q.step * kop) (min (matChunks r x) (q.step * kop + kop)))
      Becomes (.matrixTileOp p) s (fun t =>
        computed s t c (matTotal r x n) (if accOut r x = false ∧ q.step + 1 = n then
          (putValues s c e.body (nodeDesc r x 2) (fieldLe (c.block s) 4 1 = 1) ((tileIndices (nodeDesc r x 2) q).map fun i =>
            (i.1, accValue (intClass r x) (vs.getD i.2 (0, 0)).1))).2 else []) ∧
        ∀ i < 4096, accAt t c.p (base + q.tile) i = (vs.getD i (0, 0)).1)) ∧
    (∀ c b, candidates s p 6 = c :: b → ∀ e, c.entry s = some e →
      let pl := vecPlan (c.route s) (c.node s)
      let op := (c.node s).opcode
      let f := fieldLe (c.block s) 0 1
      let d := pl.ins.getD 0 pl.out
      let segs (k : Nat) : List (List Nat) := (List.range (min 64 (pl.out.segments pl.out.runDim - 64 * k))).flatMap fun i =>
        pl.out.segIndices pl.out.runDim (64 * k + i)
      let all := ceilDiv (pl.out.segments pl.out.runDim) 64
      let puts (total : Nat) (vs : List (List Nat × Fv)) (t : State) : Prop :=
        computed s t c total (putValues s c e.body pl.out pl.sr vs).2
      (op = 1 ∨ op = 2 → accIn (c.route s) (c.node s) = false → Becomes (.vectorTileOp p) s (fun t =>
        puts all ((segs c.tile).map fun i => (i, laneOf s c pl op f i (laneAt s c d i))) t ∧ t.marrow.acc = s.marrow.acc)) ∧
      (op = 1 ∨ op = 2 → accIn (c.route s) (c.node s) = true →
        let y := nodeOf s c.j (edgeOf s c.j (c.node s).inFirst).producer
        let q := matPos (c.route s) y 1 c.tile
        ∀ k, fullSlot s c.j c.h (c.node s).inFirst c.rank q.num = some k →
        memberPod s c.j (groupMember y c.h q.num (jobP s c.j)) = some c.p →
        let tile := accBase (c.route s) (edgeOf s c.j (c.node s).inFirst).producer + setBase (c.route s) y k + q.tile
        Becomes (.vectorTileOp p) s (puts (matTotal (c.route s) y 1) ((tileIndices (nodeDesc (c.route s) y 2) q).map fun i =>
          (i.1, laneOf s c pl op f i.1 ((accValue (intClass (c.route s) y) (accAt s c.p tile i.2)).round fp32))))) ∧
      (op = 3 ∨ op = 4 ∨ op = 5 →
        let k := lineSpan d pl.axis c.tile
        lineKeeps s c k = true → Becomes (.vectorTileOp p) s (fun t =>
          puts (ceilDiv k.segs 64) (lineValues s c pl k) t ∧
          (k.goesOn = true → accAt t c.p (accBase (c.route s) c.n) 0 = BitVec.ofNat 32 (f32Bits (linePart s c pl k (k.hi / k.per)))) ∧
          (k.goesOn = false → t.marrow.acc = s.marrow.acc))) ∧
      (op = 6 →
        let k := lineSpan d pl.axis c.tile
        let blocks := (List.range (k.hi - k.lo)).flatMap fun i =>
          cutEvery 32 2 ((lineSegments d pl.axis (k.lo + i) (k.lo + i + 1)).map fun i => (i, laneAt s c d i))
        Becomes (.vectorTileOp p) s (computed s · c (ceilDiv k.segs 64) (blocks.foldl (quantBlock c e.body pl) (s, [])).2)) ∧
      (op = 7 → Becomes (.vectorTileOp p) s (puts all ((segs c.tile).map fun i => (i, (partsOf s c d pl.out.rank i).1))))) ∧
    (∀ c b, candidates s p 7 = c :: b → ∀ e, c.entry s = some e →
      Becomes (.sampleTileOp p) s (computed s · c (sampleRows (nodeDesc (c.route s) (c.node s) 0))
        (sampleWrites s c e (rowChoice s c e)))) ∧
    (refetch s p = none → ∀ c b, candidates s p 9 = c :: b → (c.entry s).isSome = true → (c.node s).opcode = 3 →
      let src := nodeDesc (c.route s) (c.node s) 0
      let dst := nodeDesc (c.route s) (c.node s) 1
      Becomes (.transferTileOp p) s (computed s · c (xferTiles dst)
        ((moveBytes s c c src dst (xferElems dst c.tile)).2.flatMap (·.1))))

/-- An operation that consumes poison writes its outputs poisoned and ends its job with 0x4042 (R345). -/
def Obligations.PoisonEndsJob : Prop :=
  ∀ (s : State) (p : Fin 100) (cmd : Instr) (l : List Cand) (f : State → Cand → Option State) (c : Cand) (b : List Cand)
    (r : State) (ws : List WByte) (n : Nat),
    (cmd, l, f) ∈ ([(.matrixTileOp p, candidates s p 5, matrixOp), (.vectorTileOp p, candidates s p 6, vectorOp),
      (.sampleTileOp p, candidates s p 7, sampleOp), (.packTileOp p, packCands s p, packOp),
      (.digestTileOp p, furlongCands s p ++ (candidates s p 8).filter (fun c => (c.node s).opcode = 2), digestOp)] :
      List (Instr × List Cand × (State → Cand → Option State))) →
    l = c :: b → f s c = some (consume r c ws n) → (job r c.j).st = .bound → r.marrow.ecc = [] → r.itg.groups = [] →
    r.itg.rollPhase ≠ 3 → (∀ q ∈ jobPods r c.j, (podAt r q).st = .bound) →
    Becomes cmd s (fun t =>
      (job t c.j).st = .failed ∧ (job t c.j).reason = 0x4042 ∧ (∀ k ∈ wLines ws, k ∈ t.marrow.poison) ∧
      (∀ q ∈ jobPods r c.j, q < 100 → (podAt t q).st = .draining) ∧
      (∀ k, k ≠ c.j → job t k = job r k) ∧ (∀ g ∈ t.gates, g.2.assigned = true → g.2.job ≠ c.j))

/-- DIGEST: a `FURLONG` operation adds the granule digests of its region to its member's sum; a `RECORD` operation reads its granules
of the slot, and the last writes the slot's digest, size and task (R359, R360). -/
def Obligations.FurlongSums : Prop :=
  ∀ (s : State) (p : Fin 100),
    (∀ (c : Cand) (b : List Cand), furlongCands s p = c :: b → s.marrow.poison = [] →
      s.marrow.prov = [] → s.marrow.ecc = [] → s.itg.rollPhase ≠ 3 →
      let r := c.route s
      let first := (furlongRegion r c.n).1
      let gs := ((memberGranules r c.n (jobP s c.j) c.h).drop (16 * c.tile)).take 16
      let granule (g : Nat) : List Byte := (List.range 4096).map fun i =>
        s.marrow.byte (c.p * 6291456 + (first + g) / max 1 (jobP s c.j) * 4096 + i)
      Becomes (.digestTileOp p) s (fun t =>
        (nodeAt t c.j c.h c.n).sum = ((nodeAt s c.j c.h c.n).sum + (gs.map fun g => digestTerm g (granule g)).sum) % 2 ^ 128 ∧
        t.nextOp = s.nextOp + 1 ∧ t.marrow = s.marrow ∧ t.pods = s.pods ∧ t.mem = s.mem ∧ t.gates = s.gates)) ∧
    (furlongCands s p = [] → Inv s → calm s →
      ∀ c b, (candidates s p 8).filter (fun x => (x.node s).opcode = 2) = c :: b → c.rank ≠ furlongRank →
      ∀ i l, c.ins = i :: l → ∀ w v, c.outs = w :: v → inEdges (c.node s) ≠ [] →
      let x := edgeOf s c.j ((inEdges (c.node s)).headD 0)
      let total := max 1 (ceilDiv (slotBytes x) 65536)
      let whole := (List.range (slotBytes x)).map fun k => s.marrow.byte (mkey (c.home s) (slotAddr x i.2 + k))
      Becomes (.digestTileOp p) s (computed s · c total (if c.tile + 1 < total then []
        else wBytes (c.home s) (slotAddr (edgeOf s c.j (w.1 % 4096)) w.2) (digestRecord whole c.task))))

/-! ## Verdicts, Marrow lines and replica groups -/

/-- VERDICT: a passed one clears the provisional bits and retires the operation with Marrow's bytes as they are: its output slots
read full and its input slots empty, a multicast stays on record for the receivers it left out, and the last `FURLONG` operation of a
digest posts it, to be compared once every member of the group has posted (R265, R281, R297, R341, R360, R361). A failed one (of the
checksum, also by a line outside its tolerance, the residue, the Chard lines or parity) poisons its lines, retires nothing onwards
and raises its source; all but parity make the Pod `SUSPECT`, where every verdict fails (R340, R343, R347, R348, R362). -/
def Obligations.Verdicts : Prop :=
  ∀ (s : State) (p : Fin 100) (i : Nat) (o : TileOp), Inv s → opAt s i = some o → o.pod = p.val → opHeld s o = false →
    let digests : Prop := o.kind = 8 ∧ o.opcode = 1
    ((podAt s p.val).st ≠ .suspect → o.failing = none → ¬ digests →
      (o.dropped = [] → Becomes (.verdict p i .pass) s (fun t =>
        opAt t i = none ∧ (∀ k ∈ o.lines, k ∉ t.marrow.prov) ∧ t.marrow.bytes = s.marrow.bytes ∧
        t.marrow.poison = s.marrow.poison ∧ (∀ q, (podAt t q).st = (podAt s q).st))) ∧
      (o.dropped = [] → opAlive s o = true → recordFailed s o = false → s.mps.waiters = [] → noReset s 13 →
        (∀ q ∈ s.ops, sameWork o q = true → q.id = i) → Becomes (.verdict p i .pass) s (fun t =>
          let full (x : Nat × Nat) : Nat := fullId s o.job (x.1 / 4096) (x.1 % 4096) x.2
          let empty (x : Nat × Nat) : Nat := emptyId s o.job (x.1 / 4096) (x.1 % 4096) x.2
          (∀ x ∈ o.outs, (edgeOf s o.job (x.1 % 4096)).sync ≠ 1 → mpOwned s (full x) = true →
            (∀ y ∈ o.ins, full y ≠ full x ∧ empty y ≠ full x) →
            slotFull t o.job (x.1 / 4096) (x.1 % 4096) x.2 = true) ∧
          (∀ y ∈ o.ins, mpOwned s (empty y) = true → (∀ z ∈ o.ins, full z ≠ empty y) →
            slotEmpty t o.job (y.1 / 4096) (y.1 % 4096) y.2 = true))) ∧
      (o.dropped ≠ [] → opAlive s o = true → Becomes (.verdict p i .pass) s (fun t =>
        (∃ x, opAt t i = some x ∧ x.pod = 127 ∧ x.dropped = o.dropped) ∧ (∀ k ∈ o.lines, k ∉ t.marrow.prov) ∧
        t.marrow.bytes = s.marrow.bytes ∧ t.marrow.poison = s.marrow.poison))) ∧
    ((podAt s p.val).st ≠ .suspect → o.failing = none → digests → opAlive s o = true → o.dropped = [] →
      (postsNext s o = false → Becomes (.verdict p i .pass) s (fun t =>
        opAt t i = none ∧ t.marrow.poison = s.marrow.poison ∧ t.itg.lastDig = s.itg.lastDig ∧ t.itg.groups = s.itg.groups)) ∧
      (postsNext s o = true → (∀ e ∈ s.itg.groups, groupReady e.2 = false) →
        let f := ((List.range (jobP s o.job)).map fun m => (nodeAt s o.job m o.node).sum).sum % 2 ^ 128
        let g := nodeParam (job s o.job).route o.node 0 1
        let all := (groupAt s g).pending ++ [(o.job, f)]
        Becomes (.verdict p i .pass) s (fun t =>
          opAt t i = none ∧ sget? t.itg.lastDig o.job = some f ∧
          (g = 255 → t.itg.groups = s.itg.groups) ∧
          (g ≠ 255 → (∃ k ∈ nins (groupAt s g).members o.job, ∀ d ∈ all, d.1 ≠ k) →
            (groupAt t g).pending = all ∧ t.marrow.poison = s.marrow.poison) ∧
          (g ≠ 255 → (∀ k ∈ nins (groupAt s g).members o.job, ∃ d ∈ all, d.1 = k) →
            (groupAt t g).pending = [] ∧ (groupAt t g).result = (judge all).1 ∧
            ∀ k ∈ (judge all).2, (job s k).st = .bound → (job t k).st = .failed ∧ (job t k).reason = 0x4043)))) ∧
    (∀ (r : VerdictResult) (x : Nat × Nat), verdictSource (judged o r) = some x →
      (x.1 ≠ 4 → (podAt s p.val).st = .bound → s.itg.groups = [] → s.itg.rollPhase ≠ 3 →
        (∀ q ∈ jobPods s (podAt s p.val).job, (podAt s q).st = .bound) → Becomes (.verdict p i r) s (fun t =>
          opAt t i = none ∧ (∀ k ∈ o.lines, k ∉ t.marrow.prov ∧ k ∈ t.marrow.poison) ∧
          (podAt t p.val).st = .suspect ∧ t.marrow.bytes = s.marrow.bytes ∧
          (s.blk.st ≠ .cold → noReset s x.1 → t.flt.active.getLsbD x.1 = true))) ∧
      (x.1 = 4 → s.blk.st ≠ .cold → (podAt s p.val).st ≠ .test → noReset s 4 → Becomes (.verdict p i r) s (fun t =>
        opAt t i = none ∧ (∀ k ∈ o.lines, k ∉ t.marrow.prov ∧ k ∈ t.marrow.poison) ∧ t.marrow.bytes = s.marrow.bytes ∧
        t.flt.active.getLsbD 4 = true ∧ (bits (rg s 1 0x410) 28 16 = 0 →
          (∀ q, (podAt t q).st = (podAt s q).st) ∧ ∀ j, (job t j).st = (job s j).st)))) ∧
    ((podAt s p.val).st = .suspect → o.failing = none → Becomes (.verdict p i .pass) s (fun t =>
      opAt t i = none ∧ (∀ k ∈ o.lines, k ∉ t.marrow.prov ∧ k ∈ t.marrow.poison) ∧ t.marrow.bytes = s.marrow.bytes ∧
      t.flt.active = s.flt.active))

/-- SCRUB_LINE: every word of the line with one bit in error is corrected, a word with more poisons the line, and the
scrubber moves on (R263, R266; the pointer is the model's, log 5). -/
def Obligations.ScrubCorrects : Prop :=
  ∀ (s : State) (p : Fin 100), Inv s → (podAt s p.val).gated = false → (podAt s p.val).st ≠ .off → s.itg.rollPhase ≠ 3 →
    let l := lkey p.val (podAt s p.val).scrub
    Becomes (.scrubLine p) s (fun t =>
      (∀ w < 8, s.marrow.wordErr l w ≤ 1 → t.marrow.wordErr l w = 0) ∧
      ((∃ w < 8, 2 ≤ s.marrow.wordErr l w) → l ∈ t.marrow.poison) ∧
      (∀ k, k / 64 = l → t.marrow.byte k = s.marrow.byte k) ∧
      (podAt t p.val).scrub = (if 98304 ≤ (podAt s p.val).scrub + 1 then 0 else (podAt s p.val).scrub + 1))

/-- REPLICA_LATE_TIMER raises its source once for the comparison that waits (R361), and MULTICAST_DEADLINE lets a multicast
retire without the receivers that are left, which it counts (R281). -/
def Obligations.LateTimers : Prop :=
  ∀ s : State, Inv s →
    (∀ g : BitVec 5, working s = true → rgf s 0 (0x700 + 8 * g.toNat) 15 8 ≠ 0 → (groupAt s g.toNat).pending ≠ [] →
      (groupAt s g.toNat).late = false → Becomes (.replicaLateTimer g) s (fun t =>
        groupAt t g.toNat = { groupAt s g.toNat with late := true } ∧ t.flt.active.getLsbD 17 = true ∧
        (∀ h, h ≠ g.toNat → groupAt t h = groupAt s h) ∧ t.jobs = s.jobs ∧ t.marrow = s.marrow)) ∧
    (∀ (p : Fin 100) (i : Nat) (o : TileOp), opAt s i = some o → o.pod = p.val → o.kind = 9 → o.opcode = 4 → o.awaiting ≠ 0 →
      Becomes (.multicastDeadline p i) s (fun t =>
        opAt t i = some { o with awaiting := 0 } ∧
        sgetD t.regs.live (wa 3 0x220) 0 = (if o.dropped = [] then sgetD s.regs.live (wa 3 0x220) 0
          else (sgetD s.regs.live (wa 3 0x220) 0 + o.dropped.length) % 2 ^ 64) ∧
        t.marrow = s.marrow ∧ t.jobs = s.jobs ∧ t.mem = s.mem ∧ t.pods = s.pods))

/-! ## Memory ports, pools and batches -/

/-- MEM_RESPONSE: a beat joins its request, and the last one answers it: read data joins its operation, a `FAULT` pauses the
transfer or keeps the write for repetition, a write that is not performed ends its job, a quarter of a parameter-set slot
is kept, the commit word of a save ends it. A slot the host owns ends the scan, one not read `OKAY` is read again, and a
beat of an unknown tag or with a parity error changes nothing but the port-parity source (R58, R68, R71, R76, R102, R271, R278,
R282, R283, R425, R459, Table 11-2). -/
def Obligations.MemoryAnswers : Prop :=
  ∀ (s : State) (port : BitVec 4) (tag : BitVec 10) (k : RspKind) (d : BitVec 512), k ≠ .timeout →
    let rest (r : MemReq) : List MemReq := s.mem.reqs.filter fun q => !(q.port = r.port && q.tag = r.tag)
    let cmd := Instr.memResponse (.req port tag) k d true
    (∀ r, reqAt s port.toNat tag.toNat = some r → r.write = false → r.beats + 1 < r.lines →
      Becomes cmd s (fun t =>
        reqAt t port.toNat tag.toNat = some (takeBeat r k d) ∧ t.mem.held = s.mem.held ∧ t.mem.retry = s.mem.retry ∧
        t.jobs = s.jobs ∧ t.marrow = s.marrow ∧ t.entries = s.entries ∧ t.ops = s.ops)) ∧
    (∀ r, reqAt s port.toNat tag.toNat = some r → (r.write = true ∨ r.lines ≤ r.beats + 1) → r.also = [] → r.worst = 0 →
      portsQuiet s →
      let a := takeBeat r k d
      (∀ u o, transferOf r = some u → opAt s u.2 = some o → r.write = false → k = .okay → 2 ≤ o.awaiting →
        (∀ x, xferNum s u.1 = some x → x.faulted = false) → Becomes cmd s (fun t =>
          opAt t u.2 = some { o with got := answerBytes a o.got, awaiting := o.awaiting - 1,
                                     gotPois := (answerPois a).foldl nins o.gotPois } ∧
          t.mem.reqs = rest r ∧ t.jobs = s.jobs ∧ t.marrow = s.marrow ∧ t.entries = s.entries)) ∧
      (∀ u o x e, transferOf r = some u → opAt s u.2 = some o → k = .fault → opAlive s o = true → s.mem.reqs = [r] →
        xferNum s u.1 = some x → x.faulted = false → x.state = 1 → u.1 % 32 ≠ 31 → entryRank s x.job x.rank = some e →
        s.blk.st ≠ .cold → noReset s 11 → Becomes cmd s (fun t =>
          xferNum t u.1 = some { x with state := 2, faulted := true, cursor := o.tile, page := r.addr / 4096 * 4096 } ∧
          t.flt.active.getLsbD 11 = true ∧ opAt t u.2 = some o ∧ t.entries = s.entries ∧
          ∃ c ∈ (cqAt t (sqCq s e.sq)).due, c.sq = e.sq ∧ c.slot = e.slot ∧ c.status = stFault ∧ c.detail = u.1 ∧
            c.info = r.addr / 4096 * 4096 ∧ c.final = false ∧ c.xfer = some u.1)) ∧
      (plainWrite r = true → k = .okay →
        exec cmd s = .next { s with mem := { s.mem with reqs := rest r } }) ∧
      (repeated r = true → k = .fault → r.again = false → s.blk.st ≠ .cold → noReset s 11 → Becomes cmd s (fun t =>
        { a with again := true } ∈ t.mem.retry ∧ t.flt.active.getLsbD 11 = true ∧ t.entries = s.entries ∧ t.ops = s.ops ∧
        t.marrow = s.marrow)) ∧
      (∀ j, endsJob s r = some j → k = .poison ∨ k = .error →
        (job s j).st = .bound ∨ (job s j).st = .draining ∨ (job s j).st = .saving → s.blk.st ≠ .cold → s.blk.st ≠ .halted →
        noReset s 9 → Becomes cmd s (fun t =>
          (job t j).st = .failed ∧ (job t j).reason = 0x4042 ∧ t.flt.active.getLsbD 9 = true)) ∧
      (∀ u, paramOf r = some u → r.write = false → k = .okay → Becomes cmd s (fun t =>
        t.streams = smod s.streams u.1 (fun x => { x with slotGot := sput x.slotGot u.2 a.got }) ∧ t.mem.reqs = rest r ∧
        t.jobs = s.jobs ∧ t.marrow = s.marrow ∧ t.entries = s.entries ∧ t.ops = s.ops)) ∧
      (∀ j, r.write = true → r.purpose = .commit j true → k = .okay → (job s j).st = .saving → s.blk.st ≠ .halted →
        Becomes cmd s (fun t =>
          (job t j).phase = 4 ∧ (job t j).st = .saving ∧ t.mem.reqs = rest r ∧
          (∀ i, i ≠ j → job t i = job s i) ∧ t.marrow = s.marrow ∧ t.pods = s.pods ∧ t.gates = s.gates))) ∧
    (s.blk.st = .cold → reqAt s port.toNat tag.toNat = none → exec cmd s = .next s) ∧
    (s.blk.st ≠ .cold →
      Becomes (.memResponse (.req port tag) k d false) s (fun t =>
        t.flt.active.getLsbD 8 = true ∧ t.jobs = s.jobs ∧ t.marrow = s.marrow ∧ t.entries = s.entries ∧ t.ops = s.ops)) ∧
    (∀ n : BitVec 12, working s = true → (sqAt s n.toNat).st = .active → (sqAt s n.toNat).scan = true →
      let others (t : State) : Prop := (sqAt t n.toNat).fetch = (sqAt s n.toNat).fetch ∧ t.entries = s.entries ∧
        (∀ m, m ≠ n.toNat → sqAt t m = sqAt s m) ∧ t.cqs = s.cqs ∧ t.ops = s.ops ∧ t.marrow = s.marrow
      (k = .okay → d.getLsbD 8 ≠ (sqAt s n.toNat).phase →
        ((sqAt s n.toNat).rescan = false → Becomes (.memResponse (.slot n) k d true) s (fun t => others t ∧
          (sqAt t n.toNat).scan = false ∧ t.jobs = s.jobs ∧ memKept s t)) ∧
        ((sqAt s n.toNat).rescan = true → Becomes (.memResponse (.slot n) k d true) s (fun t => others t ∧
          (sqAt t n.toNat).scan = true ∧ (sqAt t n.toNat).rescan = false ∧ t.jobs = s.jobs ∧ memKept s t))) ∧
      (k = .poison ∨ ((k = .error ∧ noReset s 9) ∨ (k = .fault ∧ noReset s 11)) →
        Becomes (.memResponse (.slot n) k d true) s (fun t => others t ∧
          (sqAt t n.toNat).scan = false ∧ (sqAt t n.toNat).rescan = true ∧ (sqAt t n.toNat).backoff = true ∧
          (k = .error → t.flt.active.getLsbD 9 = true) ∧ (k = .fault → t.flt.active.getLsbD 11 = true))))

/-- MEM_TIMEOUT counts as an `ERROR` answer: its source becomes active, every line of a read reaches its operation poisoned,
and a job whose write it meets fails with 0x4042 (R271, R272, Table 11-2). MERGE_HOLD_EXPIRE sends what the Pod has held
longest (R275). -/
def Obligations.MemoryTimers : Prop :=
  ∀ s : State,
    (∀ (port : BitVec 4) (tag : BitVec 10) (r : MemReq), s.blk.st ≠ .cold → reqAt s port.toNat tag.toNat = some r →
      r.also = [] →
      Becomes (.memTimeout port tag) s (fun t => t.flt.active.getLsbD 10 = true) ∧
      (∀ j, endsJob s r = some j → (job s j).st = .bound ∨ (job s j).st = .draining ∨ (job s j).st = .saving →
        s.blk.st ≠ .halted → noReset s 10 → Becomes (.memTimeout port tag) s (fun t => t.flt.active.getLsbD 10 = true ∧
          (job t j).st = .failed ∧ (job t j).reason = 0x4042)) ∧
      (∀ u o, transferOf r = some u → opAt s u.2 = some o → r.write = false → 2 ≤ o.awaiting → portsQuiet s →
        (∀ x, xferNum s u.1 = some x → x.faulted = false) → noReset s 10 → Becomes (.memTimeout port tag) s (fun t =>
          t.flt.active.getLsbD 10 = true ∧ (∀ p, (job t p).st = (job s p).st) ∧ t.marrow = s.marrow ∧
          ∃ x, opAt t u.2 = some x ∧ x.awaiting = o.awaiting - 1 ∧ ∀ l < r.lines, r.addr / 64 + l ∈ x.gotPois))) ∧
    (∀ p : Fin 100,
      (∀ r, s.mem.held.find? (fun q => q.tag = tagMerge ∧ q.pod = p.val) = some r → Becomes (.mergeHoldExpire p) s (fun t =>
        r ∉ t.mem.held ∧ (∀ q ∈ s.mem.held, q ≠ r → q ∈ t.mem.held) ∧ (∀ q ∈ s.mem.reqs, q ∈ t.mem.reqs) ∧
        (∃ q ∈ t.mem.reqs ++ t.mem.held, q.tag ≠ tagMerge ∧ q.purpose = r.purpose ∧ q.also = r.also ∧ q.addr = r.addr ∧
          q.write = r.write ∧ q.data = r.data ∧ q.mask = r.mask) ∧
        t.jobs = s.jobs ∧ t.marrow = s.marrow ∧ t.ops = s.ops ∧ t.entries = s.entries)) ∧
      ((∀ q ∈ s.mem.held, ¬ (q.tag = tagMerge ∧ q.pod = p.val)) → exec (.mergeHoldExpire p) s = .next s))

/-- WRITE_FAULT_RETRY repeats the first kept write of every ring or area (R282); XFER_RESUME restarts a paused transfer at its
cursor once its `FAULT_PENDING` is posted: the operations from the cursor on send their requests again; it marks the transfer
before that, and refuses any other number with 0x0366 (R76, R283, R284). -/
def Obligations.FaultRecovery : Prop :=
  ∀ s : State, Inv s →
    (portOpen s = true → Becomes .writeFaultRetry s (fun t =>
      (∀ r ∈ s.mem.retry, repeats s r = true → (∀ q ∈ s.mem.retry.takeWhile (· ≠ r), q.purpose.area ≠ r.purpose.area) →
        ∃ q ∈ t.mem.reqs ++ t.mem.held, q.purpose = r.purpose ∧ q.addr = r.addr ∧ q.data = r.data ∧ q.mask = r.mask ∧
          q.again = true) ∧
      (∀ r ∈ s.mem.retry, repeats s r = false → r ∈ t.mem.retry) ∧
      t.jobs = s.jobs ∧ t.marrow = s.marrow ∧ t.entries = s.entries ∧ t.sqs = s.sqs)) ∧
    (∀ n : BitVec 12, portLive s = true →
      (∀ x, xferNum s n.toNat = some x → x.state = 2 →
        (faultPosting s n.toNat = true → Becomes (.xferResume n) s (fun t =>
          xferNum t n.toNat = some { x with state := 3 } ∧ t.mem.reqs = s.mem.reqs ∧ t.ops = s.ops ∧ t.marrow = s.marrow)) ∧
        (faultPosting s n.toNat = false → n.toNat % 32 ≠ 31 →
          (x.move = none → Becomes (.xferResume n) s (fun t =>
            xferNum t n.toNat = some { x with state := 1, faulted := false } ∧ t.marrow = s.marrow ∧ t.jobs = s.jobs ∧
            (∀ o ∈ s.ops, o.xfer = some n.toNat → x.cursor ≤ o.tile → opAt s o.id = some o →
              opAt t o.id = some { o with awaiting := o.sent.length, got := [], gotPois := [] }) ∧
            (∀ o ∈ s.ops, o.xfer ≠ some n.toNat → opAt s o.id = some o → opAt t o.id = some o ∨
              ∃ q ∈ s.ops, q.id = o.id ∧ q.xfer = some n.toNat))) ∧
          (x.move ≠ none → Becomes (.xferResume n) s (fun t =>
            (∃ y, xferNum t n.toNat = some y ∧ y.state = 1 ∧ y.faulted = false) ∧ t.ops = s.ops ∧ t.marrow = s.marrow ∧
            t.jobs = s.jobs))) ∧
        (faultPosting s n.toNat = false → n.toNat % 32 = 31 → Becomes (.xferResume n) s (fun t =>
          (∃ y, xferNum t n.toNat = some y ∧ y.state = 1 ∧ y.faulted = false) ∧ t.ops = s.ops ∧ t.entries = s.entries))) ∧
      ((∀ x, xferNum s n.toNat = some x → x.state ≠ 2) → Becomes (.xferResume n) s (fun t =>
        refused t 3 0x0366 0x880 ∧ bitN (rg t 3 0x880) 30 = true ∧ t.mem = s.mem ∧ t.ops = s.ops ∧ t.marrow = s.marrow)))

/-- POOL_RESPONSE, POOL_RETRY_TIMER and POOL_TIMEOUT: the oldest request waits on `EMPTY`, takes an accepted address for its
batch, its pictures or its motion reference, is made again after a rejected one, and after 16 us waits while its late answer
stays owed; a late answer goes to no request, and its address is rejected (R286, R287, R429). -/
def Obligations.PoolAnswers : Prop :=
  ∀ (s : State) (c : Nat) (u : PoolUser) (rest : List (Nat × PoolUser)), s.mem.poolAsk = (c, u) :: rest → s.blk.st ≠ .cold →
    noReset s 12 →
    (s.mem.poolLate = [] →
      Becomes (.poolResponse .empty) s (fun t =>
        t.mem.poolAsk = rest ∧ t.mem.poolWait = s.mem.poolWait ++ [(c, u)] ∧ t.flt = s.flt ∧ t.sqs = s.sqs ∧ t.jobs = s.jobs) ∧
      (∀ a : DWord, poolAccepts s c a.toNat = true →
        let held (t : State) : Prop := t.mem.poolAsk = rest ∧ a.toNat ∈ sgetD t.mem.poolHeld c [] ∧ t.flt = s.flt ∧ t.jobs = s.jobs
        (∀ n b, u = .batch n → (sqAt s n).asm.closed.find? (fun b => b.phase = .asked) = some b →
          Becomes (.poolResponse (.addr a)) s (fun t => held t ∧
            ∃ x ∈ (sqAt t n).asm.closed, x.number = b.number ∧ x.phase = .haveBuf ∧ x.buf = a.toNat)) ∧
        (∀ k, u = .picture k ∨ u = .motion k → Becomes (.poolResponse (.addr a)) s (fun t => held t ∧
          t.mem.poolGot = s.mem.poolGot ++ [(u, a.toNat)] ∧ t.sqs = s.sqs))) ∧
      (∀ a : DWord, poolAccepts s c a.toNat = false → Becomes (.poolResponse (.addr a)) s (fun t =>
        t.mem.poolAsk = rest ++ [(c, u)] ∧ bitN (rg t 3 0x014) 1 = true ∧ t.flt.active.getLsbD 12 = true ∧ t.sqs = s.sqs))) ∧
    (∀ k cs, s.mem.poolLate = k :: cs →
      exec (.poolResponse .empty) s = .next { s with mem := { s.mem with poolLate := cs } } ∧
      ∀ a : DWord, Becomes (.poolResponse (.addr a)) s (fun t => t.mem.poolLate = cs ∧ t.mem.poolAsk = s.mem.poolAsk ∧
        t.mem.poolHeld = s.mem.poolHeld ∧ bitN (rg t 3 0x014) 1 = true ∧ t.flt.active.getLsbD 12 = true ∧ t.sqs = s.sqs)) ∧
    Becomes .poolTimeout s (fun t =>
      t.mem.poolAsk = rest ∧ t.mem.poolWait = s.mem.poolWait ++ [(c, u)] ∧ t.mem.poolLate = s.mem.poolLate ++ [c] ∧
      t.flt.active.getLsbD 12 = true ∧ t.sqs = s.sqs) ∧
    (∀ k : BitVec 6, Becomes (.poolRetryTimer k) s (fun t =>
      t.mem.poolAsk = s.mem.poolAsk ++ s.mem.poolWait.filter (fun e => e.1 = k.toNat) ∧
      t.mem.poolWait = s.mem.poolWait.filter (fun e => e.1 ≠ k.toNat) ∧ t.mem.poolHeld = s.mem.poolHeld ∧ t.sqs = s.sqs ∧
      t.jobs = s.jobs ∧ t.regs = s.regs))

/-- BATCH_FLUSH_TIMER closes an open batch with code 4 and asks for its buffer; BATCH_EMIT writes a batch that has one into it,
and once it is visible its directory record; a slot whose `VALID` reads 1 makes it wait for DIR_SLOT_RETRY (R207 to R209). -/
def Obligations.BatchesLeave : Prop :=
  ∀ (s : State) (n : BitVec 12),
    let j := sqJob s n.toNat
    let a := (sqAt s n.toNat).asm
    (∀ x, working s = true → jobPack s j = some x → sqConceal s n.toNat = true →
      fieldLe (nodeBlock (job s j).route x.2) 0x1C 4 ≠ 0 → (sqAt s n.toNat).st = .active → copying s n.toNat = false →
      a.openB.units ≠ [] → Becomes (.batchFlushTimer n) s (fun t =>
        (sqAt t n.toNat).asm.closed = a.closed ++ [{ a.openB with close := 4, closeTime := s.time, phase := .asked }] ∧
        (sqAt t n.toNat).asm.openB = Batch.fresh ((a.openB.number + 1) % 2 ^ 32) ∧
        t.mem.poolAsk = s.mem.poolAsk ++ [(fieldLe (nodeBlock (job s j).route x.2) 0x0C 1, .batch n.toNat)] ∧
        t.jobs = s.jobs ∧ t.entries = s.entries ∧ t.marrow = s.marrow)) ∧
    (∀ b d x, podIssues s (packPod s j n.toNat) = true → a.closed.head? = some b → d.wf = true → jobPack s j = some x →
      let record := dirRecord s n.toNat b (batchBytes (job s j).route x.2)
      let sent (t : State) : Prop := (∃ y, (sqAt t n.toNat).asm.closed.head? = some y ∧ y.phase = .dirWriting ∧ y.number = b.number) ∧
        writes t (dirAddr s n.toNat b.number) record (rg s 0x00A 0x40C) 1 127 (.directory n.toNat) ∧ t.jobs = s.jobs ∧
        t.entries = s.entries ∧ t.marrow = s.marrow
      let held (t : State) : Prop := (∃ y, (sqAt t n.toNat).asm.closed.head? = some y ∧ y.phase = .dirWait) ∧
        bitN (rg t 0x00A 0x014) 1 = true ∧ memKept s t ∧ t.jobs = s.jobs ∧ t.entries = s.entries
      (∀ cmd : Instr, (cmd = .batchEmit n d ∧ b.phase = .written) ∨ (cmd = .dirSlotRetry n d ∧ b.phase = .dirWait) →
        d.kind = .okay → (fieldLe d.bytes 0 1 % 2 = 0 → Becomes cmd s sent) ∧
          (Inv s → fieldLe d.bytes 0 1 % 2 = 1 → Becomes cmd s held)) ∧
      (b.phase = .haveBuf → packing s n.toNat = false → s.marrow.poison = [] → s.marrow.ecc = [] → portsQuiet s →
        s.blk.st ≠ .halted → moveAt s s.nextOp = none →
        Becomes (.batchEmit n d) s (fun t =>
          (∃ y, (sqAt t n.toNat).asm.closed.head? = some y ∧ y.phase = .writing ∧ y.buf = b.buf) ∧
          (∃ m, moveAt t s.nextOp = some m ∧ m.ends = .batch n.toNat ∧ m.job = j ∧ m.next = 0 ∧
            m.tiles.flatten = (pieces b.buf (batchImage s n.toNat (job s j).route x.2 b).length).map fun q =>
              writeReq q.1 (((batchImage s n.toNat (job s j).route x.2 b).drop (q.1 - b.buf)).take q.2) (sqXlat s n.toNat) 1 127 0
                (.buffer 0 0)) ∧
          t.jobs = s.jobs ∧ t.entries = s.entries ∧ t.marrow = s.marrow)))

/-! ## Mileposts and Tollgates -/

/-- MILEPOST_SET, MILEPOST_CLEAR, MISUSE_ZERO and MP_DUMP: the operation changes its Milepost alone, a set resolves every waiting
`WAIT` and leaves the Milepost set unless a `TAKE` waits, a set of a set one and a clear of a clear one count as misuse, one that is
not owned is refused, and a dump starts unless one runs (R292, R294, R307, R309, R320, Tables 12-1, 12-9). -/
def Obligations.MilepostOperations : Prop :=
  ∀ s : State, Inv s → portLive s = true →
    (∀ id : BitVec 18,
      let r := mpAt s id.toNat
      let kept (t : State) : Prop := (∀ k, k ≠ id.toNat → mpAt t k = mpAt s k) ∧ t.marrow = s.marrow ∧ t.jobs = s.jobs
      (mpOwned s id.toNat = true →
        (r.value = false → (∀ w ∈ s.mps.waiters, w.id ≠ id.toNat) → Becomes (.milepostSet id) s (fun t => kept t ∧
          mpAt t id.toNat = { r with value := true, consumed := false, setTime := s.time, lastSrc := 0x61, lastOp := 0xF })) ∧
        (r.value = false → Becomes (.milepostSet id) s (fun t =>
          let mine (w : Waiter) : Prop := w.id = id.toNat ∧ attached s w = true
          ((mpAt t id.toNat).value = true ↔ ∀ w ∈ s.mps.waiters, mine w → w.take = false) ∧
          ((mpAt t id.toNat).consumed = true ↔ (mpAt t id.toNat).value = false) ∧
          (∀ w ∈ s.mps.waiters, mine w → w.take = false → w ∉ t.mps.waiters ∧
            ∀ n k, w.src = .ring n k → ∀ e, entryAt s n k = some e → e.st ≠ .done →
              ∃ d ∈ (cqAt t (sqCq s n)).due, d.sq = n ∧ d.slot = k ∧ d.status = 0 ∧ d.final = true) ∧
          (∀ w ∈ s.mps.waiters, ¬ mine w → w ∈ t.mps.waiters) ∧ t.marrow = s.marrow ∧ t.jobs = s.jobs)) ∧
        (r.value = true → Becomes (.milepostSet id) s (fun t => kept t ∧ (mpAt t id.toNat).value = true ∧
          (mpAt t id.toNat).misSet = min 255 (r.misSet + 1) ∧ bitN (rg t 0x580 0x014) 0 = true)) ∧
        (r.value = true → Becomes (.milepostClear id) s (fun t => kept t ∧
          mpAt t id.toNat = { r with value := false, lastSrc := 0x61, lastOp := 0x1F } ∧ t.mps.waiters = s.mps.waiters)) ∧
        (r.value = false → Becomes (.milepostClear id) s (fun t => kept t ∧ (mpAt t id.toNat).value = false ∧
          (mpAt t id.toNat).misClr = min 255 (r.misClr + 1) ∧ bitN (rg t 0x580 0x014) 0 = true)) ∧
        ({ r with misSet := 0, misClr := 0, misTake := 0 } ≠ MpRec.empty → Becomes (.misuseZero id) s (fun t => kept t ∧
          mpAt t id.toNat = { r with misSet := 0, misClr := 0, misTake := 0 } ∧ t.mps.waiters = s.mps.waiters))) ∧
      (mpOwned s id.toNat = false → ∀ c : Instr, c = .milepostSet id ∨ c = .milepostClear id ∨ c = .misuseZero id →
        Becomes c s (fun t => t.mps = s.mps ∧ refused t 0x580 0x5001 0x020 ∧ t.jobs = s.jobs))) ∧
    (enabled s 0x580 = true → s.mps.dumpState ≠ 1 → Becomes .mpDump s (fun t =>
      t.mps = { s.mps with dumpState := 1, dumpSevere := false, dumpUnit := 0, dumpT0 := s.time, dumpT1 := s.time } ∧
      t.jobs = s.jobs ∧ t.marrow = s.marrow ∧ t.gates = s.gates)) ∧
    (s.mps.dumpState = 1 → Becomes .mpDump s (fun t => t.mps = s.mps ∧ t.mem = s.mem ∧ refused t 0x580 0x5004 0x044))

/-- ARRIVE, RECOVER, FAIL, TG_CFG_WRITE and TOLLGATE_RELEASE: a gate opens its next generation when every participant has
arrived; the host arrives once a generation, and a second arrival is misuse that breaks the gate; a broken gate recovers or fails its job (R310, R311, R314, R315, R319). -/
def Obligations.Tollgates : Prop :=
  ∀ (s : State) (b : BitVec 8), Inv s → portLive s = true →
    let g := gateAt s b.toNat
    let others (t : State) : Prop := (∀ k, k ≠ b.toNat → gateAt t k = gateAt s k) ∧ t.marrow = s.marrow ∧ t.mps = s.mps ∧ t.jobs = s.jobs
    (g.assigned = false → ∀ c : Instr, (∃ x, c = .arrive b x) ∨ c = .recover b ∨ c = .fail b →
      Becomes c s (fun t => refused t 0x020 0x3001 0x020 ∧ t.gates = s.gates ∧ t.jobs = s.jobs)) ∧
    (g.assigned = true →
      (g.ext.getLsbD 0 = true → g.externals.contains 0 = false → Becomes (.arrive b g.gen) s (fun t =>
        gateAt t b.toNat = { g with externals := nins g.externals 0, unseen := false } ∧ others t)) ∧
      (g.ext.getLsbD 0 = true → g.externals.contains 0 = true → Becomes (.arrive b g.gen) s (fun t =>
        (gateAt t b.toNat).misuse = min 255 (g.misuse + 1) ∧ (gateAt t b.toNat).misuser = 0x60 ∧
        (gateAt t b.toNat).broken = true ∧ (gateAt t b.toNat).externals = g.externals ∧ bitN (rg t 0x020 0x014) 0 = true)) ∧
      (g.ext.getLsbD 0 = true → Becomes (.arrive b (!g.gen)) s (fun t =>
        refused t 0x020 0x3004 0x020 ∧ t.gates = s.gates ∧ t.jobs = s.jobs)) ∧
      (g.broken = true → Becomes (.recover b) s (fun t => gateAt t b.toNat = { g with broken := false } ∧ others t)) ∧
      (g.broken = true → (job s g.job).st = .bound → Becomes (.fail b) s (fun t => (job t g.job).st = .failed ∧
        (job t g.job).reason = 0x3007 ∧ (gateAt t b.toNat).assigned = false)) ∧
      (g.broken = false → ∀ c : Instr, c = .recover b ∨ c = .fail b → Becomes c s (fun t =>
        refused t 0x020 0x3005 0x020 ∧ t.gates = s.gates ∧ t.jobs = s.jobs))) ∧
    (∀ w : Word, (w.toNat < 512 → Becomes (.tgCfgWrite b w) s (fun t => others t ∧
        gateAt t b.toNat = if gateArrived g = 0 then { g with ext := BitVec.ofNat 9 w.toNat }
          else { g with extNext := some (BitVec.ofNat 9 w.toNat) })) ∧
      (512 ≤ w.toNat → Becomes (.tgCfgWrite b w) s (fun t => t.gates = s.gates ∧
        refused t 0x020 0x3006 (0x400 + 4 * b.toNat)))) ∧
    (let a := gateAt (arrivals s g.job) b.toNat
     a.assigned = true → a.broken = false → gateArrived a = gateExpect a → 0 < gateExpect a → a.job = g.job →
      Becomes (.tollgateRelease b) s (fun t =>
        (gateAt t b.toNat).gen = !a.gen ∧ (gateAt t b.toNat).externals = [] ∧
        ((job s g.job).stage ≤ a.count + 1 → (gateAt t b.toNat).members = []) ∧
        (gateAt t b.toNat).unseen = a.externals.contains 0 ∧ (gateAt t b.toNat).count = a.count + 1 ∧ (gateAt t b.toNat).ext = a.extNext.getD a.ext ∧
        (gateAt t b.toNat).extNext = none))

/-! ## Causeway -/

/-- HALF_EN, PORT_RESET, HALF_RESUME, HEARTBEAT_TIMER, HEARTBEAT and PORT_LOST: a half binds when the checks of Table 13-2
pass, a lost port drops its halves and ends their jobs, and the commands of Table 13-7 are refused where they do not apply
(R330 to R332). -/
def Obligations.PortsAndHalves : Prop :=
  ∀ (s : State) (k : BitVec 3), Inv s → cwyLive s = true →
    let p := cwyPage k.toNat
    let c := portAt s k.toNat
    (∀ (h : BitVec 3) (w : Word), (halfAt s k.toNat h.toNat).st = .unbound →
      let a := storeReg s p (0x400 + 0x20 * h.toNat) (w.toNat ||| 1)
      (halfCheck a k.toNat h.toNat = none → Becomes (.halfEn k h w) s (fun t =>
        halfAt t k.toNat h.toNat = wouldBe a k.toNat h.toNat ∧ (halfAt t k.toNat h.toNat).st = .active ∧
        (∀ x, x ≠ h.toNat → halfAt t k.toNat x = halfAt s k.toNat x) ∧
        (portAt t k.toNat).tx = c.tx ++ (if h.toNat < 4 then
          [plainFlit 9 h.toNat 0 ((wouldBe a k.toNat h.toNat).depth + 2 ^ 7 * (wouldBe a k.toNat h.toNat).lines)] else []) ∧
        t.jobs = s.jobs ∧ t.marrow = s.marrow)) ∧
      (∀ code, halfCheck a k.toNat h.toNat = some code → Becomes (.halfEn k h w) s (fun t =>
        t.cwy = s.cwy ∧ rg t p 0x010 % 65536 = code % 65536 ∧ bitN (rg t p (0x400 + 0x20 * h.toNat)) 0 = false))) ∧
    (c.st = 2 → Becomes (.portReset k) s (fun t => portAt t k.toNat = { c with st := 0 } ∧
      (∀ x, x ≠ k.toNat → portAt t x = portAt s x) ∧ t.jobs = s.jobs)) ∧
    (c.st ≠ 2 → Becomes (.portReset k) s (fun t => t.cwy = s.cwy ∧ refused t p 0x0D09 0x024)) ∧
    (∀ h : BitVec 3, ((halfAt s k.toNat h.toNat).st = .faulted → Becomes (.halfResume k h) s (fun t =>
        (halfAt t k.toNat h.toNat).st = .active ∧ (∀ x, x ≠ h.toNat → halfAt t k.toNat x = halfAt s k.toNat x) ∧
        t.jobs = s.jobs ∧ t.marrow = s.marrow)) ∧
      ((halfAt s k.toNat h.toNat).st ≠ .faulted → Becomes (.halfResume k h) s (fun t =>
        t.cwy = s.cwy ∧ refused t p 0x0D0A 0x024))) ∧
    (enabled s 0x00C = true → Becomes .heartbeatTimer s (fun t => ∀ x < 8,
      portAt t x = { portAt s x with tx := (portAt s x).tx ++ [{ plainFlit 1 0 0 0 with
        data := leBytes 2 (rgf s 0x00C 0x400 15 0) ++ List.replicate 6 0 ++ leBytes 8 s.time ++ List.replicate 8 0 }] })) ∧
    (∀ peer : BitVec 16, (c.st = 0 → Becomes (.heartbeat k peer) s (fun t =>
        portAt t k.toNat = { c with st := 1, peerId := peer.toNat } ∧ (∀ x, x ≠ k.toNat → portAt t x = portAt s x))) ∧
      (c.st ≠ 0 → Becomes (.heartbeat k peer) s (fun t => t.cwy = s.cwy ∧ t.jobs = s.jobs))) ∧
    (c.st = 1 → Becomes (.portLost k) s (fun t =>
      (portAt t k.toNat).st = 2 ∧ (∀ h, (halfAt t k.toNat h).st = .unbound) ∧ t.flt.active.getLsbD 15 = true ∧
      (∀ x ∈ halves s, x.1 = k.toNat → (job s x.2.2.job).st = .bound → (job t x.2.2.job).st = .failed)))

/-- WRITE, POISON, SET and CWY_BIND on an inbound half: data, provisional bits and poison land in its slot's lines, or in memory
mode in its buffer, from which what is final goes to its aperture; `SET` makes the slot final and is acknowledged once it is
announced, and the peer's `BIND` must give the half's own geometry (R325, R326, R329). -/
def Obligations.FedFlits : Prop :=
  ∀ (s : State) (k : BitVec 3) (ch : BitVec 2), Inv s → cwyLive s = true →
    let h := 4 + ch.toNat
    let y := halfAt s k.toNat h
    y.st = .active →
    let set := Instr.set k ch
    (memMode s k.toNat h = false →
      (∀ (slot : BitVec 6) (line : BitVec 32) (prov pois : BitVec 4) (data : List (BitVec 512)),
        1 ≤ data.length → data.length ≤ 4 → y.credits.contains slot.toNat = true → line.toNat + data.length ≤ y.lines →
        let key (i : Nat) : Nat := halfLine s y slot.toNat (line.toNat + i)
        Becomes (.write k ch slot line prov pois data) s (fun t =>
          (∀ i < data.length, (∀ b < 64, t.marrow.byte (key i * 64 + b) = (lineBytes (data.getD i 0)).getD b 0) ∧
            (key i ∈ t.marrow.prov ↔ bitN prov.toNat i = true) ∧ (key i ∈ t.marrow.poison ↔ bitN pois.toNat i = true)) ∧
          (∀ q, (∀ i < data.length, q / 64 ≠ key i) → t.marrow.byte q = s.marrow.byte q) ∧
          (halfAt t k.toNat h).credits = y.credits ∧ t.jobs = s.jobs ∧ t.mps = s.mps)) ∧
      (∀ (slot : BitVec 6) (line : BitVec 32) (mask : BitVec 64), Becomes (.poison k ch slot line mask) s (fun t =>
        (∀ l < y.lines, line.toNat ≤ l → l < line.toNat + 64 → mask.getLsbD (l - line.toNat) = true →
          halfLine s y slot.toNat l ∈ t.marrow.poison ∧ halfLine s y slot.toNat l ∉ t.marrow.prov) ∧
        t.marrow.bytes = s.marrow.bytes ∧ t.cwy = s.cwy ∧ t.jobs = s.jobs ∧ t.mps = s.mps)) ∧
      (∀ slot : BitVec 6, y.credits.contains slot.toNat = true →
        (∀ w ∈ s.mps.waiters, w.id ≠ halfMp s k.toNat h slot.toNat false) → Becomes (set slot) s (fun t =>
        slot.toNat ∉ (halfAt t k.toNat h).credits ∧
        (∀ l < y.lines, halfLine s y slot.toNat l ∉ t.marrow.prov) ∧
        (portAt t k.toNat).tx = (portAt s k.toNat).tx ++ [plainFlit 7 ch.toNat slot.toNat 0] ∧ t.marrow.bytes = s.marrow.bytes ∧
        (mpOwned s (halfMp s k.toNat h slot.toNat false) = true → (edgeOf s y.job y.edge).sync = 0 →
          (mpAt t (halfMp s k.toNat h slot.toNat false)).value = true)))) ∧
    (memMode s k.toNat h = true →
      let at' (x l : Nat) : Nat := halfReg s k.toNat h 0x10 + 2 ^ 32 * halfReg s k.toNat h 0x14 + (x * y.lines + l) * 64
      let free (x l : Nat) : Prop := ∀ r ∈ s.mem.reqs ++ s.mem.held, r.purpose ≠ .aperture k.toNat h x l
      (∀ (slot : BitVec 6) (line : BitVec 32) (prov pois : BitVec 4) (data : List (BitVec 512)),
        1 ≤ data.length → data.length ≤ 4 → y.credits.contains slot.toNat = true → line.toNat + data.length ≤ y.lines →
        y.buffer = [] → (∀ i < data.length, free slot.toNat (line.toNat + i)) →
        Becomes (.write k ch slot line prov pois data) s (fun t =>
          (halfAt t k.toNat h).buffer = ((List.range data.length).map fun i =>
            ⟨slot.toNat, line.toNat + i, lineBytes (data.getD i 0), bitN prov.toNat i, bitN pois.toNat i, !bitN prov.toNat i⟩) ∧
          (∀ i < data.length, bitN prov.toNat i = false → writes t (at' slot.toNat (line.toNat + i)) (lineBytes (data.getD i 0))
            (halfReg s k.toNat h 0x18) 2 127 (.aperture k.toNat h slot.toNat (line.toNat + i))) ∧
          (halfAt t k.toNat h).credits = y.credits ∧ t.marrow = s.marrow ∧ t.jobs = s.jobs ∧ t.mps = s.mps)) ∧
      (∀ (slot : BitVec 6) (line : BitVec 32) (mask : BitVec 64), Becomes (.poison k ch slot line mask) s (fun t =>
        (∀ b ∈ (halfAt t k.toNat h).buffer, b.slot = slot.toNat → line.toNat ≤ b.line → b.line < line.toNat + 64 →
          mask.getLsbD (b.line - line.toNat) = true → b.prov = false ∧ b.pois = true) ∧
        (halfAt t k.toNat h).buffer.length = y.buffer.length ∧ (halfAt t k.toNat h).bufSets = y.bufSets ∧
        t.marrow = s.marrow ∧ t.jobs = s.jobs ∧ t.mps = s.mps)) ∧
      (∀ slot : BitVec 6, y.credits.contains slot.toNat = true → y.bufSets = [] →
        (y.buffer ≠ [] → Becomes (set slot) s (fun t =>
          (halfAt t k.toNat h).bufSets = [(slot.toNat, y.buffer.length)] ∧ (halfAt t k.toNat h).credits = y.credits ∧
          (∀ b ∈ (halfAt t k.toNat h).buffer, b.slot = slot.toNat → b.prov = false) ∧
          (portAt t k.toNat).tx = (portAt s k.toNat).tx ∧ t.mps = s.mps ∧ t.marrow = s.marrow)) ∧
        (y.buffer = [] → mpOwned s (halfMp s k.toNat h slot.toNat false) = true →
          (∀ w ∈ s.mps.waiters, w.id ≠ halfMp s k.toNat h slot.toNat false) → Becomes (set slot) s (fun t =>
          slot.toNat ∉ (halfAt t k.toNat h).credits ∧ (mpAt t (halfMp s k.toNat h slot.toNat false)).value = true ∧
          (portAt t k.toNat).tx = (portAt s k.toNat).tx ++ [plainFlit 7 ch.toNat slot.toNat 0] ∧ t.marrow = s.marrow)))) ∧
    (∀ (depth : BitVec 7) (lines : BitVec 25), y.peer = false → y.depth = depth.toNat → y.lines = lines.toNat →
      Becomes (.cwyBind k ch depth lines) s (fun t =>
        halfAt t k.toNat h = { y with peer := true } ∧ t.jobs = s.jobs ∧ t.marrow = s.marrow ∧ t.mps = s.mps ∧
        (∀ x, x ≠ h → halfAt t k.toNat x = halfAt s k.toNat x)))

/-- CWY_ARRIVE, CREDIT, ACK, ABORT and ILLEGAL_FLIT: arrivals of an expected port count, a courier takes a credit for a
slot it has and an acknowledgement of a `SET` it sent, and what breaks the protocol stops the half and ends its job (R323, R324, R327, Table 13-3). -/
def Obligations.OtherFlits : Prop :=
  ∀ (s : State) (k : BitVec 3) (ch : BitVec 2), Inv s → cwyLive s = true →
    let y := halfAt s k.toNat ch.toNat
    let fed := halfAt s k.toNat (4 + ch.toNat)
    let stopped (h : Nat) (code : Nat) (t : State) : Prop :=
      let x := halfAt s k.toNat h
      (halfAt t k.toNat h).st ≠ .active ∧ (job t x.job).st = .failed ∧ (job t x.job).reason = code ∧
      (s.itg.groups = [] → (halves s).filter (fun e => e.2.2.job = x.job) = [(k.toNat, h, x)] → (halfAt t k.toNat h).st = .stopped)
    let live (h : Nat) : Prop := (halfAt s k.toNat h).st = .active ∧ (halfAt s k.toNat h).job < 256 ∧
      (job s (halfAt s k.toNat h).job).st = .bound
    (∀ g : BitVec 8, fed.st = .active → fed.buffer = [] → (gateAt s g.toNat).assigned = true →
      (gateAt s g.toNat).ext.getLsbD (k.toNat + 1) = true → (gateAt s g.toNat).externals.contains (k.toNat + 1) = false →
      Becomes (.cwyArrive k ch g) s (fun t =>
        gateAt t g.toNat = { gateAt s g.toNat with externals := nins (gateAt s g.toNat).externals (k.toNat + 1) } ∧
        (∀ x, x ≠ g.toNat → gateAt t x = gateAt s x) ∧ t.cwy = s.cwy ∧ t.jobs = s.jobs ∧ t.marrow = s.marrow)) ∧
    (∀ g : BitVec 8, fed.st = .active → fed.buffer ≠ [] → (gateAt s g.toNat).assigned = true →
      (gateAt s g.toNat).ext.getLsbD (k.toNat + 1) = true → Becomes (.cwyArrive k ch g) s (fun t =>
        halfAt t k.toNat (4 + ch.toNat) = { fed with bufSets := fed.bufSets ++ [(1000 + g.toNat, fed.buffer.length)] } ∧
        t.gates = s.gates ∧ t.jobs = s.jobs ∧ t.marrow = s.marrow ∧ t.mps = s.mps)) ∧
    (∀ slot : BitVec 6, y.st = .active → slot.toNat < y.depth → y.credits.contains slot.toNat = false →
      Becomes (.credit k ch slot) s (fun t =>
        halfAt t k.toNat ch.toNat = { y with credits := nins y.credits slot.toNat } ∧
        (∀ x, x ≠ ch.toNat → halfAt t k.toNat x = halfAt s k.toNat x) ∧ t.jobs = s.jobs ∧ t.marrow = s.marrow ∧ t.mps = s.mps)) ∧
    (∀ slot : BitVec 6, live ch.toNat → y.depth ≤ slot.toNat →
      Becomes (.credit k ch slot) s (fun t => stopped ch.toNat 0x0D12 t ∧ t.flt.active.getLsbD 16 = true)) ∧
    (∀ slot : BitVec 6, live ch.toNat → y.sets.contains slot.toNat = false →
      Becomes (.ack k ch slot) s (fun t => stopped ch.toNat 0x0D12 t ∧ t.flt.active.getLsbD 16 = true)) ∧
    (∀ slot : BitVec 6, y.st = .active → y.sets.contains slot.toNat = true → Becomes (.ack k ch slot) s (fun t =>
      slot.toNat ∉ (halfAt t k.toNat ch.toNat).sets ∧ (halfAt t k.toNat ch.toNat).credits = y.credits ∧
      t.marrow = s.marrow ∧ t.gates = s.gates)) ∧
    (∀ code, live ch.toNat → Becomes (.abort k ch code) s (stopped ch.toNat 0x0D13)) ∧
    (∀ f : BitVec 256, flitIllegal f.toNat = true → bits f.toNat 3 0 = 0 → live (4 + bits f.toNat 5 4) →
      Becomes (.illegalFlit k f true) s (fun t => stopped (4 + bits f.toNat 5 4) 0x0D12 t ∧ t.flt.active.getLsbD 16 = true)) ∧
    (∀ f : BitVec 256, bits f.toNat 3 0 = 1 → Becomes (.illegalFlit k f false) s (fun t =>
      t.cwy = s.cwy ∧ t.jobs = s.jobs ∧ t.flt = s.flt ∧ t.marrow = s.marrow))

/-- COURIER_SEND, COURIER_FORWARD_LINE, FED_CREDIT and FED_TAKE_TIMEOUT: the lines of a credited full slot that were not sent go
out and end with `SET`, an eager courier forwards the next line written, a fed half gives a credit for an empty slot or waits
for one, in memory mode by its Milepost, and a wait that is too long counts as misuse (R324 to R326, R328). -/
def Obligations.Couriers : Prop :=
  ∀ (s : State) (k : BitVec 3) (ch : BitVec 2), Inv s → cwyLive s = true → s.marrow.ecc = [] →
    let y := halfAt s k.toNat ch.toNat
    let f := halfAt s k.toNat (4 + ch.toNat)
    let step (n d : Nat) : Nat := if n + 1 < d then n + 1 else 0
    let line (x l : Nat) : List Byte := (List.range 64).map fun i => s.marrow.byte (halfLine s y x l * 64 + i)
    let queued (t : State) : List Flit := (portAt t k.toNat).tx
    (∀ x, y.st = .active → courierSlot s y = some x →
      Becomes (.courierSend k ch) s (fun t =>
        halfAt t k.toNat ch.toNat = { y with
          credits := ndel y.credits x, sets := nins y.sets x, slot := x, wrote := y.wrote.filter (fun e => e.1 ≠ x),
          sent := y.sent.filter (fun e => e.1 ≠ x), next := step x y.depth } ∧
        (∃ fs, queued t = queued s ++ fs ++ [plainFlit 4 ch.toNat x 0] ∧
          (∀ l < y.lines, y.sent.contains (x, l) = false → ∃ g ∈ fs, g.kind = 2 ∧ g.ch = ch.toNat ∧ g.slot = x ∧ g.line ≤ l ∧
            (g.data.drop (64 * (l - g.line))).take 64 = line x l ∧
            (bitN g.pois (l - g.line) = true ↔ halfLine s y x l ∈ s.marrow.poison))) ∧
        t.marrow = s.marrow ∧ t.jobs = s.jobs ∧ t.mps = s.mps ∧ t.gates = s.gates)) ∧
    (∀ e, y.st = .active → bitN (halfReg s k.toNat ch.toNat 0) 2 = true → courierLine y = some e →
      Becomes (.courierForwardLine k ch) s (fun t =>
        halfAt t k.toNat ch.toNat = { y with sent := y.sent ++ [e], slot := e.1 } ∧
        queued t = queued s ++ [⟨2, ch.toNat, e.1, e.2, b2n (s.marrow.prov.contains (halfLine s y e.1 e.2)),
          b2n (s.marrow.poison.contains (halfLine s y e.1 e.2)), line e.1 e.2⟩] ∧ t.marrow = s.marrow ∧ t.jobs = s.jobs ∧
        t.mps = s.mps)) ∧
    (f.st = .active → f.peer = true → f.waiting = false →
      let id := halfMp s k.toNat (4 + ch.toNat) f.next true
      let ready : Bool := if memMode s k.toNat (4 + ch.toNat) then (mpAt s id).value
        else slotEmpty s f.job f.member f.edge f.next
      (ready = true → Becomes (.fedCredit k ch) s (fun t =>
        halfAt t k.toNat (4 + ch.toNat) = { f with credits := nins f.credits f.next, next := step f.next f.depth } ∧
        queued t = queued s ++ [plainFlit 6 ch.toNat f.next 0] ∧ t.marrow = s.marrow ∧
        (memMode s k.toNat (4 + ch.toNat) = true → (mpAt t id).value = false ∧ (mpAt t id).consumed = true ∧ t.jobs = s.jobs))) ∧
      (ready = false → Becomes (.fedCredit k ch) s (fun t =>
        halfAt t k.toNat (4 + ch.toNat) = { f with waiting := true } ∧
        t.mps.waiters = s.mps.waiters ++ [⟨id, true, .cwy k.toNat ch.toNat, s.mps.seq⟩] ∧
        queued t = queued s ∧ t.marrow = s.marrow ∧ t.jobs = s.jobs))) ∧
    (f.waiting = true → bits (halfReg s k.toNat (4 + ch.toNat) 8) 31 16 ≠ 0 → Becomes (.fedTakeTimeout k ch) s (fun t =>
      let id := halfMp s k.toNat (4 + ch.toNat) f.next true
      (mpAt t id).misTake = min 255 ((mpAt s id).misTake + 1) ∧ (∀ q, q ≠ id → mpAt t q = mpAt s q) ∧
      t.mps.waiters = s.mps.waiters ∧ t.cwy = s.cwy ∧ t.jobs = s.jobs ∧ t.marrow = s.marrow))

/-! ## Integrity -/

/-- SUSPECT_DRAIN_DONE, MAP_OUT_DONE, POD_TEST_DONE and SPARE_POD_TEST_DUE: suspect Pods leave service zeroised and the block
resumes, a withdrawn Pod turns off, a passed test is counted and its Pod goes where its purpose says, a failed one maps its
Pod out with cause 6 (R34, R348, R352, R354, Table 2-11). -/
def Obligations.PodTestsAndMapOuts : Prop :=
  ∀ s : State, Inv s →
    (s.blk.st = .draining → s.ops = [] → Becomes .suspectDrainDone s (fun t =>
      (t.blk.st = .ready ∨ t.blk.st = .running) ∧
      (∀ p, (podAt s p).st = .suspect → p < 100 → (podAt t p).st = .mappedOut ∧ (podAt t p).role = 3 ∧
        (podAt t p).cause = (podAt s p).cause ∧ (podAt t p).bindValid = false ∧
        ∀ k, k / 6291456 = p → sgetD t.marrow.bytes k 0 = 0))) ∧
    (∀ p : Fin 100, (podAt s p.val).st = .mappedOut → Becomes (.mapOutDone p) s (fun t =>
      podAt t p.val = { podAt s p.val with st := .off, isolated := true, swReq := false } ∧
      (∀ q, q ≠ p.val → podAt t q = podAt s q) ∧ t.marrow = s.marrow ∧ t.jobs = s.jobs)) ∧
    (∀ p : Fin 100, (podAt s p.val).st = .test → portOpen s = true → s.blk.st ≠ .draining → s.blk.st ≠ .halted →
      (∀ l, (podAt s p.val).why = .rebind ∨ (podAt s p.val).why = .spareFor l → Becomes (.podTestDone p .pass) s (fun t =>
        (podAt t p.val).st = .idle ∧ (podAt t p.val).tests = min 255 ((podAt s p.val).tests + 1) ∧
        (podAt t p.val).testTime = s.time ∧ (podAt t p.val).due = false ∧
        ((podAt s p.val).why = .spareFor l → (podAt t p.val).role = 0 ∧ (podAt t p.val).logical = l))) ∧
      ((podAt s p.val).why = .spareDue → Becomes (.podTestDone p .pass) s (fun t =>
        (podAt t p.val).tests = min 255 ((podAt s p.val).tests + 1) ∧ (podAt t p.val).testTime = s.time)) ∧
      (∀ step pack, Becomes (.podTestDone p (.fail step pack)) s (fun t =>
        (podAt t p.val).role = 3 ∧ (podAt t p.val).logical = 127 ∧ (podAt t p.val).cause = 6 ∧ (podAt t p.val).st = .off ∧
        t.flt.active.getLsbD 22 = true))) ∧
    (∀ p : Fin 100, portOpen s = true → s.blk.shut = false → s.blk.st ≠ .roadside → s.blk.st ≠ .halted →
      (podAt s p.val).role = 1 → (podAt s p.val).st = .off → Becomes (.sparePodTestDue p) s (fun t =>
        podAt t p.val = { podAt s p.val with st := .test, why := .spareDue, swReq := true } ∧
        (∀ q, q ≠ p.val → podAt t q = podAt s q) ∧ t.marrow = s.marrow ∧ t.jobs = s.jobs ∧ t.itg = s.itg))

/-- ROLL_TIMER, SWAP_COPY_START, SWAP_COPY_DONE, LOAD and REMOVE: the next Pod of the rotation becomes due and a bound one gets
a spare under test, a copy starts on a Pod that has arrived and is abandoned when work is ready, packs are installed in
ascending ID and removed (R351, R353, R354, R357, R358). -/
def Obligations.RotationAndPacks : Prop :=
  ∀ s : State, Inv s →
    (∀ p, working s = true → rgf s 0 0x600 13 0 ≠ 0 → s.itg.rollPhase = 0 → nextRoll s = some p → Becomes .rollTimer s (fun t =>
      (podAt t p).due = true ∧ t.itg.rollPod = p ∧ t.itg.rollHead = none ∧ t.jobs = s.jobs ∧ t.marrow = s.marrow ∧
      ((podAt s p).st ≠ .bound → t.itg.rollLast = s.time ∧ t.itg.rollPhase = 0) ∧
      (∀ q, (podAt s p).st = .bound → bestSpare p (usableSpares s) = some q → t.itg.rollPhase = 1 ∧ t.itg.rollSpare = some q ∧
        (podAt t q).st = .test ∧ (podAt t q).why = .prepared ∧ (podAt t q).swReq = true))) ∧
    (∀ q, working s = true → s.itg.rollSpare = some q → s.itg.rollPhase = 2 → (podAt s s.itg.rollPod).st = .bound →
      (job s (podAt s s.itg.rollPod).job).st = .bound → (podAt s q).copyOk = true → arrivedAt s s.itg.rollPod = true →
      podBusy s s.itg.rollPod = false →
      exec .swapCopyStart s = .next { s with itg := { s.itg with rollPhase := 3, copied := false } }) ∧
    (s.itg.rollPhase = 3 →
      (podBusy s s.itg.rollPod = false → exec .swapCopyDone s = .next { s with itg := { s.itg with copied := true } }) ∧
      (∀ q, podBusy s s.itg.rollPod = true → s.itg.rollSpare = some q → Becomes .swapCopyDone s (fun t =>
        t.itg.rollPhase = 2 ∧ t.itg.abandoned = min 65535 (s.itg.abandoned + 1) ∧ t.itg.rollSpare = some q ∧
        zeroisedPod s t q ∧ t.pods = s.pods ∧ t.jobs = s.jobs))) ∧
    (∀ r : HostRead, r.wf = true → portOpen s = true → r.kind = .okay → Becomes (.load r) s (fun t =>
      (packCheck s r.bytes = none → (∃ k ∈ t.itg.packs, k.id = fieldLe r.bytes 8 2 ∧ k.ver = fieldLe r.bytes 0x0A 2 ∧ k.passed = 0 ∧ k.failed = 0) ∧
        bitN (rg t 0 0x61C) 30 = false) ∧
      (∀ code, packCheck s r.bytes = some code → t.itg = s.itg ∧ bitN (rg t 0 0x61C) 30 = true ∧
        rg t 0 0x010 % 65536 = code % 65536) ∧ t.jobs = s.jobs ∧ t.marrow = s.marrow ∧ t.pods = s.pods)) ∧
    (∀ id : BitVec 16, portOpen s = true →
      ((∃ k ∈ s.itg.packs, k.id = id.toNat) → id ≠ 0 → Becomes (.remove id) s (fun t =>
        t.itg.packs = s.itg.packs.filter (fun k => k.id ≠ id.toNat) ∧ bitN (rg t 0 0x61C) 30 = false ∧ t.jobs = s.jobs ∧
        t.pods = s.pods)) ∧
      ((∀ k ∈ s.itg.packs, k.id ≠ id.toNat) → Becomes (.remove id) s (fun t =>
        t.itg = s.itg ∧ refused t 0 0x0046 0x61C ∧ bitN (rg t 0 0x61C) 30 = true)))

/-! ## Faults -/

/-- FAULT_EVENT, WIRE_FAULT, WIRE_FAULT_CLEAR and FLT_SEVERE_CLEAR: an event counts in its window and makes its instance severe
at the threshold, a wire fault holds its pair, and a clear takes severities and counts of the named sources back
(R366, R367, R370, R371). -/
def Obligations.FaultSources : Prop :=
  ∀ s : State, s.blk.st ≠ .cold →
    (∀ (src : BitVec 5) (i : BitVec 7) (k : Nat) (info : Word) (ctx : EventCtx), src.toNat < 24 →
      pairInst src.toNat i.toNat = some k → pairQuiet s src.toNat k = false → (instAt s src.toNat k).wired = false →
      hears s src.toNat k = true →
      let old := instAt s src.toNat k
      let cfg := rg s 1 (0x400 + 4 * src.toNat)
      let fresh : Bool := old.count = 0 || decide (windowTicks (bits cfg 12 8) ≤ s.time - old.start)
      (old.severe = false → Becomes (.faultEvent src i info ctx) s (fun t =>
        t.flt.active.getLsbD src.toNat = true ∧ (instAt t src.toNat k).count = (if fresh then 1 else old.count + 1) ∧
        (instAt t src.toNat k).start = (if fresh then s.time else old.start) ∧
        ((instAt t src.toNat k).severe = true ↔ bits cfg 7 0 ≤ (instAt t src.toNat k).count) ∧
        ((instAt t src.toNat k).severe = true → t.flt.severe.getLsbD src.toNat = true) ∧
        (src.toNat = 5 ∨ src.toNat = 6 ∨ src.toNat = 7 → k < s.pods.length → (podAt s k).st = .bound → (podAt t k).st = .suspect))) ∧
      (∀ high, Becomes (.wireFault src i high ctx) s (fun t =>
        (instAt t src.toNat k).wired = true ∧ t.flt.wire.getLsbD src.toNat = true ∧ t.flt.active.getLsbD src.toNat = true ∧
        (k < 100 → t.itg.rollHead = some k)))) ∧
    (∀ (src : BitVec 5) (i : BitVec 7) (k : Nat), src.toNat < 24 → pairInst src.toNat i.toNat = some k →
      (instAt s src.toNat k).wired = true → Becomes (.wireFaultClear src i) s (fun t =>
        instAt t src.toNat k = { instAt s src.toNat k with wired := false } ∧
        (∀ x y, instKey x y ≠ instKey src.toNat k → instAt t x y = instAt s x y) ∧ t.flt.wire = s.flt.wire ∧
        t.flt.severe = s.flt.severe ∧ t.jobs = s.jobs ∧ t.pods = s.pods)) ∧
    (∀ mask : Word, Becomes (.fltSevereClear mask) s (fun t =>
      t.flt.severe = s.flt.severe &&& ~~~ mask ∧
      (∀ src i, i < 128 → mask.getLsbD src = true → (instAt t src i).count = 0 ∧ (instAt t src i).severe = false) ∧
      (∀ src i, i < 128 → mask.getLsbD src = false → instAt t src i = instAt s src i) ∧
      t.flt.active = s.flt.active ∧ t.flt.wire = s.flt.wire ∧ t.jobs = s.jobs ∧ t.pods = s.pods ∧ t.marrow = s.marrow))

/-- FLT_CFG_WRITE, FREEZE, FREEZE_TIMEOUT, FACTORY, TST_INJ and RNG_PROBE: a legal configuration is stored and an illegal one
refused with 0x0101, a freeze ends by writing 0 or by time, factory mode zeroises the Pods that are powered and asks for a
reset, an injected flip changes the stored error bits alone, a driven pair is an event or, if illegal for two cycles, a wire fault,
a probe gives Chard's words of the keyed or the slot class or is refused (R245, R259, R263, R378, R381, R382). -/
def Obligations.FaultPageAndProbe : Prop :=
  ∀ s : State, Inv s → portOpen s = true →
    (∀ (src : BitVec 5) (w : Word), src.toNat < 24 →
      let a := BitVec.ofNat 10 (0x100 + src.toNat)
      let legal : Prop := bits w.toNat 7 0 ≠ 0 ∧ bits w.toNat 12 8 ≤ 22 ∧ w.toNat &&& 0xE0E0E000 = 0
      (legal → src.toNat ≠ 21 → Becomes (.fltCfgWrite a w) s (fun t =>
        rg t 1 (0x400 + 4 * src.toNat) &&& 0x1F1F1FFF = w.toNat ∧ t.flt = s.flt ∧ t.jobs = s.jobs)) ∧
      (¬ legal → Becomes (.fltCfgWrite a w) s (fun t =>
        rgw t 1 (0x400 + 4 * src.toNat) = rgw s 1 (0x400 + 4 * src.toNat) ∧ bitN (rg t 1 0x014) 0 = true ∧
        refused t 1 0x0101 (0x400 + 4 * src.toNat) ∧ t.flt = s.flt))) ∧
    Becomes (.freeze true) s (fun t => t.flt = { s.flt with freeze := true } ∧ rg t 1 0x048 = 1) ∧
    Becomes (.freeze false) s (fun t => t.flt.freeze = false ∧ t.flt.hold = [] ∧ rg t 1 0x048 = 0 ∧ t.jobs = s.jobs) ∧
    (s.flt.freeze = true → Becomes .freezeTimeout s (fun t => t.flt.freeze = false ∧ t.flt.hold = [] ∧ rg t 1 0x048 = 0)) ∧
    (s.blk.st ≠ .halted → s.itg.shipped = false → Becomes .factory s (fun t =>
      t.itg = { s.itg with factory := true } ∧ t.pins.rstReq = true ∧ t.pods = s.pods ∧
      ∀ a, sgetD t.marrow.bytes a 0 =
        if a / 6291456 < 100 ∧ (podAt s (a / 6291456)).gated = false then 0 else sgetD s.marrow.bytes a 0)) ∧
    (s.itg.factory = true → s.itg.shipped = false →
      (∀ (p : Fin 100) (line : BitVec 17) (word : BitVec 3) (mask : BitVec 72), line.toNat < 98304 →
        (Injection.flip p line word mask).wf = true → Becomes (.tstInj (.flip p line word mask)) s (fun t =>
          let k := lkey p.val line.toNat * 8 + word.toNat
          sgetD t.marrow.ecc k 0 = sgetD s.marrow.ecc k 0 ^^^ mask ∧
          (∀ q, q ≠ k → sgetD t.marrow.ecc q 0 = sgetD s.marrow.ecc q 0) ∧ t.marrow.bytes = s.marrow.bytes ∧
          t.marrow.poison = s.marrow.poison ∧ t.jobs = s.jobs ∧ t.pods = s.pods)) ∧
      (∀ (src : BitVec 5) (i : BitVec 7) (k : Nat) (c : BitVec 8), src.toNat < 24 → 1 ≤ c.toNat → pairInst src.toNat i.toNat = some k →
        pairQuiet s src.toNat k = false → (instAt s src.toNat k).wired = false → hears s src.toNat k = true →
        Becomes (.tstInj (.pair src i true false c)) s (fun t => t.flt.active.getLsbD src.toNat = true) ∧
        (∀ high, 2 ≤ c.toNat → Becomes (.tstInj (.pair src i high high c)) s (fun t =>
          (instAt t src.toNat k).wired = true ∧ t.flt.wire.getLsbD src.toNat = true)) ∧
        (∀ high, c.toNat = 1 → exec (.tstInj (.pair src i high high c)) s = .next s))) ∧
    (s.rng.tableOk = true → rg s 0x00B 0x80C = 0 → rg s 0x00B 0x810 = 0 → rg s 0x00B 0x814 = 0 → rg s 0x00B 0x818 = 0 →
      rsvSet s 0x00B 0x814 = false → rsvSet s 0x00B 0x818 = false → Becomes (.rngProbe 2) s (fun t =>
        let h := chardHash (slotKey (rg64 s 0x00B 0x804)) (rg64 s 0x00B 0x81C)
        rgw t 0x00B 0x824 = h.2 ∧ rgw t 0x00B 0x828 = h.1 ∧ rgw t 0x00B 0x82C = chardPick s.rng.table h ∧ t.rng = s.rng ∧
        t.jobs = s.jobs ∧ t.marrow = s.marrow)) ∧
    (∀ ctrl : Word, s.rng.tableOk = false ∨ bits ctrl.toNat 1 0 % 3 = 0 ∨ bits ctrl.toNat 29 2 ≠ 0 →
      Becomes (.rngProbe ctrl) s (fun t => refused t 0x00B (if s.rng.tableOk then 0x0B02 else 0x0B03) 0x800 ∧
        bitN (rg t 0x00B 0x800) 30 = true ∧ rg t 0x00B 0x824 = rg s 0x00B 0x824 ∧ t.rng = s.rng ∧ t.jobs = s.jobs)) ∧
    (s.rng.tableOk = true → rsvSet s 0x00B 0x814 = false → rsvSet s 0x00B 0x818 = false → Becomes (.rngProbe 1) s (fun t =>
      let key := keyedKey (rg64 s 0x00B 0x804) (rg64 s 0x00B 0x80C) (rg s 0x00B 0x814) (rg s 0x00B 0x818)
      let h := chardHash key (rg64 s 0x00B 0x81C)
      rgw t 0x00B 0x824 = h.2 ∧ rgw t 0x00B 0x828 = h.1 ∧ rgw t 0x00B 0x82C = chardPick s.rng.table h ∧ t.rng = s.rng ∧
      t.jobs = s.jobs ∧ t.marrow = s.marrow))

/-! ## Mailbox and telemetry -/

/-- PING, FW_QUERY, SHUTDOWN and POP: each command has one reply of 16 words, which waits while the queue is full, `SHUTDOWN` is turned
away with 0x001A while work is under way, and a waiting reply enters the queue a pop frees (R388 to R390, Table 16-4). -/
def Obligations.MailboxReplies : Prop :=
  ∀ (s : State) (tag : BitVec 16), portOpen s = true →
    let reply (op status : Nat) (l : List Nat) : List Word :=
      [BitVec.ofNat 32 (1 + 2 ^ 8 * op + 2 ^ 16 * status), BitVec.ofNat 32 tag.toNat] ++
        (l ++ List.replicate (14 - l.length) 0).map (BitVec.ofNat 32)
    let said (t : State) (m : List Word) : Prop := t.stw.mbx = s.stw.mbx ++ [m] ∧ t.stw.replies = s.stw.replies
    (s.stw.mbx.length < 8 →
      Becomes (.ping tag) s (fun t => said t (reply 1 0 [fwVer s, stwPods s]) ∧ t.pods = s.pods ∧ t.jobs = s.jobs) ∧
      Becomes (.fwQuery tag) s (fun t => said t (reply 6 0 [s.stw.slotA.ver, s.stw.slotA.seq, s.stw.slotB.ver, s.stw.slotB.seq,
        b2n (s.stw.active = 1) + 2 * b2n s.stw.slotA.valid + 4 * b2n s.stw.slotB.valid]) ∧ t.pods = s.pods ∧ t.jobs = s.jobs) ∧
      (s.stw.active = 2 → ∀ x, x.wf = true → Becomes (.telemNow tag x) s (fun t => said t (reply 2 0x0012 []) ∧ t.pods = s.pods) ∧
        Becomes (.logFlush tag) s (fun t => said t (reply 3 0x0012 []) ∧ t.pods = s.pods) ∧
        Becomes (.shutdown tag) s (fun t => said t (reply 4 0x0012 []) ∧ t.blk = s.blk)) ∧
      (s.stw.active ≠ 2 →
        (s.blk.st = .ready ∨ s.blk.st = .running ∨ s.blk.st = .draining → anyActive s = true →
          Becomes (.shutdown tag) s (fun t => said t (reply 4 0x001A []) ∧ t.blk = s.blk ∧ t.pods = s.pods)) ∧
        (anyActive s = false → (∀ p < 100, (podAt s p).st ≠ .test) → Becomes (.shutdown tag) s (fun t =>
          said t (reply 4 0 []) ∧ t.blk = { s.blk with shut := true } ∧
          (∀ p < s.pods.length, p < 100 → (podAt s p).st = .off ∨ (podAt s p).st = .idle →
            (podAt t p).swReq = false ∧ (podAt t p).isolated = true) ∧ t.jobs = s.jobs)))) ∧
    (8 ≤ s.stw.mbx.length → Becomes (.ping tag) s (fun t => t.stw.mbx = s.stw.mbx ∧ t.stw.replies = s.stw.replies ++ [reply 1 0 [fwVer s, stwPods s]] ∧
        t.pods = s.pods ∧ t.jobs = s.jobs)) ∧
    (s.stw.replies = [] → exec .pop s = .next { s with stw := { s.stw with mbx := s.stw.mbx.drop 1 } }) ∧
    (∀ m ms, s.stw.replies = m :: ms → Becomes .pop s (fun t =>
      t.stw.mbx = s.stw.mbx.drop 1 ++ [m] ∧ t.stw.replies = ms ∧ t.jobs = s.jobs ∧ t.pods = s.pods ∧ t.marrow = s.marrow))

/-- TELEM_NOW, TELEMETRY_SNAPSHOT, LOG_FLUSH, LOG_FLUSH_TIMER and FW_UPDATE: a snapshot takes the next sequence number, writes 101
records and restarts the extremes, a flush writes every waiting record, an update that a check refuses changes no slot, one whose
store fails leaves its slot invalid and one that passes lands in the slot that is not active, from the boot ROM in slot A
(R386, R387, R389, R391, R392). -/
def Obligations.TelemetryLogAndFirmware : Prop :=
  ∀ (s : State) (tag : BitVec 16), portOpen s = true →
    let replied (t : State) (op status : Nat) (l : List Nat) : Prop := t.stw.mbx = s.stw.mbx ++
      [[BitVec.ofNat 32 (1 + 2 ^ 8 * op + 2 ^ 16 * status), BitVec.ofNat 32 tag.toNat] ++
        (l ++ List.replicate (14 - l.length) 0).map (BitVec.ofNat 32)]
    let snapped (t : State) : Prop := t.stw.telemSeq = s.stw.telemSeq + 1 ∧ t.stw.tempMax = 0x8000 ∧
      (∀ q ∈ t.pods, q.tempMax = 0x8000 ∧ q.voltMin = 0xFFFF ∧ q.droops = 0) ∧ t.jobs = s.jobs ∧ t.marrow = s.marrow
    let placed (t : State) (x : Sensors) : Prop := ∀ k < 101, ∃ q ∈ t.mem.reqs ++ t.mem.held ++ t.mem.retry, q.write = true ∧
      q.purpose = .telemetry ∧ q.addr = (rg64 s 0 0xA00 + 64 * k) / 64 * 64 ∧
      (rg64 s 0 0xA00 % 64 = 0 → q.data.take 64 =
        if k = 0 then telemBlock s x (s.stw.telemSeq + 1) else telemPod s x (s.stw.telemSeq + 1) (k - 1))
    let flushed (t : State) : Prop := t.stw.logNext = [] ∧ t.stw.logSeq = s.stw.logSeq + s.stw.logNext.length ∧
      t.stw.log = s.stw.log ++ s.stw.logNext ∧ t.jobs = s.jobs ∧ t.pods = s.pods ∧ t.marrow = s.marrow
    (s.stw.active ≠ 2 → ∀ x, x.wf = true →
      (telemOn s = true → Becomes (.telemNow tag x) s (fun t => snapped t ∧
          (s.stw.mbx.length < 8 → replied t 2 0 [s.stw.telemSeq + 1]) ∧ placed t x) ∧
        (s.blk.shut = false → Becomes (.telemetrySnapshot x) s (fun t => snapped t ∧ placed t x))) ∧
      (telemOn s = false → s.stw.mbx.length < 8 → Becomes (.telemNow tag x) s (fun t => t.pods = s.pods ∧
        ∃ m, t.stw.mbx = s.stw.mbx ++ [m] ∧ m.head? = some (BitVec.ofNat 32 (1 + 2 ^ 8 * 2 + 2 ^ 16 * 0x001B))))) ∧
    (s.stw.active ≠ 2 → Becomes (.logFlush tag) s (fun t => flushed t ∧
      (s.stw.mbx.length < 8 → replied t 3 0 [(s.stw.logSeq + s.stw.logNext.length) % 2 ^ 32]))) ∧
    (s.stw.active ≠ 2 → s.blk.shut = false → Becomes .logFlushTimer s flushed) ∧
    (∀ (addr : DWord) (xlat size : Word) (r : HostRead) (ok : Bool), r.wf = true → s.stw.mbx.length < 8 →
      let same (t : State) : Prop := t.stw.slotA = s.stw.slotA ∧ t.stw.slotB = s.stw.slotB
      let hash := sha384 (slice r.bytes 256 (fieldLe r.bytes 0x0C 4))
      let signed := Config.sigValid (slice r.bytes 0x40 96) (sha384 (slice r.bytes 0 0x40)) = true
      let ver := fieldLe r.bytes 8 4
      let lands (t : State) (x : FwSlot) : Prop :=
        (s.stw.active = 0 → t.stw.slotA = s.stw.slotA ∧ t.stw.slotB = x) ∧ (s.stw.active ≠ 0 → t.stw.slotA = x ∧ t.stw.slotB = s.stw.slotB)
      let ends (P : State → Prop) : Prop := Becomes (.fwUpdate tag addr xlat size r ok) s P
      (bits xlat.toNat 31 20 ≠ 0 → ends (fun t => replied t 5 0x0011 [] ∧ same t)) ∧
      (bits xlat.toNat 31 20 = 0 → r.kind = .fault → noReset s 11 → ends (fun t => same t ∧
        ∃ m ∈ t.stw.mbx, m.head? = some (BitVec.ofNat 32 (1 + 2 ^ 8 * 5 + 2 ^ 16 * 0x0014)))) ∧
      (bits xlat.toNat 31 20 = 0 → r.kind = .okay →
        (fwHeaderOk r.bytes size.toNat = false → ends (fun t => replied t 5 0x0015 [] ∧ same t)) ∧
        (fwHeaderOk r.bytes size.toNat = true →
          (s.stw.active ≠ 2 → ver ≤ fwVer s → ends (fun t => replied t 5 0x0018 [] ∧ same t)) ∧
          (s.stw.active = 2 ∨ fwVer s < ver → ends (fun t =>
            (slice r.bytes 0x10 48 ≠ hash → replied t 5 0x0017 [] ∧ same t) ∧
            (slice r.bytes 0x10 48 = hash → ¬ signed → replied t 5 0x0016 [] ∧ same t) ∧
            (slice r.bytes 0x10 48 = hash → signed → ok = false → replied t 5 0x0019 [] ∧ lands t ⟨false, ver, 0⟩) ∧
            (slice r.bytes 0x10 48 = hash → signed → ok = true →
              replied t 5 0 [ver, fwSeq s + 1] ∧ lands t ⟨true, ver, fwSeq s + 1⟩))))))

/-! ## Power -/

/-- ROOT_STEP, PWR_VREQ_ACK, PWR_ILIM_REQ, PWR_ILIM_REQ_FALL, PWR_N_MAX_WRITE, DROOP_CAP_EXPIRE and THROTTLE_TICK: the root
multiplier moves one step within 24 to 48, its target is the least of the caps, a current-limit request is answered once the
multiplier is within its level's cap, and critical heat caps at 24 (R31, R395 to R398, Table 16-6). -/
def Obligations.RootAndCaps : Prop :=
  ∀ s : State, Inv s →
    (s.pwr.slewing = true → Becomes .rootStep s (fun t => t.pwr.targetN = s.pwr.targetN ∧
      t.pwr.rootN = (if s.pwr.slewUp then min 48 (s.pwr.rootN + 1) else max 24 (s.pwr.rootN - 1)) ∧ t.jobs = s.jobs ∧ t.pods = s.pods)) ∧
    (s.pwr.vreqReq = true → Becomes .pwrVreqAck s (fun t => t.pwr.rootN = s.pwr.rootN ∧ t.pwr.targetN = s.pwr.targetN ∧
      (s.pwr.rootN = s.pwr.targetN → t.pwr = { s.pwr with vreqReq := false, vreqAck := true }) ∧
      (s.pwr.slewing = false → s.pwr.rootN < s.pwr.targetN → vreqCode (vguard s) (s.pwr.rootN + 1) ≤ s.pwr.vreq →
        t.pwr = { s.pwr with vreqReq := false, vreqAck := true, slewing := true, slewUp := true }))) ∧
    (∀ l : BitVec 2, (portOpen s = true → s.pwr.ilimAck = false → Becomes (.pwrIlimReq l) s (fun t =>
        t.pwr.ilimLvl = l.toNat ∧ t.pwr.ilimReq = true ∧ t.pwr.targetN = leastCap t ∧
        (t.pwr.ilimAck = true ↔ t.pwr.rootN ≤ ilimCap t l.toNat) ∧ t.jobs = s.jobs ∧ t.pods = s.pods)) ∧
      (portOpen s = false → exec (.pwrIlimReq l) s =
        .next { s with pwr := { s.pwr with ilimReq := true, ilimWant := l.toNat } })) ∧
    exec .pwrIlimReqFall s = .next { s with pwr := { s.pwr with ilimReq := false, ilimAck := false } } ∧
    (∀ w : Word, portOpen s = true →
      (24 ≤ bits w.toNat 5 0 → bits w.toNat 5 0 ≤ 48 → bits w.toNat 31 6 = 0 → Becomes (.pwrNMaxWrite w) s (fun t =>
        rg t 2 0x40C % 64 = w.toNat ∧ t.pwr.targetN = leastCap t ∧ t.pwr.targetN ≤ w.toNat ∧ t.jobs = s.jobs)) ∧
      (bits w.toNat 5 0 < 24 ∨ 48 < bits w.toNat 5 0 → Becomes (.pwrNMaxWrite w) s (fun t =>
        refused t 2 0x0204 0x40C ∧ rgw t 2 0x40C = rgw s 2 0x40C ∧ t.pwr = s.pwr))) ∧
    (∀ c, s.pwr.capDroop = some c → Becomes .droopCapExpire s (fun t => t.pwr.targetN = leastCap t ∧
      t.pwr.capDroop = if allPods.any (fun p => (instAt s 18 p).severe) then some (s.pwr.rootN - 2) else none)) ∧
    (∀ x, x.wf = true → portOpen s = true → Becomes (.throttleTick x) s (fun t => t.pwr.targetN = leastCap t ∧
      t.pwr.power = x.power10us.toNat ∧ t.pwr.avgPower = x.avgPower.toNat ∧ t.pwr.current = x.current.toNat ∧
      (sext 16 (rgf s 2 0x404 31 16) ≤ x.hottest.toInt → t.pwr.capTherm = 24 ∧ t.pwr.targetN = 24) ∧
      (x.hottest.toInt < sext 16 (rgf s 2 0x404 31 16) →
        (sext 16 (rgf s 2 0x404 15 0) ≤ x.hottest.toInt → t.pwr.capTherm =
          (if s.pwr.capTherm = 48 ∨ 9 ≤ s.pwr.thermTick then max 24 (s.pwr.capTherm - 1) else s.pwr.capTherm)) ∧
        (x.hottest.toInt < sext 16 (rgf s 2 0x404 15 0) - 24 → t.pwr.capTherm =
          (if s.pwr.capTherm < 48 ∧ 99 ≤ s.pwr.thermTick then s.pwr.capTherm + 1 else s.pwr.capTherm))) ∧
      (rgf s 2 0x400 31 16 < x.power10us.toNat → t.pwr.capPower =
        (if s.pwr.capPower = 48 ∨ 9 ≤ s.pwr.powerTick then max 24 (s.pwr.capPower - 1) else s.pwr.capPower)) ∧
      t.pwr.rootN = s.pwr.rootN))

/-- PWR_SW_ACK, SWITCH_TIMEOUT, IDLE_GATE_TIMER, DROOP_DETECT and DROOP_RECOVER: a Pod that is powered up is zeroised and no
longer isolated, and one whose copy of Chard's table fails is mapped out with cause 6; one whose switch opened is gated, a switch that does not answer fails its Pod, an idle Pod is gated unless a
command names it, a droop gates the Pod's clocks and counts (R34, R393, R394, R396). -/
def Obligations.PodPower : Prop :=
  ∀ (s : State) (p : Fin 100), Inv s →
    let q := podAt s p.val
    let others (t : State) : Prop := ∀ x, x ≠ p.val → podAt t x = podAt s x
    (q.swAck = false → q.swReq = true →
      (s.rng.tableOk = true → q.role ≤ 1 → q.why ≠ .startUp → Becomes (.pwrSwAck p true true) s (fun t =>
        podAt t p.val = { q with swAck := true, gated := false, isolated := false, copyOk := true } ∧ others t ∧
        zeroisedPod s t p.val ∧ t.jobs = s.jobs)) ∧
      (s.rng.tableOk = true → q.role ≤ 1 → q.why ≠ .startUp → q.st = .idle ∨ q.st = .test → s.blk.st ≠ .cold → noReset s 22 →
        Becomes (.pwrSwAck p true false) s (fun t => (podAt t p.val).role = 3 ∧ (podAt t p.val).cause = 6 ∧
          (podAt t p.val).st = .off ∧ (podAt t p.val).swReq = false ∧ t.flt.active.getLsbD 22 = true)) ∧
      (s.rng.tableOk = false ∨ 2 ≤ q.role ∨ q.why = .startUp → ∀ copy, Becomes (.pwrSwAck p true copy) s (fun t =>
        podAt t p.val = { q with swAck := true, gated := false, isolated := false } ∧ others t ∧ zeroisedPod s t p.val ∧
        t.jobs = s.jobs))) ∧
    (q.swAck = false → q.swReq = false → ∀ copy, exec (.pwrSwAck p true copy) s =
      .next { s with pods := s.pods.modify p.val fun x => { x with swAck := true, gated := false } }) ∧
    (∀ copy, q.swAck = true → Becomes (.pwrSwAck p false copy) s (fun t =>
      podAt t p.val = { q with swAck := false, gated := true, copyOk := false } ∧ others t ∧ zeroisedPod s t p.val ∧
      t.jobs = s.jobs)) ∧
    (q.swReq = true → q.swAck = false → q.st = .idle ∨ q.st = .test → s.blk.st ≠ .cold → Becomes (.switchTimeout p) s (fun t =>
      (podAt t p.val).role = 3 ∧ (podAt t p.val).cause = 6 ∧ (podAt t p.val).st = .off ∧ (podAt t p.val).swReq = false ∧
      t.flt.active.getLsbD 18 = true ∧ t.flt.active.getLsbD 22 = true)) ∧
    (q.st = .idle → q.swReq = true →
      (named s q.logical = false → Becomes (.idleGateTimer p) s (fun t =>
        podAt t p.val = { q with isolated := true, swReq := false } ∧ others t ∧ t.jobs = s.jobs ∧ t.marrow = s.marrow)) ∧
      (named s q.logical = true → exec (.idleGateTimer p) s = .next s)) ∧
    (∀ mv, q.droop = false → q.gated = false → s.blk.st ≠ .cold → Becomes (.droopDetect p mv) s (fun t =>
      (podAt t p.val).droop = true ∧ (podAt t p.val).droops = q.droops + 1 ∧ t.flt.active.getLsbD 18 = true ∧
      t.jobs = s.jobs ∧ t.marrow = s.marrow)) ∧
    Becomes (.droopRecover p) s (fun t => podAt t p.val = { q with droop := false } ∧ others t ∧ t.jobs = s.jobs ∧
      t.marrow = s.marrow ∧ t.pwr = s.pwr)
end

