-- ==== Sys2Proof/Laws/Smap.lean ====
section
/-! SUPPORT. Laws of the sparse tables and number sets: a read after a write, and that every operation keeps the
canonical form. -/

namespace Sys2Proof.Machine

variable {α : Type}

@[simp] theorem sget?_nil (k : Nat) : sget? ([] : List (Nat × α)) k = none := rfl
@[simp] theorem sgetD_nil (k : Nat) (d : α) : sgetD ([] : List (Nat × α)) k d = d := rfl

/-- Reading the key just written gives the value written. -/
@[simp] theorem sget?_sput_self (m : List (Nat × α)) (k : Nat) (v : α) : sget? (sput m k v) k = some v := by
  induction m with
  | nil => simp [sput, sget?]
  | cons e m ih =>
    obtain ⟨j, w⟩ := e
    simp only [sput]
    split
    · simp [sget?]
    · split
      · simp [sget?]
      · next h => simp [sget?, Ne.symm h, ih]

/-- Writing one key leaves what every other key reads. -/
theorem sget?_sput_ne (m : List (Nat × α)) {k k' : Nat} (v : α) (h : k' ≠ k) :
    sget? (sput m k v) k' = sget? m k' := by
  induction m with
  | nil => simp [sput, sget?, Ne.symm h]
  | cons e m ih =>
    obtain ⟨j, w⟩ := e
    simp only [sput]
    split
    · simp [sget?, Ne.symm h]
    · split
      · next _ hk => subst hk; simp [sget?, Ne.symm h]
      · simp [sget?, ih]

theorem sget?_sdel_ne (m : List (Nat × α)) {k k' : Nat} (h : k' ≠ k) : sget? (sdel m k) k' = sget? m k' := by
  induction m with
  | nil => rfl
  | cons e m ih =>
    obtain ⟨j, w⟩ := e
    simp only [sdel]
    split
    · next hk => subst hk; simp [sget?, Ne.symm h]
    · simp [sget?, ih]

@[simp] theorem sgetD_sput_self (m : List (Nat × α)) (k : Nat) (v d : α) : sgetD (sput m k v) k d = v := by
  simp [sgetD]

theorem sgetD_sput_ne (m : List (Nat × α)) {k k' : Nat} (v d : α) (h : k' ≠ k) :
    sgetD (sput m k v) k' d = sgetD m k' d := by
  simp [sgetD, sget?_sput_ne m v h]

@[simp] theorem sgetD_supd_self (m : List (Nat × α)) (k : Nat) (d : α) (f : α → α) :
    sgetD (supd m k d f) k d = f (sgetD m k d) := by
  simp [supd]

theorem sgetD_supd_ne (m : List (Nat × α)) {k k' : Nat} (d e : α) (f : α → α) (h : k' ≠ k) :
    sgetD (supd m k d f) k' e = sgetD m k' e := by
  simp [supd, sgetD_sput_ne m _ e h]

theorem sgetD_sdel_ne (m : List (Nat × α)) {k k' : Nat} (d : α) (h : k' ≠ k) :
    sgetD (sdel m k) k' d = sgetD m k' d := by
  simp [sgetD, sget?_sdel_ne m h]

theorem sgetD_sset_ne [DecidableEq α] (m : List (Nat × α)) {k k' : Nat} (v d e : α) (h : k' ≠ k) :
    sgetD (sset m k v d) k' e = sgetD m k' e := by
  unfold sset
  split
  · exact sgetD_sdel_ne m e h
  · exact sgetD_sput_ne m v e h

/-! ## Canonical form -/

/-- Every key of a rising table lies above the key in front of it. -/
theorem rising_cons {j : Nat} {w : α} {m : List (Nat × α)} :
    rising ((j, w) :: m) = true ↔ (∀ e ∈ m, j < e.1) ∧ rising m = true := by
  induction m generalizing j w with
  | nil => simp [rising]
  | cons e m ih =>
    obtain ⟨k, v⟩ := e
    simp only [rising, Bool.and_eq_true, decide_eq_true_eq, ih, List.mem_cons, forall_eq_or_imp]
    constructor
    · rintro ⟨h, h1, h2⟩
      exact ⟨⟨h, fun e he => lt_trans h (h1 e he)⟩, h1, h2⟩
    · rintro ⟨⟨h, _⟩, h1, h2⟩
      exact ⟨h, h1, h2⟩

/-- A key below every listed key is not listed. -/
theorem sget?_none_of_lt (m : List (Nat × α)) (k : Nat) (h : ∀ e ∈ m, k < e.1) : sget? m k = none := by
  induction m with
  | nil => rfl
  | cons e m ih =>
    obtain ⟨j, w⟩ := e
    have := h (j, w) (by simp)
    simp only [sget?]
    rw [if_neg (by simpa using (Nat.ne_of_lt this).symm)]
    exact ih fun e he => h e (by simp [he])

theorem sget?_sdel_self (m : List (Nat × α)) (k : Nat) (h : rising m = true) : sget? (sdel m k) k = none := by
  induction m with
  | nil => rfl
  | cons e m ih =>
    obtain ⟨j, w⟩ := e
    rw [rising_cons] at h
    simp only [sdel]
    split
    · next hk => subst hk; exact sget?_none_of_lt m _ h.1
    · next hk => simp [sget?, Ne.symm hk, ih h.2]

/-- In a rising table the key just written reads as written, listed or not. -/
theorem sgetD_sset_self [DecidableEq α] (m : List (Nat × α)) (k : Nat) (v d : α) (h : rising m = true) :
    sgetD (sset m k v d) k d = v := by
  unfold sset
  split
  · next hv => subst hv; simp [sgetD, sget?_sdel_self m k h]
  · simp

theorem mem_sput {m : List (Nat × α)} {k : Nat} {v : α} {e : Nat × α} (h : e ∈ sput m k v) : e = (k, v) ∨ e ∈ m := by
  induction m with
  | nil => simpa [sput] using h
  | cons a m ih =>
    obtain ⟨j, w⟩ := a
    simp only [sput] at h
    split at h
    · simpa using h
    · split at h
      · simp only [List.mem_cons] at h ⊢; tauto
      · simp only [List.mem_cons] at h ⊢
        rcases h with h | h
        · exact .inr (.inl h)
        · exact (ih h).imp id .inr

theorem mem_sdel {m : List (Nat × α)} {k : Nat} {e : Nat × α} (h : e ∈ sdel m k) : e ∈ m := by
  induction m with
  | nil => exact h
  | cons a m ih =>
    obtain ⟨j, w⟩ := a
    simp only [sdel] at h
    split at h
    · simp [h]
    · simp only [List.mem_cons] at h ⊢; exact h.imp id ih

theorem rising_sput (m : List (Nat × α)) (k : Nat) (v : α) (h : rising m = true) : rising (sput m k v) = true := by
  induction m with
  | nil => rfl
  | cons a m ih =>
    obtain ⟨j, w⟩ := a
    have hr := rising_cons.1 h
    simp only [sput]
    split
    · next hk =>
      refine rising_cons.2 ⟨fun e he => ?_, h⟩
      rcases List.mem_cons.1 he with rfl | he
      · exact hk
      · exact lt_trans hk (hr.1 e he)
    · split
      · next hk => subst hk; exact rising_cons.2 hr
      · next h1 h2 =>
        refine rising_cons.2 ⟨fun e he => ?_, ih hr.2⟩
        rcases mem_sput he with rfl | he
        · simp only; omega
        · exact hr.1 e he

theorem rising_sdel (m : List (Nat × α)) (k : Nat) (h : rising m = true) : rising (sdel m k) = true := by
  induction m with
  | nil => rfl
  | cons a m ih =>
    obtain ⟨j, w⟩ := a
    have hr := rising_cons.1 h
    simp only [sdel]
    split
    · exact hr.2
    · exact rising_cons.2 ⟨fun e he => hr.1 e (mem_sdel he), ih hr.2⟩

theorem rising_filter (m : List (Nat × α)) (f : Nat × α → Bool) (h : rising m = true) : rising (m.filter f) = true := by
  induction m with
  | nil => rfl
  | cons a m ih =>
    obtain ⟨j, w⟩ := a
    have hr := rising_cons.1 h
    simp only [List.filter_cons]
    split
    · exact rising_cons.2 ⟨fun e he => hr.1 e (List.mem_of_mem_filter he), ih hr.2⟩
    · exact ih hr.2

theorem canon_iff [DecidableEq α] (m : List (Nat × α)) (d : α) :
    canon m d = true ↔ rising m = true ∧ ∀ e ∈ m, e.2 ≠ d := by
  simp [canon, List.all_eq_true]

/-- A write keeps the canonical form. -/
theorem canon_sset [DecidableEq α] (m : List (Nat × α)) (k : Nat) (v d : α) (h : canon m d = true) :
    canon (sset m k v d) d = true := by
  rw [canon_iff] at h ⊢
  unfold sset
  split
  · exact ⟨rising_sdel m k h.1, fun e he => h.2 e (mem_sdel he)⟩
  · next hv =>
    refine ⟨rising_sput m k v h.1, fun e he => ?_⟩
    rcases mem_sput he with rfl | he
    · exact hv
    · exact h.2 e he

theorem canon_sdel [DecidableEq α] (m : List (Nat × α)) (k : Nat) (d : α) (h : canon m d = true) :
    canon (sdel m k) d = true := by
  rw [canon_iff] at h ⊢
  exact ⟨rising_sdel m k h.1, fun e he => h.2 e (mem_sdel he)⟩

theorem canon_filter [DecidableEq α] (m : List (Nat × α)) (f : Nat × α → Bool) (d : α) (h : canon m d = true) :
    canon (m.filter f) d = true := by
  rw [canon_iff] at h ⊢
  exact ⟨rising_filter m f h.1, fun e he => h.2 e (List.mem_of_mem_filter he)⟩

/-! ## Number sets -/

theorem mem_nins (m : List Nat) (k x : Nat) : x ∈ nins m k ↔ x = k ∨ x ∈ m := by
  induction m with
  | nil => simp [nins]
  | cons j m ih =>
    simp only [nins]
    split
    · simp
    · split
      · next _ h => subst h; simp
      · simp only [List.mem_cons, ih]; tauto

theorem nrising_cons {j : Nat} {m : List Nat} : nrising (j :: m) = true ↔ (∀ e ∈ m, j < e) ∧ nrising m = true := by
  induction m generalizing j with
  | nil => simp [nrising]
  | cons k m ih =>
    simp only [nrising, Bool.and_eq_true, decide_eq_true_eq, ih, List.mem_cons, forall_eq_or_imp]
    constructor
    · rintro ⟨h, h1, h2⟩
      exact ⟨⟨h, fun e he => lt_trans h (h1 e he)⟩, h1, h2⟩
    · rintro ⟨⟨h, _⟩, h1, h2⟩
      exact ⟨h, h1, h2⟩

theorem nrising_nins (m : List Nat) (k : Nat) (h : nrising m = true) : nrising (nins m k) = true := by
  induction m with
  | nil => rfl
  | cons j m ih =>
    have hr := nrising_cons.1 h
    simp only [nins]
    split
    · next hk =>
      refine nrising_cons.2 ⟨fun e he => ?_, h⟩
      rcases List.mem_cons.1 he with rfl | he
      · exact hk
      · exact lt_trans hk (hr.1 e he)
    · split
      · exact h
      · refine nrising_cons.2 ⟨fun e he => ?_, ih hr.2⟩
        rcases (mem_nins m k e).1 he with rfl | he
        · omega
        · exact hr.1 e he

theorem nrising_filter (m : List Nat) (f : Nat → Bool) (h : nrising m = true) : nrising (m.filter f) = true := by
  induction m with
  | nil => rfl
  | cons j m ih =>
    have hr := nrising_cons.1 h
    simp only [List.filter_cons]
    split
    · exact nrising_cons.2 ⟨fun e he => hr.1 e (List.mem_of_mem_filter he), ih hr.2⟩
    · exact ih hr.2

theorem nrising_nset (m : List Nat) (k : Nat) (b : Bool) (h : nrising m = true) : nrising (nset m k b) = true := by
  unfold nset ndel
  split
  · exact nrising_nins m k h
  · exact nrising_filter m _ h

end Sys2Proof.Machine
end

