-- ==== Sys2Proof/Laws/State.lean ====
section
/-! SUPPORT. One lemma for each field of State and each named update: what the field holds afterwards. Later proofs
cite these and unfold no record update. -/

namespace Sys2Proof.Machine

variable (s : State)

@[simp] theorem modPod_pins (p : Nat) (f : Pod → Pod) : (modPod s p f).pins = s.pins := rfl
@[simp] theorem modPod_blk (p : Nat) (f : Pod → Pod) : (modPod s p f).blk = s.blk := rfl
@[simp] theorem modPod_time (p : Nat) (f : Pod → Pod) : (modPod s p f).time = s.time := rfl
@[simp] theorem modPod_regs (p : Nat) (f : Pod → Pod) : (modPod s p f).regs = s.regs := rfl
@[simp] theorem modPod_pods (p : Nat) (f : Pod → Pod) : (modPod s p f).pods = s.pods.modify p f := rfl
@[simp] theorem modPod_marrow (p : Nat) (f : Pod → Pod) : (modPod s p f).marrow = s.marrow := rfl
@[simp] theorem modPod_mps (p : Nat) (f : Pod → Pod) : (modPod s p f).mps = s.mps := rfl
@[simp] theorem modPod_gates (p : Nat) (f : Pod → Pod) : (modPod s p f).gates = s.gates := rfl
@[simp] theorem modPod_jobs (p : Nat) (f : Pod → Pod) : (modPod s p f).jobs = s.jobs := rfl
@[simp] theorem modPod_entries (p : Nat) (f : Pod → Pod) : (modPod s p f).entries = s.entries := rfl
@[simp] theorem modPod_ops (p : Nat) (f : Pod → Pod) : (modPod s p f).ops = s.ops := rfl
@[simp] theorem modPod_nextOp (p : Nat) (f : Pod → Pod) : (modPod s p f).nextOp = s.nextOp := rfl
@[simp] theorem modPod_sqs (p : Nat) (f : Pod → Pod) : (modPod s p f).sqs = s.sqs := rfl
@[simp] theorem modPod_cqs (p : Nat) (f : Pod → Pod) : (modPod s p f).cqs = s.cqs := rfl
@[simp] theorem modPod_arb (p : Nat) (f : Pod → Pod) : (modPod s p f).arb = s.arb := rfl
@[simp] theorem modPod_streams (p : Nat) (f : Pod → Pod) : (modPod s p f).streams = s.streams := rfl
@[simp] theorem modPod_cache (p : Nat) (f : Pod → Pod) : (modPod s p f).cache = s.cache := rfl
@[simp] theorem modPod_decodes (p : Nat) (f : Pod → Pod) : (modPod s p f).decodes = s.decodes := rfl
@[simp] theorem modPod_mem (p : Nat) (f : Pod → Pod) : (modPod s p f).mem = s.mem := rfl
@[simp] theorem modPod_cwy (p : Nat) (f : Pod → Pod) : (modPod s p f).cwy = s.cwy := rfl
@[simp] theorem modPod_flt (p : Nat) (f : Pod → Pod) : (modPod s p f).flt = s.flt := rfl
@[simp] theorem modPod_stw (p : Nat) (f : Pod → Pod) : (modPod s p f).stw = s.stw := rfl
@[simp] theorem modPod_pwr (p : Nat) (f : Pod → Pod) : (modPod s p f).pwr = s.pwr := rfl
@[simp] theorem modPod_rng (p : Nat) (f : Pod → Pod) : (modPod s p f).rng = s.rng := rfl
@[simp] theorem modPod_itg (p : Nat) (f : Pod → Pod) : (modPod s p f).itg = s.itg := rfl
@[simp] theorem modPod_free (p : Nat) (f : Pod → Pod) : (modPod s p f).free = s.free := rfl
@[simp] theorem modPod_pending (p : Nat) (f : Pod → Pod) : (modPod s p f).pending = s.pending := rfl

@[simp] theorem modBlk_pins (f : Block → Block) : (modBlk s f).pins = s.pins := rfl
@[simp] theorem modBlk_blk (f : Block → Block) : (modBlk s f).blk = f s.blk := rfl
@[simp] theorem modBlk_time (f : Block → Block) : (modBlk s f).time = s.time := rfl
@[simp] theorem modBlk_regs (f : Block → Block) : (modBlk s f).regs = s.regs := rfl
@[simp] theorem modBlk_pods (f : Block → Block) : (modBlk s f).pods = s.pods := rfl
@[simp] theorem modBlk_marrow (f : Block → Block) : (modBlk s f).marrow = s.marrow := rfl
@[simp] theorem modBlk_mps (f : Block → Block) : (modBlk s f).mps = s.mps := rfl
@[simp] theorem modBlk_gates (f : Block → Block) : (modBlk s f).gates = s.gates := rfl
@[simp] theorem modBlk_jobs (f : Block → Block) : (modBlk s f).jobs = s.jobs := rfl
@[simp] theorem modBlk_entries (f : Block → Block) : (modBlk s f).entries = s.entries := rfl
@[simp] theorem modBlk_ops (f : Block → Block) : (modBlk s f).ops = s.ops := rfl
@[simp] theorem modBlk_nextOp (f : Block → Block) : (modBlk s f).nextOp = s.nextOp := rfl
@[simp] theorem modBlk_sqs (f : Block → Block) : (modBlk s f).sqs = s.sqs := rfl
@[simp] theorem modBlk_cqs (f : Block → Block) : (modBlk s f).cqs = s.cqs := rfl
@[simp] theorem modBlk_arb (f : Block → Block) : (modBlk s f).arb = s.arb := rfl
@[simp] theorem modBlk_streams (f : Block → Block) : (modBlk s f).streams = s.streams := rfl
@[simp] theorem modBlk_cache (f : Block → Block) : (modBlk s f).cache = s.cache := rfl
@[simp] theorem modBlk_decodes (f : Block → Block) : (modBlk s f).decodes = s.decodes := rfl
@[simp] theorem modBlk_mem (f : Block → Block) : (modBlk s f).mem = s.mem := rfl
@[simp] theorem modBlk_cwy (f : Block → Block) : (modBlk s f).cwy = s.cwy := rfl
@[simp] theorem modBlk_flt (f : Block → Block) : (modBlk s f).flt = s.flt := rfl
@[simp] theorem modBlk_stw (f : Block → Block) : (modBlk s f).stw = s.stw := rfl
@[simp] theorem modBlk_pwr (f : Block → Block) : (modBlk s f).pwr = s.pwr := rfl
@[simp] theorem modBlk_rng (f : Block → Block) : (modBlk s f).rng = s.rng := rfl
@[simp] theorem modBlk_itg (f : Block → Block) : (modBlk s f).itg = s.itg := rfl
@[simp] theorem modBlk_free (f : Block → Block) : (modBlk s f).free = s.free := rfl
@[simp] theorem modBlk_pending (f : Block → Block) : (modBlk s f).pending = s.pending := rfl

@[simp] theorem modJob_pins (j : Nat) (f : Job → Job) : (modJob s j f).pins = s.pins := rfl
@[simp] theorem modJob_blk (j : Nat) (f : Job → Job) : (modJob s j f).blk = s.blk := rfl
@[simp] theorem modJob_time (j : Nat) (f : Job → Job) : (modJob s j f).time = s.time := rfl
@[simp] theorem modJob_regs (j : Nat) (f : Job → Job) : (modJob s j f).regs = s.regs := rfl
@[simp] theorem modJob_pods (j : Nat) (f : Job → Job) : (modJob s j f).pods = s.pods := rfl
@[simp] theorem modJob_marrow (j : Nat) (f : Job → Job) : (modJob s j f).marrow = s.marrow := rfl
@[simp] theorem modJob_mps (j : Nat) (f : Job → Job) : (modJob s j f).mps = s.mps := rfl
@[simp] theorem modJob_gates (j : Nat) (f : Job → Job) : (modJob s j f).gates = s.gates := rfl
@[simp] theorem modJob_jobs (j : Nat) (f : Job → Job) : (modJob s j f).jobs = supd s.jobs j Job.empty f := rfl
@[simp] theorem modJob_entries (j : Nat) (f : Job → Job) : (modJob s j f).entries = s.entries := rfl
@[simp] theorem modJob_ops (j : Nat) (f : Job → Job) : (modJob s j f).ops = s.ops := rfl
@[simp] theorem modJob_nextOp (j : Nat) (f : Job → Job) : (modJob s j f).nextOp = s.nextOp := rfl
@[simp] theorem modJob_sqs (j : Nat) (f : Job → Job) : (modJob s j f).sqs = s.sqs := rfl
@[simp] theorem modJob_cqs (j : Nat) (f : Job → Job) : (modJob s j f).cqs = s.cqs := rfl
@[simp] theorem modJob_arb (j : Nat) (f : Job → Job) : (modJob s j f).arb = s.arb := rfl
@[simp] theorem modJob_streams (j : Nat) (f : Job → Job) : (modJob s j f).streams = s.streams := rfl
@[simp] theorem modJob_cache (j : Nat) (f : Job → Job) : (modJob s j f).cache = s.cache := rfl
@[simp] theorem modJob_decodes (j : Nat) (f : Job → Job) : (modJob s j f).decodes = s.decodes := rfl
@[simp] theorem modJob_mem (j : Nat) (f : Job → Job) : (modJob s j f).mem = s.mem := rfl
@[simp] theorem modJob_cwy (j : Nat) (f : Job → Job) : (modJob s j f).cwy = s.cwy := rfl
@[simp] theorem modJob_flt (j : Nat) (f : Job → Job) : (modJob s j f).flt = s.flt := rfl
@[simp] theorem modJob_stw (j : Nat) (f : Job → Job) : (modJob s j f).stw = s.stw := rfl
@[simp] theorem modJob_pwr (j : Nat) (f : Job → Job) : (modJob s j f).pwr = s.pwr := rfl
@[simp] theorem modJob_rng (j : Nat) (f : Job → Job) : (modJob s j f).rng = s.rng := rfl
@[simp] theorem modJob_itg (j : Nat) (f : Job → Job) : (modJob s j f).itg = s.itg := rfl
@[simp] theorem modJob_free (j : Nat) (f : Job → Job) : (modJob s j f).free = s.free := rfl
@[simp] theorem modJob_pending (j : Nat) (f : Job → Job) : (modJob s j f).pending = s.pending := rfl

@[simp] theorem modMem_pins (f : Mem → Mem) : (modMem s f).pins = s.pins := rfl
@[simp] theorem modMem_blk (f : Mem → Mem) : (modMem s f).blk = s.blk := rfl
@[simp] theorem modMem_time (f : Mem → Mem) : (modMem s f).time = s.time := rfl
@[simp] theorem modMem_regs (f : Mem → Mem) : (modMem s f).regs = s.regs := rfl
@[simp] theorem modMem_pods (f : Mem → Mem) : (modMem s f).pods = s.pods := rfl
@[simp] theorem modMem_marrow (f : Mem → Mem) : (modMem s f).marrow = s.marrow := rfl
@[simp] theorem modMem_mps (f : Mem → Mem) : (modMem s f).mps = s.mps := rfl
@[simp] theorem modMem_gates (f : Mem → Mem) : (modMem s f).gates = s.gates := rfl
@[simp] theorem modMem_jobs (f : Mem → Mem) : (modMem s f).jobs = s.jobs := rfl
@[simp] theorem modMem_entries (f : Mem → Mem) : (modMem s f).entries = s.entries := rfl
@[simp] theorem modMem_ops (f : Mem → Mem) : (modMem s f).ops = s.ops := rfl
@[simp] theorem modMem_nextOp (f : Mem → Mem) : (modMem s f).nextOp = s.nextOp := rfl
@[simp] theorem modMem_sqs (f : Mem → Mem) : (modMem s f).sqs = s.sqs := rfl
@[simp] theorem modMem_cqs (f : Mem → Mem) : (modMem s f).cqs = s.cqs := rfl
@[simp] theorem modMem_arb (f : Mem → Mem) : (modMem s f).arb = s.arb := rfl
@[simp] theorem modMem_streams (f : Mem → Mem) : (modMem s f).streams = s.streams := rfl
@[simp] theorem modMem_cache (f : Mem → Mem) : (modMem s f).cache = s.cache := rfl
@[simp] theorem modMem_decodes (f : Mem → Mem) : (modMem s f).decodes = s.decodes := rfl
@[simp] theorem modMem_mem (f : Mem → Mem) : (modMem s f).mem = f s.mem := rfl
@[simp] theorem modMem_cwy (f : Mem → Mem) : (modMem s f).cwy = s.cwy := rfl
@[simp] theorem modMem_flt (f : Mem → Mem) : (modMem s f).flt = s.flt := rfl
@[simp] theorem modMem_stw (f : Mem → Mem) : (modMem s f).stw = s.stw := rfl
@[simp] theorem modMem_pwr (f : Mem → Mem) : (modMem s f).pwr = s.pwr := rfl
@[simp] theorem modMem_rng (f : Mem → Mem) : (modMem s f).rng = s.rng := rfl
@[simp] theorem modMem_itg (f : Mem → Mem) : (modMem s f).itg = s.itg := rfl
@[simp] theorem modMem_free (f : Mem → Mem) : (modMem s f).free = s.free := rfl
@[simp] theorem modMem_pending (f : Mem → Mem) : (modMem s f).pending = s.pending := rfl

@[simp] theorem modSq_pins (n : Nat) (f : Sq → Sq) : (modSq s n f).pins = s.pins := rfl
@[simp] theorem modSq_blk (n : Nat) (f : Sq → Sq) : (modSq s n f).blk = s.blk := rfl
@[simp] theorem modSq_time (n : Nat) (f : Sq → Sq) : (modSq s n f).time = s.time := rfl
@[simp] theorem modSq_regs (n : Nat) (f : Sq → Sq) : (modSq s n f).regs = s.regs := rfl
@[simp] theorem modSq_pods (n : Nat) (f : Sq → Sq) : (modSq s n f).pods = s.pods := rfl
@[simp] theorem modSq_marrow (n : Nat) (f : Sq → Sq) : (modSq s n f).marrow = s.marrow := rfl
@[simp] theorem modSq_mps (n : Nat) (f : Sq → Sq) : (modSq s n f).mps = s.mps := rfl
@[simp] theorem modSq_gates (n : Nat) (f : Sq → Sq) : (modSq s n f).gates = s.gates := rfl
@[simp] theorem modSq_jobs (n : Nat) (f : Sq → Sq) : (modSq s n f).jobs = s.jobs := rfl
@[simp] theorem modSq_entries (n : Nat) (f : Sq → Sq) : (modSq s n f).entries = s.entries := rfl
@[simp] theorem modSq_ops (n : Nat) (f : Sq → Sq) : (modSq s n f).ops = s.ops := rfl
@[simp] theorem modSq_nextOp (n : Nat) (f : Sq → Sq) : (modSq s n f).nextOp = s.nextOp := rfl
@[simp] theorem modSq_sqs (n : Nat) (f : Sq → Sq) : (modSq s n f).sqs = supd s.sqs n Sq.empty f := rfl
@[simp] theorem modSq_cqs (n : Nat) (f : Sq → Sq) : (modSq s n f).cqs = s.cqs := rfl
@[simp] theorem modSq_arb (n : Nat) (f : Sq → Sq) : (modSq s n f).arb = s.arb := rfl
@[simp] theorem modSq_streams (n : Nat) (f : Sq → Sq) : (modSq s n f).streams = s.streams := rfl
@[simp] theorem modSq_cache (n : Nat) (f : Sq → Sq) : (modSq s n f).cache = s.cache := rfl
@[simp] theorem modSq_decodes (n : Nat) (f : Sq → Sq) : (modSq s n f).decodes = s.decodes := rfl
@[simp] theorem modSq_mem (n : Nat) (f : Sq → Sq) : (modSq s n f).mem = s.mem := rfl
@[simp] theorem modSq_cwy (n : Nat) (f : Sq → Sq) : (modSq s n f).cwy = s.cwy := rfl
@[simp] theorem modSq_flt (n : Nat) (f : Sq → Sq) : (modSq s n f).flt = s.flt := rfl
@[simp] theorem modSq_stw (n : Nat) (f : Sq → Sq) : (modSq s n f).stw = s.stw := rfl
@[simp] theorem modSq_pwr (n : Nat) (f : Sq → Sq) : (modSq s n f).pwr = s.pwr := rfl
@[simp] theorem modSq_rng (n : Nat) (f : Sq → Sq) : (modSq s n f).rng = s.rng := rfl
@[simp] theorem modSq_itg (n : Nat) (f : Sq → Sq) : (modSq s n f).itg = s.itg := rfl
@[simp] theorem modSq_free (n : Nat) (f : Sq → Sq) : (modSq s n f).free = s.free := rfl
@[simp] theorem modSq_pending (n : Nat) (f : Sq → Sq) : (modSq s n f).pending = s.pending := rfl

@[simp] theorem modCq_pins (c : Nat) (f : Cq → Cq) : (modCq s c f).pins = s.pins := rfl
@[simp] theorem modCq_blk (c : Nat) (f : Cq → Cq) : (modCq s c f).blk = s.blk := rfl
@[simp] theorem modCq_time (c : Nat) (f : Cq → Cq) : (modCq s c f).time = s.time := rfl
@[simp] theorem modCq_regs (c : Nat) (f : Cq → Cq) : (modCq s c f).regs = s.regs := rfl
@[simp] theorem modCq_pods (c : Nat) (f : Cq → Cq) : (modCq s c f).pods = s.pods := rfl
@[simp] theorem modCq_marrow (c : Nat) (f : Cq → Cq) : (modCq s c f).marrow = s.marrow := rfl
@[simp] theorem modCq_mps (c : Nat) (f : Cq → Cq) : (modCq s c f).mps = s.mps := rfl
@[simp] theorem modCq_gates (c : Nat) (f : Cq → Cq) : (modCq s c f).gates = s.gates := rfl
@[simp] theorem modCq_jobs (c : Nat) (f : Cq → Cq) : (modCq s c f).jobs = s.jobs := rfl
@[simp] theorem modCq_entries (c : Nat) (f : Cq → Cq) : (modCq s c f).entries = s.entries := rfl
@[simp] theorem modCq_ops (c : Nat) (f : Cq → Cq) : (modCq s c f).ops = s.ops := rfl
@[simp] theorem modCq_nextOp (c : Nat) (f : Cq → Cq) : (modCq s c f).nextOp = s.nextOp := rfl
@[simp] theorem modCq_sqs (c : Nat) (f : Cq → Cq) : (modCq s c f).sqs = s.sqs := rfl
@[simp] theorem modCq_cqs (c : Nat) (f : Cq → Cq) : (modCq s c f).cqs = supd s.cqs c Cq.empty f := rfl
@[simp] theorem modCq_arb (c : Nat) (f : Cq → Cq) : (modCq s c f).arb = s.arb := rfl
@[simp] theorem modCq_streams (c : Nat) (f : Cq → Cq) : (modCq s c f).streams = s.streams := rfl
@[simp] theorem modCq_cache (c : Nat) (f : Cq → Cq) : (modCq s c f).cache = s.cache := rfl
@[simp] theorem modCq_decodes (c : Nat) (f : Cq → Cq) : (modCq s c f).decodes = s.decodes := rfl
@[simp] theorem modCq_mem (c : Nat) (f : Cq → Cq) : (modCq s c f).mem = s.mem := rfl
@[simp] theorem modCq_cwy (c : Nat) (f : Cq → Cq) : (modCq s c f).cwy = s.cwy := rfl
@[simp] theorem modCq_flt (c : Nat) (f : Cq → Cq) : (modCq s c f).flt = s.flt := rfl
@[simp] theorem modCq_stw (c : Nat) (f : Cq → Cq) : (modCq s c f).stw = s.stw := rfl
@[simp] theorem modCq_pwr (c : Nat) (f : Cq → Cq) : (modCq s c f).pwr = s.pwr := rfl
@[simp] theorem modCq_rng (c : Nat) (f : Cq → Cq) : (modCq s c f).rng = s.rng := rfl
@[simp] theorem modCq_itg (c : Nat) (f : Cq → Cq) : (modCq s c f).itg = s.itg := rfl
@[simp] theorem modCq_free (c : Nat) (f : Cq → Cq) : (modCq s c f).free = s.free := rfl
@[simp] theorem modCq_pending (c : Nat) (f : Cq → Cq) : (modCq s c f).pending = s.pending := rfl

@[simp] theorem modEntry_pins (q k : Nat) (f : Entry → Entry) : (modEntry s q k f).pins = s.pins := rfl
@[simp] theorem modEntry_blk (q k : Nat) (f : Entry → Entry) : (modEntry s q k f).blk = s.blk := rfl
@[simp] theorem modEntry_time (q k : Nat) (f : Entry → Entry) : (modEntry s q k f).time = s.time := rfl
@[simp] theorem modEntry_regs (q k : Nat) (f : Entry → Entry) : (modEntry s q k f).regs = s.regs := rfl
@[simp] theorem modEntry_pods (q k : Nat) (f : Entry → Entry) : (modEntry s q k f).pods = s.pods := rfl
@[simp] theorem modEntry_marrow (q k : Nat) (f : Entry → Entry) : (modEntry s q k f).marrow = s.marrow := rfl
@[simp] theorem modEntry_mps (q k : Nat) (f : Entry → Entry) : (modEntry s q k f).mps = s.mps := rfl
@[simp] theorem modEntry_gates (q k : Nat) (f : Entry → Entry) : (modEntry s q k f).gates = s.gates := rfl
@[simp] theorem modEntry_jobs (q k : Nat) (f : Entry → Entry) : (modEntry s q k f).jobs = s.jobs := rfl
@[simp] theorem modEntry_entries (q k : Nat) (f : Entry → Entry) : (modEntry s q k f).entries = s.entries.map fun e => if e.sq = q ∧ e.slot = k then f e else e := rfl
@[simp] theorem modEntry_ops (q k : Nat) (f : Entry → Entry) : (modEntry s q k f).ops = s.ops := rfl
@[simp] theorem modEntry_nextOp (q k : Nat) (f : Entry → Entry) : (modEntry s q k f).nextOp = s.nextOp := rfl
@[simp] theorem modEntry_sqs (q k : Nat) (f : Entry → Entry) : (modEntry s q k f).sqs = s.sqs := rfl
@[simp] theorem modEntry_cqs (q k : Nat) (f : Entry → Entry) : (modEntry s q k f).cqs = s.cqs := rfl
@[simp] theorem modEntry_arb (q k : Nat) (f : Entry → Entry) : (modEntry s q k f).arb = s.arb := rfl
@[simp] theorem modEntry_streams (q k : Nat) (f : Entry → Entry) : (modEntry s q k f).streams = s.streams := rfl
@[simp] theorem modEntry_cache (q k : Nat) (f : Entry → Entry) : (modEntry s q k f).cache = s.cache := rfl
@[simp] theorem modEntry_decodes (q k : Nat) (f : Entry → Entry) : (modEntry s q k f).decodes = s.decodes := rfl
@[simp] theorem modEntry_mem (q k : Nat) (f : Entry → Entry) : (modEntry s q k f).mem = s.mem := rfl
@[simp] theorem modEntry_cwy (q k : Nat) (f : Entry → Entry) : (modEntry s q k f).cwy = s.cwy := rfl
@[simp] theorem modEntry_flt (q k : Nat) (f : Entry → Entry) : (modEntry s q k f).flt = s.flt := rfl
@[simp] theorem modEntry_stw (q k : Nat) (f : Entry → Entry) : (modEntry s q k f).stw = s.stw := rfl
@[simp] theorem modEntry_pwr (q k : Nat) (f : Entry → Entry) : (modEntry s q k f).pwr = s.pwr := rfl
@[simp] theorem modEntry_rng (q k : Nat) (f : Entry → Entry) : (modEntry s q k f).rng = s.rng := rfl
@[simp] theorem modEntry_itg (q k : Nat) (f : Entry → Entry) : (modEntry s q k f).itg = s.itg := rfl
@[simp] theorem modEntry_free (q k : Nat) (f : Entry → Entry) : (modEntry s q k f).free = s.free := rfl
@[simp] theorem modEntry_pending (q k : Nat) (f : Entry → Entry) : (modEntry s q k f).pending = s.pending := rfl

@[simp] theorem modStw_pins (f : Steward → Steward) : (modStw s f).pins = s.pins := rfl
@[simp] theorem modStw_blk (f : Steward → Steward) : (modStw s f).blk = s.blk := rfl
@[simp] theorem modStw_time (f : Steward → Steward) : (modStw s f).time = s.time := rfl
@[simp] theorem modStw_regs (f : Steward → Steward) : (modStw s f).regs = s.regs := rfl
@[simp] theorem modStw_pods (f : Steward → Steward) : (modStw s f).pods = s.pods := rfl
@[simp] theorem modStw_marrow (f : Steward → Steward) : (modStw s f).marrow = s.marrow := rfl
@[simp] theorem modStw_mps (f : Steward → Steward) : (modStw s f).mps = s.mps := rfl
@[simp] theorem modStw_gates (f : Steward → Steward) : (modStw s f).gates = s.gates := rfl
@[simp] theorem modStw_jobs (f : Steward → Steward) : (modStw s f).jobs = s.jobs := rfl
@[simp] theorem modStw_entries (f : Steward → Steward) : (modStw s f).entries = s.entries := rfl
@[simp] theorem modStw_ops (f : Steward → Steward) : (modStw s f).ops = s.ops := rfl
@[simp] theorem modStw_nextOp (f : Steward → Steward) : (modStw s f).nextOp = s.nextOp := rfl
@[simp] theorem modStw_sqs (f : Steward → Steward) : (modStw s f).sqs = s.sqs := rfl
@[simp] theorem modStw_cqs (f : Steward → Steward) : (modStw s f).cqs = s.cqs := rfl
@[simp] theorem modStw_arb (f : Steward → Steward) : (modStw s f).arb = s.arb := rfl
@[simp] theorem modStw_streams (f : Steward → Steward) : (modStw s f).streams = s.streams := rfl
@[simp] theorem modStw_cache (f : Steward → Steward) : (modStw s f).cache = s.cache := rfl
@[simp] theorem modStw_decodes (f : Steward → Steward) : (modStw s f).decodes = s.decodes := rfl
@[simp] theorem modStw_mem (f : Steward → Steward) : (modStw s f).mem = s.mem := rfl
@[simp] theorem modStw_cwy (f : Steward → Steward) : (modStw s f).cwy = s.cwy := rfl
@[simp] theorem modStw_flt (f : Steward → Steward) : (modStw s f).flt = s.flt := rfl
@[simp] theorem modStw_stw (f : Steward → Steward) : (modStw s f).stw = f s.stw := rfl
@[simp] theorem modStw_pwr (f : Steward → Steward) : (modStw s f).pwr = s.pwr := rfl
@[simp] theorem modStw_rng (f : Steward → Steward) : (modStw s f).rng = s.rng := rfl
@[simp] theorem modStw_itg (f : Steward → Steward) : (modStw s f).itg = s.itg := rfl
@[simp] theorem modStw_free (f : Steward → Steward) : (modStw s f).free = s.free := rfl
@[simp] theorem modStw_pending (f : Steward → Steward) : (modStw s f).pending = s.pending := rfl

@[simp] theorem modFlt_pins (f : Collector → Collector) : (modFlt s f).pins = s.pins := rfl
@[simp] theorem modFlt_blk (f : Collector → Collector) : (modFlt s f).blk = s.blk := rfl
@[simp] theorem modFlt_time (f : Collector → Collector) : (modFlt s f).time = s.time := rfl
@[simp] theorem modFlt_regs (f : Collector → Collector) : (modFlt s f).regs = s.regs := rfl
@[simp] theorem modFlt_pods (f : Collector → Collector) : (modFlt s f).pods = s.pods := rfl
@[simp] theorem modFlt_marrow (f : Collector → Collector) : (modFlt s f).marrow = s.marrow := rfl
@[simp] theorem modFlt_mps (f : Collector → Collector) : (modFlt s f).mps = s.mps := rfl
@[simp] theorem modFlt_gates (f : Collector → Collector) : (modFlt s f).gates = s.gates := rfl
@[simp] theorem modFlt_jobs (f : Collector → Collector) : (modFlt s f).jobs = s.jobs := rfl
@[simp] theorem modFlt_entries (f : Collector → Collector) : (modFlt s f).entries = s.entries := rfl
@[simp] theorem modFlt_ops (f : Collector → Collector) : (modFlt s f).ops = s.ops := rfl
@[simp] theorem modFlt_nextOp (f : Collector → Collector) : (modFlt s f).nextOp = s.nextOp := rfl
@[simp] theorem modFlt_sqs (f : Collector → Collector) : (modFlt s f).sqs = s.sqs := rfl
@[simp] theorem modFlt_cqs (f : Collector → Collector) : (modFlt s f).cqs = s.cqs := rfl
@[simp] theorem modFlt_arb (f : Collector → Collector) : (modFlt s f).arb = s.arb := rfl
@[simp] theorem modFlt_streams (f : Collector → Collector) : (modFlt s f).streams = s.streams := rfl
@[simp] theorem modFlt_cache (f : Collector → Collector) : (modFlt s f).cache = s.cache := rfl
@[simp] theorem modFlt_decodes (f : Collector → Collector) : (modFlt s f).decodes = s.decodes := rfl
@[simp] theorem modFlt_mem (f : Collector → Collector) : (modFlt s f).mem = s.mem := rfl
@[simp] theorem modFlt_cwy (f : Collector → Collector) : (modFlt s f).cwy = s.cwy := rfl
@[simp] theorem modFlt_flt (f : Collector → Collector) : (modFlt s f).flt = f s.flt := rfl
@[simp] theorem modFlt_stw (f : Collector → Collector) : (modFlt s f).stw = s.stw := rfl
@[simp] theorem modFlt_pwr (f : Collector → Collector) : (modFlt s f).pwr = s.pwr := rfl
@[simp] theorem modFlt_rng (f : Collector → Collector) : (modFlt s f).rng = s.rng := rfl
@[simp] theorem modFlt_itg (f : Collector → Collector) : (modFlt s f).itg = s.itg := rfl
@[simp] theorem modFlt_free (f : Collector → Collector) : (modFlt s f).free = s.free := rfl
@[simp] theorem modFlt_pending (f : Collector → Collector) : (modFlt s f).pending = s.pending := rfl

@[simp] theorem modPwr_pins (f : Power → Power) : (modPwr s f).pins = s.pins := rfl
@[simp] theorem modPwr_blk (f : Power → Power) : (modPwr s f).blk = s.blk := rfl
@[simp] theorem modPwr_time (f : Power → Power) : (modPwr s f).time = s.time := rfl
@[simp] theorem modPwr_regs (f : Power → Power) : (modPwr s f).regs = s.regs := rfl
@[simp] theorem modPwr_pods (f : Power → Power) : (modPwr s f).pods = s.pods := rfl
@[simp] theorem modPwr_marrow (f : Power → Power) : (modPwr s f).marrow = s.marrow := rfl
@[simp] theorem modPwr_mps (f : Power → Power) : (modPwr s f).mps = s.mps := rfl
@[simp] theorem modPwr_gates (f : Power → Power) : (modPwr s f).gates = s.gates := rfl
@[simp] theorem modPwr_jobs (f : Power → Power) : (modPwr s f).jobs = s.jobs := rfl
@[simp] theorem modPwr_entries (f : Power → Power) : (modPwr s f).entries = s.entries := rfl
@[simp] theorem modPwr_ops (f : Power → Power) : (modPwr s f).ops = s.ops := rfl
@[simp] theorem modPwr_nextOp (f : Power → Power) : (modPwr s f).nextOp = s.nextOp := rfl
@[simp] theorem modPwr_sqs (f : Power → Power) : (modPwr s f).sqs = s.sqs := rfl
@[simp] theorem modPwr_cqs (f : Power → Power) : (modPwr s f).cqs = s.cqs := rfl
@[simp] theorem modPwr_arb (f : Power → Power) : (modPwr s f).arb = s.arb := rfl
@[simp] theorem modPwr_streams (f : Power → Power) : (modPwr s f).streams = s.streams := rfl
@[simp] theorem modPwr_cache (f : Power → Power) : (modPwr s f).cache = s.cache := rfl
@[simp] theorem modPwr_decodes (f : Power → Power) : (modPwr s f).decodes = s.decodes := rfl
@[simp] theorem modPwr_mem (f : Power → Power) : (modPwr s f).mem = s.mem := rfl
@[simp] theorem modPwr_cwy (f : Power → Power) : (modPwr s f).cwy = s.cwy := rfl
@[simp] theorem modPwr_flt (f : Power → Power) : (modPwr s f).flt = s.flt := rfl
@[simp] theorem modPwr_stw (f : Power → Power) : (modPwr s f).stw = s.stw := rfl
@[simp] theorem modPwr_pwr (f : Power → Power) : (modPwr s f).pwr = f s.pwr := rfl
@[simp] theorem modPwr_rng (f : Power → Power) : (modPwr s f).rng = s.rng := rfl
@[simp] theorem modPwr_itg (f : Power → Power) : (modPwr s f).itg = s.itg := rfl
@[simp] theorem modPwr_free (f : Power → Power) : (modPwr s f).free = s.free := rfl
@[simp] theorem modPwr_pending (f : Power → Power) : (modPwr s f).pending = s.pending := rfl

@[simp] theorem modPort_pins (k : Nat) (f : CPort → CPort) : (modPort s k f).pins = s.pins := rfl
@[simp] theorem modPort_blk (k : Nat) (f : CPort → CPort) : (modPort s k f).blk = s.blk := rfl
@[simp] theorem modPort_time (k : Nat) (f : CPort → CPort) : (modPort s k f).time = s.time := rfl
@[simp] theorem modPort_regs (k : Nat) (f : CPort → CPort) : (modPort s k f).regs = s.regs := rfl
@[simp] theorem modPort_pods (k : Nat) (f : CPort → CPort) : (modPort s k f).pods = s.pods := rfl
@[simp] theorem modPort_marrow (k : Nat) (f : CPort → CPort) : (modPort s k f).marrow = s.marrow := rfl
@[simp] theorem modPort_mps (k : Nat) (f : CPort → CPort) : (modPort s k f).mps = s.mps := rfl
@[simp] theorem modPort_gates (k : Nat) (f : CPort → CPort) : (modPort s k f).gates = s.gates := rfl
@[simp] theorem modPort_jobs (k : Nat) (f : CPort → CPort) : (modPort s k f).jobs = s.jobs := rfl
@[simp] theorem modPort_entries (k : Nat) (f : CPort → CPort) : (modPort s k f).entries = s.entries := rfl
@[simp] theorem modPort_ops (k : Nat) (f : CPort → CPort) : (modPort s k f).ops = s.ops := rfl
@[simp] theorem modPort_nextOp (k : Nat) (f : CPort → CPort) : (modPort s k f).nextOp = s.nextOp := rfl
@[simp] theorem modPort_sqs (k : Nat) (f : CPort → CPort) : (modPort s k f).sqs = s.sqs := rfl
@[simp] theorem modPort_cqs (k : Nat) (f : CPort → CPort) : (modPort s k f).cqs = s.cqs := rfl
@[simp] theorem modPort_arb (k : Nat) (f : CPort → CPort) : (modPort s k f).arb = s.arb := rfl
@[simp] theorem modPort_streams (k : Nat) (f : CPort → CPort) : (modPort s k f).streams = s.streams := rfl
@[simp] theorem modPort_cache (k : Nat) (f : CPort → CPort) : (modPort s k f).cache = s.cache := rfl
@[simp] theorem modPort_decodes (k : Nat) (f : CPort → CPort) : (modPort s k f).decodes = s.decodes := rfl
@[simp] theorem modPort_mem (k : Nat) (f : CPort → CPort) : (modPort s k f).mem = s.mem := rfl
@[simp] theorem modPort_cwy (k : Nat) (f : CPort → CPort) : (modPort s k f).cwy = supd s.cwy k CPort.empty f := rfl
@[simp] theorem modPort_flt (k : Nat) (f : CPort → CPort) : (modPort s k f).flt = s.flt := rfl
@[simp] theorem modPort_stw (k : Nat) (f : CPort → CPort) : (modPort s k f).stw = s.stw := rfl
@[simp] theorem modPort_pwr (k : Nat) (f : CPort → CPort) : (modPort s k f).pwr = s.pwr := rfl
@[simp] theorem modPort_rng (k : Nat) (f : CPort → CPort) : (modPort s k f).rng = s.rng := rfl
@[simp] theorem modPort_itg (k : Nat) (f : CPort → CPort) : (modPort s k f).itg = s.itg := rfl
@[simp] theorem modPort_free (k : Nat) (f : CPort → CPort) : (modPort s k f).free = s.free := rfl
@[simp] theorem modPort_pending (k : Nat) (f : CPort → CPort) : (modPort s k f).pending = s.pending := rfl

@[simp] theorem modHalf_pins (k h : Nat) (f : Half → Half) : (modHalf s k h f).pins = s.pins := rfl
@[simp] theorem modHalf_blk (k h : Nat) (f : Half → Half) : (modHalf s k h f).blk = s.blk := rfl
@[simp] theorem modHalf_time (k h : Nat) (f : Half → Half) : (modHalf s k h f).time = s.time := rfl
@[simp] theorem modHalf_regs (k h : Nat) (f : Half → Half) : (modHalf s k h f).regs = s.regs := rfl
@[simp] theorem modHalf_pods (k h : Nat) (f : Half → Half) : (modHalf s k h f).pods = s.pods := rfl
@[simp] theorem modHalf_marrow (k h : Nat) (f : Half → Half) : (modHalf s k h f).marrow = s.marrow := rfl
@[simp] theorem modHalf_mps (k h : Nat) (f : Half → Half) : (modHalf s k h f).mps = s.mps := rfl
@[simp] theorem modHalf_gates (k h : Nat) (f : Half → Half) : (modHalf s k h f).gates = s.gates := rfl
@[simp] theorem modHalf_jobs (k h : Nat) (f : Half → Half) : (modHalf s k h f).jobs = s.jobs := rfl
@[simp] theorem modHalf_entries (k h : Nat) (f : Half → Half) : (modHalf s k h f).entries = s.entries := rfl
@[simp] theorem modHalf_ops (k h : Nat) (f : Half → Half) : (modHalf s k h f).ops = s.ops := rfl
@[simp] theorem modHalf_nextOp (k h : Nat) (f : Half → Half) : (modHalf s k h f).nextOp = s.nextOp := rfl
@[simp] theorem modHalf_sqs (k h : Nat) (f : Half → Half) : (modHalf s k h f).sqs = s.sqs := rfl
@[simp] theorem modHalf_cqs (k h : Nat) (f : Half → Half) : (modHalf s k h f).cqs = s.cqs := rfl
@[simp] theorem modHalf_arb (k h : Nat) (f : Half → Half) : (modHalf s k h f).arb = s.arb := rfl
@[simp] theorem modHalf_streams (k h : Nat) (f : Half → Half) : (modHalf s k h f).streams = s.streams := rfl
@[simp] theorem modHalf_cache (k h : Nat) (f : Half → Half) : (modHalf s k h f).cache = s.cache := rfl
@[simp] theorem modHalf_decodes (k h : Nat) (f : Half → Half) : (modHalf s k h f).decodes = s.decodes := rfl
@[simp] theorem modHalf_mem (k h : Nat) (f : Half → Half) : (modHalf s k h f).mem = s.mem := rfl
@[simp] theorem modHalf_cwy (k h : Nat) (f : Half → Half) : (modHalf s k h f).cwy = supd s.cwy k CPort.empty fun c => { c with halves := supd c.halves h Half.empty f } := rfl
@[simp] theorem modHalf_flt (k h : Nat) (f : Half → Half) : (modHalf s k h f).flt = s.flt := rfl
@[simp] theorem modHalf_stw (k h : Nat) (f : Half → Half) : (modHalf s k h f).stw = s.stw := rfl
@[simp] theorem modHalf_pwr (k h : Nat) (f : Half → Half) : (modHalf s k h f).pwr = s.pwr := rfl
@[simp] theorem modHalf_rng (k h : Nat) (f : Half → Half) : (modHalf s k h f).rng = s.rng := rfl
@[simp] theorem modHalf_itg (k h : Nat) (f : Half → Half) : (modHalf s k h f).itg = s.itg := rfl
@[simp] theorem modHalf_free (k h : Nat) (f : Half → Half) : (modHalf s k h f).free = s.free := rfl
@[simp] theorem modHalf_pending (k h : Nat) (f : Half → Half) : (modHalf s k h f).pending = s.pending := rfl

@[simp] theorem modGate_pins (b : Nat) (f : Gate → Gate) : (modGate s b f).pins = s.pins := rfl
@[simp] theorem modGate_blk (b : Nat) (f : Gate → Gate) : (modGate s b f).blk = s.blk := rfl
@[simp] theorem modGate_time (b : Nat) (f : Gate → Gate) : (modGate s b f).time = s.time := rfl
@[simp] theorem modGate_regs (b : Nat) (f : Gate → Gate) : (modGate s b f).regs = s.regs := rfl
@[simp] theorem modGate_pods (b : Nat) (f : Gate → Gate) : (modGate s b f).pods = s.pods := rfl
@[simp] theorem modGate_marrow (b : Nat) (f : Gate → Gate) : (modGate s b f).marrow = s.marrow := rfl
@[simp] theorem modGate_mps (b : Nat) (f : Gate → Gate) : (modGate s b f).mps = s.mps := rfl
@[simp] theorem modGate_gates (b : Nat) (f : Gate → Gate) : (modGate s b f).gates = supd s.gates b Gate.empty f := rfl
@[simp] theorem modGate_jobs (b : Nat) (f : Gate → Gate) : (modGate s b f).jobs = s.jobs := rfl
@[simp] theorem modGate_entries (b : Nat) (f : Gate → Gate) : (modGate s b f).entries = s.entries := rfl
@[simp] theorem modGate_ops (b : Nat) (f : Gate → Gate) : (modGate s b f).ops = s.ops := rfl
@[simp] theorem modGate_nextOp (b : Nat) (f : Gate → Gate) : (modGate s b f).nextOp = s.nextOp := rfl
@[simp] theorem modGate_sqs (b : Nat) (f : Gate → Gate) : (modGate s b f).sqs = s.sqs := rfl
@[simp] theorem modGate_cqs (b : Nat) (f : Gate → Gate) : (modGate s b f).cqs = s.cqs := rfl
@[simp] theorem modGate_arb (b : Nat) (f : Gate → Gate) : (modGate s b f).arb = s.arb := rfl
@[simp] theorem modGate_streams (b : Nat) (f : Gate → Gate) : (modGate s b f).streams = s.streams := rfl
@[simp] theorem modGate_cache (b : Nat) (f : Gate → Gate) : (modGate s b f).cache = s.cache := rfl
@[simp] theorem modGate_decodes (b : Nat) (f : Gate → Gate) : (modGate s b f).decodes = s.decodes := rfl
@[simp] theorem modGate_mem (b : Nat) (f : Gate → Gate) : (modGate s b f).mem = s.mem := rfl
@[simp] theorem modGate_cwy (b : Nat) (f : Gate → Gate) : (modGate s b f).cwy = s.cwy := rfl
@[simp] theorem modGate_flt (b : Nat) (f : Gate → Gate) : (modGate s b f).flt = s.flt := rfl
@[simp] theorem modGate_stw (b : Nat) (f : Gate → Gate) : (modGate s b f).stw = s.stw := rfl
@[simp] theorem modGate_pwr (b : Nat) (f : Gate → Gate) : (modGate s b f).pwr = s.pwr := rfl
@[simp] theorem modGate_rng (b : Nat) (f : Gate → Gate) : (modGate s b f).rng = s.rng := rfl
@[simp] theorem modGate_itg (b : Nat) (f : Gate → Gate) : (modGate s b f).itg = s.itg := rfl
@[simp] theorem modGate_free (b : Nat) (f : Gate → Gate) : (modGate s b f).free = s.free := rfl
@[simp] theorem modGate_pending (b : Nat) (f : Gate → Gate) : (modGate s b f).pending = s.pending := rfl

@[simp] theorem modMarrow_pins (f : Marrow → Marrow) : (modMarrow s f).pins = s.pins := rfl
@[simp] theorem modMarrow_blk (f : Marrow → Marrow) : (modMarrow s f).blk = s.blk := rfl
@[simp] theorem modMarrow_time (f : Marrow → Marrow) : (modMarrow s f).time = s.time := rfl
@[simp] theorem modMarrow_regs (f : Marrow → Marrow) : (modMarrow s f).regs = s.regs := rfl
@[simp] theorem modMarrow_pods (f : Marrow → Marrow) : (modMarrow s f).pods = s.pods := rfl
@[simp] theorem modMarrow_marrow (f : Marrow → Marrow) : (modMarrow s f).marrow = f s.marrow := rfl
@[simp] theorem modMarrow_mps (f : Marrow → Marrow) : (modMarrow s f).mps = s.mps := rfl
@[simp] theorem modMarrow_gates (f : Marrow → Marrow) : (modMarrow s f).gates = s.gates := rfl
@[simp] theorem modMarrow_jobs (f : Marrow → Marrow) : (modMarrow s f).jobs = s.jobs := rfl
@[simp] theorem modMarrow_entries (f : Marrow → Marrow) : (modMarrow s f).entries = s.entries := rfl
@[simp] theorem modMarrow_ops (f : Marrow → Marrow) : (modMarrow s f).ops = s.ops := rfl
@[simp] theorem modMarrow_nextOp (f : Marrow → Marrow) : (modMarrow s f).nextOp = s.nextOp := rfl
@[simp] theorem modMarrow_sqs (f : Marrow → Marrow) : (modMarrow s f).sqs = s.sqs := rfl
@[simp] theorem modMarrow_cqs (f : Marrow → Marrow) : (modMarrow s f).cqs = s.cqs := rfl
@[simp] theorem modMarrow_arb (f : Marrow → Marrow) : (modMarrow s f).arb = s.arb := rfl
@[simp] theorem modMarrow_streams (f : Marrow → Marrow) : (modMarrow s f).streams = s.streams := rfl
@[simp] theorem modMarrow_cache (f : Marrow → Marrow) : (modMarrow s f).cache = s.cache := rfl
@[simp] theorem modMarrow_decodes (f : Marrow → Marrow) : (modMarrow s f).decodes = s.decodes := rfl
@[simp] theorem modMarrow_mem (f : Marrow → Marrow) : (modMarrow s f).mem = s.mem := rfl
@[simp] theorem modMarrow_cwy (f : Marrow → Marrow) : (modMarrow s f).cwy = s.cwy := rfl
@[simp] theorem modMarrow_flt (f : Marrow → Marrow) : (modMarrow s f).flt = s.flt := rfl
@[simp] theorem modMarrow_stw (f : Marrow → Marrow) : (modMarrow s f).stw = s.stw := rfl
@[simp] theorem modMarrow_pwr (f : Marrow → Marrow) : (modMarrow s f).pwr = s.pwr := rfl
@[simp] theorem modMarrow_rng (f : Marrow → Marrow) : (modMarrow s f).rng = s.rng := rfl
@[simp] theorem modMarrow_itg (f : Marrow → Marrow) : (modMarrow s f).itg = s.itg := rfl
@[simp] theorem modMarrow_free (f : Marrow → Marrow) : (modMarrow s f).free = s.free := rfl
@[simp] theorem modMarrow_pending (f : Marrow → Marrow) : (modMarrow s f).pending = s.pending := rfl

@[simp] theorem modMps_pins (f : MpBank → MpBank) : (modMps s f).pins = s.pins := rfl
@[simp] theorem modMps_blk (f : MpBank → MpBank) : (modMps s f).blk = s.blk := rfl
@[simp] theorem modMps_time (f : MpBank → MpBank) : (modMps s f).time = s.time := rfl
@[simp] theorem modMps_regs (f : MpBank → MpBank) : (modMps s f).regs = s.regs := rfl
@[simp] theorem modMps_pods (f : MpBank → MpBank) : (modMps s f).pods = s.pods := rfl
@[simp] theorem modMps_marrow (f : MpBank → MpBank) : (modMps s f).marrow = s.marrow := rfl
@[simp] theorem modMps_mps (f : MpBank → MpBank) : (modMps s f).mps = f s.mps := rfl
@[simp] theorem modMps_gates (f : MpBank → MpBank) : (modMps s f).gates = s.gates := rfl
@[simp] theorem modMps_jobs (f : MpBank → MpBank) : (modMps s f).jobs = s.jobs := rfl
@[simp] theorem modMps_entries (f : MpBank → MpBank) : (modMps s f).entries = s.entries := rfl
@[simp] theorem modMps_ops (f : MpBank → MpBank) : (modMps s f).ops = s.ops := rfl
@[simp] theorem modMps_nextOp (f : MpBank → MpBank) : (modMps s f).nextOp = s.nextOp := rfl
@[simp] theorem modMps_sqs (f : MpBank → MpBank) : (modMps s f).sqs = s.sqs := rfl
@[simp] theorem modMps_cqs (f : MpBank → MpBank) : (modMps s f).cqs = s.cqs := rfl
@[simp] theorem modMps_arb (f : MpBank → MpBank) : (modMps s f).arb = s.arb := rfl
@[simp] theorem modMps_streams (f : MpBank → MpBank) : (modMps s f).streams = s.streams := rfl
@[simp] theorem modMps_cache (f : MpBank → MpBank) : (modMps s f).cache = s.cache := rfl
@[simp] theorem modMps_decodes (f : MpBank → MpBank) : (modMps s f).decodes = s.decodes := rfl
@[simp] theorem modMps_mem (f : MpBank → MpBank) : (modMps s f).mem = s.mem := rfl
@[simp] theorem modMps_cwy (f : MpBank → MpBank) : (modMps s f).cwy = s.cwy := rfl
@[simp] theorem modMps_flt (f : MpBank → MpBank) : (modMps s f).flt = s.flt := rfl
@[simp] theorem modMps_stw (f : MpBank → MpBank) : (modMps s f).stw = s.stw := rfl
@[simp] theorem modMps_pwr (f : MpBank → MpBank) : (modMps s f).pwr = s.pwr := rfl
@[simp] theorem modMps_rng (f : MpBank → MpBank) : (modMps s f).rng = s.rng := rfl
@[simp] theorem modMps_itg (f : MpBank → MpBank) : (modMps s f).itg = s.itg := rfl
@[simp] theorem modMps_free (f : MpBank → MpBank) : (modMps s f).free = s.free := rfl
@[simp] theorem modMps_pending (f : MpBank → MpBank) : (modMps s f).pending = s.pending := rfl

@[simp] theorem draw_pins : (draw s).pins = s.pins := rfl
@[simp] theorem draw_blk : (draw s).blk = s.blk := rfl
@[simp] theorem draw_time : (draw s).time = s.time := rfl
@[simp] theorem draw_regs : (draw s).regs = s.regs := rfl
@[simp] theorem draw_pods : (draw s).pods = s.pods := rfl
@[simp] theorem draw_marrow : (draw s).marrow = s.marrow := rfl
@[simp] theorem draw_mps : (draw s).mps = s.mps := rfl
@[simp] theorem draw_gates : (draw s).gates = s.gates := rfl
@[simp] theorem draw_jobs : (draw s).jobs = s.jobs := rfl
@[simp] theorem draw_entries : (draw s).entries = s.entries := rfl
@[simp] theorem draw_ops : (draw s).ops = s.ops := rfl
@[simp] theorem draw_nextOp : (draw s).nextOp = s.nextOp := rfl
@[simp] theorem draw_sqs : (draw s).sqs = s.sqs := rfl
@[simp] theorem draw_cqs : (draw s).cqs = s.cqs := rfl
@[simp] theorem draw_arb : (draw s).arb = s.arb := rfl
@[simp] theorem draw_streams : (draw s).streams = s.streams := rfl
@[simp] theorem draw_cache : (draw s).cache = s.cache := rfl
@[simp] theorem draw_decodes : (draw s).decodes = s.decodes := rfl
@[simp] theorem draw_mem : (draw s).mem = s.mem := rfl
@[simp] theorem draw_cwy : (draw s).cwy = s.cwy := rfl
@[simp] theorem draw_flt : (draw s).flt = s.flt := rfl
@[simp] theorem draw_stw : (draw s).stw = s.stw := rfl
@[simp] theorem draw_pwr : (draw s).pwr = s.pwr := rfl
@[simp] theorem draw_rng : (draw s).rng = s.rng := rfl
@[simp] theorem draw_itg : (draw s).itg = s.itg := rfl
@[simp] theorem draw_free : (draw s).free = s.free + 1 := rfl
@[simp] theorem draw_pending : (draw s).pending = s.pending := rfl

@[simp] theorem wrg_pins (p o v : Nat) : (wrg s p o v).pins = s.pins := rfl
@[simp] theorem wrg_blk (p o v : Nat) : (wrg s p o v).blk = s.blk := rfl
@[simp] theorem wrg_time (p o v : Nat) : (wrg s p o v).time = s.time := rfl
@[simp] theorem wrg_regs (p o v : Nat) : (wrg s p o v).regs = { s.regs with words := sset s.regs.words (wa p o) (BitVec.ofNat 32 v) (resetWord p o) } := rfl
@[simp] theorem wrg_pods (p o v : Nat) : (wrg s p o v).pods = s.pods := rfl
@[simp] theorem wrg_marrow (p o v : Nat) : (wrg s p o v).marrow = s.marrow := rfl
@[simp] theorem wrg_mps (p o v : Nat) : (wrg s p o v).mps = s.mps := rfl
@[simp] theorem wrg_gates (p o v : Nat) : (wrg s p o v).gates = s.gates := rfl
@[simp] theorem wrg_jobs (p o v : Nat) : (wrg s p o v).jobs = s.jobs := rfl
@[simp] theorem wrg_entries (p o v : Nat) : (wrg s p o v).entries = s.entries := rfl
@[simp] theorem wrg_ops (p o v : Nat) : (wrg s p o v).ops = s.ops := rfl
@[simp] theorem wrg_nextOp (p o v : Nat) : (wrg s p o v).nextOp = s.nextOp := rfl
@[simp] theorem wrg_sqs (p o v : Nat) : (wrg s p o v).sqs = s.sqs := rfl
@[simp] theorem wrg_cqs (p o v : Nat) : (wrg s p o v).cqs = s.cqs := rfl
@[simp] theorem wrg_arb (p o v : Nat) : (wrg s p o v).arb = s.arb := rfl
@[simp] theorem wrg_streams (p o v : Nat) : (wrg s p o v).streams = s.streams := rfl
@[simp] theorem wrg_cache (p o v : Nat) : (wrg s p o v).cache = s.cache := rfl
@[simp] theorem wrg_decodes (p o v : Nat) : (wrg s p o v).decodes = s.decodes := rfl
@[simp] theorem wrg_mem (p o v : Nat) : (wrg s p o v).mem = s.mem := rfl
@[simp] theorem wrg_cwy (p o v : Nat) : (wrg s p o v).cwy = s.cwy := rfl
@[simp] theorem wrg_flt (p o v : Nat) : (wrg s p o v).flt = s.flt := rfl
@[simp] theorem wrg_stw (p o v : Nat) : (wrg s p o v).stw = s.stw := rfl
@[simp] theorem wrg_pwr (p o v : Nat) : (wrg s p o v).pwr = s.pwr := rfl
@[simp] theorem wrg_rng (p o v : Nat) : (wrg s p o v).rng = s.rng := rfl
@[simp] theorem wrg_itg (p o v : Nat) : (wrg s p o v).itg = s.itg := rfl
@[simp] theorem wrg_free (p o v : Nat) : (wrg s p o v).free = s.free := rfl
@[simp] theorem wrg_pending (p o v : Nat) : (wrg s p o v).pending = s.pending := rfl

@[simp] theorem bump_pins (p k n : Nat) : (bump s p k n).pins = s.pins := by unfold bump; split <;> rfl
@[simp] theorem bump_blk (p k n : Nat) : (bump s p k n).blk = s.blk := by unfold bump; split <;> rfl
@[simp] theorem bump_time (p k n : Nat) : (bump s p k n).time = s.time := by unfold bump; split <;> rfl
@[simp] theorem bump_pods (p k n : Nat) : (bump s p k n).pods = s.pods := by unfold bump; split <;> rfl
@[simp] theorem bump_marrow (p k n : Nat) : (bump s p k n).marrow = s.marrow := by unfold bump; split <;> rfl
@[simp] theorem bump_mps (p k n : Nat) : (bump s p k n).mps = s.mps := by unfold bump; split <;> rfl
@[simp] theorem bump_gates (p k n : Nat) : (bump s p k n).gates = s.gates := by unfold bump; split <;> rfl
@[simp] theorem bump_jobs (p k n : Nat) : (bump s p k n).jobs = s.jobs := by unfold bump; split <;> rfl
@[simp] theorem bump_entries (p k n : Nat) : (bump s p k n).entries = s.entries := by unfold bump; split <;> rfl
@[simp] theorem bump_ops (p k n : Nat) : (bump s p k n).ops = s.ops := by unfold bump; split <;> rfl
@[simp] theorem bump_nextOp (p k n : Nat) : (bump s p k n).nextOp = s.nextOp := by unfold bump; split <;> rfl
@[simp] theorem bump_sqs (p k n : Nat) : (bump s p k n).sqs = s.sqs := by unfold bump; split <;> rfl
@[simp] theorem bump_cqs (p k n : Nat) : (bump s p k n).cqs = s.cqs := by unfold bump; split <;> rfl
@[simp] theorem bump_arb (p k n : Nat) : (bump s p k n).arb = s.arb := by unfold bump; split <;> rfl
@[simp] theorem bump_streams (p k n : Nat) : (bump s p k n).streams = s.streams := by unfold bump; split <;> rfl
@[simp] theorem bump_cache (p k n : Nat) : (bump s p k n).cache = s.cache := by unfold bump; split <;> rfl
@[simp] theorem bump_decodes (p k n : Nat) : (bump s p k n).decodes = s.decodes := by unfold bump; split <;> rfl
@[simp] theorem bump_mem (p k n : Nat) : (bump s p k n).mem = s.mem := by unfold bump; split <;> rfl
@[simp] theorem bump_cwy (p k n : Nat) : (bump s p k n).cwy = s.cwy := by unfold bump; split <;> rfl
@[simp] theorem bump_flt (p k n : Nat) : (bump s p k n).flt = s.flt := by unfold bump; split <;> rfl
@[simp] theorem bump_stw (p k n : Nat) : (bump s p k n).stw = s.stw := by unfold bump; split <;> rfl
@[simp] theorem bump_pwr (p k n : Nat) : (bump s p k n).pwr = s.pwr := by unfold bump; split <;> rfl
@[simp] theorem bump_rng (p k n : Nat) : (bump s p k n).rng = s.rng := by unfold bump; split <;> rfl
@[simp] theorem bump_itg (p k n : Nat) : (bump s p k n).itg = s.itg := by unfold bump; split <;> rfl
@[simp] theorem bump_free (p k n : Nat) : (bump s p k n).free = s.free := by unfold bump; split <;> rfl
@[simp] theorem bump_pending (p k n : Nat) : (bump s p k n).pending = s.pending := by unfold bump; split <;> rfl

@[simp] theorem bump32_pins (p o n : Nat) : (bump32 s p o n).pins = s.pins := by unfold bump32; split <;> rfl
@[simp] theorem bump32_blk (p o n : Nat) : (bump32 s p o n).blk = s.blk := by unfold bump32; split <;> rfl
@[simp] theorem bump32_time (p o n : Nat) : (bump32 s p o n).time = s.time := by unfold bump32; split <;> rfl
@[simp] theorem bump32_pods (p o n : Nat) : (bump32 s p o n).pods = s.pods := by unfold bump32; split <;> rfl
@[simp] theorem bump32_marrow (p o n : Nat) : (bump32 s p o n).marrow = s.marrow := by unfold bump32; split <;> rfl
@[simp] theorem bump32_mps (p o n : Nat) : (bump32 s p o n).mps = s.mps := by unfold bump32; split <;> rfl
@[simp] theorem bump32_gates (p o n : Nat) : (bump32 s p o n).gates = s.gates := by unfold bump32; split <;> rfl
@[simp] theorem bump32_jobs (p o n : Nat) : (bump32 s p o n).jobs = s.jobs := by unfold bump32; split <;> rfl
@[simp] theorem bump32_entries (p o n : Nat) : (bump32 s p o n).entries = s.entries := by unfold bump32; split <;> rfl
@[simp] theorem bump32_ops (p o n : Nat) : (bump32 s p o n).ops = s.ops := by unfold bump32; split <;> rfl
@[simp] theorem bump32_nextOp (p o n : Nat) : (bump32 s p o n).nextOp = s.nextOp := by unfold bump32; split <;> rfl
@[simp] theorem bump32_sqs (p o n : Nat) : (bump32 s p o n).sqs = s.sqs := by unfold bump32; split <;> rfl
@[simp] theorem bump32_cqs (p o n : Nat) : (bump32 s p o n).cqs = s.cqs := by unfold bump32; split <;> rfl
@[simp] theorem bump32_arb (p o n : Nat) : (bump32 s p o n).arb = s.arb := by unfold bump32; split <;> rfl
@[simp] theorem bump32_streams (p o n : Nat) : (bump32 s p o n).streams = s.streams := by unfold bump32; split <;> rfl
@[simp] theorem bump32_cache (p o n : Nat) : (bump32 s p o n).cache = s.cache := by unfold bump32; split <;> rfl
@[simp] theorem bump32_decodes (p o n : Nat) : (bump32 s p o n).decodes = s.decodes := by unfold bump32; split <;> rfl
@[simp] theorem bump32_mem (p o n : Nat) : (bump32 s p o n).mem = s.mem := by unfold bump32; split <;> rfl
@[simp] theorem bump32_cwy (p o n : Nat) : (bump32 s p o n).cwy = s.cwy := by unfold bump32; split <;> rfl
@[simp] theorem bump32_flt (p o n : Nat) : (bump32 s p o n).flt = s.flt := by unfold bump32; split <;> rfl
@[simp] theorem bump32_stw (p o n : Nat) : (bump32 s p o n).stw = s.stw := by unfold bump32; split <;> rfl
@[simp] theorem bump32_pwr (p o n : Nat) : (bump32 s p o n).pwr = s.pwr := by unfold bump32; split <;> rfl
@[simp] theorem bump32_rng (p o n : Nat) : (bump32 s p o n).rng = s.rng := by unfold bump32; split <;> rfl
@[simp] theorem bump32_itg (p o n : Nat) : (bump32 s p o n).itg = s.itg := by unfold bump32; split <;> rfl
@[simp] theorem bump32_free (p o n : Nat) : (bump32 s p o n).free = s.free := by unfold bump32; split <;> rfl
@[simp] theorem bump32_pending (p o n : Nat) : (bump32 s p o n).pending = s.pending := by unfold bump32; split <;> rfl

@[simp] theorem answer_pins (d : Nat) (e : Bool) : (answer s d e).pins = { s.pins with ctlData := BitVec.ofNat 32 d, ctlErr := e } := rfl
@[simp] theorem answer_blk (d : Nat) (e : Bool) : (answer s d e).blk = s.blk := rfl
@[simp] theorem answer_time (d : Nat) (e : Bool) : (answer s d e).time = s.time := rfl
@[simp] theorem answer_regs (d : Nat) (e : Bool) : (answer s d e).regs = s.regs := rfl
@[simp] theorem answer_pods (d : Nat) (e : Bool) : (answer s d e).pods = s.pods := rfl
@[simp] theorem answer_marrow (d : Nat) (e : Bool) : (answer s d e).marrow = s.marrow := rfl
@[simp] theorem answer_mps (d : Nat) (e : Bool) : (answer s d e).mps = s.mps := rfl
@[simp] theorem answer_gates (d : Nat) (e : Bool) : (answer s d e).gates = s.gates := rfl
@[simp] theorem answer_jobs (d : Nat) (e : Bool) : (answer s d e).jobs = s.jobs := rfl
@[simp] theorem answer_entries (d : Nat) (e : Bool) : (answer s d e).entries = s.entries := rfl
@[simp] theorem answer_ops (d : Nat) (e : Bool) : (answer s d e).ops = s.ops := rfl
@[simp] theorem answer_nextOp (d : Nat) (e : Bool) : (answer s d e).nextOp = s.nextOp := rfl
@[simp] theorem answer_sqs (d : Nat) (e : Bool) : (answer s d e).sqs = s.sqs := rfl
@[simp] theorem answer_cqs (d : Nat) (e : Bool) : (answer s d e).cqs = s.cqs := rfl
@[simp] theorem answer_arb (d : Nat) (e : Bool) : (answer s d e).arb = s.arb := rfl
@[simp] theorem answer_streams (d : Nat) (e : Bool) : (answer s d e).streams = s.streams := rfl
@[simp] theorem answer_cache (d : Nat) (e : Bool) : (answer s d e).cache = s.cache := rfl
@[simp] theorem answer_decodes (d : Nat) (e : Bool) : (answer s d e).decodes = s.decodes := rfl
@[simp] theorem answer_mem (d : Nat) (e : Bool) : (answer s d e).mem = s.mem := rfl
@[simp] theorem answer_cwy (d : Nat) (e : Bool) : (answer s d e).cwy = s.cwy := rfl
@[simp] theorem answer_flt (d : Nat) (e : Bool) : (answer s d e).flt = s.flt := rfl
@[simp] theorem answer_stw (d : Nat) (e : Bool) : (answer s d e).stw = s.stw := rfl
@[simp] theorem answer_pwr (d : Nat) (e : Bool) : (answer s d e).pwr = s.pwr := rfl
@[simp] theorem answer_rng (d : Nat) (e : Bool) : (answer s d e).rng = s.rng := rfl
@[simp] theorem answer_itg (d : Nat) (e : Bool) : (answer s d e).itg = s.itg := rfl
@[simp] theorem answer_free (d : Nat) (e : Bool) : (answer s d e).free = s.free := rfl
@[simp] theorem answer_pending (d : Nat) (e : Bool) : (answer s d e).pending = s.pending := rfl

end Sys2Proof.Machine
end

