-- ==== Sys2Proof/Laws/Keep.lean ====
section
/-! SUPPORT. What every shared operation keeps: the invariant `Inv`, and the queue of waiting commands. `Ok q s` says
that `s` has both; the lemma of an operation is named after it. This file has the base operations. -/

namespace Sys2Proof.Machine

/-- The invariant holds, and the queue is `q`. -/
structure Ok (q : List Instr) (s : State) : Prop where
  inv : Inv s
  queue : s.pending = q

variable {q : List Instr} {s t : State}

/-- A state that differs from one with `Ok` only in other fields has it too. -/
theorem Ok.same (h : Ok q s) (h1 : t.pending = s.pending) (h2 : t.regs = s.regs) (h3 : t.marrow = s.marrow)
    (h4 : t.pwr = s.pwr) (h5 : t.pods = s.pods) : Ok q t :=
  ⟨⟨h2 ▸ h.inv.regs, h3 ▸ h.inv.marrow, h4 ▸ h.inv.pwr, h5 ▸ h.inv.pods⟩, h1 ▸ h.queue⟩

/-- A record update of other fields keeps it. -/
theorem Ok.upd (h : Ok q s) (pins blk time mps gates jobs entries ops nextOp sqs cqs arb streams cache decodes mem cwy flt
    stw rng itg free) : Ok q (State.mk pins blk time s.regs s.pods s.marrow mps gates jobs entries ops nextOp sqs cqs arb
      streams cache decodes mem cwy flt stw s.pwr rng itg free s.pending) :=
  h.same rfl rfl rfl rfl rfl

/-- An operation that may not happen keeps it where it does. -/
structure OkO (q : List Instr) (o : Option State) : Prop where
  all : ∀ t, o = some t → Ok q t

theorem OkO.none : OkO q Option.none := ⟨fun _ h => nomatch h⟩
theorem OkO.some (h : Ok q s) : OkO q (Option.some s) := ⟨fun _ e => Option.some.inj e ▸ h⟩
theorem OkO.out {o : Option State} (h : OkO q o) (e : o = Option.some t) : Ok q t := h.all t e

/-- A fold of operations that keep it keeps it. -/
theorem Ok.foldl {α : Type} {f : State → α → State} {l : List α} (hf : ∀ s a, Ok q s → Ok q (f s a)) (h : Ok q s) :
    Ok q (l.foldl f s) := by
  induction l generalizing s with
  | nil => exact h
  | cons a l ih => exact ih (hf s a h)

theorem RegFile.wf_iff (r : RegFile) : r.wf = true ↔
    rising r.words = true ∧ nrising r.rsv = true ∧ canon r.live 0 = true ∧ rising r.latched = true ∧
      rising r.hi = true := by
  simp [RegFile.wf, and_assoc]

theorem Marrow.wf_iff (m : Marrow) : m.wf = true ↔
    canon m.bytes 0 = true ∧ nrising m.poison = true ∧ nrising m.prov = true ∧ canon m.ecc 0 = true ∧
      canon m.acc 0 = true ∧ nrising m.accPoison = true := by
  simp [Marrow.wf, and_assoc]

theorem Power.wf_iff (p : Power) : p.wf = true ↔
    24 ≤ p.rootN ∧ p.rootN ≤ 48 ∧ 24 ≤ p.targetN ∧ p.targetN ≤ 48 := by
  simp [Power.wf]

theorem Ok.regs (h : Ok q s) (r : RegFile) (hr : s.regs.wf = true → r.wf = true) : Ok q { s with regs := r } :=
  ⟨⟨hr h.inv.regs, h.inv.marrow, h.inv.pwr, h.inv.pods⟩, h.queue⟩

theorem Ok.marrow (h : Ok q s) (m : Marrow) (hm : s.marrow.wf = true → m.wf = true) : Ok q { s with marrow := m } :=
  ⟨⟨h.inv.regs, hm h.inv.marrow, h.inv.pwr, h.inv.pods⟩, h.queue⟩

theorem Ok.pods (h : Ok q s) (l : List Pod) (hl : l.length = s.pods.length) : Ok q { s with pods := l } :=
  ⟨⟨h.inv.regs, h.inv.marrow, h.inv.pwr, hl ▸ h.inv.pods⟩, h.queue⟩

theorem Ok.pwr (h : Ok q s) (p : Power) (hp : s.pwr.wf = true → p.wf = true) : Ok q { s with pwr := p } :=
  ⟨⟨h.inv.regs, h.inv.marrow, hp h.inv.pwr, h.inv.pods⟩, h.queue⟩

theorem modPod_ok (h : Ok q s) (p : Nat) (f : Pod → Pod) : Ok q (modPod s p f) := h.pods _ (by simp)

theorem setPodSt_ok (h : Ok q s) (p : Nat) (x : PodState) : Ok q (setPodSt s p x) := modPod_ok h _ _

theorem modMarrow_ok (h : Ok q s) (f : Marrow → Marrow) (hf : s.marrow.wf = true → (f s.marrow).wf = true) :
    Ok q (modMarrow s f) := h.marrow _ hf

theorem modPwr_ok (h : Ok q s) (f : Power → Power) (hf : s.pwr.wf = true → (f s.pwr).wf = true) : Ok q (modPwr s f) :=
  ⟨⟨h.inv.regs, h.inv.marrow, hf h.inv.pwr, h.inv.pods⟩, h.queue⟩

/-! ## Registers -/

theorem wrg_ok (h : Ok q s) (p o v : Nat) : Ok q (wrg s p o v) := by
  refine h.regs _ fun hr => ?_
  rw [RegFile.wf_iff] at hr ⊢
  refine ⟨?_, hr.2⟩
  simp only [sset]
  split
  · exact rising_sdel _ _ hr.1
  · exact rising_sput _ _ _ hr.1

theorem bump_ok (h : Ok q s) (p k n : Nat) : Ok q (bump s p k n) := by
  unfold bump
  split
  · exact h
  · refine h.regs _ fun hr => ?_
    rw [RegFile.wf_iff] at hr ⊢
    exact ⟨hr.1, hr.2.1, canon_sset _ _ _ _ hr.2.2.1, hr.2.2.2⟩

theorem bump32_ok (h : Ok q s) (p o n : Nat) : Ok q (bump32 s p o n) := by
  unfold bump32
  split
  · exact h
  · refine h.regs _ fun hr => ?_
    rw [RegFile.wf_iff] at hr ⊢
    exact ⟨hr.1, hr.2.1, canon_sset _ _ _ _ hr.2.2.1, hr.2.2.2⟩

theorem rising_foldl_sput {α β : Type} (l : List β) (f : β → Nat) (g : β → α) (m : List (Nat × α))
    (h : rising m = true) : rising (l.foldl (fun m e => sput m (f e) (g e)) m) = true := by
  induction l generalizing m with
  | nil => exact h
  | cons e l ih => exact ih _ (rising_sput _ _ _ h)

theorem latchRange_ok (h : Ok q s) (p lo hi : Nat) : Ok q (latchRange s p lo hi) := by
  unfold latchRange
  refine wrg_ok (h.regs _ fun hr => ?_) _ _ _
  rw [RegFile.wf_iff] at hr ⊢
  exact ⟨hr.1, hr.2.1, canon_filter _ _ _ hr.2.2.1,
    rising_foldl_sput _ (fun e : Nat × Nat => e.1 - 64) (fun e => e.2) _ (rising_filter _ _ hr.2.2.2.1), hr.2.2.2.2⟩

theorem noteRsv_ok (h : Ok q s) (p o w : Nat) : Ok q (noteRsv s p o w) := by
  unfold noteRsv
  split
  · exact h
  · refine h.regs _ fun hr => ?_
    rw [RegFile.wf_iff] at hr ⊢
    exact ⟨hr.1, nrising_nset _ _ _ hr.2.1, hr.2.2⟩

theorem storeReg_ok (h : Ok q s) (p o w : Nat) : Ok q (storeReg s p o w) := by
  unfold storeReg
  split
  · exact h
  · exact noteRsv_ok (wrg_ok h _ _ _) _ _ _

/-! ## Marrow -/

theorem nrising_foldl_nins (l m : List Nat) (h : nrising m = true) : nrising (l.foldl nins m) = true := by
  induction l generalizing m with
  | nil => exact h
  | cons e l ih => exact ih _ (nrising_nins _ _ h)

theorem nrising_foldl_nset (l m : List Nat) (b : Bool) (h : nrising m = true) :
    nrising (l.foldl (fun a l => nset a l b) m) = true := by
  induction l generalizing m with
  | nil => exact h
  | cons e l ih => exact ih _ (nrising_nset _ _ _ h)

theorem Marrow.setByte_wf (m : Marrow) (k : Nat) (b : Byte) (h : m.wf = true) : (m.setByte k b).wf = true := by
  rw [Marrow.wf_iff] at h ⊢
  exact ⟨canon_sset _ _ _ _ h.1, h.2⟩

theorem Marrow.setBytes_wf {α : Type} (l : List α) (k : α → Nat) (b : α → Byte) (m : Marrow) (h : m.wf = true) :
    (l.foldl (fun m i => m.setByte (k i) (b i)) m).wf = true := by
  induction l generalizing m with
  | nil => exact h
  | cons e l ih => exact ih _ (Marrow.setByte_wf _ _ _ h)

theorem zeroiseMarrow_wf (m : Marrow) (p : Nat) (h : m.wf = true) : (zeroiseMarrow m p).wf = true := by
  rw [Marrow.wf_iff] at h ⊢
  exact ⟨canon_filter _ _ _ h.1, nrising_filter _ _ h.2.1, nrising_filter _ _ h.2.2.1, canon_filter _ _ _ h.2.2.2.1,
    canon_filter _ _ _ h.2.2.2.2.1, nrising_filter _ _ h.2.2.2.2.2⟩

theorem setProv_ok (h : Ok q s) (ls : List Nat) (b : Bool) : Ok q (setProv s ls b) := by
  refine modMarrow_ok h _ fun hm => ?_
  rw [Marrow.wf_iff] at hm ⊢
  exact ⟨hm.1, hm.2.1, nrising_foldl_nset _ _ _ hm.2.2.1, hm.2.2.2⟩

theorem poisonLines_ok (h : Ok q s) (ls : List Nat) : Ok q (poisonLines s ls) := by
  refine modMarrow_ok h _ fun hm => ?_
  rw [Marrow.wf_iff] at hm ⊢
  exact ⟨hm.1, nrising_foldl_nins _ _ hm.2.1, hm.2.2⟩

theorem setAcc_ok (h : Ok q s) (p t i : Nat) (w : Word) : Ok q (setAcc s p t i w) := by
  refine modMarrow_ok h _ fun hm => ?_
  rw [Marrow.wf_iff] at hm ⊢
  exact ⟨hm.1, hm.2.1, hm.2.2.1, hm.2.2.2.1, canon_sset _ _ _ _ hm.2.2.2.2.1, hm.2.2.2.2.2⟩

theorem setAccPois_ok (h : Ok q s) (p t : Nat) (b : Bool) : Ok q (setAccPois s p t b) := by
  refine modMarrow_ok h _ fun hm => ?_
  rw [Marrow.wf_iff] at hm ⊢
  exact ⟨hm.1, hm.2.1, hm.2.2.1, hm.2.2.2.1, hm.2.2.2.2.1, nrising_nset _ _ _ hm.2.2.2.2.2⟩

theorem clearAcc_ok (h : Ok q s) (p t : Nat) : Ok q (clearAcc s p t) := by
  refine modMarrow_ok (setAccPois_ok h _ _ _) _ fun hm => ?_
  rw [Marrow.wf_iff] at hm ⊢
  exact ⟨hm.1, hm.2.1, hm.2.2.1, hm.2.2.2.1, canon_filter _ _ _ hm.2.2.2.2.1, hm.2.2.2.2.2⟩

end Sys2Proof.Machine
end

