-- ==== Sys2Proof/Laws/KeepRegs.lean ====
section
/-! SUPPORT. The operations of Machine/Regs.lean keep the invariant and the queue. -/

namespace Sys2Proof.Machine

variable {q : List Instr} {s t : State} {r : Rd}

theorem latchPage_ok (h : Ok q s) (p : ℕ) : Ok q (latchPage s p) := by
  unfold latchPage
  repeat' first
    | with_reducible assumption
    | intro _
    | with_reducible apply latchRange_ok

theorem pageErr_ok (h : Ok q s) (p : ℕ) (i : ℕ) : Ok q (pageErr s p i) := by
  unfold pageErr
  repeat' first
    | with_reducible assumption
    | intro _
    | with_reducible apply wrg_ok

theorem refuse_ok (h : Ok q s) (p : ℕ) (code : ℕ) (o : ℕ) : Ok q (refuse s p code o) := by
  unfold refuse
  repeat' first
    | with_reducible assumption
    | intro _
    | (extract_lets +onlyGivenNames x; subst x)
    | with_reducible apply wrg_ok

theorem setEnable_ok (h : Ok q s) (p : ℕ) (b : Bool) : Ok q (setEnable s p b) := by
  unfold setEnable
  repeat' first
    | with_reducible assumption
    | intro _
    | with_reducible apply wrg_ok

end Sys2Proof.Machine
end

