-- ==== Sys2Proof/Laws/KeepOps.lean ====
section
/-! SUPPORT. The operations of Machine/Ops.lean keep the invariant and the queue. -/

namespace Sys2Proof.Machine

variable {q : List Instr} {s t : State} {r : Rd}

theorem modCq_ok (h : Ok q s) (c : ℕ) (f : Cq → Cq) : Ok q (modCq s c f) := by
  unfold modCq
  repeat' first
    | with_reducible assumption
    | intro _
    | (with_reducible apply Ok.upd; with_reducible assumption)

theorem restRound_ok (h : Ok q s) : Ok q (restRound s) := by
  unfold restRound
  repeat' first
    | with_reducible assumption
    | intro _
    | (extract_lets +onlyGivenNames x; subst x)
    | (with_reducible apply Ok.upd; with_reducible assumption)
    | split

theorem arbSettle_ok (h : Ok q s) : Ok q (arbSettle s) := by
  unfold arbSettle
  repeat' first
    | with_reducible assumption
    | intro _
    | (extract_lets +onlyGivenNames x; subst x)
    | with_reducible apply restRound_ok
    | (with_reducible apply Ok.upd; with_reducible assumption)
    | split

theorem addDue_ok (h : Ok q s) (d : Due) : Ok q (addDue s d) := by
  unfold addDue
  repeat' first
    | with_reducible assumption
    | intro _
    | (extract_lets +onlyGivenNames x; refine (fun (hx : Ok q x) => ?_) ?_; rotate_left; subst x; rotate_right; clear_value x)
    | with_reducible apply modCq_ok
    | with_reducible apply arbSettle_ok
    | split

theorem countLines_ok (h : Ok q s) (r : MemReq) : Ok q (countLines s r) := by
  unfold countLines
  repeat' first
    | with_reducible assumption
    | intro _
    | with_reducible apply bump_ok

theorem modMem_ok (h : Ok q s) (f : Mem → Mem) : Ok q (modMem s f) := by
  unfold modMem
  repeat' first
    | with_reducible assumption
    | intro _
    | (with_reducible apply Ok.upd; with_reducible assumption)

theorem sendReq_ok (h : Ok q s) (r : MemReq) : Ok q (sendReq s r) := by
  unfold sendReq
  repeat' first
    | with_reducible assumption
    | intro _
    | (extract_lets +onlyGivenNames x; subst x)
    | with_reducible apply modMem_ok
    | with_reducible apply countLines_ok
    | split

theorem sendWrite_ok (h : Ok q s) (r : MemReq) : Ok q (sendWrite s r) := by
  unfold sendWrite
  repeat' first
    | with_reducible assumption
    | intro _
    | with_reducible apply modMem_ok
    | with_reducible apply sendReq_ok
    | split

theorem cqMessage_ok (h : Ok q s) (c : ℕ) : Ok q (cqMessage s c) := by
  unfold cqMessage
  repeat' first
    | with_reducible assumption
    | intro _
    | (extract_lets +onlyGivenNames x; subst x)
    | with_reducible apply sendWrite_ok
    | with_reducible apply modMem_ok
    | with_reducible apply sendReq_ok
    | split

theorem cqInterrupt_ok (h : Ok q s) (c : ℕ) : Ok q (cqInterrupt s c) := by
  unfold cqInterrupt
  repeat' first
    | with_reducible assumption
    | intro _
    | with_reducible apply cqMessage_ok
    | split

theorem cqSignal_ok (h : Ok q s) (c : ℕ) : Ok q (cqSignal s c) := by
  unfold cqSignal
  repeat' first
    | with_reducible assumption
    | intro _
    | (extract_lets +onlyGivenNames x; refine (fun (hx : Ok q x) => ?_) ?_; rotate_left; subst x; rotate_right; clear_value x)
    | with_reducible apply modCq_ok
    | with_reducible apply cqInterrupt_ok
    | split

theorem draw_ok (h : Ok q s) : Ok q (draw s) := by
  unfold draw
  repeat' first
    | with_reducible assumption
    | intro _
    | (with_reducible apply Ok.upd; with_reducible assumption)

theorem modEntry_ok (h : Ok q s) (sq : ℕ) (slot : ℕ) (f : Entry → Entry) : Ok q (modEntry s sq slot f) := by
  unfold modEntry
  repeat' first
    | with_reducible assumption
    | intro _
    | (with_reducible apply Ok.upd; with_reducible assumption)

theorem finish_ok (h : Ok q s) (e : Entry) (status : ℕ) (detail : ℕ) (count : ℕ) (info : optParam ℕ (plainInfo status)) : Ok q (finish s e status detail count info) := by
  unfold finish
  repeat' first
    | with_reducible assumption
    | intro _
    | with_reducible apply addDue_ok
    | with_reducible apply modEntry_ok
    | split

theorem modStw_ok (h : Ok q s) (f : Steward → Steward) : Ok q (modStw s f) := by
  unfold modStw
  repeat' first
    | with_reducible assumption
    | intro _
    | (with_reducible apply Ok.upd; with_reducible assumption)

theorem memWrite_ok (h : Ok q s) (a : ℕ) (data : List Byte) (xlat : ℕ) (cls : ℕ) (pod : ℕ) (pu : Purpose) : Ok q (memWrite s a data xlat cls pod pu) := by
  unfold memWrite
  repeat' first
    | with_reducible assumption
    | intro _
    | with_reducible apply sendWrite_ok

theorem logWrite_ok (h : Ok q s) (r : LogRec) : Ok q (logWrite s r) := by
  unfold logWrite
  repeat' first
    | with_reducible assumption
    | intro _
    | (extract_lets +onlyGivenNames x; refine (fun (hx : Ok q x) => ?_) ?_; rotate_left; subst x; rotate_right; clear_value x)
    | (extract_lets +onlyGivenNames x; subst x)
    | with_reducible apply modStw_ok
    | with_reducible apply memWrite_ok

theorem logFlush_ok (h : Ok q s) : Ok q (logFlush s) := by
  unfold logFlush
  repeat' first
    | with_reducible assumption
    | intro _
    | (extract_lets +onlyGivenNames x; refine (fun (hx : Ok q x) => ?_) ?_; rotate_left; subst x; rotate_right; clear_value x)
    | (extract_lets +onlyGivenNames x; subst x)
    | with_reducible apply latchPage_ok
    | with_reducible apply sendReq_ok
    | with_reducible apply modMem_ok
    | with_reducible apply logWrite_ok
    | with_reducible apply modStw_ok
    | with_reducible apply Ok.foldl

theorem logLater_ok (h : Ok q s) (r : LogRec) : Ok q (logLater s r) := by
  unfold logLater
  repeat' first
    | with_reducible assumption
    | intro _
    | with_reducible apply modStw_ok

theorem sendMsg_ok (h : Ok q s) (who : ℕ) (addr : ℕ) (data : ℕ) (xlat : ℕ) : Ok q (sendMsg s who addr data xlat) := by
  unfold sendMsg
  repeat' first
    | with_reducible assumption
    | intro _
    | with_reducible apply memWrite_ok

theorem stwInterrupt_ok (h : Ok q s) : Ok q (stwInterrupt s) := by
  unfold stwInterrupt
  repeat' first
    | with_reducible assumption
    | intro _
    | with_reducible apply sendMsg_ok
    | split

theorem mbxPush_ok (h : Ok q s) (m : List Word) : Ok q (mbxPush s m) := by
  unfold mbxPush
  repeat' first
    | with_reducible assumption
    | intro _
    | (extract_lets +onlyGivenNames x; refine (fun (hx : Ok q x) => ?_) ?_; rotate_left; subst x; rotate_right; clear_value x)
    | (extract_lets +onlyGivenNames x; subst x)
    | with_reducible apply modStw_ok
    | with_reducible apply stwInterrupt_ok
    | split

theorem mbxNotice_ok (h : Ok q s) (mkind : ℕ) (words : List Word) : Ok q (mbxNotice s mkind words) := by
  unfold mbxNotice
  repeat' first
    | with_reducible assumption
    | intro _
    | (extract_lets +onlyGivenNames x; subst x)
    | with_reducible apply modStw_ok
    | with_reducible apply mbxPush_ok
    | split

theorem mbxReply_ok (h : Ok q s) (opcode : ℕ) (status : ℕ) (tag : ℕ) (results : List ℕ) : Ok q (mbxReply s opcode status tag results) := by
  unfold mbxReply
  repeat' first
    | with_reducible assumption
    | intro _
    | (extract_lets +onlyGivenNames x; subst x)
    | with_reducible apply modStw_ok
    | with_reducible apply mbxPush_ok
    | split

theorem modBlk_ok (h : Ok q s) (f : Block → Block) : Ok q (modBlk s f) := by
  unfold modBlk
  repeat' first
    | with_reducible assumption
    | intro _
    | (with_reducible apply Ok.upd; with_reducible assumption)

theorem modJob_ok (h : Ok q s) (j : ℕ) (f : Job → Job) : Ok q (modJob s j f) := by
  unfold modJob
  repeat' first
    | with_reducible assumption
    | intro _
    | (with_reducible apply Ok.upd; with_reducible assumption)

theorem modSq_ok (h : Ok q s) (n : ℕ) (f : Sq → Sq) : Ok q (modSq s n f) := by
  unfold modSq
  repeat' first
    | with_reducible assumption
    | intro _
    | (with_reducible apply Ok.upd; with_reducible assumption)

theorem pumpFence_ok (h : Ok q s) : Ok q (pumpFence s) := by
  unfold pumpFence
  repeat' first
    | with_reducible assumption
    | intro _
    | (extract_lets +onlyGivenNames x; subst x)
    | with_reducible apply sendReq_ok
    | with_reducible apply modMem_ok
    | with_reducible apply Ok.foldl

theorem pumpTags_ok (h : Ok q s) : Ok q (pumpTags s) := by
  unfold pumpTags
  repeat' first
    | with_reducible assumption
    | intro _
    | (extract_lets +onlyGivenNames x; subst x)
    | with_reducible apply sendReq_ok
    | with_reducible apply modMem_ok
    | with_reducible apply Ok.foldl

theorem resend_ok (h : Ok q s) (r : MemReq) : Ok q (resend s r) := by
  unfold resend
  repeat' first
    | with_reducible assumption
    | intro _
    | with_reducible apply sendReq_ok
    | with_reducible apply modMem_ok

theorem syncBlock_ok (h : Ok q s) : Ok q (syncBlock s) := by
  unfold syncBlock
  repeat' first
    | with_reducible assumption
    | intro _
    | with_reducible apply modBlk_ok
    | split

theorem setJobSt_ok (h : Ok q s) (j : ℕ) (x : JobState) : Ok q (setJobSt s j x) := by
  unfold setJobSt
  repeat' first
    | with_reducible assumption
    | intro _
    | with_reducible apply arbSettle_ok
    | with_reducible apply syncBlock_ok
    | with_reducible apply modJob_ok

end Sys2Proof.Machine
end

