-- ==== Sys2Proof/Laws/KeepJobOps.lean ====
section
/-! SUPPORT. The operations of Machine/JobOps.lean keep the invariant and the queue. -/

namespace Sys2Proof.Machine

variable {q : List Instr} {s t : State} {r : Rd}

theorem clearMps_ok (h : Ok q s) (l : ℕ) : Ok q (clearMps s l) := by
  unfold clearMps
  repeat' first
    | with_reducible assumption
    | intro _
    | (extract_lets +onlyGivenNames x; subst x)
    | (with_reducible apply Ok.upd; with_reducible assumption)

theorem zeroise_ok (h : Ok q s) (p : Nat) : Ok q (zeroise s p) := by
  have h1 := h.marrow (zeroiseMarrow s.marrow p) (zeroiseMarrow_wf _ p)
  unfold zeroise
  simp only
  split
  · exact clearMps_ok h1 _
  · exact h1

theorem abandonSwap_ok (h : Ok q s) : Ok q (abandonSwap s) := by
  unfold abandonSwap
  repeat' first
    | with_reducible assumption
    | intro _
    | (extract_lets +onlyGivenNames x; refine (fun (hx : Ok q x) => ?_) ?_; rotate_left; subst x; rotate_right; clear_value x)
    | (extract_lets +onlyGivenNames x; subst x)
    | with_reducible apply zeroise_ok
    | (with_reducible apply Ok.upd; with_reducible assumption)
    | split

theorem modPort_ok (h : Ok q s) (k : ℕ) (f : CPort → CPort) : Ok q (modPort s k f) := by
  unfold modPort
  repeat' first
    | with_reducible assumption
    | intro _
    | (with_reducible apply Ok.upd; with_reducible assumption)

theorem modHalf_ok (h : Ok q s) (k : ℕ) (xh : ℕ) (f : Half → Half) : Ok q (modHalf s k xh f) := by
  unfold modHalf
  repeat' first
    | with_reducible assumption
    | intro _
    | with_reducible apply modPort_ok

theorem sendFlit_ok (h : Ok q s) (k : ℕ) (f : Flit) : Ok q (sendFlit s k f) := by
  unfold sendFlit
  repeat' first
    | with_reducible assumption
    | intro _
    | (extract_lets +onlyGivenNames x; refine (fun (hx : Ok q x) => ?_) ?_; rotate_left; subst x; rotate_right; clear_value x)
    | (extract_lets +onlyGivenNames x; subst x)
    | with_reducible apply bump_ok
    | with_reducible apply modPort_ok

theorem abortHalves_ok (h : Ok q s) (j : ℕ) : Ok q (abortHalves s j) := by
  unfold abortHalves
  repeat' first
    | with_reducible assumption
    | intro _
    | (extract_lets +onlyGivenNames x; refine (fun (hx : Ok q x) => ?_) ?_; rotate_left; subst x; rotate_right; clear_value x)
    | (extract_lets +onlyGivenNames x; subst x)
    | with_reducible apply modHalf_ok
    | with_reducible apply sendFlit_ok
    | (with_reducible apply Ok.upd; with_reducible assumption)
    | with_reducible apply Ok.foldl
    | split

theorem clearForReset_ok (h : Ok q s) (warm : Bool) : Ok q (clearForReset s warm) := by
  have hr := (RegFile.wf_iff _).1 h.inv.regs
  have h1 : Ok q (clearForReset s false) :=
    ⟨⟨(RegFile.wf_iff _).2 ⟨rising_filter _ _ hr.1, nrising_filter _ _ hr.2.1, canon_filter _ _ _ hr.2.2.1,
      rising_filter _ _ hr.2.2.2.1, rising_filter _ _ hr.2.2.2.2⟩, rfl, h.inv.pwr, by
        simpa [clearForReset] using h.inv.pods⟩, h.queue⟩
  cases warm
  · exact h1
  · exact h1.same rfl rfl rfl rfl rfl

theorem freePoolOf_ok (h : Ok q s) (cls : ℕ) (addr : ℕ) : Ok q (freePoolOf s cls addr) := by
  unfold freePoolOf
  repeat' first
    | with_reducible assumption
    | intro _
    | with_reducible apply modMem_ok

theorem forgetAsks_ok (h : Ok q s) (c : ℕ) (f : PoolUser → Bool) : Ok q (forgetAsks s c f) := by
  unfold forgetAsks
  repeat' first
    | with_reducible assumption
    | intro _
    | (extract_lets +onlyGivenNames x; refine (fun (hx : Ok q x) => ?_) ?_; rotate_left; subst x; rotate_right; clear_value x)
    | (extract_lets +onlyGivenNames x; subst x)
    | with_reducible apply freePoolOf_ok
    | with_reducible apply modMem_ok
    | with_reducible apply Ok.foldl

theorem writeStream_ok (h : Ok q s) (k : ℕ) (xt : Stream) (r : optParam ℕ (2 ^ 65)) : Ok q (writeStream s k xt r) := by
  unfold writeStream
  repeat' first
    | with_reducible assumption
    | intro _
    | (extract_lets +onlyGivenNames x; subst x)
    | with_reducible apply memWrite_ok
    | split

theorem closeSome_ok (h : Ok q s) (f : ℕ × Stream → Bool) (cs : ℕ) : Ok q (closeSome s f cs) := by
  unfold closeSome
  repeat' first
    | with_reducible assumption
    | intro _
    | (extract_lets +onlyGivenNames x; refine (fun (hx : Ok q x) => ?_) ?_; rotate_left; subst x; rotate_right; clear_value x)
    | (extract_lets +onlyGivenNames x; subst x)
    | with_reducible apply freePoolOf_ok
    | with_reducible apply forgetAsks_ok
    | with_reducible apply writeStream_ok
    | (with_reducible apply Ok.upd; with_reducible assumption)
    | with_reducible apply Ok.foldl
    | split

theorem closeStreams_ok (h : Ok q s) (j : ℕ) : Ok q (closeStreams s j) := by
  unfold closeStreams
  repeat' first
    | with_reducible assumption
    | intro _
    | (extract_lets +onlyGivenNames x; refine (fun (hx : Ok q x) => ?_) ?_; rotate_left; subst x; rotate_right; clear_value x)
    | with_reducible apply closeSome_ok
    | (with_reducible apply Ok.upd; with_reducible assumption)

theorem modGroup_ok (h : Ok q s) (g : ℕ) (f : Group → Group) : Ok q (modGroup s g f) := by
  unfold modGroup
  repeat' first
    | with_reducible assumption
    | intro _
    | (extract_lets +onlyGivenNames x; subst x)
    | (with_reducible apply Ok.upd; with_reducible assumption)

theorem endCopy_ok (h : Ok q s) (j : ℕ) : Ok q (endCopy s j) := by
  unfold endCopy
  repeat' first
    | with_reducible assumption
    | intro _
    | with_reducible apply abandonSwap_ok
    | split

theorem dropBatches_ok (h : Ok q s) (n : ℕ) : Ok q (dropBatches s n) := by
  unfold dropBatches
  repeat' first
    | with_reducible assumption
    | intro _
    | (extract_lets +onlyGivenNames x; refine (fun (hx : Ok q x) => ?_) ?_; rotate_left; subst x; rotate_right; clear_value x)
    | (extract_lets +onlyGivenNames x; subst x)
    | with_reducible apply freePoolOf_ok
    | with_reducible apply modMem_ok
    | with_reducible apply forgetAsks_ok
    | with_reducible apply modSq_ok
    | with_reducible apply Ok.foldl
    | split

theorem endXfers_ok (h : Ok q s) (j : ℕ) (r : ℕ) : Ok q (endXfers s j r) := by
  unfold endXfers
  repeat' first
    | with_reducible assumption
    | intro _
    | with_reducible apply modMem_ok

theorem endRingEntries_ok (h : Ok q s) (n : ℕ) (status : ℕ) (cause : List ℕ) : Ok q (endRingEntries s n status cause) := by
  unfold endRingEntries
  repeat' first
    | with_reducible assumption
    | intro _
    | with_reducible apply endXfers_ok
    | with_reducible apply finish_ok
    | with_reducible apply Ok.foldl

theorem drainRing_ok (h : Ok q s) (n : ℕ) (status : ℕ) (cause : (List ℕ)) : Ok q (drainRing s n status cause) := by
  unfold drainRing
  repeat' first
    | with_reducible assumption
    | intro _
    | (extract_lets +onlyGivenNames x; refine (fun (hx : Ok q x) => ?_) ?_; rotate_left; subst x; rotate_right; clear_value x)
    | (extract_lets +onlyGivenNames x; subst x)
    | with_reducible apply modSq_ok
    | with_reducible apply arbSettle_ok
    | with_reducible apply closeSome_ok
    | with_reducible apply dropBatches_ok
    | with_reducible apply endRingEntries_ok
    | (with_reducible apply Ok.upd; with_reducible assumption)
    | split

theorem drainJobRings_ok (h : Ok q s) (j : ℕ) (status : ℕ) (cause : (List ℕ)) : Ok q (drainJobRings s j status cause) := by
  unfold drainJobRings
  repeat' first
    | with_reducible assumption
    | intro _
    | with_reducible apply drainRing_ok
    | with_reducible apply Ok.foldl

theorem freeGates_ok (h : Ok q s) (j : ℕ) : Ok q (freeGates s j) := by
  unfold freeGates
  repeat' first
    | with_reducible assumption
    | intro _
    | (extract_lets +onlyGivenNames x; subst x)
    | (with_reducible apply Ok.upd; with_reducible assumption)

theorem leaveGroups_ok (h : Ok q s) (j : ℕ) : Ok q (leaveGroups s j) := by
  unfold leaveGroups
  repeat' first
    | with_reducible assumption
    | intro _
    | (extract_lets +onlyGivenNames x; subst x)
    | (with_reducible apply Ok.upd; with_reducible assumption)

theorem powerDown_ok (h : Ok q s) (p : ℕ) : Ok q (powerDown s p) := by
  unfold powerDown
  repeat' first
    | with_reducible assumption
    | intro _
    | with_reducible apply modPod_ok

theorem toIdle_ok (h : Ok q s) (p : ℕ) : Ok q (toIdle s p) := by
  unfold toIdle
  repeat' first
    | with_reducible assumption
    | intro _
    | (extract_lets +onlyGivenNames x; refine (fun (hx : Ok q x) => ?_) ?_; rotate_left; subst x; rotate_right; clear_value x)
    | with_reducible apply setPodSt_ok
    | with_reducible apply powerDown_ok
    | split

theorem releasePod_ok (h : Ok q s) (p : ℕ) : Ok q (releasePod s p) := by
  unfold releasePod
  repeat' first
    | with_reducible assumption
    | intro _
    | (extract_lets +onlyGivenNames x; refine (fun (hx : Ok q x) => ?_) ?_; rotate_left; subst x; rotate_right; clear_value x)
    | with_reducible apply zeroise_ok
    | with_reducible apply modPod_ok
    | with_reducible apply toIdle_ok
    | split

theorem endPod_ok (h : Ok q s) (p : ℕ) : Ok q (endPod s p) := by
  unfold endPod
  repeat' first
    | with_reducible assumption
    | intro _
    | with_reducible apply setPodSt_ok
    | with_reducible apply releasePod_ok
    | split

theorem endWork_ok (h : Ok q s) (j : ℕ) (status : ℕ) (cause : (List ℕ)) : Ok q (endWork s j status cause) := by
  unfold endWork
  repeat' first
    | with_reducible assumption
    | intro _
    | (extract_lets +onlyGivenNames x; refine (fun (hx : Ok q x) => ?_) ?_; rotate_left; subst x; rotate_right; clear_value x)
    | with_reducible apply endCopy_ok
    | with_reducible apply drainJobRings_ok
    | with_reducible apply abortHalves_ok
    | with_reducible apply freeGates_ok
    | with_reducible apply closeStreams_ok
    | with_reducible apply leaveGroups_ok
    | with_reducible apply modMem_ok
    | with_reducible apply modJob_ok
    | with_reducible apply endPod_ok
    | (with_reducible apply Ok.upd; with_reducible assumption)
    | with_reducible apply Ok.foldl

theorem failOne_ok (h : Ok q s) (j : ℕ) (reason : ℕ) (status : ℕ) (cause : (List ℕ)) : Ok q (failOne s j reason status cause) := by
  unfold failOne
  repeat' first
    | with_reducible assumption
    | intro _
    | (extract_lets +onlyGivenNames x; refine (fun (hx : Ok q x) => ?_) ?_; rotate_left; subst x; rotate_right; clear_value x)
    | (extract_lets +onlyGivenNames x; subst x)
    | with_reducible apply endWork_ok
    | with_reducible apply setJobSt_ok
    | with_reducible apply modJob_ok
    | split

theorem splitPoison_ok (h : Ok q s) (j g : Nat) : Ok q (splitPoison s j g) := by
  refine h.marrow _ fun hm => ?_
  rw [Marrow.wf_iff] at hm ⊢
  exact ⟨hm.1, nrising_foldl_nins _ _ hm.2.1, hm.2.2⟩

theorem compareGroup_ok (h : Ok q s) (g : ℕ) : Ok q (compareGroup s g) := by
  unfold compareGroup
  repeat' first
    | with_reducible assumption
    | intro _
    | (extract_lets +onlyGivenNames x; refine (fun (hx : Ok q x) => ?_) ?_; rotate_left; subst x; rotate_right; clear_value x)
    | (extract_lets +onlyGivenNames x; subst x)
    | with_reducible apply modGroup_ok
    | with_reducible apply failOne_ok
    | with_reducible apply splitPoison_ok
    | with_reducible apply Ok.foldl

theorem settle_ok (h : Ok q s) (n : Nat) : Ok q (settle n s) := by
  induction n generalizing s with
  | zero => exact h
  | succ n ih =>
    unfold settle
    split
    · exact ih (compareGroup_ok h _)
    · exact h

theorem settleGroups_ok (h : Ok q s) : Ok q (settleGroups s) := settle_ok h _

theorem failJob_ok (h : Ok q s) (j : ℕ) (reason : ℕ) (status : ℕ) (cause : (List ℕ)) : Ok q (failJob s j reason status cause) := by
  unfold failJob
  repeat' first
    | with_reducible assumption
    | intro _
    | with_reducible apply settleGroups_ok
    | with_reducible apply failOne_ok

theorem markSuspect_ok (h : Ok q s) (p : ℕ) (cause : ℕ) : Ok q (markSuspect s p cause) := by
  unfold markSuspect
  repeat' first
    | with_reducible assumption
    | intro _
    | (extract_lets +onlyGivenNames x; refine (fun (hx : Ok q x) => ?_) ?_; rotate_left; subst x; rotate_right; clear_value x)
    | (extract_lets +onlyGivenNames x; subst x)
    | with_reducible apply modPod_ok
    | with_reducible apply abandonSwap_ok
    | with_reducible apply failJob_ok
    | with_reducible apply arbSettle_ok
    | with_reducible apply modBlk_ok
    | split

theorem modGate_ok (h : Ok q s) (b : ℕ) (f : Gate → Gate) : Ok q (modGate s b f) := by
  unfold modGate
  repeat' first
    | with_reducible assumption
    | intro _
    | (with_reducible apply Ok.upd; with_reducible assumption)

theorem quiesce_ok (h : Ok q s) : Ok q (quiesce s) :=
  ⟨⟨h.inv.regs, h.inv.marrow, h.inv.pwr, by simpa [quiesce] using h.inv.pods⟩, h.queue⟩

theorem startBlockReset_ok (h : Ok q s) : Ok q (startBlockReset s) := by
  unfold startBlockReset
  repeat' first
    | with_reducible assumption
    | intro _
    | (extract_lets +onlyGivenNames x; refine (fun (hx : Ok q x) => ?_) ?_; rotate_left; subst x; rotate_right; clear_value x)
    | with_reducible apply modBlk_ok
    | with_reducible apply bump_ok
    | with_reducible apply quiesce_ok
    | split

end Sys2Proof.Machine
end

