-- ==== Sys2Proof/Laws/KeepArbiter.lean ====
section
/-! SUPPORT. The operations of Machine/Arbiter.lean keep the invariant and the queue. -/

namespace Sys2Proof.Machine

variable {q : List Instr} {s t : State} {r : Rd}

theorem endBurst_ok (h : Ok q s) (n : ℕ) : Ok q (endBurst s n) := by
  unfold endBurst
  repeat' first
    | with_reducible assumption
    | intro _
    | (extract_lets +onlyGivenNames x; subst x)
    | with_reducible apply restRound_ok
    | (with_reducible apply Ok.upd; with_reducible assumption)
    | split

theorem takeTurn_ok (h : Ok q s) (n : ℕ) (fresh : Bool) : Ok q (takeTurn s n fresh) := by
  unfold takeTurn
  repeat' first
    | with_reducible assumption
    | intro _
    | (extract_lets +onlyGivenNames x; subst x)
    | (with_reducible apply Ok.upd; with_reducible assumption)

end Sys2Proof.Machine
end

