-- ==== Sys2Proof/Laws/KeepPowerOps.lean ====
section
/-! SUPPORT. The operations of Machine/PowerOps.lean keep the invariant and the queue. -/

namespace Sys2Proof.Machine

variable {q : List Instr} {s t : State} {r : Rd}

theorem requestV_ok (h : Ok q s) (n : ℕ) : Ok q (requestV s n) := by
  unfold requestV
  repeat' first
    | with_reducible assumption
    | intro _
    | ((with_reducible refine modPwr_ok ?_ _ ?_); rotate_left; exact fun h => h)

theorem advanceRoot_ok (h : Ok q s) : Ok q (advanceRoot s) := by
  unfold advanceRoot
  repeat' first
    | with_reducible assumption
    | intro _
    | (extract_lets +onlyGivenNames x; subst x)
    | ((with_reducible refine modPwr_ok ?_ _ ?_); rotate_left; exact fun h => h)
    | with_reducible apply requestV_ok
    | split

theorem ilimAnswer_ok (h : Ok q s) : Ok q (ilimAnswer s) := by
  unfold ilimAnswer
  repeat' first
    | with_reducible assumption
    | intro _
    | (extract_lets +onlyGivenNames x; subst x)
    | with_reducible apply bump_ok
    | ((with_reducible refine modPwr_ok ?_ _ ?_); rotate_left; exact fun h => h)
    | split

theorem powerUp_ok (h : Ok q s) (p : ℕ) : Ok q (powerUp s p) := by
  unfold powerUp
  repeat' first
    | with_reducible assumption
    | intro _
    | with_reducible apply modPod_ok

/-- The least cap lies within 24 to 48. -/
theorem leastCap_mem (s : State) : 24 ≤ leastCap s ∧ leastCap s ≤ 48 := by
  unfold leastCap
  simp only
  omega

theorem retarget_ok (h : Ok q s) : Ok q (retarget s) := by
  have h1 : Ok q (modPwr s fun p => { p with targetN := leastCap s, caps := capBits s }) := by
    refine modPwr_ok h _ fun hp => ?_
    rw [Power.wf_iff] at hp ⊢
    exact ⟨hp.1, hp.2.1, leastCap_mem s⟩
  unfold retarget
  simp only
  split
  · exact ilimAnswer_ok (advanceRoot_ok (mbxNotice_ok h1 _ _))
  · exact ilimAnswer_ok (advanceRoot_ok h1)

theorem takeIlim_ok (h : Ok q s) (lvl : ℕ) : Ok q (takeIlim s lvl) := by
  unfold takeIlim
  repeat' first
    | with_reducible assumption
    | intro _
    | with_reducible apply retarget_ok
    | ((with_reducible refine modPwr_ok ?_ _ ?_); rotate_left; exact fun h => h)

end Sys2Proof.Machine
end

