-- ==== Sys2Proof/Laws/KeepCollector.lean ====
section
/-! SUPPORT. The operations of Machine/Collector.lean keep the invariant and the queue. -/

namespace Sys2Proof.Machine

variable {q : List Instr} {s t : State} {r : Rd}

theorem dumpUnit_ok (h : Ok q s) (u : ℕ) (bytes : List Byte) : Ok q (dumpUnit s u bytes) := by
  unfold dumpUnit
  repeat' first
    | with_reducible assumption
    | intro _
    | (extract_lets +onlyGivenNames x; subst x)
    | with_reducible apply memWrite_ok
    | with_reducible apply Ok.foldl

theorem dumpStart_ok (h : Ok q s) (severe : Bool) : Ok q (dumpStart s severe) := by
  unfold dumpStart
  repeat' first
    | with_reducible assumption
    | intro _
    | (extract_lets +onlyGivenNames x; refine (fun (hx : Ok q x) => ?_) ?_; rotate_left; subst x; rotate_right; clear_value x)
    | (extract_lets +onlyGivenNames x; subst x)
    | with_reducible apply dumpUnit_ok
    | with_reducible apply bump_ok
    | (with_reducible apply Ok.upd; with_reducible assumption)

theorem dumpOnSevere_ok (h : Ok q s) : Ok q (dumpOnSevere s) := by
  unfold dumpOnSevere
  repeat' first
    | with_reducible assumption
    | intro _
    | (extract_lets +onlyGivenNames x; subst x)
    | with_reducible apply dumpStart_ok
    | (with_reducible apply Ok.upd; with_reducible assumption)
    | split

theorem fltInterrupt_ok (h : Ok q s) : Ok q (fltInterrupt s) := by
  unfold fltInterrupt
  repeat' first
    | with_reducible assumption
    | intro _
    | (extract_lets +onlyGivenNames x; refine (fun (hx : Ok q x) => ?_) ?_; rotate_left; subst x; rotate_right; clear_value x)
    | with_reducible apply bump_ok
    | with_reducible apply sendMsg_ok
    | split

theorem modFlt_ok (h : Ok q s) (f : Collector → Collector) : Ok q (modFlt s f) := by
  unfold modFlt
  repeat' first
    | with_reducible assumption
    | intro _
    | (with_reducible apply Ok.upd; with_reducible assumption)

theorem logPut_ok (h : Ok q s) (w : Wayside) : Ok q (logPut s w) := by
  unfold logPut
  repeat' first
    | with_reducible assumption
    | intro _
    | (extract_lets +onlyGivenNames x; refine (fun (hx : Ok q x) => ?_) ?_; rotate_left; subst x; rotate_right; clear_value x)
    | (extract_lets +onlyGivenNames x; subst x)
    | with_reducible apply modFlt_ok
    | with_reducible apply bump_ok

theorem recordNew_ok (h : Ok q s) (w : Wayside) : Ok q (recordNew s w) := by
  unfold recordNew
  repeat' first
    | with_reducible assumption
    | intro _
    | with_reducible apply bump_ok
    | with_reducible apply pageErr_ok
    | with_reducible apply modFlt_ok
    | with_reducible apply logPut_ok
    | split

theorem recordEvent_ok (h : Ok q s) (w : Wayside) (x : Inst) (severe : Bool) (wire : Bool) (fired : ℕ) : Ok q (recordEvent s w x severe wire fired) := by
  unfold recordEvent
  repeat' first
    | with_reducible assumption
    | intro _
    | (extract_lets +onlyGivenNames x; refine (fun (hx : Ok q x) => ?_) ?_; rotate_left; subst x; rotate_right; clear_value x)
    | with_reducible apply logLater_ok
    | with_reducible apply recordNew_ok
    | with_reducible apply bump_ok
    | with_reducible apply modFlt_ok
    | split

theorem onSevere_ok (h : Ok q s) (src : ℕ) (i : ℕ) : Ok q (onSevere s src i) := by
  unfold onSevere
  repeat' first
    | with_reducible assumption
    | intro _
    | (extract_lets +onlyGivenNames x; refine (fun (hx : Ok q x) => ?_) ?_; rotate_left; subst x; rotate_right; clear_value x)
    | with_reducible apply markSuspect_ok
    | with_reducible apply retarget_ok
    | ((with_reducible refine modPwr_ok ?_ _ ?_); rotate_left; exact fun h => h)
    | with_reducible apply dumpOnSevere_ok
    | split

theorem react_ok (h : Ok q s) (mask : ℕ) (rd : Wayside) : Ok q (react s mask rd) := by
  unfold react
  repeat' first
    | with_reducible assumption
    | intro _
    | (extract_lets +onlyGivenNames x; refine (fun (hx : Ok q x) => ?_) ?_; rotate_left; subst x; rotate_right; clear_value x)
    | (extract_lets +onlyGivenNames x; subst x)
    | with_reducible apply modFlt_ok
    | with_reducible apply fltInterrupt_ok
    | with_reducible apply logFlush_ok
    | with_reducible apply mbxNotice_ok
    | with_reducible apply startBlockReset_ok
    | (with_reducible apply Ok.upd; with_reducible assumption)
    | split

theorem raiseAs_ok (h : Ok q s) (src : ℕ) (i : ℕ) (info : Word) (ctx : EventCtx) (pod : ℕ) (wire : Bool) (unit : ℕ) : Ok q (raiseAs s src i info ctx pod wire unit) := by
  unfold raiseAs
  repeat' first
    | with_reducible assumption
    | intro _
    | (extract_lets +onlyGivenNames x; refine (fun (hx : Ok q x) => ?_) ?_; rotate_left; subst x; rotate_right; clear_value x)
    | (extract_lets +onlyGivenNames x; subst x)
    | with_reducible apply modFlt_ok
    | with_reducible apply bump_ok
    | with_reducible apply recordEvent_ok
    | with_reducible apply onSevere_ok
    | with_reducible apply react_ok
    | split

theorem raise_ok (h : Ok q s) (src : ℕ) (i : ℕ) (info : ℕ) (pod : ℕ) : Ok q (raise s src i info pod) := by
  unfold raise
  repeat' first
    | with_reducible assumption
    | intro _
    | with_reducible apply raiseAs_ok
    | with_reducible apply draw_ok

theorem hostRead_ok (h : Ok q s) (a : ℕ) (n : ℕ) (xlat : ℕ) (i : HostRead) : Ok q (hostRead s a n xlat i) := by
  unfold hostRead
  repeat' first
    | with_reducible assumption
    | intro _
    | (extract_lets +onlyGivenNames x; refine (fun (hx : Ok q x) => ?_) ?_; rotate_left; subst x; rotate_right; clear_value x)
    | (extract_lets +onlyGivenNames x; subst x)
    | with_reducible apply modMem_ok
    | with_reducible apply bump_ok
    | with_reducible apply raise_ok
    | split

theorem raiseOp_ok (h : Ok q s) (src : ℕ) (i : ℕ) (info : ℕ) (o : TileOp) : Ok q (raiseOp s src i info o) := by
  unfold raiseOp
  repeat' first
    | with_reducible assumption
    | intro _
    | with_reducible apply raiseAs_ok
    | with_reducible apply draw_ok

theorem unfreeze_ok (h : Ok q s) : Ok q (unfreeze s) := by
  unfold unfreeze
  repeat' first
    | with_reducible assumption
    | intro _
    | (extract_lets +onlyGivenNames x; refine (fun (hx : Ok q x) => ?_) ?_; rotate_left; subst x; rotate_right; clear_value x)
    | (extract_lets +onlyGivenNames x; subst x)
    | with_reducible apply modFlt_ok
    | with_reducible apply logPut_ok
    | with_reducible apply wrg_ok
    | with_reducible apply Ok.foldl

end Sys2Proof.Machine
end

