-- ==== Sys2Proof/Laws/KeepMpOps.lean ====
section
/-! SUPPORT. The operations of Machine/MpOps.lean keep the invariant and the queue. -/

namespace Sys2Proof.Machine

variable {q : List Instr} {s t : State} {r : Rd}

theorem modMps_ok (h : Ok q s) (f : MpBank → MpBank) : Ok q (modMps s f) := by
  unfold modMps
  repeat' first
    | with_reducible assumption
    | intro _
    | (with_reducible apply Ok.upd; with_reducible assumption)

theorem addWaiter_ok (h : Ok q s) (id : ℕ) (take : Bool) (src : MpSource) : Ok q (addWaiter s id take src) := by
  unfold addWaiter
  repeat' first
    | with_reducible assumption
    | intro _
    | with_reducible apply modMps_ok

theorem modEdge_ok (h : Ok q s) (j : ℕ) (m : ℕ) (e : ℕ) (f : EdgeSt → EdgeSt) : Ok q (modEdge s j m e f) := by
  unfold modEdge
  repeat' first
    | with_reducible assumption
    | intro _
    | (extract_lets +onlyGivenNames x; subst x)
    | with_reducible apply modJob_ok

theorem putMp_ok (h : Ok q s) (id : ℕ) (r : MpRec) : Ok q (putMp s id r) := by
  unfold putMp
  repeat' first
    | with_reducible assumption
    | intro _
    | with_reducible apply modMps_ok

theorem mpMisuse_ok (h : Ok q s) (id : ℕ) (kind : ℕ) : Ok q (mpMisuse s id kind) := by
  unfold mpMisuse
  repeat' first
    | with_reducible assumption
    | intro _
    | (extract_lets +onlyGivenNames x; refine (fun (hx : Ok q x) => ?_) ?_; rotate_left; subst x; rotate_right; clear_value x)
    | (extract_lets +onlyGivenNames x; subst x)
    | with_reducible apply bump_ok
    | with_reducible apply pageErr_ok
    | with_reducible apply putMp_ok
    | with_reducible apply raise_ok
    | split

theorem fedTook_ok (h : Ok q s) (k : ℕ) (c : ℕ) : Ok q (fedTook s k c) := by
  unfold fedTook
  repeat' first
    | with_reducible assumption
    | intro _
    | (extract_lets +onlyGivenNames x; refine (fun (hx : Ok q x) => ?_) ?_; rotate_left; subst x; rotate_right; clear_value x)
    | (extract_lets +onlyGivenNames x; subst x)
    | with_reducible apply modHalf_ok
    | with_reducible apply sendFlit_ok

theorem resolveWaiter_ok (h : Ok q s) (w : Waiter) : Ok q (resolveWaiter s w) := by
  unfold resolveWaiter
  repeat' first
    | with_reducible assumption
    | intro _
    | with_reducible apply finish_ok
    | with_reducible apply fedTook_ok
    | split

theorem mpSet_ok (h : Ok q s) (id : ℕ) (src : MpSource) : Ok q (mpSet s id src) := by
  unfold mpSet
  repeat' first
    | with_reducible assumption
    | intro _
    | (extract_lets +onlyGivenNames x; refine (fun (hx : Ok q x) => ?_) ?_; rotate_left; subst x; rotate_right; clear_value x)
    | (extract_lets +onlyGivenNames x; subst x)
    | with_reducible apply bump_ok
    | with_reducible apply mpMisuse_ok
    | with_reducible apply putMp_ok
    | with_reducible apply modMps_ok
    | with_reducible apply resolveWaiter_ok
    | with_reducible apply Ok.foldl
    | split

theorem announce_ok (h : Ok q s) (j : ℕ) (m : ℕ) (e : ℕ) (x : ℕ) (f : Fill) (src : MpSource) : Ok q (announce s j m e x f src) := by
  unfold announce
  repeat' first
    | with_reducible assumption
    | intro _
    | (extract_lets +onlyGivenNames x; refine (fun (hx : Ok q x) => ?_) ?_; rotate_left; subst x; rotate_right; clear_value x)
    | with_reducible apply modEdge_ok
    | with_reducible apply mpSet_ok
    | split

theorem modNode_ok (h : Ok q s) (j : ℕ) (m : ℕ) (n : ℕ) (f : NodeSt → NodeSt) : Ok q (modNode s j m n f) := by
  unfold modNode
  repeat' first
    | with_reducible assumption
    | intro _
    | with_reducible apply modJob_ok

theorem mpForce_ok (h : Ok q s) (id : ℕ) (v : Bool) : Ok q (mpForce s id v) := by
  unfold mpForce
  repeat' first
    | with_reducible assumption
    | intro _
    | (extract_lets +onlyGivenNames x; subst x)
    | with_reducible apply putMp_ok

theorem discardSlot_ok (h : Ok q s) (j : ℕ) (m : ℕ) (e : ℕ) (x : ℕ) : Ok q (discardSlot s j m e x) := by
  unfold discardSlot
  repeat' first
    | with_reducible assumption
    | intro _
    | (extract_lets +onlyGivenNames x; refine (fun (hx : Ok q x) => ?_) ?_; rotate_left; subst x; rotate_right; clear_value x)
    | with_reducible apply modEdge_ok
    | with_reducible apply mpForce_ok

theorem dropWork_ok (h : Ok q s) (j : ℕ) (m : ℕ) (n : ℕ) (w : Work) : Ok q (dropWork s j m n w) := by
  unfold dropWork
  repeat' first
    | with_reducible assumption
    | intro _
    | (extract_lets +onlyGivenNames x; refine (fun (hx : Ok q x) => ?_) ?_; rotate_left; subst x; rotate_right; clear_value x)
    | (extract_lets +onlyGivenNames x; subst x)
    | with_reducible apply modNode_ok
    | with_reducible apply discardSlot_ok
    | (with_reducible apply Ok.upd; with_reducible assumption)
    | with_reducible apply Ok.foldl
    | split

theorem purgeWhere_ok (h : Ok q s) (j : ℕ) (f : ℕ → Bool) : Ok q (purgeWhere s j f) := by
  unfold purgeWhere
  repeat' first
    | with_reducible assumption
    | intro _
    | (extract_lets +onlyGivenNames x; refine (fun (hx : Ok q x) => ?_) ?_; rotate_left; subst x; rotate_right; clear_value x)
    | (extract_lets +onlyGivenNames x; subst x)
    | with_reducible apply dropWork_ok
    | with_reducible apply modNode_ok
    | with_reducible apply discardSlot_ok
    | (with_reducible apply Ok.upd; with_reducible assumption)
    | with_reducible apply Ok.foldl

theorem clearRank_ok (h : Ok q s) (j : ℕ) (r : ℕ) : Ok q (clearRank s j r) := by
  unfold clearRank
  repeat' first
    | with_reducible assumption
    | intro _
    | (extract_lets +onlyGivenNames x; refine (fun (hx : Ok q x) => ?_) ?_; rotate_left; subst x; rotate_right; clear_value x)
    | with_reducible apply purgeWhere_ok
    | (with_reducible apply Ok.upd; with_reducible assumption)

theorem countArrival_ok (h : Ok q s) (b : ℕ) : Ok q (countArrival s b) := by
  unfold countArrival
  repeat' first
    | with_reducible assumption
    | intro _
    | with_reducible apply bump_ok

theorem gateMisuse_ok (h : Ok q s) (b : ℕ) (who : ℕ) (break_ : Bool) : Ok q (gateMisuse s b who break_) := by
  unfold gateMisuse
  repeat' first
    | with_reducible assumption
    | intro _
    | (extract_lets +onlyGivenNames x; refine (fun (hx : Ok q x) => ?_) ?_; rotate_left; subst x; rotate_right; clear_value x)
    | (extract_lets +onlyGivenNames x; subst x)
    | with_reducible apply modGate_ok
    | with_reducible apply bump_ok
    | with_reducible apply pageErr_ok
    | with_reducible apply raise_ok

theorem gateArriveExt_ok (h : Ok q s) (b : ℕ) (i : ℕ) : Ok q (gateArriveExt s b i) := by
  unfold gateArriveExt
  repeat' first
    | with_reducible assumption
    | intro _
    | (extract_lets +onlyGivenNames x; subst x)
    | with_reducible apply gateMisuse_ok
    | with_reducible apply countArrival_ok
    | with_reducible apply modGate_ok
    | split

theorem gateArriveMember_ok (h : Ok q s) (b : ℕ) (m : ℕ) : Ok q (gateArriveMember s b m) := by
  unfold gateArriveMember
  repeat' first
    | with_reducible assumption
    | intro _
    | (extract_lets +onlyGivenNames x; subst x)
    | with_reducible apply gateMisuse_ok
    | with_reducible apply countArrival_ok
    | with_reducible apply modGate_ok
    | split

theorem mpClear_ok (h : Ok q s) (id : ℕ) (src : MpSource) : Ok q (mpClear s id src) := by
  unfold mpClear
  repeat' first
    | with_reducible assumption
    | intro _
    | (extract_lets +onlyGivenNames x; refine (fun (hx : Ok q x) => ?_) ?_; rotate_left; subst x; rotate_right; clear_value x)
    | (extract_lets +onlyGivenNames x; subst x)
    | with_reducible apply bump_ok
    | with_reducible apply putMp_ok
    | with_reducible apply mpMisuse_ok
    | split

theorem mpTakeNow_ok (h : Ok q s) (id : ℕ) : Ok q (mpTakeNow s id) := by
  unfold mpTakeNow
  repeat' first
    | with_reducible assumption
    | intro _
    | (extract_lets +onlyGivenNames x; subst x)
    | with_reducible apply bump_ok
    | with_reducible apply putMp_ok

theorem mpZero_ok (h : Ok q s) (id : ℕ) : Ok q (mpZero s id) := by
  unfold mpZero
  repeat' first
    | with_reducible assumption
    | intro _
    | (extract_lets +onlyGivenNames x; subst x)
    | with_reducible apply putMp_ok
    | split

theorem protocolFault_ok (h : Ok q s) (k : ℕ) (xh : ℕ) : Ok q (protocolFault s k xh) := by
  unfold protocolFault
  repeat' first
    | with_reducible assumption
    | intro _
    | (extract_lets +onlyGivenNames x; refine (fun (hx : Ok q x) => ?_) ?_; rotate_left; subst x; rotate_right; clear_value x)
    | (extract_lets +onlyGivenNames x; subst x)
    | with_reducible apply bump_ok
    | with_reducible apply raise_ok
    | with_reducible apply sendFlit_ok
    | with_reducible apply modHalf_ok
    | with_reducible apply failJob_ok
    | split

theorem purge_ok (h : Ok q s) (j : ℕ) : Ok q (purge s j) := by
  unfold purge
  repeat' first
    | with_reducible assumption
    | intro _
    | with_reducible apply purgeWhere_ok

theorem releaseSlot_ok (h : Ok q s) (j : ℕ) (m : ℕ) (e : ℕ) (x : ℕ) (src : MpSource) : Ok q (releaseSlot s j m e x src) := by
  unfold releaseSlot
  repeat' first
    | with_reducible assumption
    | intro _
    | (extract_lets +onlyGivenNames x; refine (fun (hx : Ok q x) => ?_) ?_; rotate_left; subst x; rotate_right; clear_value x)
    | with_reducible apply modEdge_ok
    | with_reducible apply mpSet_ok
    | with_reducible apply mpClear_ok

theorem rewindHalves_ok (h : Ok q s) (j : ℕ) (m : ℕ) (e : ℕ) : Ok q (rewindHalves s j m e) := by
  unfold rewindHalves
  repeat' first
    | with_reducible assumption
    | intro _
    | (extract_lets +onlyGivenNames x; refine (fun (hx : Ok q x) => ?_) ?_; rotate_left; subst x; rotate_right; clear_value x)
    | with_reducible apply modMps_ok
    | with_reducible apply modHalf_ok
    | with_reducible apply Ok.foldl
    | split

theorem rewindEdge_ok (h : Ok q s) (j : ℕ) (m : ℕ) (e : ℕ) : Ok q (rewindEdge s j m e) := by
  unfold rewindEdge
  repeat' first
    | with_reducible assumption
    | intro _
    | (extract_lets +onlyGivenNames x; refine (fun (hx : Ok q x) => ?_) ?_; rotate_left; subst x; rotate_right; clear_value x)
    | (extract_lets +onlyGivenNames x; subst x)
    | with_reducible apply mpForce_ok
    | with_reducible apply rewindHalves_ok
    | with_reducible apply modEdge_ok
    | with_reducible apply Ok.foldl
    | split

theorem rewindJob_ok (h : Ok q s) (j : ℕ) : Ok q (rewindJob s j) := by
  unfold rewindJob
  repeat' first
    | with_reducible assumption
    | intro _
    | (extract_lets +onlyGivenNames x; subst x)
    | with_reducible apply rewindEdge_ok
    | with_reducible apply Ok.foldl

theorem takeEmpty_ok (h : Ok q s) (j : ℕ) (m : ℕ) (e : ℕ) (x : ℕ) : Ok q (takeEmpty s j m e x) := by
  unfold takeEmpty
  repeat' first
    | with_reducible assumption
    | intro _
    | with_reducible apply modEdge_ok
    | with_reducible apply mpTakeNow_ok
    | split

end Sys2Proof.Machine
end

