-- ==== Sys2Proof/Laws/KeepMarrow.lean ====
section
/-! SUPPORT. The operations of Machine/Marrow.lean keep the invariant and the queue. -/

namespace Sys2Proof.Machine

variable {q : List Instr} {s t : State} {r : Rd}

theorem raiseFor_ok (h : Ok q s) (src : ℕ) (p : ℕ) (info : ℕ) (o : Option TileOp) : Ok q (raiseFor s src p info o) := by
  unfold raiseFor
  repeat' first
    | with_reducible assumption
    | intro _
    | with_reducible apply raiseOp_ok
    | with_reducible apply raise_ok
    | split

theorem checkWord_ok (h : Ok q s) (o : Option TileOp) (p n w : ℕ) : Ok q (checkWord o p n s w) := by
  unfold checkWord
  split
  · refine raiseFor_ok (bump_ok (modMarrow_ok h _ fun hm => ?_) _ _ _) _ _ _ _
    rw [Marrow.wf_iff] at hm ⊢
    exact ⟨hm.1, hm.2.1, hm.2.2.1, canon_sdel _ _ _ hm.2.2.2.1, hm.2.2.2.2⟩
  · exact h

theorem poisonLine_wf (m : Marrow) (k : ℕ) (h : m.wf = true) : ({ m with poison := nins m.poison k } : Marrow).wf = true := by
  rw [Marrow.wf_iff] at h ⊢
  exact ⟨h.1, nrising_nins _ _ h.2.1, h.2.2⟩

theorem checkLine_ok (h : Ok q s) (p n : ℕ) (o : Option TileOp) : Ok q (checkLine s p n o) := by
  have h1 : Ok q ((List.range 8).foldl (checkWord o p n) s) := Ok.foldl (fun s w h => checkWord_ok h o p n w) h
  unfold checkLine
  generalize (List.range 8).foldl (checkWord o p n) s = x at h1 ⊢
  extract_lets y
  split
  · exact h1
  · rename_i z _ v _
    refine raiseFor_ok (s := z) ?_ 3 p _ o
    subst z
    split
    · exact h1
    · exact bump_ok (modMarrow_ok h1 _ (poisonLine_wf _ _)) _ _ _

theorem Rd.line_ok (h : Ok q r.st) (o : Option TileOp) (p n : ℕ) : Ok q (r.line o p n).st := by
  unfold Rd.line
  have h1 := checkLine_ok h p n o
  generalize checkLine r.st p n o = x at h1 ⊢
  exact h1

/-- A fold of reads that keep it keeps it. -/
theorem Rd.foldl_ok {α : Type} {f : Rd → α → Rd} {l : List α} (hf : ∀ r a, Ok q r.st → Ok q (f r a).st)
    (h : Ok q r.st) : Ok q (l.foldl f r).st := by
  induction l generalizing r with
  | nil => exact h
  | cons a l ih => exact ih (hf r a h)

theorem Rd.bytes_ok (h : Ok q r.st) (o : Option TileOp) (p a n : ℕ) : Ok q (r.bytes o p a n).1.st :=
  Rd.foldl_ok (f := fun r l => r.line o p l) (fun _ _ h => Rd.line_ok h _ _ _) h

theorem Rd.start_ok (h : Ok q s) : Ok q (Rd.start s).st := h

theorem lineMarks_wf (m : Marrow) (l : ℕ) (b : Bool) (h : m.wf = true) :
    ({ m with ecc := m.ecc.filter (fun e => decide (e.1 / 8 ≠ l)), poison := nset m.poison l b } : Marrow).wf = true := by
  rw [Marrow.wf_iff] at h ⊢
  exact ⟨h.1, nrising_nset _ _ _ h.2.1, h.2.2.1, canon_filter _ _ _ h.2.2.2.1, h.2.2.2.2⟩

theorem writeLine_ok (h : Ok q s) (p n : ℕ) (ws : List WByte) (pois : Bool) (o : Option TileOp) :
    Ok q (writeLine s p n ws pois o) := by
  unfold writeLine
  extract_lets l full x old base merged p'
  have hx : Ok q x := by
    subst x
    split
    · exact h
    · exact checkLine_ok h _ _ _
  clear_value merged p'
  exact modMarrow_ok hx _ fun hm => lineMarks_wf _ _ _ (Marrow.setBytes_wf (List.range 64) (fun i => l * 64 + i) merged _ hm)

theorem writeAll_ok (h : Ok q s) (ws : List WByte) (pois : List ℕ) (o : (Option TileOp)) : Ok q (writeAll s ws pois o) := by
  unfold writeAll
  repeat' first
    | with_reducible assumption
    | intro _
    | with_reducible apply writeLine_ok
    | with_reducible apply Ok.foldl

end Sys2Proof.Machine
end

