-- ==== Sys2Proof/Laws/KeepRng.lean ====
section
/-! SUPPORT. The operations of Machine/Rng.lean keep the invariant and the queue. -/

namespace Sys2Proof.Machine

variable {q : List Instr} {s t : State} {r : Rd}

theorem doProbe_ok (h : Ok q s) (ctrl : ℕ) : Ok q (doProbe s ctrl) := by
  unfold doProbe
  repeat' first
    | with_reducible assumption
    | intro _
    | (extract_lets +onlyGivenNames x; refine (fun (hx : Ok q x) => ?_) ?_; rotate_left; subst x; rotate_right; clear_value x)
    | (extract_lets +onlyGivenNames x; subst x)
    | with_reducible apply storeReg_ok
    | with_reducible apply refuse_ok
    | with_reducible apply wrg_ok
    | split

end Sys2Proof.Machine
end

