-- ==== Sys2Proof/Laws/KeepReset.lean ====
section
/-! SUPPORT. The operations of Machine/Reset.lean keep the invariant and the queue. -/

namespace Sys2Proof.Machine

variable {q : List Instr} {s t : State} {r : Rd}

theorem applyLog_ok (h : Ok q s) (r : LogRec) : Ok q (applyLog s r) := by
  unfold applyLog
  split
  · refine modPod_ok ?_ _ _
    dsimp only
    split
    · exact h.upd ..
    · exact h
  · refine modPod_ok ?_ _ _
    exact ⟨⟨h.inv.regs, h.inv.marrow, h.inv.pwr, by simpa using h.inv.pods⟩, h.queue⟩
  · exact h

theorem assignId_ok (h : Ok q s) (p : ℕ) (l : ℕ) : Ok q (assignId s p l) := by
  unfold assignId
  repeat' first
    | with_reducible assumption
    | intro _
    | (extract_lets +onlyGivenNames x; refine (fun (hx : Ok q x) => ?_) ?_; rotate_left; subst x; rotate_right; clear_value x)
    | (extract_lets +onlyGivenNames x; subst x)
    | with_reducible apply modPod_ok
    | with_reducible apply logWrite_ok
    | (with_reducible apply Ok.upd; with_reducible assumption)

theorem coldState_ok (h : Ok q s) : Ok q (coldState s) :=
  ⟨⟨rfl, rfl, rfl, by simpa [coldState] using h.inv.pods⟩, h.queue⟩

theorem doAliveTick_ok (h : Ok q s) (refreshed : Bool) : Ok q (doAliveTick s refreshed) := by
  unfold doAliveTick
  repeat' first
    | with_reducible assumption
    | intro _
    | (extract_lets +onlyGivenNames x; subst x)
    | (with_reducible apply Ok.upd; with_reducible assumption)
    | split

theorem mapOutTo_ok (h : Ok q s) (p : ℕ) (x : PodState) : Ok q (mapOutTo s p x) := by
  unfold mapOutTo
  repeat' first
    | with_reducible assumption
    | intro _
    | (extract_lets +onlyGivenNames x; refine (fun (hx : Ok q x) => ?_) ?_; rotate_left; subst x; rotate_right; clear_value x)
    | (extract_lets +onlyGivenNames x; subst x)
    | with_reducible apply modPod_ok
    | with_reducible apply modFlt_ok
    | with_reducible apply logWrite_ok
    | (with_reducible apply Ok.upd; with_reducible assumption)
    | split

theorem mapOut_ok (h : Ok q s) (p : ℕ) : Ok q (mapOut s p) := by
  unfold mapOut
  repeat' first
    | with_reducible assumption
    | intro _
    | with_reducible apply powerDown_ok
    | with_reducible apply mapOutTo_ok

theorem mapOutSuspects_ok (h : Ok q s) : Ok q (mapOutSuspects s) := by
  unfold mapOutSuspects
  repeat' first
    | with_reducible assumption
    | intro _
    | with_reducible apply modBlk_ok
    | with_reducible apply mapOut_ok
    | with_reducible apply Ok.foldl

theorem testPod_ok (h : Ok q s) (p : ℕ) : Ok q (testPod s p) := by
  unfold testPod
  repeat' first
    | with_reducible assumption
    | intro _
    | with_reducible apply powerUp_ok
    | with_reducible apply modPod_ok

theorem releaseInto_ok (h : Ok q s) (warm : Bool) : Ok q (releaseInto s warm) := by
  unfold releaseInto
  repeat' first
    | with_reducible assumption
    | intro _
    | (extract_lets +onlyGivenNames x; refine (fun (hx : Ok q x) => ?_) ?_; rotate_left; subst x; rotate_right; clear_value x)
    | (extract_lets +onlyGivenNames x; subst x)
    | with_reducible apply clearForReset_ok
    | with_reducible apply modBlk_ok
    | with_reducible apply mapOutSuspects_ok
    | with_reducible apply testPod_ok
    | (with_reducible apply Ok.upd; with_reducible assumption)
    | with_reducible apply Ok.foldl
    | split

theorem doBlockRelease_ok (h : Ok q s) : Ok q (doBlockRelease s) := by
  unfold doBlockRelease
  repeat' first
    | with_reducible assumption
    | intro _
    | with_reducible apply releaseInto_ok
    | split

theorem doColdAssert_ok (h : Ok q s) : Ok q (doColdAssert s) := by
  unfold doColdAssert
  repeat' first
    | with_reducible assumption
    | intro _
    | with_reducible apply coldState_ok

theorem doColdRelease_ok (h : Ok q s) : Ok q (doColdRelease s) := by
  unfold doColdRelease
  repeat' first
    | with_reducible assumption
    | intro _
    | (extract_lets +onlyGivenNames x; subst x)
    | with_reducible apply modBlk_ok
    | (with_reducible apply Ok.upd; with_reducible assumption)
    | split

theorem doPllLock_ok (h : Ok q s) : Ok q (doPllLock s) := by
  unfold doPllLock
  repeat' first
    | with_reducible assumption
    | intro _
    | with_reducible apply modBlk_ok
    | ((with_reducible refine modPwr_ok ?_ _ ?_); rotate_left; exact fun h => h)
    | split

theorem doPllLoss_ok (h : Ok q s) : Ok q (doPllLoss s) := by
  unfold doPllLoss
  repeat' first
    | with_reducible assumption
    | intro _
    | with_reducible apply raise_ok
    | split

theorem doPowerLoss_ok (h : Ok q s) : Ok q (doPowerLoss s) := by
  unfold doPowerLoss
  repeat' first
    | with_reducible assumption
    | intro _
    | (extract_lets +onlyGivenNames x; refine (fun (hx : Ok q x) => ?_) ?_; rotate_left; subst x; rotate_right; clear_value x)
    | with_reducible apply coldState_ok
    | ((with_reducible refine Ok.pods ?_ _ ?_); with_reducible assumption; simp)

theorem loadMap_ok (h : Ok q s) (f : List (BitVec 33)) : Ok q (loadMap s f) := by
  unfold loadMap
  repeat' first
    | with_reducible assumption
    | intro _
    | (extract_lets +onlyGivenNames x; refine (fun (hx : Ok q x) => ?_) ?_; rotate_left; subst x; rotate_right; clear_value x)
    | (extract_lets +onlyGivenNames x; subst x)
    | with_reducible apply modPod_ok
    | with_reducible apply applyLog_ok
    | with_reducible apply modFlt_ok
    | with_reducible apply modStw_ok
    | ((with_reducible refine modPwr_ok ?_ _ ?_); rotate_left; exact fun h => h)
    | (with_reducible apply Ok.upd; with_reducible assumption)
    | with_reducible apply Ok.foldl

theorem enterRoadside_ok (h : Ok q s) (code : ℕ) : Ok q (enterRoadside s code) := by
  unfold enterRoadside
  repeat' first
    | with_reducible assumption
    | intro _
    | (extract_lets +onlyGivenNames x; refine (fun (hx : Ok q x) => ?_) ?_; rotate_left; subst x; rotate_right; clear_value x)
    | with_reducible apply modBlk_ok
    | ((with_reducible refine Ok.pods ?_ _ ?_); with_reducible assumption; simp)

theorem failStartUp_ok (h : Ok q s) (k : ℕ) (p : ℕ) : Ok q (failStartUp k s p) := by
  unfold failStartUp
  repeat' first
    | with_reducible assumption
    | intro _
    | (extract_lets +onlyGivenNames x; refine (fun (hx : Ok q x) => ?_) ?_; rotate_left; subst x; rotate_right; clear_value x)
    | with_reducible apply raise_ok
    | with_reducible apply mapOut_ok
    | with_reducible apply modBlk_ok
    | with_reducible apply modPod_ok
    | split

theorem fillEmpty_ok (h : Ok q s) : Ok q (fillEmpty s) := by
  unfold fillEmpty
  repeat' first
    | with_reducible assumption
    | intro _
    | with_reducible apply assignId_ok
    | with_reducible apply Ok.foldl
    | split

theorem fwDefaults_ok (h : Ok q s) : Ok q (fwDefaults s) := by
  unfold fwDefaults
  repeat' first
    | with_reducible assumption
    | intro _
    | (extract_lets +onlyGivenNames x; refine (fun (hx : Ok q x) => ?_) ?_; rotate_left; subst x; rotate_right; clear_value x)
    | with_reducible apply wrg_ok
    | with_reducible apply setEnable_ok
    | with_reducible apply Ok.foldl

theorem enterReady_ok (h : Ok q s) : Ok q (enterReady s) := by
  unfold enterReady
  repeat' first
    | with_reducible assumption
    | intro _
    | (extract_lets +onlyGivenNames x; refine (fun (hx : Ok q x) => ?_) ?_; rotate_left; subst x; rotate_right; clear_value x)
    | with_reducible apply fillEmpty_ok
    | with_reducible apply enterRoadside_ok
    | with_reducible apply fwDefaults_ok
    | with_reducible apply modBlk_ok
    | with_reducible apply toIdle_ok
    | with_reducible apply modPod_ok
    | with_reducible apply powerDown_ok
    | with_reducible apply takeIlim_ok
    | with_reducible apply retarget_ok
    | with_reducible apply Ok.foldl
    | split

theorem doStepDone_ok (h : Ok q s) (r : StepResult) : Ok q (doStepDone s r) := by
  unfold doStepDone
  repeat' first
    | with_reducible assumption
    | intro _
    | (extract_lets +onlyGivenNames x; refine (fun (hx : Ok q x) => ?_) ?_; rotate_left; subst x; rotate_right; clear_value x)
    | (extract_lets +onlyGivenNames x; subst x)
    | with_reducible apply modBlk_ok
    | with_reducible apply loadMap_ok
    | with_reducible apply enterRoadside_ok
    | with_reducible apply modStw_ok
    | with_reducible apply testPod_ok
    | with_reducible apply failStartUp_ok
    | with_reducible apply setEnable_ok
    | with_reducible apply modPod_ok
    | with_reducible apply enterReady_ok
    | (with_reducible apply Ok.upd; with_reducible assumption)
    | with_reducible apply Ok.foldl
    | split

theorem doWarmAssert_ok (h : Ok q s) : Ok q (doWarmAssert s) := by
  unfold doWarmAssert
  repeat' first
    | with_reducible assumption
    | intro _
    | (extract_lets +onlyGivenNames x; refine (fun (hx : Ok q x) => ?_) ?_; rotate_left; subst x; rotate_right; clear_value x)
    | (extract_lets +onlyGivenNames x; subst x)
    | with_reducible apply quiesce_ok
    | with_reducible apply modBlk_ok
    | (with_reducible apply Ok.upd; with_reducible assumption)
    | split

theorem doWarmRelease_ok (h : Ok q s) : Ok q (doWarmRelease s) := by
  unfold doWarmRelease
  repeat' first
    | with_reducible assumption
    | intro _
    | (extract_lets +onlyGivenNames x; refine (fun (hx : Ok q x) => ?_) ?_; rotate_left; subst x; rotate_right; clear_value x)
    | (extract_lets +onlyGivenNames x; subst x)
    | with_reducible apply modBlk_ok
    | with_reducible apply releaseInto_ok
    | (with_reducible apply Ok.upd; with_reducible assumption)
    | split

end Sys2Proof.Machine
end

