-- ==== Sys2Proof/Laws/KeepSteward.lean ====
section
/-! SUPPORT. The operations of Machine/Steward.lean keep the invariant and the queue. -/

namespace Sys2Proof.Machine

variable {q : List Instr} {s t : State} {r : Rd}

theorem mbxServe_ok (h : Ok q s) (opcode : ℕ) (tag : BitVec 16) (rom : Bool) (f : State → State)
    (hf : ∀ s, Ok q s → Ok q (f s)) : Ok q (mbxServe s opcode tag rom f) := by
  unfold mbxServe
  split
  · exact h
  · split
    · exact mbxReply_ok h _ _ _ _
    · exact hf s h

theorem doFwQuery_ok (h : Ok q s) (tag : BitVec 16) : Ok q (doFwQuery s tag) := by
  unfold doFwQuery
  repeat' first
    | with_reducible assumption
    | intro _
    | (extract_lets +onlyGivenNames x; subst x)
    | with_reducible apply mbxServe_ok
    | with_reducible apply mbxReply_ok

theorem doFwUpdate_ok (h : Ok q s) (tag : BitVec 16) (addr : DWord) (xlat : Word) (size : Word) (r : HostRead) (storeOk : Bool) : Ok q (doFwUpdate s tag addr xlat size r storeOk) := by
  unfold doFwUpdate
  repeat' first
    | with_reducible assumption
    | intro _
    | (extract_lets +onlyGivenNames x; refine (fun (hx : Ok q x) => ?_) ?_; rotate_left; subst x; rotate_right; clear_value x)
    | (extract_lets +onlyGivenNames x; subst x)
    | with_reducible apply mbxServe_ok
    | with_reducible apply mbxReply_ok
    | with_reducible apply hostRead_ok
    | with_reducible apply modStw_ok
    | with_reducible apply logWrite_ok
    | split

theorem rwRefuse_ok (h : Ok q s) (code : ℕ) : Ok q (rwRefuse s code) := by
  unfold rwRefuse
  repeat' first
    | with_reducible assumption
    | intro _
    | with_reducible apply refuse_ok
    | with_reducible apply wrg_ok

theorem rwDone_ok (h : Ok q s) : Ok q (rwDone s) := by
  unfold rwDone
  repeat' first
    | with_reducible assumption
    | intro _
    | with_reducible apply wrg_ok

theorem packInstall_ok (h : Ok q s) (b : List Byte) : Ok q (packInstall s b) := by
  unfold packInstall
  repeat' first
    | with_reducible assumption
    | intro _
    | (extract_lets +onlyGivenNames x; subst x)
    | with_reducible apply logLater_ok
    | (with_reducible apply Ok.upd; with_reducible assumption)

theorem doLoad_ok (h : Ok q s) (r : HostRead) : Ok q (doLoad s r) := by
  unfold doLoad
  repeat' first
    | with_reducible assumption
    | intro _
    | (extract_lets +onlyGivenNames x; refine (fun (hx : Ok q x) => ?_) ?_; rotate_left; subst x; rotate_right; clear_value x)
    | with_reducible apply hostRead_ok
    | with_reducible apply storeReg_ok
    | with_reducible apply rwRefuse_ok
    | with_reducible apply rwDone_ok
    | with_reducible apply packInstall_ok
    | split

theorem doLogFlush_ok (h : Ok q s) (tag : BitVec 16) : Ok q (doLogFlush s tag) := by
  unfold doLogFlush
  repeat' first
    | with_reducible assumption
    | intro _
    | (extract_lets +onlyGivenNames x; refine (fun (hx : Ok q x) => ?_) ?_; rotate_left; subst x; rotate_right; clear_value x)
    | with_reducible apply mbxServe_ok
    | with_reducible apply logFlush_ok
    | with_reducible apply mbxReply_ok

theorem doLogTimer_ok (h : Ok q s) : Ok q (doLogTimer s) := by
  unfold doLogTimer
  repeat' first
    | with_reducible assumption
    | intro _
    | with_reducible apply logFlush_ok
    | split

theorem doPing_ok (h : Ok q s) (tag : BitVec 16) : Ok q (doPing s tag) := by
  unfold doPing
  repeat' first
    | with_reducible assumption
    | intro _
    | with_reducible apply mbxServe_ok
    | with_reducible apply mbxReply_ok

theorem doPop_ok (h : Ok q s) : Ok q (doPop s) := by
  unfold doPop
  repeat' first
    | with_reducible assumption
    | intro _
    | (extract_lets +onlyGivenNames x; refine (fun (hx : Ok q x) => ?_) ?_; rotate_left; subst x; rotate_right; clear_value x)
    | with_reducible apply modStw_ok
    | with_reducible apply mbxPush_ok
    | split

theorem doRemove_ok (h : Ok q s) (id : BitVec 16) : Ok q (doRemove s id) := by
  unfold doRemove
  repeat' first
    | with_reducible assumption
    | intro _
    | (extract_lets +onlyGivenNames x; refine (fun (hx : Ok q x) => ?_) ?_; rotate_left; subst x; rotate_right; clear_value x)
    | (extract_lets +onlyGivenNames x; subst x)
    | with_reducible apply storeReg_ok
    | with_reducible apply rwRefuse_ok
    | with_reducible apply rwDone_ok
    | with_reducible apply logLater_ok
    | (with_reducible apply Ok.upd; with_reducible assumption)
    | split

theorem doShutdown.go_ok (h : Ok q s) (tag : BitVec 16) : Ok q (doShutdown.go tag s) := by
  unfold doShutdown.go
  repeat' first
    | with_reducible assumption
    | intro _
    | (extract_lets +onlyGivenNames x; refine (fun (hx : Ok q x) => ?_) ?_; rotate_left; subst x; rotate_right; clear_value x)
    | with_reducible apply logWrite_ok
    | with_reducible apply logFlush_ok
    | with_reducible apply powerDown_ok
    | with_reducible apply mbxReply_ok
    | with_reducible apply modBlk_ok
    | with_reducible apply Ok.foldl

theorem doShutdown_ok (h : Ok q s) (tag : BitVec 16) : Ok q (doShutdown s tag) := by
  unfold doShutdown
  repeat' first
    | with_reducible assumption
    | intro _
    | (extract_lets +onlyGivenNames x; subst x)
    | with_reducible apply mbxServe_ok
    | with_reducible apply mbxReply_ok
    | with_reducible apply doShutdown.go_ok
    | split

theorem telemWrite_ok (h : Ok q s) (x : Sensors) : Ok q (telemWrite s x) := by
  unfold telemWrite
  repeat' first
    | with_reducible assumption
    | intro _
    | (extract_lets +onlyGivenNames x; refine (fun (hx : Ok q x) => ?_) ?_; rotate_left; subst x; rotate_right; clear_value x)
    | (extract_lets +onlyGivenNames x; subst x)
    | with_reducible apply modStw_ok
    | with_reducible apply memWrite_ok
    | with_reducible apply latchPage_ok
    | ((with_reducible refine Ok.pods ?_ _ ?_); with_reducible assumption; simp)
    | with_reducible apply Ok.foldl

theorem doSnapshot_ok (h : Ok q s) (x : Sensors) : Ok q (doSnapshot s x) := by
  unfold doSnapshot
  repeat' first
    | with_reducible assumption
    | intro _
    | with_reducible apply telemWrite_ok
    | split

theorem doTelemNow_ok (h : Ok q s) (tag : BitVec 16) (x : Sensors) : Ok q (doTelemNow s tag x) := by
  unfold doTelemNow
  repeat' first
    | with_reducible assumption
    | intro _
    | (extract_lets +onlyGivenNames x; refine (fun (hx : Ok q x) => ?_) ?_; rotate_left; subst x; rotate_right; clear_value x)
    | with_reducible apply mbxServe_ok
    | with_reducible apply telemWrite_ok
    | with_reducible apply mbxReply_ok
    | split

end Sys2Proof.Machine
end

