-- ==== Sys2Proof/Laws/KeepFaults.lean ====
section
/-! SUPPORT. The operations of Machine/Faults.lean keep the invariant and the queue. -/

namespace Sys2Proof.Machine

variable {q : List Instr} {s t : State} {r : Rd}

theorem doFactory_ok (h : Ok q s) : Ok q (doFactory s) := by
  unfold doFactory
  repeat' first
    | with_reducible assumption
    | intro _
    | (extract_lets +onlyGivenNames x; refine (fun (hx : Ok q x) => ?_) ?_; rotate_left; subst x; rotate_right; clear_value x)
    | (extract_lets +onlyGivenNames x; subst x)
    | with_reducible apply zeroise_ok
    | (with_reducible apply Ok.upd; with_reducible assumption)
    | with_reducible apply Ok.foldl
    | split

theorem unitAction_ok (h : Ok q s) (src : ℕ) (i : ℕ) : Ok q (unitAction s src i) := by
  unfold unitAction
  repeat' first
    | with_reducible assumption
    | intro _
    | with_reducible apply pageErr_ok
    | with_reducible apply markSuspect_ok
    | split

theorem doFaultEvent_ok (h : Ok q s) (src : ℕ) (i : ℕ) (info : Word) (ctx : EventCtx) : Ok q (doFaultEvent s src i info ctx) := by
  unfold doFaultEvent
  repeat' first
    | with_reducible assumption
    | intro _
    | with_reducible apply unitAction_ok
    | with_reducible apply raiseAs_ok
    | split

theorem fltRefuse_ok (h : Ok q s) (code : ℕ) (o : ℕ) : Ok q (fltRefuse s code o) := by
  unfold fltRefuse
  repeat' first
    | with_reducible assumption
    | intro _
    | with_reducible apply refuse_ok
    | with_reducible apply pageErr_ok

theorem fltWrite_ok (h : Ok q s) (o : ℕ) (w : ℕ) : Ok q (fltWrite s o w) := by
  unfold fltWrite
  repeat' first
    | with_reducible assumption
    | intro _
    | with_reducible apply fltRefuse_ok
    | with_reducible apply noteRsv_ok
    | with_reducible apply storeReg_ok
    | split

theorem doFltCfg_ok (h : Ok q s) (addr : BitVec 10) (w : Word) : Ok q (doFltCfg s addr w) := by
  unfold doFltCfg
  repeat' first
    | with_reducible assumption
    | intro _
    | (extract_lets +onlyGivenNames x; subst x)
    | with_reducible apply fltWrite_ok
    | split

theorem doFreeze_ok (h : Ok q s) (on : Bool) : Ok q (doFreeze s on) := by
  unfold doFreeze
  repeat' first
    | with_reducible assumption
    | intro _
    | with_reducible apply modFlt_ok
    | with_reducible apply wrg_ok
    | with_reducible apply unfreeze_ok
    | split

theorem doFreezeTimeout_ok (h : Ok q s) : Ok q (doFreezeTimeout s) := by
  unfold doFreezeTimeout
  repeat' first
    | with_reducible assumption
    | intro _
    | with_reducible apply unfreeze_ok
    | split

theorem doWireFault_ok (h : Ok q s) (src : ℕ) (i : ℕ) (high : Bool) (ctx : EventCtx) : Ok q (doWireFault s src i high ctx) := by
  unfold doWireFault
  repeat' first
    | with_reducible assumption
    | intro _
    | (extract_lets +onlyGivenNames x; refine (fun (hx : Ok q x) => ?_) ?_; rotate_left; subst x; rotate_right; clear_value x)
    | (extract_lets +onlyGivenNames x; subst x)
    | with_reducible apply modFlt_ok
    | with_reducible apply bump_ok
    | with_reducible apply raiseAs_ok
    | (with_reducible apply Ok.upd; with_reducible assumption)
    | split

theorem flipWord_wf (m : Marrow) (k : ℕ) (x : BitVec 72) (h : m.wf = true) : (flipWord m k x).wf = true := by
  rw [Marrow.wf_iff] at h ⊢
  exact ⟨h.1, h.2.1, h.2.2.1, canon_sset _ _ _ _ h.2.2.2.1, h.2.2.2.2⟩

theorem doInject_ok (h : Ok q s) (x : Injection) : Ok q (doInject s x) := by
  unfold doInject
  repeat' first
    | with_reducible assumption
    | intro _
    | exact h.marrow _ (flipWord_wf _ _ _)
    | (extract_lets +onlyGivenNames x; subst x)
    | with_reducible apply doFaultEvent_ok
    | with_reducible apply draw_ok
    | with_reducible apply doWireFault_ok
    | split

theorem doSevereClear_ok (h : Ok q s) (mask : Word) : Ok q (doSevereClear s mask) := by
  unfold doSevereClear
  repeat' first
    | with_reducible assumption
    | intro _
    | (extract_lets +onlyGivenNames x; subst x)
    | with_reducible apply modFlt_ok
    | split

theorem doWireClear_ok (h : Ok q s) (src : ℕ) (i : ℕ) : Ok q (doWireClear s src i) := by
  unfold doWireClear
  repeat' first
    | with_reducible assumption
    | intro _
    | with_reducible apply modFlt_ok
    | split

end Sys2Proof.Machine
end

