-- ==== Sys2Proof/Laws/KeepPowerCtl.lean ====
section
/-! SUPPORT. The operations of Machine/PowerCtl.lean keep the invariant and the queue. -/

namespace Sys2Proof.Machine

variable {q : List Instr} {s t : State} {r : Rd}

theorem doDroop_ok (h : Ok q s) (p : ℕ) (mv : BitVec 16) : Ok q (doDroop s p mv) := by
  unfold doDroop
  repeat' first
    | with_reducible assumption
    | intro _
    | (extract_lets +onlyGivenNames x; refine (fun (hx : Ok q x) => ?_) ?_; rotate_left; subst x; rotate_right; clear_value x)
    | (extract_lets +onlyGivenNames x; subst x)
    | with_reducible apply modPod_ok
    | with_reducible apply raise_ok
    | with_reducible apply bump_ok
    | split

theorem doDroopCap_ok (h : Ok q s) : Ok q (doDroopCap s) := by
  unfold doDroopCap
  repeat' first
    | with_reducible assumption
    | intro _
    | with_reducible apply retarget_ok
    | ((with_reducible refine modPwr_ok ?_ _ ?_); rotate_left; exact fun h => h)
    | split

theorem doDroopEnd_ok (h : Ok q s) (p : ℕ) : Ok q (doDroopEnd s p) := by
  unfold doDroopEnd
  repeat' first
    | with_reducible assumption
    | intro _
    | with_reducible apply modPod_ok

theorem doIdleGate_ok (h : Ok q s) (p : ℕ) : Ok q (doIdleGate s p) := by
  unfold doIdleGate
  repeat' first
    | with_reducible assumption
    | intro _
    | (extract_lets +onlyGivenNames x; subst x)
    | with_reducible apply powerDown_ok
    | split

theorem doIlimFall_ok (h : Ok q s) : Ok q (doIlimFall s) := by
  unfold doIlimFall
  repeat' first
    | with_reducible assumption
    | intro _
    | ((with_reducible refine modPwr_ok ?_ _ ?_); rotate_left; exact fun h => h)

theorem doIlimReq_ok (h : Ok q s) (lvl : BitVec 2) : Ok q (doIlimReq s lvl) := by
  unfold doIlimReq
  repeat' first
    | with_reducible assumption
    | intro _
    | with_reducible apply takeIlim_ok
    | ((with_reducible refine modPwr_ok ?_ _ ?_); rotate_left; exact fun h => h)
    | split

theorem doMapOutDone_ok (h : Ok q s) (p : ℕ) : Ok q (doMapOutDone s p) := by
  unfold doMapOutDone
  repeat' first
    | with_reducible assumption
    | intro _
    | with_reducible apply powerDown_ok
    | with_reducible apply setPodSt_ok
    | split

theorem writeNMax_ok (h : Ok q s) (w : ℕ) : Ok q (writeNMax s w) := by
  unfold writeNMax
  repeat' first
    | with_reducible assumption
    | intro _
    | with_reducible apply refuse_ok
    | with_reducible apply noteRsv_ok
    | with_reducible apply retarget_ok
    | with_reducible apply storeReg_ok
    | split

theorem doNMax_ok (h : Ok q s) (w : Word) : Ok q (doNMax s w) := by
  unfold doNMax
  repeat' first
    | with_reducible assumption
    | intro _
    | with_reducible apply writeNMax_ok
    | split

theorem dropSpare_ok (h : Ok q s) : Ok q (dropSpare s) := by
  unfold dropSpare
  repeat' first
    | with_reducible assumption
    | intro _
    | (extract_lets +onlyGivenNames x; refine (fun (hx : Ok q x) => ?_) ?_; rotate_left; subst x; rotate_right; clear_value x)
    | (extract_lets +onlyGivenNames x; subst x)
    | with_reducible apply powerDown_ok
    | with_reducible apply zeroise_ok
    | with_reducible apply modPod_ok
    | (with_reducible apply Ok.upd; with_reducible assumption)
    | split

theorem rollDone_ok (h : Ok q s) (p : ℕ) : Ok q (rollDone s p) := by
  unfold rollDone
  repeat' first
    | with_reducible assumption
    | intro _
    | (extract_lets +onlyGivenNames x; refine (fun (hx : Ok q x) => ?_) ?_; rotate_left; subst x; rotate_right; clear_value x)
    | (extract_lets +onlyGivenNames x; subst x)
    | with_reducible apply dropSpare_ok
    | (with_reducible apply Ok.upd; with_reducible assumption)
    | split

theorem startTest_ok (h : Ok q s) (p : ℕ) (why : TestWhy) : Ok q (startTest s p why) := by
  unfold startTest
  repeat' first
    | with_reducible assumption
    | intro _
    | with_reducible apply powerUp_ok
    | with_reducible apply modPod_ok

theorem failWaiting_ok (h : Ok q s) (l : ℕ) : Ok q (failWaiting s l) := by
  unfold failWaiting
  repeat' first
    | with_reducible assumption
    | intro _
    | (extract_lets +onlyGivenNames x; refine (fun (hx : Ok q x) => ?_) ?_; rotate_left; subst x; rotate_right; clear_value x)
    | (extract_lets +onlyGivenNames x; subst x)
    | with_reducible apply settleGroups_ok
    | with_reducible apply endWork_ok
    | with_reducible apply setJobSt_ok
    | with_reducible apply modJob_ok
    | with_reducible apply Ok.foldl

theorem serveVacant_ok (h : Ok q s) : Ok q (serveVacant s) := by
  unfold serveVacant
  repeat' first
    | with_reducible assumption
    | intro _
    | with_reducible apply startTest_ok
    | with_reducible apply failWaiting_ok
    | with_reducible apply Ok.foldl
    | split

theorem failTest_ok (h : Ok q s) (p : ℕ) (step : ℕ) (pack : ℕ) : Ok q (failTest s p step pack) := by
  unfold failTest
  repeat' first
    | with_reducible assumption
    | intro _
    | (extract_lets +onlyGivenNames x; refine (fun (hx : Ok q x) => ?_) ?_; rotate_left; subst x; rotate_right; clear_value x)
    | with_reducible apply raise_ok
    | with_reducible apply mapOut_ok
    | with_reducible apply serveVacant_ok
    | with_reducible apply modPod_ok

theorem passTest_ok (h : Ok q s) (p : ℕ) : Ok q (passTest s p) := by
  unfold passTest
  repeat' first
    | with_reducible assumption
    | intro _
    | with_reducible apply modPod_ok

theorem doPodTest_ok (h : Ok q s) (p : ℕ) (r : PodTestResult) : Ok q (doPodTest s p r) := by
  unfold doPodTest
  repeat' first
    | with_reducible assumption
    | intro _
    | (extract_lets +onlyGivenNames x; refine (fun (hx : Ok q x) => ?_) ?_; rotate_left; subst x; rotate_right; clear_value x)
    | (extract_lets +onlyGivenNames x; subst x)
    | with_reducible apply rollDone_ok
    | with_reducible apply failTest_ok
    | with_reducible apply serveVacant_ok
    | with_reducible apply toIdle_ok
    | with_reducible apply modPod_ok
    | with_reducible apply assignId_ok
    | with_reducible apply passTest_ok
    | with_reducible apply powerDown_ok
    | (with_reducible apply Ok.upd; with_reducible assumption)
    | split

/-- A step of the root multiplier stays in range. -/
theorem rootUp_wf (p : Power) (h : p.wf = true) : ({ p with rootN := min 48 (p.rootN + 1), slewing := false } : Power).wf = true := by
  rw [Power.wf_iff] at h ⊢
  simp only
  omega

theorem rootDown_wf (p : Power) (h : p.wf = true) : ({ p with rootN := max 24 (p.rootN - 1), slewing := false } : Power).wf = true := by
  rw [Power.wf_iff] at h ⊢
  simp only
  omega

theorem doRootStep_ok (h : Ok q s) : Ok q (doRootStep s) := by
  unfold doRootStep
  repeat' first
    | with_reducible assumption
    | intro _
    | (extract_lets +onlyGivenNames x; refine (fun (hx : Ok q x) => ?_) ?_; rotate_left; subst x; rotate_right; clear_value x)
    | (with_reducible refine modPwr_ok ?_ _ (rootUp_wf _))
    | (with_reducible refine modPwr_ok ?_ _ (rootDown_wf _))
    | with_reducible apply bump_ok
    | with_reducible apply requestV_ok
    | with_reducible apply ilimAnswer_ok
    | with_reducible apply advanceRoot_ok
    | split

theorem doSpareDue_ok (h : Ok q s) (p : ℕ) : Ok q (doSpareDue s p) := by
  unfold doSpareDue
  repeat' first
    | with_reducible assumption
    | intro _
    | with_reducible apply startTest_ok
    | split

theorem withdraw_ok (h : Ok q s) (p : ℕ) : Ok q (withdraw s p) := by
  unfold withdraw
  repeat' first
    | with_reducible assumption
    | intro _
    | (extract_lets +onlyGivenNames x; refine (fun (hx : Ok q x) => ?_) ?_; rotate_left; subst x; rotate_right; clear_value x)
    | (extract_lets +onlyGivenNames x; subst x)
    | with_reducible apply zeroise_ok
    | with_reducible apply rollDone_ok
    | with_reducible apply mapOutTo_ok
    | with_reducible apply modPod_ok

theorem doSuspectDone_ok (h : Ok q s) : Ok q (doSuspectDone s) := by
  unfold doSuspectDone
  repeat' first
    | with_reducible assumption
    | intro _
    | (extract_lets +onlyGivenNames x; refine (fun (hx : Ok q x) => ?_) ?_; rotate_left; subst x; rotate_right; clear_value x)
    | with_reducible apply withdraw_ok
    | with_reducible apply modBlk_ok
    | with_reducible apply serveVacant_ok
    | with_reducible apply Ok.foldl
    | split

theorem failPowerUp_ok (h : Ok q s) (p : ℕ) (step : ℕ) : Ok q (failPowerUp s p step) := by
  unfold failPowerUp
  repeat' first
    | with_reducible assumption
    | intro _
    | (extract_lets +onlyGivenNames x; refine (fun (hx : Ok q x) => ?_) ?_; rotate_left; subst x; rotate_right; clear_value x)
    | (extract_lets +onlyGivenNames x; subst x)
    | with_reducible apply setPodSt_ok
    | with_reducible apply modBlk_ok
    | with_reducible apply failTest_ok
    | (with_reducible apply Ok.upd; with_reducible assumption)
    | split

theorem dropLive_ok (h : Ok q s) (f : ℕ × ℕ → Bool) :
    Ok q { s with regs := { s.regs with live := s.regs.live.filter f } } := by
  refine h.regs _ fun hr => ?_
  rw [RegFile.wf_iff] at hr ⊢
  exact ⟨hr.1, hr.2.1, canon_filter _ _ _ hr.2.2.1, hr.2.2.2⟩

theorem doSwAck_ok (h : Ok q s) (p : ℕ) (level : Bool) (copyOk : Bool) : Ok q (doSwAck s p level copyOk) := by
  unfold doSwAck
  repeat' first
    | with_reducible assumption
    | intro _
    | (extract_lets +onlyGivenNames x; refine (fun (hx : Ok q x) => ?_) ?_; rotate_left; subst x; rotate_right; clear_value x)
    | (with_reducible apply dropLive_ok; with_reducible assumption)
    | (extract_lets +onlyGivenNames x; subst x)
    | with_reducible apply modPod_ok
    | with_reducible apply bump_ok
    | with_reducible apply zeroise_ok
    | with_reducible apply failPowerUp_ok
    | (with_reducible apply Ok.upd; with_reducible assumption)
    | split

theorem doSwTimeout_ok (h : Ok q s) (p : ℕ) : Ok q (doSwTimeout s p) := by
  unfold doSwTimeout
  repeat' first
    | with_reducible assumption
    | intro _
    | (extract_lets +onlyGivenNames x; subst x)
    | with_reducible apply failPowerUp_ok
    | with_reducible apply raise_ok
    | with_reducible apply powerDown_ok
    | split

theorem sampleExtremes_ok (h : Ok q s) (x : Sensors) : Ok q (sampleExtremes s x) := by
  unfold sampleExtremes
  repeat' first
    | with_reducible assumption
    | intro _
    | (refine Ok.pods ‹_› _ (by simp [allPods, (Ok.inv ‹Ok q _›).pods]))
    | (extract_lets +onlyGivenNames x; subst x)
    | with_reducible apply modStw_ok

theorem nextTherm_wf (s : State) (hot : BitVec 16) (p : Power) (h : p.wf = true) : (nextTherm s hot p).wf = true := by
  have e : (nextTherm s hot p).rootN = p.rootN ∧ (nextTherm s hot p).targetN = p.targetN := by
    unfold nextTherm
    simp only
    repeat' split
    all_goals exact ⟨rfl, rfl⟩
  rw [Power.wf_iff] at h ⊢
  rw [e.1, e.2]
  exact h

theorem nextPower_wf (s : State) (x : Sensors) (p : Power) (h : p.wf = true) : (nextPower s x p).wf = true := by
  have e : (nextPower s x p).rootN = p.rootN ∧ (nextPower s x p).targetN = p.targetN := by
    unfold nextPower
    simp only
    repeat' split
    all_goals exact ⟨rfl, rfl⟩
  rw [Power.wf_iff] at h ⊢
  rw [e.1, e.2]
  exact h

theorem doThrottle_ok (h : Ok q s) (x : Sensors) : Ok q (doThrottle s x) := by
  unfold doThrottle
  repeat' first
    | with_reducible assumption
    | intro _
    | (extract_lets +onlyGivenNames x; refine (fun (hx : Ok q x) => ?_) ?_; rotate_left; subst x; rotate_right; clear_value x)
    | (refine modPwr_ok ‹_› _ (fun h => nextPower_wf _ _ _ (nextTherm_wf _ _ _ h)))
    | (extract_lets +onlyGivenNames x; subst x)
    | with_reducible apply sampleExtremes_ok
    | with_reducible apply raise_ok
    | with_reducible apply retarget_ok
    | split

theorem doVreqAck_ok (h : Ok q s) : Ok q (doVreqAck s) := by
  unfold doVreqAck
  repeat' first
    | with_reducible assumption
    | intro _
    | with_reducible apply advanceRoot_ok
    | ((with_reducible refine modPwr_ok ?_ _ ?_); rotate_left; exact fun h => h)
    | split

end Sys2Proof.Machine
end

