-- ==== Sys2Proof/Laws/KeepSync.lean ====
section
/-! SUPPORT. The operations of Machine/Sync.lean keep the invariant and the queue. -/

namespace Sys2Proof.Machine

variable {q : List Instr} {s t : State} {r : Rd}

theorem canon_sput {α : Type} [DecidableEq α] (m : List (ℕ × α)) (k : ℕ) (v d : α) (h : canon m d = true) (hv : v ≠ d) :
    canon (sput m k v) d = true := by
  rw [canon_iff] at h ⊢
  refine ⟨rising_sput m k v h.1, fun e he => ?_⟩
  rcases mem_sput he with rfl | he
  · exact hv
  · exact h.2 e he

theorem canon_foldl_sput {α : Type} [DecidableEq α] (l m : List (ℕ × α)) (f : ℕ → ℕ) (d : α) (hl : ∀ e ∈ l, e.2 ≠ d)
    (h : canon m d = true) : canon (l.foldl (fun a e => sput a (f e.1) e.2) m) d = true := by
  induction l generalizing m with
  | nil => exact h
  | cons e l ih =>
    exact ih _ (fun x hx => hl x (List.mem_cons_of_mem _ hx)) (canon_sput m _ _ d h (hl e List.mem_cons_self))

theorem canon_moved {α : Type} [DecidableEq α] (a m : List (ℕ × α)) (g : ℕ × α → Bool) (f : ℕ → ℕ) (d : α)
    (ha : canon a d = true) (h : canon m d = true) :
    canon ((a.filter g).foldl (fun a e => sput a (f e.1) e.2) m) d = true :=
  canon_foldl_sput _ _ f d (fun e he => ((canon_iff a d).1 ha).2 e (List.mem_of_mem_filter he)) h

theorem nrising_moved (a m : List ℕ) (f : ℕ → ℕ) (h : nrising m = true) :
    nrising (a.foldl (fun a k => nins a (f k)) m) = true := by
  induction a generalizing m with
  | nil => exact h
  | cons e l ih => exact ih _ (nrising_nins _ _ h)

theorem canon_foldl_sset {α : Type} [DecidableEq α] {β : Type} (l : List β) (m : List (ℕ × α)) (f : β → ℕ) (g : β → α) (d : α)
    (h : canon m d = true) : canon (l.foldl (fun a k => sset a (f k) (g k) d) m) d = true := by
  induction l generalizing m with
  | nil => exact h
  | cons e l ih => exact ih _ (canon_sset _ _ _ _ h)

theorem copyMarrow_wf (m : Marrow) (t p : ℕ) (h : m.wf = true) : (copyMarrow m t p).wf = true := by
  have hz := (Marrow.wf_iff _).1 (zeroiseMarrow_wf m p h)
  rw [Marrow.wf_iff] at h
  exact (Marrow.wf_iff _).2 ⟨canon_foldl_sset _ _ _ _ _ (canon_moved _ _ _ (fun k => p * 6291456 + k % 6291456) _ h.1 hz.1),
    nrising_moved _ _ (fun k => p * 98304 + k % 98304) hz.2.1, nrising_moved _ _ (fun k => p * 98304 + k % 98304) hz.2.2.1,
    hz.2.2.2.1, canon_moved _ _ _ (fun k => p * 32768 + k % 32768) _ h.2.2.2.2.1 hz.2.2.2.2.1,
    nrising_moved _ _ (fun k => p * 32768 + k % 32768) hz.2.2.2.2.2⟩

theorem beginDrain_ok (h : Ok q s) (j : ℕ) : Ok q (beginDrain s j) := by
  unfold beginDrain
  repeat' first
    | with_reducible assumption
    | intro _
    | (extract_lets +onlyGivenNames x; refine (fun (hx : Ok q x) => ?_) ?_; rotate_left; subst x; rotate_right; clear_value x)
    | with_reducible apply settleGroups_ok
    | with_reducible apply endCopy_ok
    | with_reducible apply leaveGroups_ok
    | with_reducible apply setJobSt_ok
    | with_reducible apply setPodSt_ok
    | with_reducible apply Ok.foldl
    | split

theorem checkSlice_ok (h : Ok q s) (xt : ℕ) : Ok q (checkSlice s xt) := by
  unfold checkSlice
  repeat' first
    | with_reducible assumption
    | intro _
    | with_reducible apply checkLine_ok
    | with_reducible apply Ok.foldl

theorem commitSwap_ok (h : Ok q s) (t p : ℕ) : Ok q (commitSwap s t p) := by
  unfold commitSwap
  extract_lets x s1 s2 s3 s4 s5 s6 s7 s8
  have h1 : Ok q s1 := checkSlice_ok h _
  have h2 : Ok q s2 := h1.marrow _ fun h => zeroiseMarrow_wf _ _ (copyMarrow_wf _ _ _ h)
  have h8 : Ok q s8 := logWrite_ok (modPod_ok (setPodSt_ok (modPod_ok (modPod_ok (setPodSt_ok h2 _ _) _ _) _ _) _ _) _ _) _
  clear_value s8
  exact h8.upd ..

theorem courierArrive_ok (h : Ok q s) (j : ℕ) (k : ℕ) : Ok q (courierArrive s j k) := by
  unfold courierArrive
  repeat' first
    | with_reducible assumption
    | intro _
    | (extract_lets +onlyGivenNames x; subst x)
    | with_reducible apply sendFlit_ok
    | with_reducible apply Ok.foldl
    | split

theorem digestDue_ok (h : Ok q s) (j : ℕ) (k : ℕ) : Ok q (digestDue s j k) := by
  unfold digestDue
  repeat' first
    | with_reducible assumption
    | intro _
    | (extract_lets +onlyGivenNames x; subst x)
    | with_reducible apply modNode_ok
    | with_reducible apply Ok.foldl
    | split

theorem doDump_ok (h : Ok q s) : Ok q (doDump s) := by
  unfold doDump
  repeat' first
    | with_reducible assumption
    | intro _
    | with_reducible apply refuse_ok
    | with_reducible apply dumpStart_ok
    | split

theorem endStreams_ok (h : Ok q s) (j : ℕ) : Ok q (endStreams s j) := by
  unfold endStreams
  repeat' first
    | with_reducible assumption
    | intro _
    | with_reducible apply finish_ok
    | with_reducible apply Ok.foldl

theorem latchRelease_ok (h : Ok q s) (b : ℕ) (j : ℕ) : Ok q (latchRelease s b j) := by
  unfold latchRelease
  repeat' first
    | with_reducible assumption
    | intro _
    | (extract_lets +onlyGivenNames x; refine (fun (hx : Ok q x) => ?_) ?_; rotate_left; subst x; rotate_right; clear_value x)
    | with_reducible apply latchPage_ok
    | with_reducible apply Ok.foldl
    | split

theorem releaseMember_ok (h : Ok q s) (j : ℕ) (k : ℕ) (m : ℕ) : Ok q (releaseMember s j k m) := by
  unfold releaseMember
  repeat' first
    | with_reducible assumption
    | intro _
    | (extract_lets +onlyGivenNames x; refine (fun (hx : Ok q x) => ?_) ?_; rotate_left; subst x; rotate_right; clear_value x)
    | (extract_lets +onlyGivenNames x; subst x)
    | with_reducible apply modEdge_ok
    | with_reducible apply mpSet_ok
    | with_reducible apply Ok.foldl
    | split

theorem swapAtRelease_ok (h : Ok q s) (j : ℕ) : Ok q (swapAtRelease s j) := by
  unfold swapAtRelease
  repeat' first
    | with_reducible assumption
    | intro _
    | (extract_lets +onlyGivenNames x; subst x)
    | with_reducible apply commitSwap_ok
    | with_reducible apply abandonSwap_ok
    | split

theorem stageDrain_ok (h : Ok q s) (j : ℕ) (k : ℕ) : Ok q (stageDrain s j k) := by
  unfold stageDrain
  repeat' first
    | with_reducible assumption
    | intro _
    | with_reducible apply beginDrain_ok
    | with_reducible apply modJob_ok
    | split

theorem gateRelease_ok (h : Ok q s) (b : ℕ) : Ok q (gateRelease s b) := by
  unfold gateRelease
  repeat' first
    | with_reducible assumption
    | intro _
    | (extract_lets +onlyGivenNames x; refine (fun (hx : Ok q x) => ?_) ?_; rotate_left; subst x; rotate_right; clear_value x)
    | (extract_lets +onlyGivenNames x; subst x)
    | with_reducible apply latchRelease_ok
    | with_reducible apply modGate_ok
    | with_reducible apply bump_ok
    | with_reducible apply releaseMember_ok
    | with_reducible apply rewindJob_ok
    | with_reducible apply digestDue_ok
    | with_reducible apply courierArrive_ok
    | with_reducible apply swapAtRelease_ok
    | with_reducible apply stageDrain_ok
    | with_reducible apply Ok.foldl
    | split

theorem doRelease_ok (h : Ok q s) (b : ℕ) : Ok q (doRelease s b) := by
  unfold doRelease
  repeat' first
    | with_reducible assumption
    | intro _
    | (extract_lets +onlyGivenNames x; subst x)
    | with_reducible apply endStreams_ok
    | with_reducible apply gateRelease_ok
    | split

theorem mpRefuse_ok (h : Ok q s) (code : ℕ) : Ok q (mpRefuse s code) := by
  unfold mpRefuse
  repeat' first
    | with_reducible assumption
    | intro _
    | with_reducible apply refuse_ok
    | with_reducible apply wrg_ok

theorem mpOp_ok (h : Ok q s) (w : ℕ) : Ok q (mpOp s w) := by
  unfold mpOp
  repeat' first
    | with_reducible assumption
    | intro _
    | (extract_lets +onlyGivenNames x; refine (fun (hx : Ok q x) => ?_) ?_; rotate_left; subst x; rotate_right; clear_value x)
    | (extract_lets +onlyGivenNames x; subst x)
    | with_reducible apply wrg_ok
    | with_reducible apply storeReg_ok
    | with_reducible apply mpRefuse_ok
    | with_reducible apply mpSet_ok
    | with_reducible apply mpClear_ok
    | with_reducible apply mpZero_ok
    | split

theorem tgCfg_ok (h : Ok q s) (b : ℕ) (w : ℕ) : Ok q (tgCfg s b w) := by
  unfold tgCfg
  repeat' first
    | with_reducible assumption
    | intro _
    | (extract_lets +onlyGivenNames x; subst x)
    | with_reducible apply refuse_ok
    | with_reducible apply noteRsv_ok
    | with_reducible apply modGate_ok
    | split

theorem tgRefuse_ok (h : Ok q s) (code : ℕ) : Ok q (tgRefuse s code) := by
  unfold tgRefuse
  repeat' first
    | with_reducible assumption
    | intro _
    | with_reducible apply refuse_ok
    | with_reducible apply wrg_ok

theorem tgCmd_ok (h : Ok q s) (w : ℕ) : Ok q (tgCmd s w) := by
  unfold tgCmd
  repeat' first
    | with_reducible assumption
    | intro _
    | (extract_lets +onlyGivenNames x; refine (fun (hx : Ok q x) => ?_) ?_; rotate_left; subst x; rotate_right; clear_value x)
    | (extract_lets +onlyGivenNames x; subst x)
    | with_reducible apply wrg_ok
    | with_reducible apply storeReg_ok
    | with_reducible apply tgRefuse_ok
    | with_reducible apply gateArriveExt_ok
    | with_reducible apply modGate_ok
    | with_reducible apply failJob_ok
    | split

end Sys2Proof.Machine
end

