-- ==== Sys2Proof/Laws/KeepXfer.lean ====
section
/-! SUPPORT. The operations of Machine/Xfer.lean keep the invariant and the queue. -/

namespace Sys2Proof.Machine

variable {q : List Instr} {s t : State} {r : Rd}

theorem contextFor_ok (h : Ok q s) (p j n r m : ℕ) (x : State × ℕ) (e : contextFor s p j n r m = some x) : Ok q x.1 := by
  unfold contextFor at e
  split at e
  · split at e
    · cases e; exact h
    · cases e
  · obtain ⟨c, -, rfl⟩ := Option.map_eq_some_iff.1 e
    dsimp only
    exact modMem_ok h _

theorem dropHeld_ok (h : Ok q s) (n : ℕ) (xt : ℕ) : Ok q (dropHeld s n xt) := by
  unfold dropHeld
  repeat' first
    | with_reducible assumption
    | intro _
    | (extract_lets +onlyGivenNames x; subst x)
    | with_reducible apply modMem_ok

theorem endHolds_ok (h : Ok q s) (f : MemReq → Bool) : Ok q (endHolds s f) := by
  unfold endHolds
  repeat' first
    | with_reducible assumption
    | intro _
    | (extract_lets +onlyGivenNames x; subst x)
    | with_reducible apply sendReq_ok
    | with_reducible apply modMem_ok
    | with_reducible apply Ok.foldl

theorem expireHolds_ok (h : Ok q s) (p : ℕ) : Ok q (expireHolds s p) := by
  unfold expireHolds
  repeat' first
    | with_reducible assumption
    | intro _
    | with_reducible apply endHolds_ok
    | split

theorem modXfer_ok (h : Ok q s) (n : ℕ) (f : Xfer → Xfer) : Ok q (modXfer s n f) := by
  unfold modXfer
  repeat' first
    | with_reducible assumption
    | intro _
    | with_reducible apply modMem_ok

theorem faultTile_ok (h : Ok q s) (n : ℕ) (xt : ℕ) (a : ℕ) : Ok q (faultTile s n xt a) := by
  unfold faultTile
  repeat' first
    | with_reducible assumption
    | intro _
    | (extract_lets +onlyGivenNames x; subst x)
    | with_reducible apply modXfer_ok
    | with_reducible apply dropHeld_ok

theorem holdReq_ok (h : Ok q s) (r : MemReq) : Ok q (holdReq s r) := by
  unfold holdReq
  repeat' first
    | with_reducible assumption
    | intro _
    | (extract_lets +onlyGivenNames x; refine (fun (hx : Ok q x) => ?_) ?_; rotate_left; subst x; rotate_right; clear_value x)
    | (extract_lets +onlyGivenNames x; subst x)
    | with_reducible apply bump_ok
    | with_reducible apply modMem_ok
    | with_reducible apply sendReq_ok
    | split

theorem modMove_ok (h : Ok q s) (i : ℕ) (f : BufMove → BufMove) : Ok q (modMove s i f) := by
  unfold modMove
  repeat' first
    | with_reducible assumption
    | intro _
    | with_reducible apply modMem_ok

theorem modOp_ok (h : Ok q s) (i : ℕ) (f : TileOp → TileOp) : Ok q (modOp s i f) := by
  unfold modOp
  repeat' first
    | with_reducible assumption
    | intro _
    | (with_reducible apply Ok.upd; with_reducible assumption)

theorem postFault_ok (h : Ok q s) (x : Xfer) : Ok q (postFault s x) := by
  unfold postFault
  repeat' first
    | with_reducible assumption
    | intro _
    | (extract_lets +onlyGivenNames x; refine (fun (hx : Ok q x) => ?_) ?_; rotate_left; subst x; rotate_right; clear_value x)
    | with_reducible apply bump_ok
    | with_reducible apply raise_ok
    | with_reducible apply modXfer_ok
    | with_reducible apply pageErr_ok
    | with_reducible apply addDue_ok
    | split

theorem putTile_ok (h : Ok q s) (b : BufMove) (p : ℕ) (n : ℕ) : Ok q (putTile s b p n) := by
  unfold putTile
  repeat' first
    | with_reducible assumption
    | intro _
    | (extract_lets +onlyGivenNames x; refine (fun (hx : Ok q x) => ?_) ?_; rotate_left; subst x; rotate_right; clear_value x)
    | with_reducible apply modXfer_ok
    | with_reducible apply modMove_ok
    | with_reducible apply holdReq_ok
    | with_reducible apply Ok.foldl

theorem sendMove_ok (h : Ok q s) (b : BufMove) : Ok q (sendMove s b) := by
  unfold sendMove
  repeat' first
    | with_reducible assumption
    | intro _
    | (extract_lets +onlyGivenNames x; subst x)
    | with_reducible apply putTile_ok
    | with_reducible apply modMem_ok
    | split

theorem pumpMoves_ok (h : Ok q s) : Ok q (pumpMoves s) := by
  unfold pumpMoves
  repeat' first
    | with_reducible assumption
    | intro _
    | with_reducible apply sendMove_ok
    | with_reducible apply Ok.foldl
    | split

theorem releaseXfer_ok (h : Ok q s) (n : ℕ) : Ok q (releaseXfer s n) := by
  unfold releaseXfer
  repeat' first
    | with_reducible assumption
    | intro _
    | with_reducible apply modMem_ok
    | split

theorem ringHolds_ok (h : Ok q s) (n : ℕ) : Ok q (ringHolds s n) := by
  unfold ringHolds
  repeat' first
    | with_reducible assumption
    | intro _
    | with_reducible apply endHolds_ok

theorem sendOp_ok (h : Ok q s) (i : ℕ) (rs : List MemReq) : Ok q (sendOp s i rs) := by
  unfold sendOp
  repeat' first
    | with_reducible assumption
    | intro _
    | with_reducible apply holdReq_ok
    | with_reducible apply modOp_ok
    | with_reducible apply Ok.foldl

theorem settleXfer_ok (h : Ok q s) (n : ℕ) : Ok q (settleXfer s n) := by
  unfold settleXfer
  repeat' first
    | with_reducible assumption
    | intro _
    | with_reducible apply postFault_ok
    | split

theorem startMove_ok (h : Ok q s) (j : ℕ) (m : ℕ) (n : ℕ) (r : ℕ) (tiles : List (List MemReq)) (ends : MoveEnd) (blocks : List BlockRead) : Ok q (startMove s j m n r tiles ends blocks) := by
  unfold startMove
  repeat' first
    | with_reducible assumption
    | intro _
    | (extract_lets +onlyGivenNames x; subst x)
    | with_reducible apply pumpMoves_ok
    | with_reducible apply modMem_ok
    | (with_reducible apply Ok.upd; with_reducible assumption)
    | split

end Sys2Proof.Machine
end

