-- ==== Sys2Proof/Laws/KeepEngine.lean ====
section
/-! SUPPORT. The operations of Machine/Engine.lean keep the invariant and the queue. -/

namespace Sys2Proof.Machine

variable {q : List Instr} {s t : State} {r : Rd}

theorem advanceWork_ok (h : Ok q s) (c : Cand) (total : ℕ) : Ok q (advanceWork s c total) := by
  unfold advanceWork
  repeat' first
    | with_reducible assumption
    | intro _
    | (extract_lets +onlyGivenNames x; subst x)
    | with_reducible apply modNode_ok

theorem arrivals_ok (h : Ok q s) (j : ℕ) : Ok q (arrivals s j) := by
  unfold arrivals
  repeat' first
    | with_reducible assumption
    | intro _
    | (extract_lets +onlyGivenNames x; subst x)
    | with_reducible apply gateArriveMember_ok
    | with_reducible apply Ok.foldl
    | split

theorem modRecord_ok (h : Ok q s) (o : TileOp) (f : DecodeJob → DecodeJob) : Ok q (modRecord s o f) := by
  unfold modRecord
  repeat' first
    | with_reducible assumption
    | intro _
    | (with_reducible apply Ok.upd; with_reducible assumption)

theorem bandsDone_ok (h : Ok q s) (o : TileOp) : Ok q (bandsDone s o) := by
  unfold bandsDone
  repeat' first
    | with_reducible assumption
    | intro _
    | with_reducible apply modRecord_ok

theorem beginWork_ok (h : Ok q s) (c : Cand) : Ok q (beginWork s c) := by
  unfold beginWork
  repeat' first
    | with_reducible assumption
    | intro _
    | (extract_lets +onlyGivenNames x; refine (fun (hx : Ok q x) => ?_) ?_; rotate_left; subst x; rotate_right; clear_value x)
    | (extract_lets +onlyGivenNames x; subst x)
    | with_reducible apply takeEmpty_ok
    | with_reducible apply modEdge_ok
    | with_reducible apply Ok.foldl

theorem consume_ok (h : Ok q s) (c : Cand) (ws : List WByte) (n : ℕ) : Ok q (consume s c ws n) := by
  unfold consume
  repeat' first
    | with_reducible assumption
    | intro _
    | (extract_lets +onlyGivenNames x; refine (fun (hx : Ok q x) => ?_) ?_; rotate_left; subst x; rotate_right; clear_value x)
    | with_reducible apply bump_ok
    | with_reducible apply writeAll_ok
    | with_reducible apply failJob_ok

theorem dropOp_ok (h : Ok q s) (i : ℕ) : Ok q (dropOp s i) := by
  unfold dropOp
  repeat' first
    | with_reducible assumption
    | intro _
    | (extract_lets +onlyGivenNames x; refine (fun (hx : Ok q x) => ?_) ?_; rotate_left; subst x; rotate_right; clear_value x)
    | (extract_lets +onlyGivenNames x; subst x)
    | with_reducible apply releaseXfer_ok
    | (with_reducible apply Ok.upd; with_reducible assumption)
    | split

theorem discardOp_ok (h : Ok q s) (o : TileOp) : Ok q (discardOp s o) := by
  unfold discardOp
  repeat' first
    | with_reducible assumption
    | intro _
    | with_reducible apply discardSlot_ok
    | with_reducible apply dropOp_ok
    | with_reducible apply Ok.foldl

theorem handOver_ok (h : Ok q s) (o : TileOp) (outs : List (ℕ × ℕ)) (ins : List (ℕ × ℕ)) : Ok q (handOver s o outs ins) := by
  unfold handOver
  repeat' first
    | with_reducible assumption
    | intro _
    | (extract_lets +onlyGivenNames x; refine (fun (hx : Ok q x) => ?_) ?_; rotate_left; subst x; rotate_right; clear_value x)
    | (extract_lets +onlyGivenNames x; subst x)
    | with_reducible apply endHolds_ok
    | with_reducible apply announce_ok
    | with_reducible apply releaseSlot_ok
    | with_reducible apply Ok.foldl
    | split

theorem takeBuffers_ok (h : Ok q s) (n : ℕ) (u : PoolUser) : Ok q (takeBuffers s n u) := by
  unfold takeBuffers
  repeat' first
    | with_reducible assumption
    | intro _
    | (extract_lets +onlyGivenNames x; subst x)
    | with_reducible apply modMem_ok

theorem installField_ok (h : Ok q s) (o : TileOp) : Ok q (installField s o) := by
  unfold installField
  repeat' first
    | with_reducible assumption
    | intro _
    | (extract_lets +onlyGivenNames x; refine (fun (hx : Ok q x) => ?_) ?_; rotate_left; subst x; rotate_right; clear_value x)
    | (extract_lets +onlyGivenNames x; subst x)
    | with_reducible apply takeBuffers_ok
    | with_reducible apply startMove_ok
    | (with_reducible apply Ok.upd; with_reducible assumption)
    | split

theorem stopSettle_ok (h : Ok q s) (n : ℕ) : Ok q (stopSettle s n) := by
  unfold stopSettle
  repeat' first
    | with_reducible assumption
    | intro _
    | (extract_lets +onlyGivenNames x; refine (fun (hx : Ok q x) => ?_) ?_; rotate_left; subst x; rotate_right; clear_value x)
    | (extract_lets +onlyGivenNames x; subst x)
    | with_reducible apply addDue_ok
    | with_reducible apply bump32_ok
    | with_reducible apply arbSettle_ok
    | with_reducible apply modSq_ok
    | split

theorem nodeRetired_ok (h : Ok q s) (j : ℕ) (n : ℕ) (r : ℕ) : Ok q (nodeRetired s j n r) := by
  unfold nodeRetired
  repeat' first
    | with_reducible assumption
    | intro _
    | with_reducible apply stopSettle_ok
    | with_reducible apply modEntry_ok
    | split

theorem pictureDone_ok (h : Ok q s) (d : DecodeJob) : Ok q (pictureDone s d) := by
  unfold pictureDone
  repeat' first
    | with_reducible assumption
    | intro _
    | (extract_lets +onlyGivenNames x; refine (fun (hx : Ok q x) => ?_) ?_; rotate_left; subst x; rotate_right; clear_value x)
    | (extract_lets +onlyGivenNames x; subst x)
    | with_reducible apply bump_ok
    | (with_reducible apply Ok.upd; with_reducible assumption)
    | split

theorem picturesEnd_ok (h : Ok q s) (j : ℕ) (r : ℕ) : Ok q (picturesEnd s j r) := by
  unfold picturesEnd
  repeat' first
    | with_reducible assumption
    | intro _
    | with_reducible apply pictureDone_ok
    | with_reducible apply Ok.foldl
    | split

theorem endRecord_ok (h : Ok q s) (o : TileOp) (outs : List (ℕ × ℕ)) (ins : List (ℕ × ℕ)) : Ok q (endRecord s o outs ins) := by
  unfold endRecord
  repeat' first
    | with_reducible assumption
    | intro _
    | (extract_lets +onlyGivenNames x; refine (fun (hx : Ok q x) => ?_) ?_; rotate_left; subst x; rotate_right; clear_value x)
    | with_reducible apply handOver_ok
    | with_reducible apply installField_ok
    | with_reducible apply nodeRetired_ok
    | with_reducible apply picturesEnd_ok
    | split

theorem forgetSent_ok (h : Ok q s) (ls : List ℕ) : Ok q (forgetSent s ls) := by
  unfold forgetSent
  repeat' first
    | with_reducible assumption
    | intro _
    | (extract_lets +onlyGivenNames x; subst x)
    | with_reducible apply modHalf_ok
    | with_reducible apply Ok.foldl
    | split

theorem issue_ok (h : Ok q s) (c : Cand) (total : ℕ) (f : TileOp → TileOp) : Ok q (issue s c total f) := by
  unfold issue
  repeat' first
    | with_reducible assumption
    | intro _
    | (extract_lets +onlyGivenNames x; refine (fun (hx : Ok q x) => ?_) ?_; rotate_left; subst x; rotate_right; clear_value x)
    | (extract_lets +onlyGivenNames x; subst x)
    | with_reducible apply abandonSwap_ok
    | with_reducible apply beginWork_ok
    | with_reducible apply advanceWork_ok
    | (with_reducible apply Ok.upd; with_reducible assumption)
    | split

theorem issueWrites_ok (h : Ok q s) (c : Cand) (total : ℕ) (ws : List WByte) (pois : List ℕ) (f : (TileOp → TileOp)) : Ok q (issueWrites s c total ws pois f) := by
  unfold issueWrites
  repeat' first
    | with_reducible assumption
    | intro _
    | (extract_lets +onlyGivenNames x; subst x)
    | with_reducible apply forgetSent_ok
    | with_reducible apply setProv_ok
    | with_reducible apply issue_ok
    | with_reducible apply writeAll_ok

theorem releaseGate_ok (h : Ok q s) (b : ℕ) : Ok q (releaseGate s b) := by
  unfold releaseGate
  repeat' first
    | with_reducible assumption
    | intro _
    | (extract_lets +onlyGivenNames x; subst x)
    | with_reducible apply arrivals_ok
    | with_reducible apply doRelease_ok
    | split

theorem removeUnit_ok (h : Ok q s) (n : ℕ) (r : ℕ) : Ok q (removeUnit s n r) := by
  unfold removeUnit
  repeat' first
    | with_reducible assumption
    | intro _
    | with_reducible apply modSq_ok

theorem settleCast_ok (h : Ok q s) (o : TileOp) : Ok q (settleCast s o) := by
  unfold settleCast
  repeat' first
    | with_reducible assumption
    | intro _
    | (extract_lets +onlyGivenNames x; refine (fun (hx : Ok q x) => ?_) ?_; rotate_left; subst x; rotate_right; clear_value x)
    | (extract_lets +onlyGivenNames x; subst x)
    | with_reducible apply modOp_ok
    | with_reducible apply handOver_ok
    | with_reducible apply dropOp_ok
    | with_reducible apply Ok.foldl
    | split

theorem retire_ok (h : Ok q s) (o : TileOp) : Ok q (retire s o) := by
  unfold retire
  repeat' first
    | with_reducible assumption
    | intro _
    | (extract_lets +onlyGivenNames x; refine (fun (hx : Ok q x) => ?_) ?_; rotate_left; subst x; rotate_right; clear_value x)
    | (extract_lets +onlyGivenNames x; subst x)
    | with_reducible apply dropOp_ok
    | with_reducible apply bandsDone_ok
    | with_reducible apply startMove_ok
    | with_reducible apply handOver_ok
    | with_reducible apply modOp_ok
    | with_reducible apply settleCast_ok
    | with_reducible apply endRecord_ok
    | (with_reducible apply Ok.upd; with_reducible assumption)
    | split

theorem tryAll_ok (h : Ok q s) (f : State → Cand → Option State) (l : List Cand)
    (hf : ∀ s c, Ok q s → OkO q (f s c)) : Ok q (tryAll s f l) := by
  induction l with
  | nil => exact h
  | cons c l ih =>
    unfold tryAll
    split
    · exact (hf s c h).out ‹_›
    · exact ih

theorem runStation_ok (h : Ok q s) (p k : ℕ) (f : State → Cand → Option State) (hf : ∀ s c, Ok q s → OkO q (f s c)) :
    Ok q (runStation s p k f) := tryAll_ok h f _ hf

theorem stopEntry_ok (h : Ok q s) (e : Entry) (k : ℕ) (o : ℕ) : Ok q (stopEntry s e k o) := by
  unfold stopEntry
  repeat' first
    | with_reducible assumption
    | intro _
    | (extract_lets +onlyGivenNames x; refine (fun (hx : Ok q x) => ?_) ?_; rotate_left; subst x; rotate_right; clear_value x)
    | (extract_lets +onlyGivenNames x; subst x)
    | with_reducible apply modMps_ok
    | with_reducible apply modEntry_ok
    | with_reducible apply stopSettle_ok
    | (with_reducible apply Ok.upd; with_reducible assumption)

theorem finishOp_ok (h : Ok q r.st) (c : Cand) (total : ℕ) (ws : List WByte) : OkO q (finishOp r c total ws) := by
  unfold finishOp
  split
  · exact OkO.none
  · split
    · exact OkO.some (consume_ok h _ _ _)
    · exact OkO.some (issueWrites_ok h _ _ _ _ _)

end Sys2Proof.Machine
end

