-- ==== Sys2Proof/Laws/KeepElems.lean ====
section
/-! SUPPORT. The operations of Machine/Elems.lean keep the invariant and the queue. -/

namespace Sys2Proof.Machine

variable {q : List Instr} {s t : State} {r : Rd}

theorem Rd.keys_ok (h : Ok q r.st) (o : Option TileOp) (ks : List ℕ) : Ok q (r.keys o ks).st :=
  Rd.foldl_ok (f := fun r l => r.line o (l / 98304) (l % 98304)) (fun _ _ h => Rd.line_ok h _ _ _) h

theorem Rd.elems_ok (h : Ok q r.st) (o : Option TileOp) (c : Cand) (d : Desc) (is : List (List ℕ)) :
    Ok q (r.elems o c d is).st := Rd.keys_ok h _ _

theorem finishMove_ok (h : Ok q r.st) (c : Cand) (total : ℕ) (ms : List Moved) (all : Bool) :
    OkO q (finishMove r c total ms all) := by
  unfold finishMove
  simp only
  split
  · exact OkO.none
  · split
    · exact OkO.some (failJob_ok (bump_ok (writeAll_ok h _ _ _) _ _ _) _ _ _ _)
    · exact OkO.some (issueWrites_ok h _ _ _ _ _)

/-- An operation that may not happen, changed where it does. -/
theorem OkO.map {o : Option State} {f : State → State} (h : OkO q o) (hf : ∀ t, Ok q t → Ok q (f t)) : OkO q (o.map f) :=
  ⟨fun t e => by
    obtain ⟨a, ha, rfl⟩ := Option.map_eq_some_iff.1 e
    exact hf a (h.all a ha)⟩

/-- A fold of reads that also collects a value. -/
theorem Rd.foldl1_ok {α β : Type} {f : Rd × β → α → Rd × β} {l : List α} {r : Rd × β}
    (hf : ∀ r a, Ok q r.1.st → Ok q (f r a).1.st) (h : Ok q r.1.st) : Ok q (l.foldl f r).1.st := by
  induction l generalizing r with
  | nil => exact h
  | cons a l ih => exact ih (hf r a h)

/-- An operation that may not happen and gives a value besides its state. -/
structure OkP {β : Type} (q : List Instr) (o : Option (State × β)) : Prop where
  all : ∀ t b, o = some (t, b) → Ok q t

theorem OkP.none {β : Type} : OkP q (Option.none : Option (State × β)) := ⟨fun _ _ h => nomatch h⟩
theorem OkP.some {β : Type} {b : β} (h : Ok q s) : OkP q (Option.some (s, b)) :=
  ⟨fun _ _ e => by cases e; exact h⟩
theorem OkP.out {β : Type} {o : Option (State × β)} {b : β} (h : OkP q o) (e : o = Option.some (t, b)) : Ok q t := h.all _ _ e

/-- A read that may not happen and gives a value besides its reader. -/
structure OkR {β : Type} (q : List Instr) (o : Option (Rd × β)) : Prop where
  all : ∀ r b, o = some (r, b) → Ok q r.st

theorem OkR.none {β : Type} : OkR q (Option.none : Option (Rd × β)) := ⟨fun _ _ h => nomatch h⟩
theorem OkR.some {β : Type} {b : β} (h : Ok q r.st) : OkR q (Option.some (r, b)) :=
  ⟨fun _ _ e => by cases e; exact h⟩
theorem OkR.out {β : Type} {o : Option (Rd × β)} {b : β} (h : OkR q o) (e : o = Option.some (r, b)) : Ok q r.st :=
  h.all _ _ e


/-- The same with a value besides the state. -/
theorem OkO.ofP {β : Type} {o : Option (State × β)} {f : State × β → State} (h : OkP q o)
    (hf : ∀ x, Ok q x.1 → Ok q (f x)) : OkO q (o.map f) :=
  ⟨fun t e => by
    obtain ⟨a, ha, rfl⟩ := Option.map_eq_some_iff.1 e
    exact hf a (h.all _ _ ha)⟩

end Sys2Proof.Machine
end

