-- ==== Sys2Proof/Laws/KeepTransfer.lean ====
section
/-! SUPPORT. The operations of Machine/Transfer.lean keep the invariant and the queue. -/

namespace Sys2Proof.Machine

variable {q : List Instr} {s t : State} {r : Rd}

theorem castSlot_ok (h : Ok q s) (o : TileOp) (m : ℕ) (e : ℕ) : OkP q (castSlot s o m e) := by
  unfold castSlot
  repeat' first
    | with_reducible assumption
    | intro _
    | (extract_lets +onlyGivenNames x; refine (fun (hx : Ok q x) => ?_) ?_; rotate_left; subst x; rotate_right; clear_value x)
    | (extract_lets +onlyGivenNames x; subst x)
    | with_reducible apply OkP.none
    | with_reducible apply OkP.some
    | with_reducible apply takeEmpty_ok
    | with_reducible apply modEdge_ok
    | (with_reducible apply Ok.upd; with_reducible assumption)
    | split

theorem deliver_ok (h : Ok q s) (o : TileOp) : Ok q (deliver s o) := by
  unfold deliver
  repeat' first
    | with_reducible assumption
    | intro _
    | (extract_lets +onlyGivenNames x; refine (fun (hx : Ok q x) => ?_) ?_; rotate_left; subst x; rotate_right; clear_value x)
    | (extract_lets +onlyGivenNames x; subst x)
    | with_reducible apply writeAll_ok
    | with_reducible apply modOp_ok
    | with_reducible apply forgetSent_ok
    | with_reducible apply setProv_ok
    | split

theorem doDeadline_ok (h : Ok q s) (p : ℕ) (i : ℕ) : Ok q (doDeadline s p i) := by
  unfold doDeadline
  repeat' first
    | with_reducible assumption
    | intro _
    | with_reducible apply bump_ok
    | with_reducible apply modOp_ok
    | split

theorem moveWith_ok (h : Ok q s) (c : Cand) (src : Desc) (dst : Desc) (is : List (List ℕ)) (put : List ℕ → ℕ → List WByte) (putSc : List ℕ → ℕ → List WByte) : Ok q (moveWith s c src dst is put putSc).1.st := by
  unfold moveWith
  repeat' first
    | with_reducible assumption
    | intro _
    | (extract_lets +onlyGivenNames x; refine (fun (hx : Ok q x) => ?_) ?_; rotate_left; subst x; rotate_right; clear_value x)
    | (extract_lets +onlyGivenNames x; subst x)
    | with_reducible apply Rd.elems_ok
    | with_reducible apply Rd.start_ok

theorem moveBytes_ok (h : Ok q s) (c : Cand) (d : Cand) (src : Desc) (dst : Desc) (is : List (List ℕ)) : Ok q (moveBytes s c d src dst is).1.st := by
  unfold moveBytes
  repeat' first
    | with_reducible assumption
    | intro _
    | with_reducible apply moveWith_ok

theorem refetch_ok (h : Ok q s) (p : ℕ) : OkO q (refetch s p) := by
  unfold refetch
  repeat' first
    | with_reducible assumption
    | intro _
    | (extract_lets +onlyGivenNames x; refine (fun (hx : Ok q x) => ?_) ?_; rotate_left; subst x; rotate_right; clear_value x)
    | with_reducible apply OkO.ofP
    | (extract_lets +onlyGivenNames x; subst x)
    | with_reducible refine OkP.out ?_ ‹_ = some (_, _)›
    | with_reducible apply OkO.none
    | with_reducible apply OkO.some
    | with_reducible apply moveBytes_ok
    | with_reducible apply writeAll_ok
    | with_reducible apply modOp_ok
    | with_reducible apply forgetSent_ok
    | with_reducible apply setProv_ok
    | with_reducible apply settleCast_ok
    | with_reducible apply castSlot_ok
    | split

theorem issueMem_ok (h : Ok q s) (c : Cand) (total : ℕ) (reqs : ℕ → ℕ → List MemReq) (f : (TileOp → TileOp)) : OkO q (issueMem s c total reqs f) := by
  unfold issueMem
  repeat' first
    | with_reducible assumption
    | intro _
    | with_reducible exact contextFor_ok ‹_› _ _ _ _ _ (_, _) ‹_›
    | (extract_lets +onlyGivenNames x; subst x)
    | with_reducible apply OkO.none
    | with_reducible apply OkO.some
    | with_reducible apply sendOp_ok
    | with_reducible apply issue_ok
    | split

theorem loadOp_ok (h : Ok q s) (c : Cand) (e : Entry) : OkO q (loadOp s c e) := by
  unfold loadOp
  repeat' first
    | with_reducible assumption
    | intro _
    | refine OkO.out ?_ ‹_ = some _›
    | (extract_lets +onlyGivenNames x; subst x)
    | with_reducible apply OkO.none
    | with_reducible apply OkO.some
    | with_reducible apply issueMem_ok

theorem storeOp_ok (h : Ok q s) (c : Cand) (e : Entry) : OkO q (storeOp s c e) := by
  unfold storeOp
  repeat' first
    | with_reducible assumption
    | intro _
    | (extract_lets +onlyGivenNames x; refine (fun (hx : Ok q x) => ?_) ?_; rotate_left; subst x; rotate_right; clear_value x)
    | refine OkO.out ?_ ‹_ = some _›
    | (extract_lets +onlyGivenNames x; subst x)
    | with_reducible apply OkO.none
    | with_reducible apply OkO.some
    | with_reducible apply moveWith_ok
    | with_reducible apply issueMem_ok
    | with_reducible apply failJob_ok
    | with_reducible apply bump_ok
    | split

theorem multicastOp_ok (h : Ok q s) (c : Cand) : OkO q (multicastOp s c) := by
  unfold multicastOp
  repeat' first
    | with_reducible assumption
    | intro _
    | (extract_lets +onlyGivenNames x; refine (fun (hx : Ok q x) => ?_) ?_; rotate_left; subst x; rotate_right; clear_value x)
    | with_reducible apply finishMove_ok
    | (extract_lets +onlyGivenNames x; subst x)
    | with_reducible apply OkO.none
    | with_reducible apply OkO.some
    | with_reducible apply moveBytes_ok
    | with_reducible apply Rd.elems_ok
    | with_reducible apply Rd.start_ok
    | with_reducible apply issueWrites_ok
    | with_reducible apply modOp_ok
    | split

theorem transferOp_ok (h : Ok q s) (c : Cand) : OkO q (transferOp s c) := by
  unfold transferOp
  repeat' first
    | with_reducible assumption
    | intro _
    | refine OkO.out ?_ ‹_ = some _›
    | with_reducible apply finishMove_ok
    | (extract_lets +onlyGivenNames x; subst x)
    | with_reducible apply OkO.none
    | with_reducible apply OkO.some
    | with_reducible apply loadOp_ok
    | with_reducible apply storeOp_ok
    | with_reducible apply moveBytes_ok
    | with_reducible apply multicastOp_ok
    | split

theorem doTransfer_ok (h : Ok q s) (p : ℕ) : Ok q (doTransfer s p) := by
  unfold doTransfer
  repeat' first
    | with_reducible assumption
    | intro _
    | refine OkO.out ?_ ‹_ = some _›
    | with_reducible apply refetch_ok
    | with_reducible apply runStation_ok
    | with_reducible apply transferOp_ok
    | split

theorem emitOp_ok (h : Ok q s) (c : Cand) : OkO q (emitOp s c) := by
  unfold emitOp
  repeat' first
    | with_reducible assumption
    | intro _
    | refine OkO.out ?_ ‹_ = some _›
    | with_reducible apply OkO.none
    | with_reducible apply OkO.some
    | with_reducible apply issueMem_ok

theorem ingestOp_ok (h : Ok q s) (c : Cand) : OkO q (ingestOp s c) := by
  unfold ingestOp
  repeat' first
    | with_reducible assumption
    | intro _
    | (extract_lets +onlyGivenNames x; refine (fun (hx : Ok q x) => ?_) ?_; rotate_left; subst x; rotate_right; clear_value x)
    | refine OkO.out ?_ ‹_ = some _›
    | (extract_lets +onlyGivenNames x; subst x)
    | with_reducible apply OkO.none
    | with_reducible apply OkO.some
    | with_reducible apply beginWork_ok
    | with_reducible apply issueMem_ok
    | with_reducible apply issue_ok
    | split

end Sys2Proof.Machine
end

