-- ==== Sys2Proof/Laws/KeepContext.lean ====
section
/-! SUPPORT. The operations of Machine/Context.lean keep the invariant and the queue. -/

namespace Sys2Proof.Machine

variable {q : List Instr} {s t : State} {r : Rd}

theorem saveBytes_ok (h : Ok q s) (j : ℕ) (m : ℕ) (xt : ℕ) : Ok q (saveBytes s j m xt).1 := by
  unfold saveBytes
  repeat' first
    | with_reducible assumption
    | intro _
    | (extract_lets +onlyGivenNames x; subst x)
    | with_reducible apply Rd.bytes_ok
    | with_reducible apply Rd.start_ok
    | split

theorem sendSave_ok (h : Ok q s) (j : ℕ) (m : ℕ) (xt : ℕ) : Ok q (sendSave s j m xt) := by
  unfold sendSave
  repeat' first
    | with_reducible assumption
    | intro _
    | (extract_lets +onlyGivenNames x; subst x)
    | with_reducible apply saveBytes_ok
    | with_reducible apply sendReq_ok
    | with_reducible apply Ok.foldl

theorem sendRestore_ok (h : Ok q s) (j : ℕ) (m : ℕ) (xt : ℕ) : Ok q (sendRestore s j m xt) := by
  unfold sendRestore
  repeat' first
    | with_reducible assumption
    | intro _
    | (extract_lets +onlyGivenNames x; subst x)
    | with_reducible apply sendReq_ok
    | with_reducible apply Ok.foldl

theorem sendCommit_ok (h : Ok q s) (j : ℕ) (final : Bool) : Ok q (sendCommit s j final) := by
  unfold sendCommit
  repeat' first
    | with_reducible assumption
    | intro _
    | (extract_lets +onlyGivenNames x; subst x)
    | with_reducible apply memWrite_ok
    | with_reducible apply modJob_ok

theorem granDone_ok (h : Ok q s) (j : ℕ) (m : ℕ) (xt : ℕ) (save : Bool) : Ok q (granDone s j m xt save) := by
  unfold granDone
  repeat' first
    | with_reducible assumption
    | intro _
    | (extract_lets +onlyGivenNames x; refine (fun (hx : Ok q x) => ?_) ?_; rotate_left; subst x; rotate_right; clear_value x)
    | (extract_lets +onlyGivenNames x; subst x)
    | with_reducible apply modXfer_ok
    | with_reducible apply sendSave_ok
    | with_reducible apply sendRestore_ok
    | with_reducible apply modMem_ok
    | with_reducible apply sendCommit_ok
    | split

theorem openShare_ok (h : Ok q s) (j : ℕ) (m : ℕ) (xt : ℕ) : Ok q (openShare s j m xt) := by
  unfold openShare
  repeat' first
    | with_reducible assumption
    | intro _
    | with_reducible apply modMem_ok

theorem placeRestore_ok (h : Ok q s) (j : ℕ) (m : ℕ) (xt : ℕ) (ofs : ℕ) (bs : List Byte) (pois : ℕ) : Ok q (placeRestore s j m xt ofs bs pois) := by
  unfold placeRestore
  repeat' first
    | with_reducible assumption
    | intro _
    | (extract_lets +onlyGivenNames x; refine (fun (hx : Ok q x) => ?_) ?_; rotate_left; subst x; rotate_right; clear_value x)
    | (extract_lets +onlyGivenNames x; subst x)
    | with_reducible apply setAcc_ok
    | with_reducible apply setAccPois_ok
    | with_reducible apply mpForce_ok
    | with_reducible apply writeAll_ok
    | with_reducible apply Ok.foldl
    | split

theorem startShares_ok (h : Ok q s) (j : ℕ) : Ok q (startShares s j) := by
  unfold startShares
  repeat' first
    | with_reducible assumption
    | intro _
    | (extract_lets +onlyGivenNames x; refine (fun (hx : Ok q x) => ?_) ?_; rotate_left; subst x; rotate_right; clear_value x)
    | with_reducible apply modJob_ok
    | with_reducible apply sendSave_ok
    | with_reducible apply openShare_ok
    | with_reducible apply Ok.foldl

end Sys2Proof.Machine
end

