-- ==== Sys2Proof/Laws/KeepCauseway.lean ====
section
/-! SUPPORT. The operations of Machine/Causeway.lean keep the invariant and the queue. -/

namespace Sys2Proof.Machine

variable {q : List Instr} {s t : State} {r : Rd}

theorem feedRanks_ok (h : Ok q s) (j : ℕ) (m : ℕ) (e : ℕ) : Ok q (feedRanks s j m e) := by
  unfold feedRanks
  repeat' first
    | with_reducible assumption
    | intro _
    | (extract_lets +onlyGivenNames x; subst x)
    | with_reducible apply modEdge_ok
    | with_reducible apply Ok.foldl
    | split

theorem fedSet_ok (h : Ok q s) (k : ℕ) (xh : ℕ) (x : ℕ) : Ok q (fedSet s k xh x) := by
  unfold fedSet
  repeat' first
    | with_reducible assumption
    | intro _
    | (extract_lets +onlyGivenNames x; refine (fun (hx : Ok q x) => ?_) ?_; rotate_left; subst x; rotate_right; clear_value x)
    | (extract_lets +onlyGivenNames x; subst x)
    | with_reducible apply modHalf_ok
    | with_reducible apply mpSet_ok
    | with_reducible apply feedRanks_ok
    | with_reducible apply announce_ok
    | with_reducible apply sendFlit_ok
    | split

theorem apertureDrain_ok (h : Ok q s) (k : ℕ) (xh : ℕ) : Ok q (apertureDrain s k xh) := by
  unfold apertureDrain
  repeat' first
    | with_reducible assumption
    | intro _
    | (extract_lets +onlyGivenNames x; refine (fun (hx : Ok q x) => ?_) ?_; rotate_left; subst x; rotate_right; clear_value x)
    | (extract_lets +onlyGivenNames x; subst x)
    | with_reducible apply modHalf_ok
    | with_reducible apply gateArriveExt_ok
    | with_reducible apply fedSet_ok
    | with_reducible apply Ok.foldl
    | split

theorem badFlit_ok (h : Ok q s) (k : ℕ) (xh : ℕ) : Ok q (badFlit s k xh) := by
  unfold badFlit
  repeat' first
    | with_reducible assumption
    | intro _
    | with_reducible apply protocolFault_ok

theorem received_ok (h : Ok q s) (k : ℕ) (flits : ℕ) (lines : ℕ) : Ok q (received s k flits lines) := by
  unfold received
  repeat' first
    | with_reducible assumption
    | intro _
    | with_reducible apply bump_ok

theorem doAbort_ok (h : Ok q s) (k : ℕ) (ch : ℕ) : Ok q (doAbort s k ch) := by
  unfold doAbort
  repeat' first
    | with_reducible assumption
    | intro _
    | (extract_lets +onlyGivenNames x; refine (fun (hx : Ok q x) => ?_) ?_; rotate_left; subst x; rotate_right; clear_value x)
    | (extract_lets +onlyGivenNames x; subst x)
    | with_reducible apply received_ok
    | with_reducible apply badFlit_ok
    | with_reducible apply modHalf_ok
    | with_reducible apply failJob_ok
    | split

theorem onHalf_ok (h : Ok q s) (k i : ℕ) (f : State → Half → State) (hf : ∀ s x, Ok q s → Ok q (f s x)) :
    Ok q (onHalf s k i f) := by
  unfold onHalf
  repeat' split
  all_goals first | exact h | exact hf _ _ h | exact badFlit_ok h _ _

theorem doAck_ok (h : Ok q s) (k : ℕ) (ch : ℕ) (slot : ℕ) : Ok q (doAck s k ch slot) := by
  unfold doAck
  repeat' first
    | with_reducible assumption
    | intro _
    | with_reducible apply onHalf_ok
    | with_reducible apply received_ok
    | with_reducible apply badFlit_ok
    | with_reducible apply releaseSlot_ok
    | with_reducible apply modHalf_ok
    | split

theorem writeGroup_ok (h : Ok q s) (k : ℕ) (xh : ℕ) (x : ℕ) (l : ℕ) (n : ℕ) : Ok q (writeGroup s k xh x l n) := by
  unfold writeGroup
  repeat' first
    | with_reducible assumption
    | intro _
    | (extract_lets +onlyGivenNames x; refine (fun (hx : Ok q x) => ?_) ?_; rotate_left; subst x; rotate_right; clear_value x)
    | (extract_lets +onlyGivenNames x; subst x)
    | with_reducible apply checkLine_ok
    | with_reducible apply sendFlit_ok
    | with_reducible apply Ok.foldl

theorem doCourierSend_ok (h : Ok q s) (k : ℕ) (ch : ℕ) : Ok q (doCourierSend s k ch) := by
  unfold doCourierSend
  repeat' first
    | with_reducible assumption
    | intro _
    | (extract_lets +onlyGivenNames x; refine (fun (hx : Ok q x) => ?_) ?_; rotate_left; subst x; rotate_right; clear_value x)
    | (extract_lets +onlyGivenNames x; subst x)
    | with_reducible apply writeGroup_ok
    | with_reducible apply sendFlit_ok
    | with_reducible apply modHalf_ok
    | with_reducible apply Ok.foldl
    | split

theorem doCredit_ok (h : Ok q s) (k : ℕ) (ch : ℕ) (slot : ℕ) : Ok q (doCredit s k ch slot) := by
  unfold doCredit
  repeat' first
    | with_reducible assumption
    | intro _
    | with_reducible apply onHalf_ok
    | with_reducible apply received_ok
    | with_reducible apply badFlit_ok
    | with_reducible apply modHalf_ok
    | split

theorem doCwyArrive_ok (h : Ok q s) (k : ℕ) (ch : ℕ) (g : ℕ) : Ok q (doCwyArrive s k ch g) := by
  unfold doCwyArrive
  repeat' first
    | with_reducible assumption
    | intro _
    | (extract_lets +onlyGivenNames x; subst x)
    | with_reducible apply onHalf_ok
    | with_reducible apply received_ok
    | with_reducible apply gateMisuse_ok
    | with_reducible apply gateArriveExt_ok
    | with_reducible apply modHalf_ok
    | split

theorem doCwyBind_ok (h : Ok q s) (k : ℕ) (ch : ℕ) (depth : ℕ) (lines : ℕ) : Ok q (doCwyBind s k ch depth lines) := by
  unfold doCwyBind
  repeat' first
    | with_reducible assumption
    | intro _
    | (extract_lets +onlyGivenNames x; subst x)
    | with_reducible apply onHalf_ok
    | with_reducible apply received_ok
    | with_reducible apply badFlit_ok
    | with_reducible apply modHalf_ok
    | split

theorem doFedCredit_ok (h : Ok q s) (k : ℕ) (ch : ℕ) : Ok q (doFedCredit s k ch) := by
  unfold doFedCredit
  repeat' first
    | with_reducible assumption
    | intro _
    | (extract_lets +onlyGivenNames x; subst x)
    | with_reducible apply fedTook_ok
    | with_reducible apply mpTakeNow_ok
    | with_reducible apply addWaiter_ok
    | with_reducible apply modHalf_ok
    | with_reducible apply takeEmpty_ok
    | split

theorem doFedTimeout_ok (h : Ok q s) (k : ℕ) (ch : ℕ) : Ok q (doFedTimeout s k ch) := by
  unfold doFedTimeout
  repeat' first
    | with_reducible assumption
    | intro _
    | (extract_lets +onlyGivenNames x; subst x)
    | with_reducible apply mpMisuse_ok
    | with_reducible apply bump_ok
    | split

theorem doForward_ok (h : Ok q s) (k : ℕ) (ch : ℕ) : Ok q (doForward s k ch) := by
  unfold doForward
  repeat' first
    | with_reducible assumption
    | intro _
    | (extract_lets +onlyGivenNames x; subst x)
    | with_reducible apply modHalf_ok
    | with_reducible apply writeGroup_ok
    | split

theorem doHeartTimer_ok (h : Ok q s) : Ok q (doHeartTimer s) := by
  unfold doHeartTimer
  repeat' first
    | with_reducible assumption
    | intro _
    | (extract_lets +onlyGivenNames x; subst x)
    | with_reducible apply sendFlit_ok
    | with_reducible apply Ok.foldl
    | split

theorem doHeartbeat_ok (h : Ok q s) (k : ℕ) (peer : BitVec 16) : Ok q (doHeartbeat s k peer) := by
  unfold doHeartbeat
  repeat' first
    | with_reducible assumption
    | intro _
    | (extract_lets +onlyGivenNames x; refine (fun (hx : Ok q x) => ?_) ?_; rotate_left; subst x; rotate_right; clear_value x)
    | with_reducible apply received_ok
    | with_reducible apply modPort_ok
    | split

theorem doIllegalFlit_ok (h : Ok q s) (k : ℕ) (f : ℕ) (parityOk : Bool) : Ok q (doIllegalFlit s k f parityOk) := by
  unfold doIllegalFlit
  repeat' first
    | with_reducible assumption
    | intro _
    | (extract_lets +onlyGivenNames x; subst x)
    | with_reducible apply received_ok
    | with_reducible apply protocolFault_ok
    | split

theorem pushLines_ok (h : Ok q s) (k : ℕ) (xh : ℕ) : Ok q (pushLines s k xh) := by
  unfold pushLines
  repeat' first
    | with_reducible assumption
    | intro _
    | (extract_lets +onlyGivenNames x; refine (fun (hx : Ok q x) => ?_) ?_; rotate_left; subst x; rotate_right; clear_value x)
    | (extract_lets +onlyGivenNames x; subst x)
    | with_reducible apply modHalf_ok
    | with_reducible apply sendReq_ok
    | with_reducible apply Ok.foldl
    | split

theorem doPoison_ok (h : Ok q s) (k : ℕ) (ch : ℕ) (slot : ℕ) (line : ℕ) (mask : BitVec 64) : Ok q (doPoison s k ch slot line mask) := by
  unfold doPoison
  repeat' first
    | with_reducible assumption
    | intro _
    | (extract_lets +onlyGivenNames x; refine (fun (hx : Ok q x) => ?_) ?_; rotate_left; subst x; rotate_right; clear_value x)
    | (extract_lets +onlyGivenNames x; subst x)
    | with_reducible apply onHalf_ok
    | with_reducible apply received_ok
    | with_reducible apply modHalf_ok
    | with_reducible apply pushLines_ok
    | with_reducible apply setProv_ok
    | with_reducible apply poisonLines_ok
    | split

theorem doPortLost_ok (h : Ok q s) (k : ℕ) : Ok q (doPortLost s k) := by
  unfold doPortLost
  repeat' first
    | with_reducible assumption
    | intro _
    | (extract_lets +onlyGivenNames x; refine (fun (hx : Ok q x) => ?_) ?_; rotate_left; subst x; rotate_right; clear_value x)
    | (extract_lets +onlyGivenNames x; subst x)
    | with_reducible apply modPort_ok
    | with_reducible apply wrg_ok
    | with_reducible apply modMps_ok
    | with_reducible apply failJob_ok
    | with_reducible apply raise_ok
    | with_reducible apply bump_ok
    | with_reducible apply Ok.foldl
    | split

theorem doSet_ok (h : Ok q s) (k : ℕ) (ch : ℕ) (slot : ℕ) : Ok q (doSet s k ch slot) := by
  unfold doSet
  repeat' first
    | with_reducible assumption
    | intro _
    | (extract_lets +onlyGivenNames x; refine (fun (hx : Ok q x) => ?_) ?_; rotate_left; subst x; rotate_right; clear_value x)
    | (extract_lets +onlyGivenNames x; subst x)
    | with_reducible apply onHalf_ok
    | with_reducible apply received_ok
    | with_reducible apply badFlit_ok
    | with_reducible apply modHalf_ok
    | with_reducible apply apertureDrain_ok
    | with_reducible apply pushLines_ok
    | with_reducible apply fedSet_ok
    | with_reducible apply setProv_ok
    | split

theorem doWrite_ok (h : Ok q s) (k : ℕ) (ch : ℕ) (slot : ℕ) (line : ℕ) (prov : ℕ) (pois : ℕ) (data : List (BitVec 512)) : Ok q (doWrite s k ch slot line prov pois data) := by
  unfold doWrite
  repeat' first
    | with_reducible assumption
    | intro _
    | (extract_lets +onlyGivenNames x; refine (fun (hx : Ok q x) => ?_) ?_; rotate_left; subst x; rotate_right; clear_value x)
    | (extract_lets +onlyGivenNames x; subst x)
    | with_reducible apply onHalf_ok
    | with_reducible apply received_ok
    | with_reducible apply badFlit_ok
    | with_reducible apply modHalf_ok
    | with_reducible apply pushLines_ok
    | with_reducible apply writeAll_ok
    | with_reducible apply setProv_ok
    | with_reducible apply Ok.foldl
    | split

theorem halfCfg_ok (h : Ok q s) (k : ℕ) (xh : ℕ) (w : ℕ) : Ok q (halfCfg s k xh w) := by
  unfold halfCfg
  repeat' first
    | with_reducible assumption
    | intro _
    | (extract_lets +onlyGivenNames x; refine (fun (hx : Ok q x) => ?_) ?_; rotate_left; subst x; rotate_right; clear_value x)
    | (extract_lets +onlyGivenNames x; subst x)
    | with_reducible apply storeReg_ok
    | with_reducible apply refuse_ok
    | with_reducible apply wrg_ok
    | with_reducible apply modHalf_ok
    | with_reducible apply sendFlit_ok
    | split

theorem lineDone_ok (h : Ok q s) (k : ℕ) (xh : ℕ) (x : ℕ) (l : ℕ) : Ok q (lineDone s k xh x l) := by
  unfold lineDone
  repeat' first
    | with_reducible assumption
    | intro _
    | (extract_lets +onlyGivenNames x; subst x)
    | with_reducible apply modHalf_ok
    | split

theorem lineFault_ok (h : Ok q s) (k : ℕ) (xh : ℕ) (x : ℕ) (l : ℕ) : Ok q (lineFault s k xh x l) := by
  unfold lineFault
  repeat' first
    | with_reducible assumption
    | intro _
    | with_reducible apply modHalf_ok

theorem linkTurns_ok (h : Ok q s) : Ok q (linkTurns s) := by
  unfold linkTurns
  repeat' first
    | with_reducible assumption
    | intro _
    | (with_reducible apply Ok.upd; with_reducible assumption)
    | split

theorem poisonForwarded_ok (h : Ok q s) (ls : List ℕ) : Ok q (poisonForwarded s ls) := by
  unfold poisonForwarded
  repeat' first
    | with_reducible assumption
    | intro _
    | (extract_lets +onlyGivenNames x; subst x)
    | with_reducible apply sendFlit_ok
    | with_reducible apply Ok.foldl
    | split

theorem portRefuse_ok (h : Ok q s) (k : ℕ) (code : ℕ) : Ok q (portRefuse s k code) := by
  unfold portRefuse
  repeat' first
    | with_reducible assumption
    | intro _
    | with_reducible apply refuse_ok
    | with_reducible apply wrg_ok

theorem portCmd_ok (h : Ok q s) (k : ℕ) (w : ℕ) : Ok q (portCmd s k w) := by
  unfold portCmd
  repeat' first
    | with_reducible assumption
    | intro _
    | (extract_lets +onlyGivenNames x; refine (fun (hx : Ok q x) => ?_) ?_; rotate_left; subst x; rotate_right; clear_value x)
    | (extract_lets +onlyGivenNames x; subst x)
    | with_reducible apply storeReg_ok
    | with_reducible apply wrg_ok
    | with_reducible apply modPort_ok
    | with_reducible apply portRefuse_ok
    | with_reducible apply pushLines_ok
    | with_reducible apply modHalf_ok
    | split

end Sys2Proof.Machine
end

