-- ==== Sys2Proof/Laws/KeepBatch.lean ====
section
/-! SUPPORT. The operations of Machine/Batch.lean keep the invariant and the queue. -/

namespace Sys2Proof.Machine

variable {q : List Instr} {s t : State} {r : Rd}

theorem askPool_ok (h : Ok q s) (c : ℕ) (u : PoolUser) : Ok q (askPool s c u) := by
  unfold askPool
  repeat' first
    | with_reducible assumption
    | intro _
    | with_reducible apply modMem_ok

theorem batchBoundary_ok (h : Ok q s) (n : ℕ) : Ok q (batchBoundary s n) := by
  unfold batchBoundary
  repeat' first
    | with_reducible assumption
    | intro _
    | (extract_lets +onlyGivenNames x; refine (fun (hx : Ok q x) => ?_) ?_; rotate_left; subst x; rotate_right; clear_value x)
    | with_reducible apply latchPage_ok
    | with_reducible apply latchRange_ok
    | split

theorem batchDone_ok (h : Ok q s) (n : ℕ) : Ok q (batchDone s n) := by
  unfold batchDone
  repeat' first
    | with_reducible assumption
    | intro _
    | (extract_lets +onlyGivenNames x; refine (fun (hx : Ok q x) => ?_) ?_; rotate_left; subst x; rotate_right; clear_value x)
    | (extract_lets +onlyGivenNames x; subst x)
    | with_reducible apply modSq_ok
    | with_reducible apply modMem_ok
    | with_reducible apply endStreams_ok
    | with_reducible apply finish_ok
    | with_reducible apply Ok.foldl
    | split

theorem modBatch_ok (h : Ok q s) (n : ℕ) (b : ℕ) (f : Batch → Batch) : Ok q (modBatch s n b f) := by
  unfold modBatch
  repeat' first
    | with_reducible assumption
    | intro _
    | with_reducible apply modSq_ok

theorem batchWritten_ok (h : Ok q s) (n : ℕ) : Ok q (batchWritten s n) := by
  unfold batchWritten
  repeat' first
    | with_reducible assumption
    | intro _
    | with_reducible apply modBatch_ok
    | split

theorem closeBatch_ok (h : Ok q s) (n : ℕ) (code : ℕ) : Ok q (closeBatch s n code) := by
  unfold closeBatch
  repeat' first
    | with_reducible assumption
    | intro _
    | (extract_lets +onlyGivenNames x; refine (fun (hx : Ok q x) => ?_) ?_; rotate_left; subst x; rotate_right; clear_value x)
    | (extract_lets +onlyGivenNames x; subst x)
    | with_reducible apply modSq_ok
    | with_reducible apply askPool_ok
    | with_reducible apply batchBoundary_ok
    | split

theorem writeBatch_ok (h : Ok q s) (n : ℕ) (b : Batch) : Ok q (writeBatch s n b) := by
  unfold writeBatch
  repeat' first
    | with_reducible assumption
    | intro _
    | (extract_lets +onlyGivenNames x; subst x)
    | with_reducible apply Rd.keys_ok
    | with_reducible apply Rd.start_ok
    | with_reducible apply failJob_ok
    | with_reducible apply startMove_ok
    | with_reducible apply modBatch_ok
    | split

theorem tryDirectory_ok (h : Ok q s) (n : ℕ) (b : Batch) (dir : HostRead) : Ok q (tryDirectory s n b dir) := by
  unfold tryDirectory
  repeat' first
    | with_reducible assumption
    | intro _
    | (extract_lets +onlyGivenNames x; refine (fun (hx : Ok q x) => ?_) ?_; rotate_left; subst x; rotate_right; clear_value x)
    | with_reducible apply hostRead_ok
    | with_reducible apply modBatch_ok
    | with_reducible apply pageErr_ok
    | with_reducible apply memWrite_ok
    | split

theorem doBatchEmit_ok (h : Ok q s) (n : ℕ) (dir : HostRead) : Ok q (doBatchEmit s n dir) := by
  unfold doBatchEmit
  repeat' first
    | with_reducible assumption
    | intro _
    | with_reducible apply writeBatch_ok
    | with_reducible apply tryDirectory_ok
    | split

theorem doDirRetry_ok (h : Ok q s) (n : ℕ) (dir : HostRead) : Ok q (doDirRetry s n dir) := by
  unfold doDirRetry
  repeat' first
    | with_reducible assumption
    | intro _
    | with_reducible apply tryDirectory_ok
    | split

theorem doFlush_ok (h : Ok q s) (n : ℕ) : Ok q (doFlush s n) := by
  unfold doFlush
  repeat' first
    | with_reducible assumption
    | intro _
    | with_reducible apply closeBatch_ok
    | split

theorem rejectPool_ok (h : Ok q s) (c : ℕ) : Ok q (rejectPool s c) := by
  unfold rejectPool
  repeat' first
    | with_reducible assumption
    | intro _
    | (extract_lets +onlyGivenNames x; refine (fun (hx : Ok q x) => ?_) ?_; rotate_left; subst x; rotate_right; clear_value x)
    | with_reducible apply modMem_ok
    | with_reducible apply raise_ok
    | with_reducible apply bump_ok
    | with_reducible apply pageErr_ok

theorem grantPool_ok (h : Ok q s) (c : ℕ) (a : ℕ) (u : PoolUser) : Ok q (grantPool s c a u) := by
  unfold grantPool
  repeat' first
    | with_reducible assumption
    | intro _
    | (extract_lets +onlyGivenNames x; refine (fun (hx : Ok q x) => ?_) ?_; rotate_left; subst x; rotate_right; clear_value x)
    | with_reducible apply modMem_ok
    | with_reducible apply modBatch_ok
    | with_reducible apply freePoolOf_ok
    | split

theorem doPoolResponse_ok (h : Ok q s) (x : PoolAnswer) : Ok q (doPoolResponse s x) := by
  unfold doPoolResponse
  repeat' first
    | with_reducible assumption
    | intro _
    | (extract_lets +onlyGivenNames x; refine (fun (hx : Ok q x) => ?_) ?_; rotate_left; subst x; rotate_right; clear_value x)
    | with_reducible apply modMem_ok
    | with_reducible apply rejectPool_ok
    | with_reducible apply bump_ok
    | with_reducible apply grantPool_ok
    | with_reducible apply askPool_ok
    | split

theorem doPoolRetry_ok (h : Ok q s) (c : ℕ) : Ok q (doPoolRetry s c) := by
  unfold doPoolRetry
  repeat' first
    | with_reducible assumption
    | intro _
    | (extract_lets +onlyGivenNames x; subst x)
    | with_reducible apply askPool_ok
    | with_reducible apply modMem_ok
    | with_reducible apply Ok.foldl

theorem doPoolTimeout_ok (h : Ok q s) : Ok q (doPoolTimeout s) := by
  unfold doPoolTimeout
  repeat' first
    | with_reducible assumption
    | intro _
    | (extract_lets +onlyGivenNames x; refine (fun (hx : Ok q x) => ?_) ?_; rotate_left; subst x; rotate_right; clear_value x)
    | with_reducible apply modMem_ok
    | with_reducible apply raise_ok
    | with_reducible apply bump_ok
    | split

end Sys2Proof.Machine
end

