-- ==== Sys2Proof/Laws/KeepDigest.lean ====
section
/-! SUPPORT. The operations of Machine/Digest.lean keep the invariant and the queue. -/

namespace Sys2Proof.Machine

variable {q : List Instr} {s t : State} {r : Rd}

theorem furlongOp_ok (h : Ok q s) (c : Cand) : OkO q (furlongOp s c) := by
  unfold furlongOp
  extract_lets r first gs o a
  have ha : Ok q a.1.st := Rd.foldl1_ok (r := (Rd.start s, 0)) (fun x g h => by dsimp only; with_reducible exact Rd.bytes_ok h _ _ _ _) h
  exact OkO.map (finishOp_ok ha _ _ _) fun _ h => modNode_ok h _ _ _ _

theorem recordOp_ok (h : Ok q s) (c : Cand) : OkO q (recordOp s c) := by
  unfold recordOp
  repeat' first
    | with_reducible assumption
    | intro _
    | with_reducible apply finishOp_ok
    | (extract_lets +onlyGivenNames x; subst x)
    | with_reducible apply OkO.none
    | with_reducible apply OkO.some
    | with_reducible apply Rd.bytes_ok
    | with_reducible apply Rd.start_ok
    | split

theorem digestOp_ok (h : Ok q s) (c : Cand) : OkO q (digestOp s c) := by
  unfold digestOp
  repeat' first
    | with_reducible assumption
    | intro _
    | refine OkO.out ?_ ‹_ = some _›
    | with_reducible apply OkO.none
    | with_reducible apply OkO.some
    | with_reducible apply furlongOp_ok
    | with_reducible apply recordOp_ok
    | split

theorem doDigest_ok (h : Ok q s) (p : ℕ) : Ok q (doDigest s p) := by
  unfold doDigest
  repeat' first
    | with_reducible assumption
    | intro _
    | refine OkO.out ?_ ‹_ = some _›
    | with_reducible apply tryAll_ok
    | with_reducible apply digestOp_ok

theorem doReplicaLate_ok (h : Ok q s) (g : ℕ) : Ok q (doReplicaLate s g) := by
  unfold doReplicaLate
  repeat' first
    | with_reducible assumption
    | intro _
    | (extract_lets +onlyGivenNames x; subst x)
    | with_reducible apply raise_ok
    | with_reducible apply modGroup_ok
    | split

theorem post_ok (h : Ok q s) (j : ℕ) (n : ℕ) : Ok q (post s j n) := by
  unfold post
  repeat' first
    | with_reducible assumption
    | intro _
    | (extract_lets +onlyGivenNames x; refine (fun (hx : Ok q x) => ?_) ?_; rotate_left; subst x; rotate_right; clear_value x)
    | (extract_lets +onlyGivenNames x; subst x)
    | with_reducible apply modNode_ok
    | with_reducible apply arrivals_ok
    | with_reducible apply modGroup_ok
    | with_reducible apply settleGroups_ok
    | (with_reducible apply Ok.upd; with_reducible assumption)
    | with_reducible apply Ok.foldl
    | split

theorem furlongRetired_ok (h : Ok q s) (o : TileOp) : Ok q (furlongRetired s o) := by
  unfold furlongRetired
  repeat' first
    | with_reducible assumption
    | intro _
    | (extract_lets +onlyGivenNames x; refine (fun (hx : Ok q x) => ?_) ?_; rotate_left; subst x; rotate_right; clear_value x)
    | (extract_lets +onlyGivenNames x; subst x)
    | with_reducible apply modNode_ok
    | with_reducible apply post_ok
    | split

end Sys2Proof.Machine
end

