-- ==== Sys2Proof/Laws/KeepVerdict.lean ====
section
/-! SUPPORT. The operations of Machine/Verdict.lean keep the invariant and the queue. -/

namespace Sys2Proof.Machine

variable {q : List Instr} {s t : State} {r : Rd}

theorem entryEnds_ok (h : Ok q s) (e : Entry) : Ok q (entryEnds s e) := by
  unfold entryEnds
  repeat' first
    | with_reducible assumption
    | intro _
    | (extract_lets +onlyGivenNames x; refine (fun (hx : Ok q x) => ?_) ?_; rotate_left; subst x; rotate_right; clear_value x)
    | (extract_lets +onlyGivenNames x; subst x)
    | with_reducible apply endStreams_ok
    | with_reducible apply finish_ok
    | split

theorem afterRetire_ok (h : Ok q s) (o : TileOp) : Ok q (afterRetire s o) := by
  unfold afterRetire
  repeat' first
    | with_reducible assumption
    | intro _
    | (extract_lets +onlyGivenNames x; refine (fun (hx : Ok q x) => ?_) ?_; rotate_left; subst x; rotate_right; clear_value x)
    | with_reducible apply entryEnds_ok
    | with_reducible apply arrivals_ok
    | split

theorem deadVerdict_ok (h : Ok q s) (o : TileOp) : Ok q (deadVerdict s o) := by
  unfold deadVerdict
  repeat' first
    | with_reducible assumption
    | intro _
    | (extract_lets +onlyGivenNames x; refine (fun (hx : Ok q x) => ?_) ?_; rotate_left; subst x; rotate_right; clear_value x)
    | (extract_lets +onlyGivenNames x; subst x)
    | with_reducible apply setProv_ok
    | with_reducible apply discardOp_ok
    | with_reducible apply dropOp_ok
    | split

theorem failVerdict_ok (h : Ok q s) (o : TileOp) : Ok q (failVerdict s o) := by
  unfold failVerdict
  repeat' first
    | with_reducible assumption
    | intro _
    | (extract_lets +onlyGivenNames x; refine (fun (hx : Ok q x) => ?_) ?_; rotate_left; subst x; rotate_right; clear_value x)
    | with_reducible apply modNode_ok
    | with_reducible apply setProv_ok
    | with_reducible apply poisonLines_ok
    | with_reducible apply bump_ok
    | with_reducible apply dropOp_ok
    | with_reducible apply poisonForwarded_ok
    | split

theorem passVerdict_ok (h : Ok q s) (o : TileOp) : Ok q (passVerdict s o) := by
  unfold passVerdict
  repeat' first
    | with_reducible assumption
    | intro _
    | (extract_lets +onlyGivenNames x; refine (fun (hx : Ok q x) => ?_) ?_; rotate_left; subst x; rotate_right; clear_value x)
    | with_reducible apply bump_ok
    | with_reducible apply deadVerdict_ok
    | with_reducible apply setProv_ok
    | with_reducible apply modEntry_ok
    | with_reducible apply afterRetire_ok
    | with_reducible apply furlongRetired_ok
    | with_reducible apply retire_ok
    | split

theorem doVerdict_ok (h : Ok q s) (p : ℕ) (i : ℕ) (r : VerdictResult) : Ok q (doVerdict s p i r) := by
  unfold doVerdict
  repeat' first
    | with_reducible assumption
    | intro _
    | (extract_lets +onlyGivenNames x; refine (fun (hx : Ok q x) => ?_) ?_; rotate_left; subst x; rotate_right; clear_value x)
    | with_reducible apply bump_ok
    | with_reducible apply pumpMoves_ok
    | with_reducible apply failVerdict_ok
    | with_reducible apply passVerdict_ok
    | with_reducible apply unitAction_ok
    | with_reducible apply raiseOp_ok
    | split

end Sys2Proof.Machine
end

