-- ==== Sys2Proof/Laws/KeepMemory.lean ====
section
/-! SUPPORT. The operations of Machine/Memory.lean keep the invariant and the queue. -/

namespace Sys2Proof.Machine

variable {q : List Instr} {s t : State} {r : Rd}

theorem answerAperture_ok (h : Ok q s) (r : MemReq) (k : ℕ) (xh : ℕ) (slot : ℕ) (line : ℕ) : Ok q (answerAperture s r k xh slot line) := by
  unfold answerAperture
  repeat' first
    | with_reducible assumption
    | intro _
    | (extract_lets +onlyGivenNames x; refine (fun (hx : Ok q x) => ?_) ?_; rotate_left; subst x; rotate_right; clear_value x)
    | (extract_lets +onlyGivenNames x; subst x)
    | with_reducible apply lineFault_ok
    | with_reducible apply failJob_ok
    | with_reducible apply apertureDrain_ok
    | with_reducible apply lineDone_ok
    | with_reducible apply pushLines_ok
    | split

theorem fetched_ok (h : Ok q s) (b : BufMove) (i : ℕ) : Ok q (fetched s b i) := by
  unfold fetched
  repeat' first
    | with_reducible assumption
    | intro _
    | (extract_lets +onlyGivenNames x; refine (fun (hx : Ok q x) => ?_) ?_; rotate_left; subst x; rotate_right; clear_value x)
    | (extract_lets +onlyGivenNames x; subst x)
    | with_reducible apply pageErr_ok
    | with_reducible apply modRecord_ok
    | with_reducible apply poisonLines_ok
    | with_reducible apply modOp_ok
    | with_reducible apply failJob_ok
    | with_reducible apply bump_ok
    | split

theorem moveEnd_ok (h : Ok q s) (b : BufMove) : Ok q (moveEnd s b) := by
  unfold moveEnd
  repeat' first
    | with_reducible assumption
    | intro _
    | (extract_lets +onlyGivenNames x; refine (fun (hx : Ok q x) => ?_) ?_; rotate_left; subst x; rotate_right; clear_value x)
    | with_reducible apply modMem_ok
    | with_reducible apply fetched_ok
    | with_reducible apply batchWritten_ok
    | with_reducible apply picturesEnd_ok
    | with_reducible apply arrivals_ok
    | with_reducible apply entryEnds_ok
    | split

theorem answerBuffer_ok (h : Ok q s) (r : MemReq) (i : ℕ) (xt : ℕ) : Ok q (answerBuffer s r i xt) := by
  unfold answerBuffer
  repeat' first
    | with_reducible assumption
    | intro _
    | (extract_lets +onlyGivenNames x; refine (fun (hx : Ok q x) => ?_) ?_; rotate_left; subst x; rotate_right; clear_value x)
    | (extract_lets +onlyGivenNames x; subst x)
    | with_reducible apply settleXfer_ok
    | with_reducible apply faultTile_ok
    | with_reducible apply failJob_ok
    | with_reducible apply modMove_ok
    | with_reducible apply moveEnd_ok
    | with_reducible apply Ok.foldl
    | split

theorem keepRetry_ok (h : Ok q s) (r : MemReq) : Ok q (keepRetry s r) := by
  unfold keepRetry
  repeat' first
    | with_reducible assumption
    | intro _
    | (extract_lets +onlyGivenNames x; subst x)
    | with_reducible apply modMem_ok

theorem memRaise_ok (h : Ok q s) (src : ℕ) (r : MemReq) : Ok q (memRaise s src r) := by
  unfold memRaise
  repeat' first
    | with_reducible assumption
    | intro _
    | with_reducible apply raise_ok

theorem answerCommit_ok (h : Ok q s) (r : MemReq) (j : ℕ) (final : Bool) : Ok q (answerCommit s r j final) := by
  unfold answerCommit
  repeat' first
    | with_reducible assumption
    | intro _
    | with_reducible apply keepRetry_ok
    | with_reducible apply memRaise_ok
    | with_reducible apply failJob_ok
    | with_reducible apply modJob_ok
    | with_reducible apply startShares_ok
    | split

theorem restart_ok (h : Ok q s) (n : ℕ) : Ok q (restart s n) := by
  unfold restart
  repeat' first
    | with_reducible assumption
    | intro _
    | (extract_lets +onlyGivenNames x; refine (fun (hx : Ok q x) => ?_) ?_; rotate_left; subst x; rotate_right; clear_value x)
    | with_reducible apply modXfer_ok
    | with_reducible apply sendSave_ok
    | with_reducible apply sendRestore_ok
    | with_reducible apply pumpMoves_ok
    | with_reducible apply modMem_ok
    | with_reducible apply sendOp_ok
    | with_reducible apply Ok.foldl
    | split

theorem answerCompletion_ok (h : Ok q s) (r : MemReq) (sq : ℕ) (x : Option ℕ) : Ok q (answerCompletion s r sq x) := by
  unfold answerCompletion
  repeat' first
    | with_reducible assumption
    | intro _
    | with_reducible apply keepRetry_ok
    | with_reducible apply memRaise_ok
    | with_reducible apply failJob_ok
    | with_reducible apply restart_ok
    | split

theorem answerDirectory_ok (h : Ok q s) (r : MemReq) (n : ℕ) : Ok q (answerDirectory s r n) := by
  unfold answerDirectory
  repeat' first
    | with_reducible assumption
    | intro _
    | with_reducible apply keepRetry_ok
    | with_reducible apply memRaise_ok
    | with_reducible apply failJob_ok
    | with_reducible apply batchDone_ok
    | split

theorem answerDump_ok (h : Ok q s) (r : MemReq) (u : ℕ) : Ok q (answerDump s r u) := by
  unfold answerDump
  repeat' first
    | with_reducible assumption
    | intro _
    | (extract_lets +onlyGivenNames x; refine (fun (hx : Ok q x) => ?_) ?_; rotate_left; subst x; rotate_right; clear_value x)
    | (extract_lets +onlyGivenNames x; subst x)
    | with_reducible apply dumpUnit_ok
    | (with_reducible apply Ok.upd; with_reducible assumption)
    | split

theorem answerOp_ok (h : Ok q s) (r : MemReq) (x : ℕ) (i : ℕ) : Ok q (answerOp s r x i) := by
  unfold answerOp
  repeat' first
    | with_reducible assumption
    | intro _
    | (extract_lets +onlyGivenNames x; refine (fun (hx : Ok q x) => ?_) ?_; rotate_left; subst x; rotate_right; clear_value x)
    | with_reducible apply settleXfer_ok
    | with_reducible apply faultTile_ok
    | with_reducible apply failJob_ok
    | with_reducible apply modOp_ok
    | with_reducible apply deliver_ok
    | with_reducible apply Ok.foldl
    | split

theorem answerNibble_ok (h : Ok q s) (r : MemReq) (i : ℕ) : Ok q (answerNibble s r i) := by
  unfold answerNibble
  repeat' first
    | with_reducible assumption
    | intro _
    | (extract_lets +onlyGivenNames x; subst x)
    | with_reducible apply settleXfer_ok
    | with_reducible apply faultTile_ok
    | with_reducible apply holdReq_ok
    | split

theorem answerGran_ok (h : Ok q s) (r : MemReq) (j : ℕ) (m : ℕ) (xt : ℕ) (save : Bool) : Ok q (answerGran s r j m xt save) := by
  unfold answerGran
  repeat' first
    | with_reducible assumption
    | intro _
    | (extract_lets +onlyGivenNames x; refine (fun (hx : Ok q x) => ?_) ?_; rotate_left; subst x; rotate_right; clear_value x)
    | (extract_lets +onlyGivenNames x; subst x)
    | with_reducible apply settleXfer_ok
    | with_reducible apply faultTile_ok
    | with_reducible apply failJob_ok
    | with_reducible apply placeRestore_ok
    | with_reducible apply granDone_ok
    | with_reducible apply Ok.foldl
    | split

theorem answerParam_ok (h : Ok q s) (r : MemReq) (k : ℕ) (slot : ℕ) (quarter : ℕ) : Ok q (answerParam s r k slot quarter) := by
  unfold answerParam
  repeat' first
    | with_reducible assumption
    | intro _
    | with_reducible apply keepRetry_ok
    | with_reducible apply memRaise_ok
    | (with_reducible apply Ok.upd; with_reducible assumption)
    | split

theorem answerFor_ok (h : Ok q s) (r : MemReq) (xa__internal_hyg0 : Purpose) : Ok q (answerFor s r xa__internal_hyg0) := by
  unfold answerFor
  repeat' first
    | with_reducible assumption
    | intro _
    | with_reducible apply answerOp_ok
    | with_reducible apply answerNibble_ok
    | with_reducible apply answerGran_ok
    | with_reducible apply answerCommit_ok
    | with_reducible apply answerCompletion_ok
    | with_reducible apply keepRetry_ok
    | with_reducible apply memRaise_ok
    | with_reducible apply answerBuffer_ok
    | with_reducible apply answerDirectory_ok
    | with_reducible apply failJob_ok
    | with_reducible apply answerParam_ok
    | with_reducible apply pageErr_ok
    | with_reducible apply answerDump_ok
    | with_reducible apply answerAperture_ok
    | split

theorem pumpRetry_ok (h : Ok q s) (r : MemReq) : Ok q (pumpRetry s r) := by
  unfold pumpRetry
  repeat' first
    | with_reducible assumption
    | intro _
    | with_reducible apply resend_ok
    | split

theorem answered_ok (h : Ok q s) (r : MemReq) (quiet : Bool) : Ok q (answered s r quiet) := by
  unfold answered
  repeat' first
    | with_reducible assumption
    | intro _
    | (extract_lets +onlyGivenNames x; refine (fun (hx : Ok q x) => ?_) ?_; rotate_left; subst x; rotate_right; clear_value x)
    | with_reducible apply modMem_ok
    | with_reducible apply memRaise_ok
    | with_reducible apply bump_ok
    | with_reducible apply pumpMoves_ok
    | with_reducible apply pumpFence_ok
    | with_reducible apply pumpRetry_ok
    | with_reducible apply pumpTags_ok
    | with_reducible apply answerFor_ok
    | with_reducible apply Ok.foldl
    | split

theorem slotFetch_ok (h : Ok q s) (n : ℕ) (k : RspKind) : Ok q (slotFetch s n k) := by
  unfold slotFetch
  repeat' first
    | with_reducible assumption
    | intro _
    | (extract_lets +onlyGivenNames x; subst x)
    | with_reducible apply hostRead_ok

theorem slotRead_ok (h : Ok q s) (n : ℕ) (k : RspKind) (data : BitVec 512) : Ok q (slotRead s n k data) := by
  unfold slotRead
  repeat' first
    | with_reducible assumption
    | intro _
    | (extract_lets +onlyGivenNames x; refine (fun (hx : Ok q x) => ?_) ?_; rotate_left; subst x; rotate_right; clear_value x)
    | (extract_lets +onlyGivenNames x; subst x)
    | with_reducible apply modSq_ok
    | with_reducible apply slotFetch_ok
    | with_reducible apply endBurst_ok
    | split

theorem portParity_ok (h : Ok q s) (j : ℕ) : Ok q (portParity s j) := by
  unfold portParity
  repeat' first
    | with_reducible assumption
    | intro _
    | with_reducible apply raise_ok
    | with_reducible apply draw_ok

theorem doMemResponse_ok (h : Ok q s) (xt : RspTarget) (k : RspKind) (data : BitVec 512) (ok : Bool) : Ok q (doMemResponse s xt k data ok) := by
  unfold doMemResponse
  repeat' first
    | with_reducible assumption
    | intro _
    | (extract_lets +onlyGivenNames x; subst x)
    | with_reducible apply slotRead_ok
    | with_reducible apply portParity_ok
    | with_reducible apply answered_ok
    | with_reducible apply modMem_ok
    | split

theorem doMemTimeout_ok (h : Ok q s) (port : ℕ) (tag : ℕ) : Ok q (doMemTimeout s port tag) := by
  unfold doMemTimeout
  repeat' first
    | with_reducible assumption
    | intro _
    | (extract_lets +onlyGivenNames x; refine (fun (hx : Ok q x) => ?_) ?_; rotate_left; subst x; rotate_right; clear_value x)
    | (extract_lets +onlyGivenNames x; subst x)
    | with_reducible apply memRaise_ok
    | with_reducible apply draw_ok
    | with_reducible apply answered_ok
    | split

theorem doResume_ok (h : Ok q s) (n : ℕ) : Ok q (doResume s n) := by
  unfold doResume
  repeat' first
    | with_reducible assumption
    | intro _
    | (extract_lets +onlyGivenNames x; refine (fun (hx : Ok q x) => ?_) ?_; rotate_left; subst x; rotate_right; clear_value x)
    | with_reducible apply storeReg_ok
    | with_reducible apply wrg_ok
    | with_reducible apply modXfer_ok
    | with_reducible apply restart_ok
    | with_reducible apply refuse_ok
    | split

theorem doScrub_ok (h : Ok q s) (p : ℕ) : Ok q (doScrub s p) := by
  unfold doScrub
  repeat' first
    | with_reducible assumption
    | intro _
    | (extract_lets +onlyGivenNames x; refine (fun (hx : Ok q x) => ?_) ?_; rotate_left; subst x; rotate_right; clear_value x)
    | (extract_lets +onlyGivenNames x; subst x)
    | with_reducible apply checkLine_ok
    | with_reducible apply modPod_ok
    | with_reducible apply bump_ok
    | split

theorem doWriteRetry_ok (h : Ok q s) : Ok q (doWriteRetry s) := by
  unfold doWriteRetry
  repeat' first
    | with_reducible assumption
    | intro _
    | (extract_lets +onlyGivenNames x; subst x)
    | with_reducible apply resend_ok
    | with_reducible apply Ok.foldl
    | split

end Sys2Proof.Machine
end

