-- ==== Sys2Proof/Laws/KeepJobCtl.lean ====
section
/-! SUPPORT. The operations of Machine/JobCtl.lean keep the invariant and the queue. -/

namespace Sys2Proof.Machine

variable {q : List Instr} {s t : State} {r : Rd}

theorem assignGates_ok (h : Ok q s) (j : ℕ) (p : ℕ) (gs : List ℕ) : Ok q (assignGates s j p gs) := by
  unfold assignGates
  repeat' first
    | with_reducible assumption
    | intro _
    | (extract_lets +onlyGivenNames x; subst x)
    | with_reducible apply modGate_ok
    | with_reducible apply Ok.foldl

theorem beginBind_ok (h : Ok q s) (j : ℕ) (c : JobCmd) : Ok q (beginBind s j c) := by
  unfold beginBind
  repeat' first
    | with_reducible assumption
    | intro _
    | (extract_lets +onlyGivenNames x; refine (fun (hx : Ok q x) => ?_) ?_; rotate_left; subst x; rotate_right; clear_value x)
    | with_reducible apply modJob_ok
    | with_reducible apply assignGates_ok

theorem setCursors_ok (h : Ok q s) (j : ℕ) (rs : List TaskRec) : Ok q (setCursors s j rs) := by
  unfold setCursors
  repeat' first
    | with_reducible assumption
    | intro _
    | (extract_lets +onlyGivenNames x; subst x)
    | with_reducible apply modJob_ok

theorem dealTasks_ok (h : Ok q s) (j : ℕ) (p : ℕ) (rs : List TaskRec) : Ok q (dealTasks s j p rs) := by
  unfold dealTasks
  repeat' first
    | with_reducible assumption
    | intro _
    | (extract_lets +onlyGivenNames x; refine (fun (hx : Ok q x) => ?_) ?_; rotate_left; subst x; rotate_right; clear_value x)
    | (extract_lets +onlyGivenNames x; subst x)
    | with_reducible apply modJob_ok
    | with_reducible apply modNode_ok
    | (with_reducible apply Ok.upd; with_reducible assumption)
    | with_reducible apply Ok.foldl

theorem moveWaiters_ok (h : Ok q s) (j : ℕ) (old : List ℕ) (new : List ℕ) : Ok q (moveWaiters s j old new) := by
  unfold moveWaiters
  repeat' first
    | with_reducible assumption
    | intro _
    | (extract_lets +onlyGivenNames x; refine (fun (hx : Ok q x) => ?_) ?_; rotate_left; subst x; rotate_right; clear_value x)
    | (extract_lets +onlyGivenNames x; subst x)
    | with_reducible apply modMps_ok
    | with_reducible apply finish_ok
    | with_reducible apply Ok.foldl
    | split

theorem loadGates_ok (h : Ok q s) (j : ℕ) (p : ℕ) (xh : List Byte) : Ok q (loadGates s j p xh) := by
  unfold loadGates
  repeat' first
    | with_reducible assumption
    | intro _
    | (extract_lets +onlyGivenNames x; subst x)
    | with_reducible apply modGate_ok
    | with_reducible apply Ok.foldl

theorem beginRestore_ok (h : Ok q s) (j : ℕ) (c : JobCmd) (xh : List Byte) : Ok q (beginRestore s j c xh) := by
  unfold beginRestore
  repeat' first
    | with_reducible assumption
    | intro _
    | (extract_lets +onlyGivenNames x; refine (fun (hx : Ok q x) => ?_) ?_; rotate_left; subst x; rotate_right; clear_value x)
    | (extract_lets +onlyGivenNames x; subst x)
    | with_reducible apply pageErr_ok
    | with_reducible apply failJob_ok
    | with_reducible apply setCursors_ok
    | with_reducible apply dealTasks_ok
    | with_reducible apply moveWaiters_ok
    | with_reducible apply modJob_ok
    | with_reducible apply loadGates_ok
    | with_reducible apply assignGates_ok
    | with_reducible apply sendRestore_ok
    | with_reducible apply openShare_ok
    | with_reducible apply Ok.foldl
    | split

theorem parkOp_ok (h : Ok q s) (o : TileOp) (xt : ℕ) : Ok q (parkOp s o xt) := by
  unfold parkOp
  repeat' first
    | with_reducible assumption
    | intro _
    | (extract_lets +onlyGivenNames x; refine (fun (hx : Ok q x) => ?_) ?_; rotate_left; subst x; rotate_right; clear_value x)
    | (extract_lets +onlyGivenNames x; subst x)
    | with_reducible apply discardSlot_ok
    | with_reducible apply modRecord_ok
    | with_reducible apply modNode_ok
    | (with_reducible apply Ok.upd; with_reducible assumption)
    | with_reducible apply Ok.foldl
    | split

theorem parkXfers_ok (h : Ok q s) (j : ℕ) : Ok q (parkXfers s j) := by
  unfold parkXfers
  repeat' first
    | with_reducible assumption
    | intro _
    | (extract_lets +onlyGivenNames x; refine (fun (hx : Ok q x) => ?_) ?_; rotate_left; subst x; rotate_right; clear_value x)
    | (extract_lets +onlyGivenNames x; subst x)
    | with_reducible apply parkOp_ok
    | with_reducible apply modMem_ok
    | with_reducible apply Ok.foldl

theorem beginSave_ok (h : Ok q s) (j : ℕ) : Ok q (beginSave s j) := by
  unfold beginSave
  repeat' first
    | with_reducible assumption
    | intro _
    | (extract_lets +onlyGivenNames x; refine (fun (hx : Ok q x) => ?_) ?_; rotate_left; subst x; rotate_right; clear_value x)
    | with_reducible apply parkXfers_ok
    | with_reducible apply modJob_ok
    | with_reducible apply sendCommit_ok
    | with_reducible apply setJobSt_ok

theorem jobStore_ok (h : Ok q s) (j : ℕ) (op : ℕ) (at' : Bool) : Ok q (jobStore s j op at') := by
  unfold jobStore
  repeat' first
    | with_reducible assumption
    | intro _
    | (extract_lets +onlyGivenNames x; refine (fun (hx : Ok q x) => ?_) ?_; rotate_left; subst x; rotate_right; clear_value x)
    | with_reducible apply storeReg_ok
    | with_reducible apply wrg_ok

theorem jobRefuse_ok (h : Ok q s) (x : ℕ × ℕ × ℕ) : Ok q (jobRefuse s x) := by
  unfold jobRefuse
  repeat' first
    | with_reducible assumption
    | intro _
    | (extract_lets +onlyGivenNames x; refine (fun (hx : Ok q x) => ?_) ?_; rotate_left; subst x; rotate_right; clear_value x)
    | with_reducible apply wrg_ok
    | with_reducible apply refuse_ok

theorem routeRead_ok (h : Ok q s) (i : HostRead) : Ok q (routeRead s i) := by
  unfold routeRead
  repeat' first
    | with_reducible assumption
    | intro _
    | with_reducible apply hostRead_ok

theorem wakePods_ok (h : Ok q s) (ls : List ℕ) : Ok q (wakePods s ls) := by
  unfold wakePods
  repeat' first
    | with_reducible assumption
    | intro _
    | with_reducible apply powerUp_ok
    | with_reducible apply Ok.foldl
    | split

theorem doBind_ok (h : Ok q s) (j : ℕ) (img : HostRead) (at' : Bool) : Ok q (doBind s j img at') := by
  unfold doBind
  repeat' first
    | with_reducible assumption
    | intro _
    | (extract_lets +onlyGivenNames x; refine (fun (hx : Ok q x) => ?_) ?_; rotate_left; subst x; rotate_right; clear_value x)
    | (extract_lets +onlyGivenNames x; subst x)
    | with_reducible apply jobStore_ok
    | with_reducible apply jobRefuse_ok
    | with_reducible apply routeRead_ok
    | with_reducible apply modJob_ok
    | with_reducible apply wakePods_ok
    | with_reducible apply setJobSt_ok
    | split

theorem freePod_ok (h : Ok q s) (p : ℕ) : Ok q (freePod s p) := by
  unfold freePod
  repeat' first
    | with_reducible assumption
    | intro _
    | (extract_lets +onlyGivenNames x; refine (fun (hx : Ok q x) => ?_) ?_; rotate_left; subst x; rotate_right; clear_value x)
    | (extract_lets +onlyGivenNames x; subst x)
    | with_reducible apply zeroise_ok
    | with_reducible apply modPod_ok
    | with_reducible apply logWrite_ok
    | with_reducible apply toIdle_ok
    | with_reducible apply releasePod_ok
    | (with_reducible apply Ok.upd; with_reducible assumption)
    | split

theorem jobGone_ok (h : Ok q s) (j : ℕ) : Ok q (jobGone s j) := by
  unfold jobGone
  repeat' first
    | with_reducible assumption
    | intro _
    | with_reducible apply syncBlock_ok
    | (with_reducible apply Ok.upd; with_reducible assumption)

theorem drainSave_ok (h : Ok q s) (p : ℕ) (j : ℕ) : Ok q (drainSave s p j) := by
  unfold drainSave
  repeat' first
    | with_reducible assumption
    | intro _
    | (extract_lets +onlyGivenNames x; refine (fun (hx : Ok q x) => ?_) ?_; rotate_left; subst x; rotate_right; clear_value x)
    | (extract_lets +onlyGivenNames x; subst x)
    | with_reducible apply modHalf_ok
    | with_reducible apply setPodSt_ok
    | with_reducible apply beginSave_ok
    | with_reducible apply Ok.foldl
    | split

theorem doDrainDone_ok (h : Ok q s) (p : ℕ) : Ok q (doDrainDone s p) := by
  unfold doDrainDone
  repeat' first
    | with_reducible assumption
    | intro _
    | (extract_lets +onlyGivenNames x; refine (fun (hx : Ok q x) => ?_) ?_; rotate_left; subst x; rotate_right; clear_value x)
    | (extract_lets +onlyGivenNames x; subst x)
    | with_reducible apply freePod_ok
    | with_reducible apply jobGone_ok
    | with_reducible apply drainSave_ok
    | split

theorem resumeHalves_ok (h : Ok q s) (j : ℕ) : Ok q (resumeHalves s j) := by
  unfold resumeHalves
  repeat' first
    | with_reducible assumption
    | intro _
    | (extract_lets +onlyGivenNames x; subst x)
    | with_reducible apply failJob_ok
    | with_reducible apply modHalf_ok
    | with_reducible apply Ok.foldl
    | split

theorem doLoadDone_ok (h : Ok q s) (j : ℕ) : Ok q (doLoadDone s j) := by
  unfold doLoadDone
  repeat' first
    | with_reducible assumption
    | intro _
    | (extract_lets +onlyGivenNames x; refine (fun (hx : Ok q x) => ?_) ?_; rotate_left; subst x; rotate_right; clear_value x)
    | (extract_lets +onlyGivenNames x; subst x)
    | with_reducible apply setPodSt_ok
    | with_reducible apply setJobSt_ok
    | with_reducible apply modJob_ok
    | with_reducible apply modGroup_ok
    | with_reducible apply pumpMoves_ok
    | with_reducible apply arrivals_ok
    | with_reducible apply resumeHalves_ok
    | with_reducible apply rewindJob_ok
    | with_reducible apply Ok.foldl
    | split

theorem doRestore_ok (h : Ok q s) (j : ℕ) (img : HostRead) (at' : Bool) : Ok q (doRestore s j img at') := by
  unfold doRestore
  repeat' first
    | with_reducible assumption
    | intro _
    | (extract_lets +onlyGivenNames x; refine (fun (hx : Ok q x) => ?_) ?_; rotate_left; subst x; rotate_right; clear_value x)
    | (extract_lets +onlyGivenNames x; subst x)
    | with_reducible apply jobStore_ok
    | with_reducible apply jobRefuse_ok
    | with_reducible apply routeRead_ok
    | with_reducible apply modJob_ok
    | with_reducible apply setJobSt_ok
    | with_reducible apply wakePods_ok
    | split

theorem doSave_ok (h : Ok q s) (j : ℕ) (at' : Bool) : Ok q (doSave s j at') := by
  unfold doSave
  repeat' first
    | with_reducible assumption
    | intro _
    | (extract_lets +onlyGivenNames x; refine (fun (hx : Ok q x) => ?_) ?_; rotate_left; subst x; rotate_right; clear_value x)
    | (extract_lets +onlyGivenNames x; subst x)
    | with_reducible apply jobStore_ok
    | with_reducible apply jobRefuse_ok
    | with_reducible apply modJob_ok
    | with_reducible apply beginDrain_ok
    | split

theorem jobSaved_ok (h : Ok q s) (j : ℕ) : Ok q (jobSaved s j) := by
  unfold jobSaved
  repeat' first
    | with_reducible assumption
    | intro _
    | (extract_lets +onlyGivenNames x; refine (fun (hx : Ok q x) => ?_) ?_; rotate_left; subst x; rotate_right; clear_value x)
    | (extract_lets +onlyGivenNames x; subst x)
    | with_reducible apply modJob_ok
    | with_reducible apply freeGates_ok
    | with_reducible apply freePod_ok
    | with_reducible apply setJobSt_ok
    | with_reducible apply Ok.foldl

theorem doSaveCommit_ok (h : Ok q s) (j : ℕ) : Ok q (doSaveCommit s j) := by
  unfold doSaveCommit
  repeat' first
    | with_reducible assumption
    | intro _
    | with_reducible apply jobSaved_ok
    | split

theorem imageRead_ok (h : Ok q s) (c : JobCmd) (i : HostRead) : Ok q (imageRead s c i) := by
  unfold imageRead
  repeat' first
    | with_reducible assumption
    | intro _
    | with_reducible apply hostRead_ok

theorem startPod_ok (h : Ok q s) (j : ℕ) (c : JobCmd) (l : ℕ) : Ok q (startPod j c s l) := by
  unfold startPod
  repeat' first
    | with_reducible assumption
    | intro _
    | (extract_lets +onlyGivenNames x; refine (fun (hx : Ok q x) => ?_) ?_; rotate_left; subst x; rotate_right; clear_value x)
    | (extract_lets +onlyGivenNames x; subst x)
    | with_reducible apply zeroise_ok
    | with_reducible apply modPod_ok
    | with_reducible apply modJob_ok
    | split

theorem doStart_ok (h : Ok q s) (j : ℕ) (image : HostRead) : Ok q (doStart s j image) := by
  unfold doStart
  repeat' first
    | with_reducible assumption
    | intro _
    | (extract_lets +onlyGivenNames x; refine (fun (hx : Ok q x) => ?_) ?_; rotate_left; subst x; rotate_right; clear_value x)
    | (extract_lets +onlyGivenNames x; subst x)
    | with_reducible apply imageRead_ok
    | with_reducible apply startPod_ok
    | with_reducible apply modJob_ok
    | with_reducible apply beginBind_ok
    | with_reducible apply beginRestore_ok
    | with_reducible apply Ok.foldl
    | split

theorem doUnbind_ok (h : Ok q s) (j : ℕ) (at' : Bool) : Ok q (doUnbind s j at') := by
  unfold doUnbind
  repeat' first
    | with_reducible assumption
    | intro _
    | (extract_lets +onlyGivenNames x; refine (fun (hx : Ok q x) => ?_) ?_; rotate_left; subst x; rotate_right; clear_value x)
    | (extract_lets +onlyGivenNames x; subst x)
    | with_reducible apply jobStore_ok
    | with_reducible apply jobRefuse_ok
    | with_reducible apply settleGroups_ok
    | with_reducible apply endWork_ok
    | with_reducible apply jobGone_ok
    | with_reducible apply setJobSt_ok
    | with_reducible apply modJob_ok
    | split

end Sys2Proof.Machine
end

