-- ==== Sys2Proof/Laws/KeepRings.lean ====
section
/-! SUPPORT. The operations of Machine/Rings.lean keep the invariant and the queue. -/

namespace Sys2Proof.Machine

variable {q : List Instr} {s t : State} {r : Rd}

theorem cqOn_ok (h : Ok q s) (c : ℕ) : Ok q (cqOn s c) := by
  unfold cqOn
  repeat' first
    | with_reducible assumption
    | intro _
    | (extract_lets +onlyGivenNames x; subst x)
    | with_reducible apply refuse_ok
    | with_reducible apply wrg_ok
    | with_reducible apply modCq_ok
    | split

theorem cqTurnOff_ok (h : Ok q s) (c : ℕ) : Ok q (cqTurnOff s c) := by
  unfold cqTurnOff
  repeat' first
    | with_reducible assumption
    | intro _
    | with_reducible apply refuse_ok
    | with_reducible apply modCq_ok
    | split

theorem cqCtrl_ok (h : Ok q s) (c : ℕ) (w : ℕ) : Ok q (cqCtrl s c w) := by
  unfold cqCtrl
  repeat' first
    | with_reducible assumption
    | intro _
    | (extract_lets +onlyGivenNames x; refine (fun (hx : Ok q x) => ?_) ?_; rotate_left; subst x; rotate_right; clear_value x)
    | (extract_lets +onlyGivenNames x; subst x)
    | with_reducible apply storeReg_ok
    | with_reducible apply cqOn_ok
    | with_reducible apply cqTurnOff_ok
    | with_reducible apply cqInterrupt_ok
    | split

theorem cqHead_ok (h : Ok q s) (c : ℕ) (w : ℕ) : Ok q (cqHead s c w) := by
  unfold cqHead
  repeat' first
    | with_reducible assumption
    | intro _
    | (extract_lets +onlyGivenNames x; subst x)
    | with_reducible apply pageErr_ok
    | with_reducible apply storeReg_ok
    | split

theorem doCoal_ok (h : Ok q s) (c : ℕ) : Ok q (doCoal s c) := by
  unfold doCoal
  repeat' first
    | with_reducible assumption
    | intro _
    | with_reducible apply cqSignal_ok
    | split

theorem writeDue_ok (h : Ok q s) (c : ℕ) (d : Due) : Ok q (writeDue s c d) := by
  unfold writeDue
  repeat' first
    | with_reducible assumption
    | intro _
    | (extract_lets +onlyGivenNames x; refine (fun (hx : Ok q x) => ?_) ?_; rotate_left; subst x; rotate_right; clear_value x)
    | (extract_lets +onlyGivenNames x; subst x)
    | with_reducible apply memWrite_ok
    | with_reducible apply modCq_ok

theorem finalStream_ok (h : Ok q s) (e : Entry) (status : ℕ) : Ok q (finalStream s e status) := by
  unfold finalStream
  repeat' first
    | with_reducible assumption
    | intro _
    | (extract_lets +onlyGivenNames x; refine (fun (hx : Ok q x) => ?_) ?_; rotate_left; subst x; rotate_right; clear_value x)
    | (extract_lets +onlyGivenNames x; subst x)
    | with_reducible apply latchPage_ok
    | with_reducible apply closeSome_ok
    | with_reducible apply writeStream_ok
    | (with_reducible apply Ok.upd; with_reducible assumption)
    | split

theorem pageDrained_ok (h : Ok q s) (page : ℕ) : Ok q (pageDrained s page) := by
  unfold pageDrained
  repeat' first
    | with_reducible assumption
    | intro _
    | with_reducible apply wrg_ok
    | split

theorem drainSettle_ok (h : Ok q s) (n : ℕ) : Ok q (drainSettle s n) := by
  unfold drainSettle
  repeat' first
    | with_reducible assumption
    | intro _
    | with_reducible apply pageDrained_ok
    | with_reducible apply modSq_ok
    | split

theorem finalWritten_ok (h : Ok q s) (d : Due) : Ok q (finalWritten s d) := by
  unfold finalWritten
  repeat' first
    | with_reducible assumption
    | intro _
    | (extract_lets +onlyGivenNames x; refine (fun (hx : Ok q x) => ?_) ?_; rotate_left; subst x; rotate_right; clear_value x)
    | (extract_lets +onlyGivenNames x; subst x)
    | with_reducible apply bump32_ok
    | with_reducible apply modSq_ok
    | with_reducible apply finalStream_ok
    | with_reducible apply batchBoundary_ok
    | with_reducible apply drainSettle_ok
    | (with_reducible apply Ok.upd; with_reducible assumption)
    | split

theorem doCompletion_ok (h : Ok q s) (c : ℕ) : Ok q (doCompletion s c) := by
  unfold doCompletion
  repeat' first
    | with_reducible assumption
    | intro _
    | (extract_lets +onlyGivenNames x; refine (fun (hx : Ok q x) => ?_) ?_; rotate_left; subst x; rotate_right; clear_value x)
    | with_reducible apply writeDue_ok
    | with_reducible apply finalWritten_ok
    | with_reducible apply cqSignal_ok
    | split

theorem doDoorbell_ok (h : Ok q s) (n : ℕ) : Ok q (doDoorbell s n) := by
  unfold doDoorbell
  repeat' first
    | with_reducible assumption
    | intro _
    | with_reducible apply modSq_ok
    | split

theorem walkOne_ok (h : Ok q s) (n : ℕ) (e : EntryBody) : Ok q (walkOne n s e) := by
  unfold walkOne
  repeat' first
    | with_reducible assumption
    | intro _
    | (extract_lets +onlyGivenNames x; refine (fun (hx : Ok q x) => ?_) ?_; rotate_left; subst x; rotate_right; clear_value x)
    | (extract_lets +onlyGivenNames x; subst x)
    | with_reducible apply slotFetch_ok
    | with_reducible apply addDue_ok
    | with_reducible apply modSq_ok

theorem doDrainWalk_ok (h : Ok q s) (n : ℕ) (walk : List EntryBody) (last : RspKind) : Ok q (doDrainWalk s n walk last) := by
  unfold doDrainWalk
  repeat' first
    | with_reducible assumption
    | intro _
    | (extract_lets +onlyGivenNames x; refine (fun (hx : Ok q x) => ?_) ?_; rotate_left; subst x; rotate_right; clear_value x)
    | (extract_lets +onlyGivenNames x; subst x)
    | with_reducible apply walkOne_ok
    | with_reducible apply slotFetch_ok
    | with_reducible apply drainSettle_ok
    | with_reducible apply modSq_ok
    | with_reducible apply Ok.foldl
    | split

theorem doFenceRelease_ok (h : Ok q s) (n : ℕ) : Ok q (doFenceRelease s n) := by
  unfold doFenceRelease
  repeat' first
    | with_reducible assumption
    | intro _
    | with_reducible apply modSq_ok
    | with_reducible apply finish_ok
    | split

theorem doMpTimeout_ok (h : Ok q s) (n : ℕ) (slot : ℕ) : Ok q (doMpTimeout s n slot) := by
  unfold doMpTimeout
  repeat' first
    | with_reducible assumption
    | intro _
    | (extract_lets +onlyGivenNames x; refine (fun (hx : Ok q x) => ?_) ?_; rotate_left; subst x; rotate_right; clear_value x)
    | with_reducible apply modMps_ok
    | with_reducible apply bump_ok
    | with_reducible apply mpMisuse_ok
    | with_reducible apply finish_ok
    | split

theorem doRescan_ok (h : Ok q s) (n : ℕ) : Ok q (doRescan s n) := by
  unfold doRescan
  repeat' first
    | with_reducible assumption
    | intro _
    | (extract_lets +onlyGivenNames x; subst x)
    | with_reducible apply modSq_ok
    | split

theorem endStop_ok (h : Ok q s) (n : ℕ) (e : Entry) : Ok q (endStop s n e) := by
  unfold endStop
  repeat' first
    | with_reducible assumption
    | intro _
    | (extract_lets +onlyGivenNames x; refine (fun (hx : Ok q x) => ?_) ?_; rotate_left; subst x; rotate_right; clear_value x)
    | with_reducible apply finish_ok
    | with_reducible apply purge_ok
    | with_reducible apply removeUnit_ok

theorem fenceClose_ok (h : Ok q s) (n : ℕ) : Ok q (fenceClose s n) := by
  unfold fenceClose
  repeat' first
    | with_reducible assumption
    | intro _
    | with_reducible apply stopSettle_ok
    | with_reducible apply closeBatch_ok
    | split

theorem refuseEntry_ok (h : Ok q s) (e : Entry) (code : ℕ) : Ok q (refuseEntry s e code) := by
  unfold refuseEntry
  repeat' first
    | with_reducible assumption
    | intro _
    | (extract_lets +onlyGivenNames x; refine (fun (hx : Ok q x) => ?_) ?_; rotate_left; subst x; rotate_right; clear_value x)
    | with_reducible apply modEntry_ok
    | with_reducible apply purge_ok
    | with_reducible apply removeUnit_ok
    | with_reducible apply finish_ok
    | with_reducible apply arrivals_ok
    | with_reducible apply endStreams_ok
    | with_reducible apply fenceClose_ok
    | split

theorem milepostEntry_ok (h : Ok q s) (e : Entry) : Ok q (milepostEntry s e) := by
  unfold milepostEntry
  repeat' first
    | with_reducible assumption
    | intro _
    | (extract_lets +onlyGivenNames x; subst x)
    | with_reducible apply finish_ok
    | with_reducible apply mpSet_ok
    | with_reducible apply ringHolds_ok
    | with_reducible apply mpClear_ok
    | with_reducible apply addWaiter_ok
    | with_reducible apply mpTakeNow_ok
    | split

theorem wakeEntry_ok (h : Ok q s) (e : Entry) : Ok q (wakeEntry s e) := by
  unfold wakeEntry
  repeat' first
    | with_reducible assumption
    | intro _
    | (extract_lets +onlyGivenNames x; subst x)
    | with_reducible apply refuseEntry_ok
    | with_reducible apply modEntry_ok
    | with_reducible apply milepostEntry_ok
    | with_reducible apply finish_ok
    | split

theorem resumeRing_ok (h : Ok q s) (n : ℕ) : Ok q (resumeRing s n) := by
  unfold resumeRing
  repeat' first
    | with_reducible assumption
    | intro _
    | (extract_lets +onlyGivenNames x; refine (fun (hx : Ok q x) => ?_) ?_; rotate_left; subst x; rotate_right; clear_value x)
    | with_reducible apply wakeEntry_ok
    | with_reducible apply modSq_ok
    | with_reducible apply endStreams_ok
    | with_reducible apply entryEnds_ok
    | with_reducible apply Ok.foldl

theorem dropStop_ok (h : Ok q s) (n : ℕ) (e : Entry) : Ok q (dropStop s n e) := by
  unfold dropStop
  repeat' first
    | with_reducible assumption
    | intro _
    | (extract_lets +onlyGivenNames x; refine (fun (hx : Ok q x) => ?_) ?_; rotate_left; subst x; rotate_right; clear_value x)
    | (extract_lets +onlyGivenNames x; subst x)
    | with_reducible apply endStop_ok
    | with_reducible apply finish_ok
    | with_reducible apply modSq_ok
    | with_reducible apply batchBoundary_ok
    | with_reducible apply endStreams_ok
    | with_reducible apply fenceClose_ok
    | with_reducible apply resumeRing_ok
    | with_reducible apply Ok.foldl
    | split

theorem retryStop_ok (h : Ok q s) (n : ℕ) (e : Entry) : Ok q (retryStop s n e) := by
  unfold retryStop
  repeat' first
    | with_reducible assumption
    | intro _
    | (extract_lets +onlyGivenNames x; refine (fun (hx : Ok q x) => ?_) ?_; rotate_left; subst x; rotate_right; clear_value x)
    | with_reducible apply clearRank_ok
    | with_reducible apply modEntry_ok
    | with_reducible apply resumeRing_ok

theorem skipStop_ok (h : Ok q s) (n : ℕ) (e : Entry) : Ok q (skipStop s n e) := by
  unfold skipStop
  repeat' first
    | with_reducible assumption
    | intro _
    | with_reducible apply endStreams_ok
    | with_reducible apply fenceClose_ok
    | with_reducible apply resumeRing_ok
    | with_reducible apply endStop_ok

theorem resumeAction_ok (h : Ok q s) (n : ℕ) (a : ℕ) : Ok q (resumeAction s n a) := by
  unfold resumeAction
  repeat' first
    | with_reducible assumption
    | intro _
    | with_reducible apply resumeRing_ok
    | with_reducible apply retryStop_ok
    | with_reducible apply skipStop_ok
    | with_reducible apply dropStop_ok
    | split

theorem startDrain_ok (h : Ok q s) (n : ℕ) : Ok q (startDrain s n) := by
  unfold startDrain
  repeat' first
    | with_reducible assumption
    | intro _
    | with_reducible apply purge_ok
    | with_reducible apply drainRing_ok

theorem sqOn_ok (h : Ok q s) (n : ℕ) : Ok q (sqOn s n) := by
  unfold sqOn
  repeat' first
    | with_reducible assumption
    | intro _
    | with_reducible apply refuse_ok
    | with_reducible apply modSq_ok
    | split

theorem sqCtrl_ok (h : Ok q s) (n : ℕ) (w : ℕ) : Ok q (sqCtrl s n w) := by
  unfold sqCtrl
  repeat' first
    | with_reducible assumption
    | intro _
    | (extract_lets +onlyGivenNames x; refine (fun (hx : Ok q x) => ?_) ?_; rotate_left; subst x; rotate_right; clear_value x)
    | (extract_lets +onlyGivenNames x; subst x)
    | with_reducible apply storeReg_ok
    | with_reducible apply resumeAction_ok
    | with_reducible apply pageErr_ok
    | with_reducible apply startDrain_ok
    | with_reducible apply sqOn_ok
    | split

end Sys2Proof.Machine
end

