-- ==== Sys2Proof/Laws/KeepEntries.lean ====
section
/-! SUPPORT. The operations of Machine/Entries.lean keep the invariant and the queue. -/

namespace Sys2Proof.Machine

variable {q : List Instr} {s t : State} {r : Rd}

theorem cutWrites_ok (h : Ok q s) (e : Entry) : Ok q (cutWrites s e) := by
  unfold cutWrites
  repeat' first
    | with_reducible assumption
    | intro _
    | (extract_lets +onlyGivenNames x; refine (fun (hx : Ok q x) => ?_) ?_; rotate_left; subst x; rotate_right; clear_value x)
    | (extract_lets +onlyGivenNames x; subst x)
    | with_reducible apply modMem_ok
    | with_reducible apply entryEnds_ok
    | with_reducible apply picturesEnd_ok
    | (with_reducible apply Ok.upd; with_reducible assumption)
    | with_reducible apply Ok.foldl

theorem closeRefused_ok (h : Ok q s) (e : Entry) (code : ℕ) : Ok q (closeRefused s e code) := by
  unfold closeRefused
  repeat' first
    | with_reducible assumption
    | intro _
    | (extract_lets +onlyGivenNames x; refine (fun (hx : Ok q x) => ?_) ?_; rotate_left; subst x; rotate_right; clear_value x)
    | (extract_lets +onlyGivenNames x; subst x)
    | with_reducible apply closeSome_ok
    | with_reducible apply cutWrites_ok
    | with_reducible apply refuseEntry_ok
    | (with_reducible apply Ok.upd; with_reducible assumption)
    | with_reducible apply Ok.foldl
    | split

theorem closeStage_ok (h : Ok q s) (j : ℕ) : Ok q (closeStage s j) := by
  unfold closeStage
  repeat' first
    | with_reducible assumption
    | intro _
    | with_reducible apply endStreams_ok
    | with_reducible apply arrivals_ok
    | with_reducible apply modJob_ok

theorem enterEntry_ok (h : Ok q s) (e : Entry) : Ok q (enterEntry s e) := by
  unfold enterEntry
  repeat' first
    | with_reducible assumption
    | intro _
    | (extract_lets +onlyGivenNames x; refine (fun (hx : Ok q x) => ?_) ?_; rotate_left; subst x; rotate_right; clear_value x)
    | (extract_lets +onlyGivenNames x; subst x)
    | with_reducible apply modJob_ok
    | (with_reducible apply Ok.upd; with_reducible assumption)

theorem feedMember_ok (h : Ok q s) (j : ℕ) (m : ℕ) : Ok q (feedMember s j m) := by
  unfold feedMember
  repeat' first
    | with_reducible assumption
    | intro _
    | with_reducible apply feedRanks_ok
    | with_reducible apply Ok.foldl
    | split

theorem takeSlot_ok (h : Ok q s) (n : ℕ) (fresh : Bool) : Ok q (takeSlot s n fresh) := by
  unfold takeSlot
  repeat' first
    | with_reducible assumption
    | intro _
    | (extract_lets +onlyGivenNames x; refine (fun (hx : Ok q x) => ?_) ?_; rotate_left; subst x; rotate_right; clear_value x)
    | (extract_lets +onlyGivenNames x; subst x)
    | with_reducible apply takeTurn_ok
    | with_reducible apply modSq_ok
    | with_reducible apply modCq_ok
    | with_reducible apply restRound_ok
    | with_reducible apply bump_ok

theorem haltBlock_ok (h : Ok q s) (n : ℕ) (slot : ℕ) (op : ℕ) (e : EntryBody) (x : ℕ × ℕ) : Ok q (haltBlock s n slot op e x) := by
  unfold haltBlock
  repeat' first
    | with_reducible assumption
    | intro _
    | (extract_lets +onlyGivenNames x; refine (fun (hx : Ok q x) => ?_) ?_; rotate_left; subst x; rotate_right; clear_value x)
    | (extract_lets +onlyGivenNames x; subst x)
    | with_reducible apply abandonSwap_ok
    | with_reducible apply modBlk_ok
    | with_reducible apply raise_ok
    | split

theorem reserveOne_ok (h : Ok q s) (j : ℕ) (u : ℕ × ℕ) : Ok q (reserveOne j s u) := by
  unfold reserveOne
  repeat' first
    | with_reducible assumption
    | intro _
    | (extract_lets +onlyGivenNames x; refine (fun (hx : Ok q x) => ?_) ?_; rotate_left; subst x; rotate_right; clear_value x)
    | (extract_lets +onlyGivenNames x; subst x)
    | with_reducible apply bump_ok
    | with_reducible apply pageErr_ok
    | with_reducible apply modJob_ok
    | split

theorem reserveSlots_ok (h : Ok q s) (j : ℕ) (op : ℕ) : Ok q (reserveSlots s j op).1 := by
  unfold reserveSlots
  repeat' first
    | with_reducible assumption
    | intro _
    | (extract_lets +onlyGivenNames x; subst x)
    | with_reducible apply reserveOne_ok
    | with_reducible apply Ok.foldl
    | split

theorem suspendEntry_ok (h : Ok q s) (e : Entry) : Ok q (suspendEntry s e) := by
  unfold suspendEntry
  repeat' first
    | with_reducible assumption
    | intro _
    | with_reducible apply modEntry_ok

theorem openStream_ok (h : Ok q s) (e : Entry) : Ok q (openStream s e) := by
  unfold openStream
  repeat' first
    | with_reducible assumption
    | intro _
    | (extract_lets +onlyGivenNames x; subst x)
    | with_reducible apply writeStream_ok
    | (with_reducible apply Ok.upd; with_reducible assumption)

theorem refuseStream_ok (h : Ok q s) (e : Entry) (code : ℕ) : Ok q (refuseStream s e code) := by
  unfold refuseStream
  repeat' first
    | with_reducible assumption
    | intro _
    | with_reducible apply refuseEntry_ok
    | with_reducible apply closeRefused_ok

theorem startTask_ok (h : Ok q s) (e : Entry) (aug : HostRead) : Ok q (startTask s e aug) := by
  unfold startTask
  repeat' first
    | with_reducible assumption
    | intro _
    | (extract_lets +onlyGivenNames x; refine (fun (hx : Ok q x) => ?_) ?_; rotate_left; subst x; rotate_right; clear_value x)
    | (extract_lets +onlyGivenNames x; subst x)
    | with_reducible apply openStream_ok
    | with_reducible apply refuseStream_ok
    | with_reducible apply hostRead_ok
    | with_reducible apply modEntry_ok
    | with_reducible apply feedMember_ok
    | split

theorem runEntry_ok (h : Ok q s) (e : Entry) (aug : HostRead) : Ok q (runEntry s e aug) := by
  unfold runEntry
  repeat' first
    | with_reducible assumption
    | intro _
    | (extract_lets +onlyGivenNames x; refine (fun (hx : Ok q x) => ?_) ?_; rotate_left; subst x; rotate_right; clear_value x)
    | with_reducible apply fenceClose_ok
    | with_reducible apply closeStage_ok
    | with_reducible apply modSq_ok
    | with_reducible apply ringHolds_ok
    | with_reducible apply suspendEntry_ok
    | with_reducible apply milepostEntry_ok
    | with_reducible apply finish_ok
    | with_reducible apply refuseEntry_ok
    | with_reducible apply startTask_ok
    | split

theorem fetchEntry_ok (h : Ok q s) (n : ℕ) (op : ℕ) (b : EntryBody) (aug : HostRead) : Ok q (fetchEntry s n op b aug) := by
  unfold fetchEntry
  repeat' first
    | with_reducible assumption
    | intro _
    | (extract_lets +onlyGivenNames x; refine (fun (hx : Ok q x) => ?_) ?_; rotate_left; subst x; rotate_right; clear_value x)
    | (extract_lets +onlyGivenNames x; subst x)
    | with_reducible apply takeSlot_ok
    | with_reducible apply slotFetch_ok
    | with_reducible apply haltBlock_ok
    | with_reducible apply reserveSlots_ok
    | with_reducible apply arbSettle_ok
    | with_reducible apply runEntry_ok
    | with_reducible apply enterEntry_ok
    | split

end Sys2Proof.Machine
end

