-- ==== Sys2Proof/Laws/KeepRoll.lean ====
section
/-! SUPPORT. The operations of Machine/Roll.lean keep the invariant and the queue. -/

namespace Sys2Proof.Machine

variable {q : List Instr} {s t : State} {r : Rd}

theorem doCopyDone_ok (h : Ok q s) : Ok q (doCopyDone s) := by
  unfold doCopyDone
  repeat' first
    | with_reducible assumption
    | intro _
    | (extract_lets +onlyGivenNames x; subst x)
    | with_reducible apply abandonSwap_ok
    | (with_reducible apply Ok.upd; with_reducible assumption)
    | split

theorem doCopyStart_ok (h : Ok q s) : Ok q (doCopyStart s) := by
  unfold doCopyStart
  repeat' first
    | with_reducible assumption
    | intro _
    | (extract_lets +onlyGivenNames x; subst x)
    | (with_reducible apply Ok.upd; with_reducible assumption)
    | split

theorem doRoll_ok (h : Ok q s) : Ok q (doRoll s) := by
  unfold doRoll
  repeat' first
    | with_reducible assumption
    | intro _
    | (extract_lets +onlyGivenNames x; refine (fun (hx : Ok q x) => ?_) ?_; rotate_left; subst x; rotate_right; clear_value x)
    | (extract_lets +onlyGivenNames x; subst x)
    | with_reducible apply modPod_ok
    | with_reducible apply startTest_ok
    | (with_reducible apply Ok.upd; with_reducible assumption)
    | split

end Sys2Proof.Machine
end

