-- ==== Sys2Proof/Laws/KeepControl.lean ====
section
/-! SUPPORT. The operations of Machine/Control.lean keep the invariant and the queue. -/

namespace Sys2Proof.Machine

variable {q : List Instr} {s t : State} {r : Rd}

theorem answer_ok (h : Ok q s) (data : ℕ) (err : Bool) : Ok q (answer s data err) := by
  unfold answer
  repeat' first
    | with_reducible assumption
    | intro _
    | (extract_lets +onlyGivenNames x; subst x)
    | (with_reducible apply Ok.upd; with_reducible assumption)

theorem cqWrite_ok (h : Ok q s) (p : ℕ) (o : ℕ) (w : ℕ) : Ok q (cqWrite s p o w) := by
  unfold cqWrite
  repeat' first
    | with_reducible assumption
    | intro _
    | (extract_lets +onlyGivenNames x; subst x)
    | with_reducible apply cqHead_ok
    | with_reducible apply cqCtrl_ok
    | with_reducible apply storeReg_ok
    | split

theorem refuseClear_ok (h : Ok q s) (p : ℕ) (code : ℕ) (bit : Option ℕ) : Ok q (refuseClear s p code bit) := by
  unfold refuseClear
  repeat' first
    | with_reducible assumption
    | intro _
    | (extract_lets +onlyGivenNames x; refine (fun (hx : Ok q x) => ?_) ?_; rotate_left; subst x; rotate_right; clear_value x)
    | with_reducible apply pageErr_ok
    | with_reducible apply refuse_ok
    | split

theorem drainPage_ok (h : Ok q s) (p : ℕ) : Ok q (drainPage s p) := by
  unfold drainPage
  repeat' first
    | with_reducible assumption
    | intro _
    | (extract_lets +onlyGivenNames x; subst x)
    | with_reducible apply startDrain_ok
    | with_reducible apply Ok.foldl
    | split

theorem disablePage_ok (h : Ok q s) (p : ℕ) : Ok q (disablePage s p) := by
  unfold disablePage
  repeat' first
    | with_reducible assumption
    | intro _
    | (extract_lets +onlyGivenNames x; subst x)
    | with_reducible apply wrg_ok
    | with_reducible apply refuseClear_ok
    | with_reducible apply pageDrained_ok
    | with_reducible apply drainPage_ok
    | split

theorem enablePage_ok (h : Ok q s) (p : ℕ) : Ok q (enablePage s p) := by
  unfold enablePage
  repeat' first
    | with_reducible assumption
    | intro _
    | with_reducible apply refuse_ok
    | with_reducible apply wrg_ok
    | split

theorem pageCtrl_ok (h : Ok q s) (p : ℕ) (w : ℕ) : Ok q (pageCtrl s p w) := by
  unfold pageCtrl
  repeat' first
    | with_reducible assumption
    | intro _
    | (extract_lets +onlyGivenNames x; refine (fun (hx : Ok q x) => ?_) ?_; rotate_left; subst x; rotate_right; clear_value x)
    | (extract_lets +onlyGivenNames x; subst x)
    | with_reducible apply refuse_ok
    | with_reducible apply enablePage_ok
    | with_reducible apply disablePage_ok
    | with_reducible apply pageDrained_ok
    | with_reducible apply drainPage_ok
    | with_reducible apply wrg_ok
    | split

theorem doPageCtrl_ok (h : Ok q s) (p : ℕ) (w : ℕ) : Ok q (doPageCtrl s p w) := by
  unfold doPageCtrl
  repeat' first
    | with_reducible assumption
    | intro _
    | with_reducible apply pageCtrl_ok
    | split

theorem doPageDrain_ok (h : Ok q s) (p : ℕ) : Ok q (doPageDrain s p) := by
  unfold doPageDrain
  repeat' first
    | with_reducible assumption
    | intro _
    | with_reducible apply doPageCtrl_ok

theorem putHi_ok (h : Ok q s) (k : ℕ) (v : Word) : Ok q { s with regs := { s.regs with hi := sput s.regs.hi k v } } := by
  refine h.regs _ fun hr => ?_
  rw [RegFile.wf_iff] at hr ⊢
  exact ⟨hr.1, hr.2.1, hr.2.2.1, hr.2.2.2.1, rising_sput _ _ _ hr.2.2.2.2⟩

theorem readEffect_ok (h : Ok q s) (p : ℕ) (o : ℕ) : Ok q (readEffect s p o) := by
  unfold readEffect
  repeat' first
    | with_reducible assumption
    | intro _
    | (with_reducible apply putHi_ok; with_reducible assumption)
    | (extract_lets +onlyGivenNames x; subst x)
    | with_reducible apply wrg_ok
    | with_reducible apply modGate_ok
    | (with_reducible apply Ok.upd; with_reducible assumption)
    | split

theorem doRegRead_ok (h : Ok q s) (a : ℕ) : Ok q (doRegRead s a) := by
  unfold doRegRead
  repeat' first
    | with_reducible assumption
    | intro _
    | with_reducible apply readEffect_ok
    | with_reducible apply answer_ok
    | split

theorem w1cWrite_ok (h : Ok q s) (p : ℕ) (o : ℕ) (w : ℕ) : Ok q (w1cWrite s p o w).1 := by
  unfold w1cWrite
  repeat' first
    | with_reducible assumption
    | intro _
    | (extract_lets +onlyGivenNames x; subst x)
    | with_reducible apply wrg_ok
    | with_reducible apply modFlt_ok
    | with_reducible apply doSevereClear_ok
    | with_reducible apply modCq_ok
    | split

theorem rwCmd_ok (h : Ok q s) (w : ℕ) : Ok q (rwCmd s w) := by
  unfold rwCmd
  repeat' first
    | with_reducible assumption
    | intro _
    | (extract_lets +onlyGivenNames x; refine (fun (hx : Ok q x) => ?_) ?_; rotate_left; subst x; rotate_right; clear_value x)
    | with_reducible apply wrg_ok
    | with_reducible apply doLoad_ok
    | with_reducible apply draw_ok
    | with_reducible apply doRemove_ok
    | with_reducible apply rwRefuse_ok
    | split

theorem mbxGo_ok (h : Ok q s) : Ok q (mbxGo s) := by
  unfold mbxGo
  repeat' first
    | with_reducible assumption
    | intro _
    | (extract_lets +onlyGivenNames x; subst x)
    | with_reducible apply mbxReply_ok
    | with_reducible apply doPing_ok
    | with_reducible apply doTelemNow_ok
    | with_reducible apply draw_ok
    | with_reducible apply doLogFlush_ok
    | with_reducible apply doShutdown_ok
    | with_reducible apply doFwUpdate_ok
    | with_reducible apply doFwQuery_ok
    | split

theorem stwWrite_ok (h : Ok q s) (o : ℕ) (w : ℕ) : Ok q (stwWrite s o w) := by
  unfold stwWrite
  repeat' first
    | with_reducible assumption
    | intro _
    | with_reducible apply refuse_ok
    | with_reducible apply noteRsv_ok
    | with_reducible apply rwCmd_ok
    | with_reducible apply mbxGo_ok
    | with_reducible apply doPop_ok
    | with_reducible apply storeReg_ok
    | split

theorem pwrWrite_ok (h : Ok q s) (o : ℕ) (w : ℕ) : Ok q (pwrWrite s o w) := by
  unfold pwrWrite
  repeat' first
    | with_reducible assumption
    | intro _
    | (extract_lets +onlyGivenNames x; refine (fun (hx : Ok q x) => ?_) ?_; rotate_left; subst x; rotate_right; clear_value x)
    | with_reducible apply writeNMax_ok
    | with_reducible apply refuse_ok
    | with_reducible apply noteRsv_ok
    | with_reducible apply storeReg_ok
    | with_reducible apply retarget_ok
    | split

theorem jobCmd_ok (h : Ok q s) (w : ℕ) : Ok q (jobCmd s w) := by
  unfold jobCmd
  repeat' first
    | with_reducible assumption
    | intro _
    | (extract_lets +onlyGivenNames x; refine (fun (hx : Ok q x) => ?_) ?_; rotate_left; subst x; rotate_right; clear_value x)
    | (extract_lets +onlyGivenNames x; subst x)
    | with_reducible apply wrg_ok
    | with_reducible apply doBind_ok
    | with_reducible apply draw_ok
    | with_reducible apply doUnbind_ok
    | with_reducible apply doSave_ok
    | with_reducible apply doRestore_ok
    | with_reducible apply jobStore_ok
    | with_reducible apply jobRefuse_ok
    | split

theorem inkWrite_ok (h : Ok q s) (o : ℕ) (w : ℕ) : Ok q (inkWrite s o w) := by
  unfold inkWrite
  repeat' first
    | with_reducible assumption
    | intro _
    | (extract_lets +onlyGivenNames x; refine (fun (hx : Ok q x) => ?_) ?_; rotate_left; subst x; rotate_right; clear_value x)
    | with_reducible apply jobCmd_ok
    | with_reducible apply noteRsv_ok
    | with_reducible apply doResume_ok
    | with_reducible apply wrg_ok
    | with_reducible apply storeReg_ok
    | split

theorem gatedWrite_ok (h : Ok q s) (p : ℕ) (o : ℕ) (w : ℕ) : Ok q (gatedWrite s p o w) := by
  unfold gatedWrite
  repeat' first
    | with_reducible assumption
    | intro _
    | with_reducible apply storeReg_ok
    | split

theorem portWrite_ok (h : Ok q s) (k : ℕ) (o : ℕ) (w : ℕ) : Ok q (portWrite s k o w) := by
  unfold portWrite
  repeat' first
    | with_reducible assumption
    | intro _
    | (extract_lets +onlyGivenNames x; subst x)
    | with_reducible apply portCmd_ok
    | with_reducible apply halfCfg_ok
    | with_reducible apply storeReg_ok
    | split

theorem tgWrite_ok (h : Ok q s) (o : ℕ) (w : ℕ) : Ok q (tgWrite s o w) := by
  unfold tgWrite
  repeat' first
    | with_reducible assumption
    | intro _
    | with_reducible apply tgCmd_ok
    | with_reducible apply wrg_ok
    | with_reducible apply tgCfg_ok
    | with_reducible apply storeReg_ok
    | split

theorem sqWrite_ok (h : Ok q s) (p : ℕ) (o : ℕ) (w : ℕ) : Ok q (sqWrite s p o w) := by
  unfold sqWrite
  repeat' first
    | with_reducible assumption
    | intro _
    | (extract_lets +onlyGivenNames x; subst x)
    | with_reducible apply doDoorbell_ok
    | with_reducible apply sqCtrl_ok
    | with_reducible apply storeReg_ok
    | split

theorem mpWrite_ok (h : Ok q s) (o : ℕ) (w : ℕ) : Ok q (mpWrite s o w) := by
  unfold mpWrite
  repeat' first
    | with_reducible assumption
    | intro _
    | with_reducible apply mpOp_ok
    | with_reducible apply wrg_ok
    | with_reducible apply doDump_ok
    | with_reducible apply gatedWrite_ok
    | split

theorem pageWrite_ok (h : Ok q s) (p : ℕ) (o : ℕ) (w : ℕ) : Ok q (pageWrite s p o w) := by
  unfold pageWrite
  repeat' first
    | with_reducible assumption
    | intro _
    | with_reducible apply pageCtrl_ok
    | with_reducible apply storeReg_ok
    | with_reducible apply stwWrite_ok
    | with_reducible apply doFreeze_ok
    | with_reducible apply fltWrite_ok
    | with_reducible apply pwrWrite_ok
    | with_reducible apply inkWrite_ok
    | with_reducible apply gatedWrite_ok
    | with_reducible apply doProbe_ok
    | with_reducible apply portWrite_ok
    | with_reducible apply tgWrite_ok
    | with_reducible apply sqWrite_ok
    | with_reducible apply cqWrite_ok
    | with_reducible apply mpWrite_ok
    | split

theorem regWrite_ok (h : Ok q s) (p : ℕ) (o : ℕ) (w : ℕ) : Ok q (regWrite s p o w) := by
  unfold regWrite
  repeat' first
    | with_reducible assumption
    | intro _
    | (extract_lets +onlyGivenNames x; subst x)
    | with_reducible apply w1cWrite_ok
    | with_reducible apply pageWrite_ok
    | split

theorem doRegWrite_ok (h : Ok q s) (a : ℕ) (w : Word) (par : BitVec 4) : Ok q (doRegWrite s a w par) := by
  unfold doRegWrite
  repeat' first
    | with_reducible assumption
    | intro _
    | with_reducible apply raise_ok
    | with_reducible apply answer_ok
    | with_reducible apply regWrite_ok
    | split

end Sys2Proof.Machine
end

