-- ==== Sys2Proof/Laws/KeepDecoder.lean ====
section
/-! SUPPORT. The operations of Machine/Decoder.lean keep the invariant and the queue. -/

namespace Sys2Proof.Machine

variable {q : List Instr} {s t : State} {r : Rd}

/-- Either branch. -/
theorem OkO.ite {c : Prop} [Decidable c] {a b : Option State} (ha : OkO q a) (hb : OkO q b) :
    OkO q (if c then a else b) := by
  split
  · exact ha
  · exact hb

theorem askBuffers_ok (h : Ok q s) (cls : ℕ) (n : ℕ) (u : PoolUser) : OkO q (askBuffers s cls n u) := by
  unfold askBuffers
  repeat' first
    | with_reducible assumption
    | intro _
    | (extract_lets +onlyGivenNames x; subst x)
    | with_reducible apply OkO.none
    | with_reducible apply OkO.some
    | with_reducible apply askPool_ok
    | with_reducible apply Ok.foldl
    | split

theorem askSlots_ok (h : Ok q s) (k : ℕ) (r : ℕ) (ks : List ℕ) : Ok q (askSlots s k r ks) := by
  unfold askSlots
  repeat' first
    | with_reducible assumption
    | intro _
    | (extract_lets +onlyGivenNames x; refine (fun (hx : Ok q x) => ?_) ?_; rotate_left; subst x; rotate_right; clear_value x)
    | with_reducible apply sendReq_ok
    | (with_reducible apply Ok.upd; with_reducible assumption)
    | with_reducible apply Ok.foldl

theorem modPicture_ok (h : Ok q s) (c : Cand) (f : DecodeJob → DecodeJob) : Ok q (modPicture s c f) := by
  unfold modPicture
  repeat' first
    | with_reducible assumption
    | intro _
    | (with_reducible apply Ok.upd; with_reducible assumption)

theorem bandOp_ok (h : Ok q s) (c : Cand) (d : DecodeJob) (i : ℕ) (x : PlanOp) (w : PicWork) : OkO q (bandOp s c d i x w) := by
  unfold bandOp
  repeat' first
    | with_reducible assumption
    | intro _
    | (extract_lets +onlyGivenNames x; refine (fun (hx : Ok q x) => ?_) ?_; rotate_left; subst x; rotate_right; clear_value x)
    | (extract_lets +onlyGivenNames x; subst x)
    | with_reducible apply OkO.none
    | with_reducible apply OkO.some
    | with_reducible apply modPicture_ok
    | with_reducible apply issueWrites_ok
    | with_reducible apply beginWork_ok
    | with_reducible apply startMove_ok
    | split

theorem modStream_ok (h : Ok q s) (e : Entry) (f : Stream → Stream) : Ok q (modStream s e f) := by
  unfold modStream
  repeat' first
    | with_reducible assumption
    | intro _
    | (with_reducible apply Ok.upd; with_reducible assumption)
    | split

theorem beginPictures_ok (h : Ok q s) (c : Cand) (e : Entry) (ws : List PicWork) (shown : Option ℕ) (f : DecodeJob → DecodeJob) : Ok q (beginPictures s c e ws shown f) := by
  unfold beginPictures
  repeat' first
    | with_reducible assumption
    | intro _
    | (extract_lets +onlyGivenNames x; refine (fun (hx : Ok q x) => ?_) ?_; rotate_left; subst x; rotate_right; clear_value x)
    | (extract_lets +onlyGivenNames x; subst x)
    | with_reducible apply modEntry_ok
    | with_reducible apply modStream_ok
    | with_reducible apply modPicture_ok

theorem nextBand_ok (h : Ok q s) (c : Cand) (d : DecodeJob) : OkO q (nextBand s c d) := by
  unfold nextBand
  repeat' first
    | with_reducible assumption
    | intro _
    | refine OkO.out ?_ ‹_ = some _›
    | (extract_lets +onlyGivenNames x; subst x)
    | with_reducible apply OkO.none
    | with_reducible apply OkO.some
    | with_reducible apply bandOp_ok
    | split

theorem writeSets_ok (h : Ok q s) (e : Entry) (l : List (ℕ × Config.ParamSet)) : Ok q (writeSets s e l) := by
  unfold writeSets
  repeat' first
    | with_reducible assumption
    | intro _
    | (extract_lets +onlyGivenNames x; subst x)
    | with_reducible apply memWrite_ok
    | with_reducible apply Ok.foldl

theorem holdSets_ok (h : Ok q s) (e : Entry) (l : List (ℕ × Config.ParamSet)) : Ok q (holdSets s e l) := by
  unfold holdSets
  repeat' first
    | with_reducible assumption
    | intro _
    | with_reducible apply writeSets_ok
    | with_reducible apply modStream_ok
    | with_reducible apply Ok.foldl
    | split

theorem streamNext_ok (h : Ok q s) (e : Entry) (o : Config.CodecOut) (kind : ℕ) (hash : ℕ) : Ok q (streamNext s e o kind hash) := by
  unfold streamNext
  repeat' first
    | with_reducible assumption
    | intro _
    | with_reducible apply modStream_ok

theorem streamShown_ok (h : Ok q s) (e : Entry) (p : Picture) : Ok q (streamShown s e p) := by
  unfold streamShown
  repeat' first
    | with_reducible assumption
    | intro _
    | with_reducible apply modStream_ok

theorem passOver_ok (h : Ok q s) (e : Entry) (status : ℕ) (count : ℕ) : Ok q (passOver s e status count) := by
  unfold passOver
  repeat' first
    | with_reducible assumption
    | intro _
    | (extract_lets +onlyGivenNames x; refine (fun (hx : Ok q x) => ?_) ?_; rotate_left; subst x; rotate_right; clear_value x)
    | with_reducible apply finish_ok
    | with_reducible apply purge_ok
    | with_reducible apply removeUnit_ok
    | with_reducible apply arrivals_ok
    | with_reducible apply endStreams_ok
    | with_reducible apply fenceClose_ok

theorem repeatPicture_ok (h : Ok q s) (c : Cand) (e : Entry) (xt : Option Stream) (o : Config.CodecOut) (kind : ℕ) (hash : ℕ) : Ok q (repeatPicture s c e xt o kind hash) := by
  unfold repeatPicture
  repeat' first
    | with_reducible assumption
    | intro _
    | (extract_lets +onlyGivenNames x; refine (fun (hx : Ok q x) => ?_) ?_; rotate_left; subst x; rotate_right; clear_value x)
    | (extract_lets +onlyGivenNames x; subst x)
    | with_reducible apply streamNext_ok
    | with_reducible apply beginPictures_ok
    | with_reducible apply streamShown_ok
    | with_reducible apply passOver_ok
    | split

theorem freeLeft_ok (h : Ok q s) (cls : ℕ) (old : List DpbRec) (new : List DpbRec) : Ok q (freeLeft s cls old new) := by
  unfold freeLeft
  repeat' first
    | with_reducible assumption
    | intro _
    | with_reducible apply freePoolOf_ok
    | with_reducible apply Ok.foldl

theorem decodePictures_ok (h : Ok q s) (c : Cand) (e : Entry) (b : List Byte) (t : Option Stream) (o : Config.CodecOut)
    (kind : ℕ) : OkO q (decodePictures s c e b t o kind) := by
  unfold decodePictures
  extract_lets op qq k u cls hash frameNo us l dpb idx shown ps first fresh mode hit tries slot z inDpb hidden wants bufs s1
    s2 s3 s4 s5 xl cxl final ps' home old mine works recs s6 s7 s8 s9
  clear_value op qq k u cls hash frameNo us l dpb idx shown ps first fresh mode hit tries slot z inDpb hidden wants
  refine OkO.ite OkO.none (OkO.ite (askBuffers_ok h _ _ _) ?_)
  have h1 : Ok q s1 := takeBuffers_ok h _ _
  clear_value s1
  have h2 : Ok q s2 := by
    subst s2
    split
    · exact h1
    · exact bump_ok h1 _ _ _
  clear_value s2
  have h3 : Ok q s3 := by
    subst s3
    split
    · exact bump_ok h2 _ _ _
    · exact h2
  clear_value s3
  have h4 : Ok q s4 := by
    subst s4
    split
    · exact bump_ok (h3.upd ..) _ _ _
    · exact h3
  clear_value s4
  have h5 : Ok q s5 := by
    subst s5
    split
    · exact h4.upd ..
    · exact h4
  clear_value s5 works recs
  have h6 : Ok q s6 := modEntry_ok (streamNext_ok h5 _ _ _ _) _ _ _
  clear_value s6
  have h7 : Ok q s7 := by
    subst s7
    split
    · exact modStream_ok (freeLeft_ok h6 _ _ _) _ _
    · exact h6
  clear_value s7
  have h8 : Ok q s8 := by
    subst s8
    split
    · exact streamShown_ok h7 _ _
    · exact h7
  clear_value s8
  refine OkO.ite (OkO.some (passOver_ok h8 _ _ _)) ?_
  have h9 : Ok q s9 := beginPictures_ok h8 _ _ _ _ _
  clear_value s9
  refine OkO.ite (OkO.some h9) ?_
  exact OkO.some (fenceClose_ok (removeUnit_ok (modEntry_ok h9 _ _ _) _ _) _)

theorem startPictures_ok (h : Ok q s) (c : Cand) (e : Entry) (d : DecodeJob) : OkO q (startPictures s c e d) := by
  unfold startPictures
  repeat' first
    | with_reducible assumption
    | intro _
    | (extract_lets +onlyGivenNames x; refine (fun (hx : Ok q x) => ?_) ?_; rotate_left; subst x; rotate_right; clear_value x)
    | refine OkO.out ?_ ‹_ = some _›
    | (extract_lets +onlyGivenNames x; subst x)
    | with_reducible apply OkO.none
    | with_reducible apply OkO.some
    | with_reducible apply askSlots_ok
    | with_reducible apply pageErr_ok
    | with_reducible apply refuseStream_ok
    | with_reducible apply refuseEntry_ok
    | with_reducible apply holdSets_ok
    | with_reducible apply stopEntry_ok
    | with_reducible apply modStream_ok
    | with_reducible apply repeatPicture_ok
    | with_reducible apply decodePictures_ok
    | split

theorem putPicture_ok (h : Ok q s) (c : Cand) (d : DecodeJob) : Ok q (putPicture s c d) := by
  unfold putPicture
  repeat' first
    | with_reducible assumption
    | intro _
    | with_reducible apply modPicture_ok
    | (with_reducible apply Ok.upd; with_reducible assumption)
    | split

theorem takeSource_ok (h : Ok q s) (c : Cand) (e : Entry) : OkO q (takeSource s c e) := by
  unfold takeSource
  repeat' first
    | with_reducible assumption
    | intro _
    | (extract_lets +onlyGivenNames x; refine (fun (hx : Ok q x) => ?_) ?_; rotate_left; subst x; rotate_right; clear_value x)
    | (extract_lets +onlyGivenNames x; subst x)
    | with_reducible apply OkO.none
    | with_reducible apply OkO.some
    | with_reducible apply Rd.bytes_ok
    | with_reducible apply Rd.start_ok
    | with_reducible apply consume_ok
    | with_reducible apply putPicture_ok
    | with_reducible apply releaseSlot_ok
    | with_reducible apply advanceWork_ok
    | split

theorem decodeOp_ok (h : Ok q s) (c : Cand) : OkO q (decodeOp s c) := by
  unfold decodeOp
  repeat' first
    | with_reducible assumption
    | intro _
    | refine OkO.out ?_ ‹_ = some _›
    | (extract_lets +onlyGivenNames x; subst x)
    | with_reducible apply OkO.none
    | with_reducible apply OkO.some
    | with_reducible apply nextBand_ok
    | with_reducible apply startPictures_ok
    | with_reducible apply takeSource_ok
    | with_reducible apply refuseEntry_ok
    | with_reducible apply consume_ok
    | split

end Sys2Proof.Machine
end

