-- ==== Sys2Proof/Laws/KeepMotion.lean ====
section
/-! SUPPORT. The operations of Machine/Motion.lean keep the invariant and the queue. -/

namespace Sys2Proof.Machine

variable {q : List Instr} {s t : State} {r : Rd}

theorem fieldOp_ok (h : Ok q s) (c : Cand) (k : FieldOp) : Ok q (fieldOp s c k) := by
  unfold fieldOp
  repeat' first
    | with_reducible assumption
    | intro _
    | (extract_lets +onlyGivenNames x; refine (fun (hx : Ok q x) => ?_) ?_; rotate_left; subst x; rotate_right; clear_value x)
    | (extract_lets +onlyGivenNames x; subst x)
    | with_reducible apply putPicture_ok
    | with_reducible apply issueWrites_ok
    | with_reducible apply startMove_ok

theorem holdWork_ok (h : Ok q s) (c : Cand) : Ok q (holdWork s c) := by
  unfold holdWork
  repeat' first
    | with_reducible assumption
    | intro _
    | (extract_lets +onlyGivenNames x; refine (fun (hx : Ok q x) => ?_) ?_; rotate_left; subst x; rotate_right; clear_value x)
    | with_reducible apply beginWork_ok
    | with_reducible apply modNode_ok
    | split

theorem takeBand_ok (h : Ok q s) (c : Cand) (d : DecodeJob) : OkR q (takeBand s c d) :=
  ⟨fun r b e => by
    obtain ⟨f, -, he⟩ := Option.map_eq_some_iff.1 e
    cases he
    exact Rd.bytes_ok (Rd.bytes_ok (Rd.start_ok h) _ _ _ _) _ _ _ _⟩

theorem motionOp_ok (h : Ok q s) (c : Cand) : OkO q (motionOp s c) := by
  unfold motionOp
  repeat' first
    | with_reducible assumption
    | intro _
    | refine OkO.out ?_ ‹_ = some _›
    | (extract_lets +onlyGivenNames x; subst x)
    | with_reducible refine OkR.out ?_ ‹_ = some (_, _)›
    | with_reducible apply OkO.none
    | with_reducible apply OkO.some
    | with_reducible apply fieldOp_ok
    | with_reducible apply takeBand_ok
    | with_reducible apply consume_ok
    | with_reducible apply askBuffers_ok
    | split

end Sys2Proof.Machine
end

