-- ==== Sys2Proof/Laws/KeepShape.lean ====
section
/-! SUPPORT. The operations of Machine/Shape.lean keep the invariant and the queue. -/

namespace Sys2Proof.Machine

variable {q : List Instr} {s t : State} {r : Rd}

theorem refuseShape_ok (h : Ok q s) (e : Entry) (code : ℕ) : Ok q (refuseShape s e code) := by
  unfold refuseShape
  repeat' first
    | with_reducible assumption
    | intro _
    | (extract_lets +onlyGivenNames x; refine (fun (hx : Ok q x) => ?_) ?_; rotate_left; subst x; rotate_right; clear_value x)
    | with_reducible apply wrg_ok
    | with_reducible apply bump_ok
    | with_reducible apply refuseStream_ok

theorem shapeCounts_ok (h : Ok q s) (xq : List Byte) (r : ShapeRec) (g : ℕ) : Ok q (shapeCounts s xq r g) := by
  unfold shapeCounts
  repeat' first
    | with_reducible assumption
    | intro _
    | (extract_lets +onlyGivenNames x; refine (fun (hx : Ok q x) => ?_) ?_; rotate_left; subst x; rotate_right; clear_value x)
    | with_reducible apply bump_ok
    | split

theorem shapeTile_ok (h : Ok q s) (c : Cand) (e : Entry) (d : DecodeJob) (r : ShapeRec) (g : ℕ) : OkO q (shapeTile s c e d r g) := by
  unfold shapeTile
  repeat' first
    | with_reducible assumption
    | intro _
    | (extract_lets +onlyGivenNames x; subst x)
    | with_reducible apply OkO.none
    | with_reducible apply OkO.some
    | with_reducible apply shapeCounts_ok
    | with_reducible apply issueWrites_ok
    | split

theorem shapeOp_ok (h : Ok q s) (c : Cand) : OkO q (shapeOp s c) := by
  unfold shapeOp
  repeat' first
    | with_reducible assumption
    | intro _
    | (extract_lets +onlyGivenNames x; refine (fun (hx : Ok q x) => ?_) ?_; rotate_left; subst x; rotate_right; clear_value x)
    | refine OkO.out ?_ ‹_ = some _›
    | (extract_lets +onlyGivenNames x; subst x)
    | with_reducible refine OkR.out ?_ ‹_ = some (_, _)›
    | with_reducible apply OkO.none
    | with_reducible apply OkO.some
    | with_reducible apply refuseShape_ok
    | with_reducible apply shapeTile_ok
    | with_reducible apply takeBand_ok
    | with_reducible apply consume_ok
    | with_reducible apply releaseSlot_ok
    | with_reducible apply putPicture_ok
    | with_reducible apply holdWork_ok
    | split

end Sys2Proof.Machine
end

