-- ==== Sys2Proof/Laws/KeepLayout.lean ====
section
/-! SUPPORT. The operations of Machine/Layout.lean keep the invariant and the queue. -/

namespace Sys2Proof.Machine

variable {q : List Instr} {s t : State} {r : Rd}

theorem countPath_ok (h : Ok q s) (p : Path) : Ok q (countPath s p) := by
  unfold countPath
  repeat' first
    | with_reducible assumption
    | intro _
    | with_reducible apply bump_ok

theorem transposeOp_ok (h : Ok q s) (c : Cand) (src : Desc) (dst : Desc) (x : ℕ) (y : ℕ) : OkO q (transposeOp s c src dst x y) := by
  unfold transposeOp
  repeat' first
    | with_reducible assumption
    | intro _
    | with_reducible apply finishMove_ok
    | with_reducible apply OkO.none
    | with_reducible apply OkO.some
    | with_reducible apply Rd.elems_ok
    | with_reducible apply Rd.start_ok
    | with_reducible apply countPath_ok

theorem copyOp_ok (h : Ok q s) (c : Cand) : OkO q (copyOp s c) := by
  unfold copyOp
  repeat' first
    | with_reducible assumption
    | intro _
    | refine OkO.out ?_ ‹_ = some _›
    | with_reducible apply finishMove_ok
    | (extract_lets +onlyGivenNames x; subst x)
    | with_reducible apply OkO.none
    | with_reducible apply OkO.some
    | with_reducible apply transposeOp_ok
    | with_reducible apply Rd.elems_ok
    | with_reducible apply Rd.start_ok
    | with_reducible apply countPath_ok
    | split

theorem gatherOp_ok (h : Ok q s) (c : Cand) : OkO q (gatherOp s c) := by
  unfold gatherOp
  repeat' first
    | with_reducible assumption
    | intro _
    | with_reducible apply finishMove_ok
    | with_reducible apply OkO.none
    | with_reducible apply OkO.some
    | with_reducible apply Rd.elems_ok
    | with_reducible apply Rd.start_ok
    | with_reducible apply countPath_ok
    | with_reducible apply bump_ok

theorem scatterOp_ok (h : Ok q s) (c : Cand) : OkO q (scatterOp s c) := by
  unfold scatterOp
  repeat' first
    | with_reducible assumption
    | intro _
    | with_reducible apply finishMove_ok
    | with_reducible apply OkO.none
    | with_reducible apply OkO.some
    | with_reducible apply Rd.elems_ok
    | with_reducible apply Rd.start_ok
    | with_reducible apply countPath_ok
    | with_reducible apply bump_ok
    | with_reducible apply pageErr_ok
    | split

theorem layoutOp_ok (h : Ok q s) (c : Cand) : OkO q (layoutOp s c) := by
  unfold layoutOp
  repeat' first
    | with_reducible assumption
    | intro _
    | refine OkO.out ?_ ‹_ = some _›
    | with_reducible apply OkO.none
    | with_reducible apply OkO.some
    | with_reducible apply refuseEntry_ok
    | with_reducible apply copyOp_ok
    | with_reducible apply gatherOp_ok
    | with_reducible apply scatterOp_ok
    | split

end Sys2Proof.Machine
end

