-- ==== Sys2Proof/Laws/KeepMatrix.lean ====
section
/-! SUPPORT. The operations of Machine/Matrix.lean keep the invariant and the queue. -/

namespace Sys2Proof.Machine

variable {q : List Instr} {s t : State} {r : Rd}

theorem countConvert_ok (h : Ok q s) (p : ℕ) (draw : Bool) (nan : Bool) : Ok q (countConvert s p draw nan) := by
  unfold countConvert
  repeat' first
    | with_reducible assumption
    | intro _
    | (extract_lets +onlyGivenNames x; refine (fun (hx : Ok q x) => ?_) ?_; rotate_left; subst x; rotate_right; clear_value x)
    | with_reducible apply bump_ok
    | with_reducible apply pageErr_ok
    | split

theorem matReads_ok (s : State) {r0 : Rd} (h : Ok q r0.st) (c : Cand) (x : MatPos) (k0 k1 : ℕ) :
    Ok q (matReads s c x k0 k1 r0).st := by
  unfold matReads
  extract_lets
  split
  · exact Rd.elems_ok (Rd.elems_ok (Rd.elems_ok h _ _ _ _) _ _ _ _) _ _ _ _
  · exact Rd.elems_ok (Rd.elems_ok h _ _ _ _) _ _ _ _

theorem rising_append {α : Type} (a b : List (ℕ × α)) (ha : rising a = true) (hb : rising b = true)
    (hab : ∀ x ∈ a, ∀ y ∈ b, x.1 < y.1) : rising (a ++ b) = true := by
  induction a with
  | nil => exact hb
  | cons e a ih =>
    obtain ⟨j, w⟩ := e
    have hr := rising_cons.1 ha
    refine rising_cons.2 ⟨fun e he => ?_, ih hr.2 fun x hx => hab x (List.mem_cons_of_mem _ hx)⟩
    rcases List.mem_append.1 he with he | he
    · exact hr.1 e he
    · exact hab _ List.mem_cons_self e he

/-- The listed elements of a tile that is written whole. -/
def tileList (lo : ℕ) (l : List (Word × ℕ)) : List (ℕ × Word) :=
  l.filterMap fun w => if w.1 = 0 then none else some (lo + w.2, w.1)

theorem mem_tileList {lo : ℕ} {l : List (Word × ℕ)} {e : ℕ × Word} (h : e ∈ tileList lo l) :
    e.2 ≠ 0 ∧ ∃ w ∈ l, e = (lo + w.2, w.1) := by
  obtain ⟨w, hw, he⟩ := List.mem_filterMap.1 h
  split at he
  · cases he
  · next hz => cases he; exact ⟨hz, w, hw, rfl⟩

theorem rising_tileList (lo k : ℕ) (ws : List Word) : rising (tileList lo (ws.zipIdx k)) = true := by
  induction ws generalizing k with
  | nil => rfl
  | cons w ws ih =>
    have h1 := ih (k + 1)
    simp only [tileList, List.zipIdx_cons, List.filterMap_cons] at h1 ⊢
    split
    · exact h1
    · next hw =>
      split at hw
      · cases hw
      · cases hw
        refine rising_cons.2 ⟨fun e he => ?_, h1⟩
        obtain ⟨_, x, hx, rfl⟩ := mem_tileList he
        have := List.le_snd_of_mem_zipIdx hx
        simp only
        omega

theorem setTile_ok (h : Ok q s) (p t : ℕ) (ws : List Word) : Ok q (setTile s p t ws) := by
  unfold setTile
  refine modMarrow_ok h _ fun hm => ?_
  rw [Marrow.wf_iff] at hm ⊢
  refine ⟨hm.1, hm.2.1, hm.2.2.1, hm.2.2.2.1, ?_, hm.2.2.2.2.2⟩
  have ha := (canon_iff _ _).1 hm.2.2.2.2.1
  have hn : ∀ e ∈ tileList (akey p t 0) ((ws.take 4096).zipIdx), e.2 ≠ 0 ∧ akey p t 0 ≤ e.1 ∧ e.1 < akey p t 0 + 4096 := by
    intro e he
    obtain ⟨hz, x, hx, rfl⟩ := mem_tileList he
    have h1 := List.snd_lt_of_mem_zipIdx hx
    rw [List.length_take] at h1
    refine ⟨hz, Nat.le_add_right _ _, ?_⟩
    simp only
    omega
  refine (canon_iff _ _).2 ⟨rising_append _ _ (rising_append _ _ (rising_filter _ _ ha.1) (rising_tileList _ _ _) ?_)
    (rising_filter _ _ ha.1) ?_, ?_⟩
  · intro x hx y hy
    have := (hn y hy).2.1
    have h2 := (List.mem_filter.1 hx).2
    simp only [decide_eq_true_eq] at h2
    omega
  · intro x hx y hy
    have h2 := (List.mem_filter.1 hy).2
    simp only [decide_eq_true_eq] at h2
    rcases List.mem_append.1 hx with hx | hx
    · have h3 := (List.mem_filter.1 hx).2
      simp only [decide_eq_true_eq] at h3
      omega
    · have := (hn x hx).2.2
      omega
  · intro e he
    rcases List.mem_append.1 he with he | he
    · rcases List.mem_append.1 he with he | he
      · exact ha.2 e (List.mem_of_mem_filter he)
      · exact (hn e he).1
    · exact ha.2 e (List.mem_of_mem_filter he)

theorem putValue_ok {a : State × List WByte} (h : Ok q a.1) (c : Cand) (b : EntryBody) (d : Desc) (sr : Bool)
    (x : List ℕ × Fv) : Ok q (putValue c b d sr a x).1 := countConvert_ok h _ _ _

/-- A fold that also collects bytes. -/
theorem foldl1_ok {α β : Type} {f : State × β → α → State × β} {l : List α} {a : State × β}
    (hf : ∀ a x, Ok q a.1 → Ok q (f a x).1) (h : Ok q a.1) : Ok q (l.foldl f a).1 := by
  induction l generalizing a with
  | nil => exact h
  | cons x l ih => exact ih (hf a x h)

theorem putValues_ok (h : Ok q s) (c : Cand) (b : EntryBody) (d : Desc) (sr : Bool) (xs : List (List ℕ × Fv)) :
    Ok q (putValues s c b d sr xs).1 := foldl1_ok (a := (s, [])) (fun _ x h => putValue_ok h c b d sr x) h

theorem takeGroup_ok (h : Ok q s) (c : Cand) (e : ℕ) (slot : ℕ) : Ok q (takeGroup s c e slot) := by
  unfold takeGroup
  repeat' first
    | with_reducible assumption
    | intro _
    | (extract_lets +onlyGivenNames x; refine (fun (hx : Ok q x) => ?_) ?_; rotate_left; subst x; rotate_right; clear_value x)
    | with_reducible apply takeEmpty_ok
    | with_reducible apply modEdge_ok

theorem matrixOp_ok (h : Ok q s) (c : Cand) : OkO q (matrixOp s c) := by
  unfold matrixOp
  split
  · exact OkO.none
  · extract_lets r x b n qq out e slot base kop k0 k1 tile rd sides vs chk clamps pois t u done d y v
    have hr : Ok q rd.st := matReads_ok s (Rd.start_ok h) _ _ _ _
    clear_value rd
    have ht : Ok q t := by
      subst t
      repeat' first
        | with_reducible exact hr
        | with_reducible apply bump_ok
        | with_reducible apply setAccPois_ok
        | with_reducible apply setTile_ok
    clear_value t
    have hu : Ok q u := by
      subst u
      split
      · exact pageErr_ok ht _ _
      · exact ht
    clear_value u
    have hy : Ok q y.1 := by
      subst y
      split
      · exact putValues_ok hu _ _ _ _ _
      · exact hu
    clear_value y
    have hv : Ok q v := by
      subst v
      split
      · exact takeGroup_ok hy _ _ _
      · exact hy
    clear_value vs chk clamps pois v
    repeat' split
    all_goals first
      | exact OkO.none
      | exact OkO.some (consume_ok hy _ _ _)
      | exact OkO.some (issue_ok hv _ _ _)
      | exact OkO.some (issueWrites_ok hv _ _ _ _ _)

end Sys2Proof.Machine
end

