-- ==== Sys2Proof/Laws/KeepVector.lean ====
section
/-! SUPPORT. The operations of Machine/Vector.lean keep the invariant and the queue. -/

namespace Sys2Proof.Machine

variable {q : List Instr} {s t : State} {r : Rd}

theorem laneReads_ok (h : Ok q r.st) (o : Option TileOp) (c : Cand) (pl : VecPlan) (op : ℕ) (is : List (List ℕ)) :
    Ok q (laneReads o c pl op is r).st := Rd.foldl_ok (fun _ _ h => Rd.elems_ok h _ _ _ _) h

theorem accOp_ok (h : Ok q s) (c : Cand) (ent : Entry) (pl : VecPlan) : OkO q (accOp s c ent pl) := by
  unfold accOp
  repeat' first
    | with_reducible assumption
    | intro _
    | (extract_lets +onlyGivenNames x; refine (fun (hx : Ok q x) => ?_) ?_; rotate_left; subst x; rotate_right; clear_value x)
    | (extract_lets +onlyGivenNames x; subst x)
    | with_reducible apply OkO.none
    | with_reducible apply OkO.some
    | with_reducible apply laneReads_ok
    | with_reducible apply Rd.start_ok
    | with_reducible apply putValues_ok
    | with_reducible apply bump_ok
    | with_reducible apply consume_ok
    | with_reducible apply issueWrites_ok
    | with_reducible apply modOp_ok
    | split

theorem lineOp_ok (h : Ok q s) (c : Cand) (ent : Entry) (pl : VecPlan) : OkO q (lineOp s c ent pl) := by
  unfold lineOp
  extract_lets op d k o base is r r1 r2
  have hr : Ok q r.st := Rd.elems_ok (Rd.start_ok h) _ _ _ _
  clear_value r
  have h1 : Ok q r1.st := by
    subst r1
    split
    · exact hr
    · exact Rd.foldl_ok (fun _ _ h => Rd.elems_ok h _ _ _ _) hr
  clear_value r1
  split
  · exact OkO.none
  · rename_i y u _
    have hy : Ok q y.1 := putValues_ok (bump_ok h1 _ _ _) _ _ _ _ _
    have hu : Ok q u := by
      subst u
      split
      · exact setAcc_ok (setAccPois_ok hy _ _ _) _ _ _ _
      · exact hy
    exact finishOp_ok (r := { r2 with st := u }) hu _ _ _

theorem mapOp_ok (h : Ok q s) (c : Cand) (ent : Entry) (pl : VecPlan) : OkO q (mapOp s c ent pl) := by
  unfold mapOp
  repeat' first
    | with_reducible assumption
    | intro _
    | with_reducible apply finishOp_ok
    | with_reducible apply OkO.none
    | with_reducible apply OkO.some
    | with_reducible apply laneReads_ok
    | with_reducible apply Rd.elems_ok
    | with_reducible apply Rd.start_ok
    | with_reducible apply putValues_ok
    | with_reducible apply bump_ok

theorem quantBlock_ok {a : State × List WByte} (h : Ok q a.1) (c : Cand) (b : EntryBody) (pl : VecPlan)
    (g : List (List ℕ × Fv)) : Ok q (quantBlock c b pl a g).1 :=
  foldl1_ok (a := (a.1, _)) (fun _ _ h => by dsimp only; exact countConvert_ok h _ _ _) h

theorem quantOp_ok (h : Ok q s) (c : Cand) (ent : Entry) (pl : VecPlan) : OkO q (quantOp s c ent pl) := by
  unfold quantOp
  extract_lets d per segs lo hi r blocks y
  have hr : Ok q r.st := Rd.elems_ok (Rd.start_ok h) _ _ _ _
  clear_value r
  have hy : Ok q y.1 := foldl1_ok (a := (bump r.st (podPage c.p) 1, [])) (fun _ g h => quantBlock_ok h _ _ _ g)
    (by dsimp only; exact bump_ok hr _ _ _)
  exact finishOp_ok (r := { r with st := y.1 }) hy _ _ _

theorem sumTreeOp_ok (h : Ok q s) (c : Cand) (ent : Entry) (pl : VecPlan) : OkO q (sumTreeOp s c ent pl) := by
  unfold sumTreeOp
  repeat' first
    | with_reducible assumption
    | intro _
    | with_reducible apply finishOp_ok
    | with_reducible apply OkO.none
    | with_reducible apply OkO.some
    | with_reducible apply Rd.elems_ok
    | with_reducible apply Rd.start_ok
    | with_reducible apply bump_ok
    | with_reducible apply pageErr_ok
    | with_reducible apply putValues_ok
    | split

theorem vectorOp_ok (h : Ok q s) (c : Cand) : OkO q (vectorOp s c) := by
  unfold vectorOp
  repeat' first
    | with_reducible assumption
    | intro _
    | refine OkO.out ?_ ‹_ = some _›
    | (extract_lets +onlyGivenNames x; subst x)
    | with_reducible apply OkO.none
    | with_reducible apply OkO.some
    | with_reducible apply accOp_ok
    | with_reducible apply mapOp_ok
    | with_reducible apply quantOp_ok
    | with_reducible apply sumTreeOp_ok
    | with_reducible apply lineOp_ok
    | split

end Sys2Proof.Machine
end

