-- ==== Sys2Proof/Laws/KeepSample.lean ====
section
/-! SUPPORT. The operations of Machine/Sample.lean keep the invariant and the queue. -/

namespace Sys2Proof.Machine

variable {q : List Instr} {s t : State} {r : Rd}

theorem sampleOp_ok (h : Ok q s) (c : Cand) : OkO q (sampleOp s c) := by
  unfold sampleOp
  repeat' first
    | with_reducible assumption
    | intro _
    | with_reducible apply finishOp_ok
    | (extract_lets +onlyGivenNames x; subst x)
    | with_reducible apply OkO.none
    | with_reducible apply OkO.some
    | with_reducible apply Rd.elems_ok
    | with_reducible apply Rd.start_ok
    | with_reducible apply bump_ok
    | with_reducible apply pageErr_ok
    | with_reducible apply poisonLines_ok
    | split

end Sys2Proof.Machine
end

