-- ==== Sys2Proof/Laws/KeepTokens.lean ====
section
/-! SUPPORT. The operations of Machine/Tokens.lean keep the invariant and the queue. -/

namespace Sys2Proof.Machine

variable {q : List Instr} {s t : State} {r : Rd}

theorem releaseGroup_ok (h : Ok q s) (c : Cand) (ranks : List ℕ) : Ok q (releaseGroup s c ranks) := by
  unfold releaseGroup
  repeat' first
    | with_reducible assumption
    | intro _
    | with_reducible apply modEntry_ok
    | with_reducible apply Ok.foldl
    | split

theorem groupOp_ok (h : Ok q s) (c : Cand) (lastE : Entry) (ranks : List ℕ) (rs : List (List Byte)) (again : Bool) : OkO q (groupOp s c lastE ranks rs again) := by
  unfold groupOp
  repeat' first
    | with_reducible assumption
    | intro _
    | (extract_lets +onlyGivenNames x; refine (fun (hx : Ok q x) => ?_) ?_; rotate_left; subst x; rotate_right; clear_value x)
    | (extract_lets +onlyGivenNames x; subst x)
    | with_reducible apply OkO.none
    | with_reducible apply OkO.some
    | with_reducible apply refuseEntry_ok
    | with_reducible apply modNode_ok
    | with_reducible apply releaseGroup_ok
    | with_reducible apply issueWrites_ok
    | (with_reducible apply Ok.upd; with_reducible assumption)
    | with_reducible apply Ok.foldl
    | split

theorem tokeniseEnd_ok (h : Ok q s) (c : Cand) (e : Entry) : OkO q (tokeniseEnd s c e) := by
  unfold tokeniseEnd
  repeat' first
    | with_reducible assumption
    | intro _
    | refine OkO.out ?_ ‹_ = some _›
    | (extract_lets +onlyGivenNames x; subst x)
    | with_reducible apply OkO.none
    | with_reducible apply OkO.some
    | with_reducible apply refuseEntry_ok
    | with_reducible apply groupOp_ok
    | with_reducible apply Ok.foldl
    | split

theorem joinGroup_ok (h : Ok q s) (c : Cand) (e : Entry) (b : List Byte) : Ok q (joinGroup s c e b) := by
  unfold joinGroup
  repeat' first
    | with_reducible assumption
    | intro _
    | (extract_lets +onlyGivenNames x; refine (fun (hx : Ok q x) => ?_) ?_; rotate_left; subst x; rotate_right; clear_value x)
    | (extract_lets +onlyGivenNames x; subst x)
    | with_reducible apply putPicture_ok
    | with_reducible apply removeUnit_ok
    | with_reducible apply modNode_ok
    | with_reducible apply fenceClose_ok
    | with_reducible apply issue_ok

theorem tokenisePicture_ok (h : Ok q s) (c : Cand) (e : Entry) : OkO q (tokenisePicture s c e) := by
  unfold tokenisePicture
  repeat' first
    | with_reducible assumption
    | intro _
    | refine OkO.out ?_ ‹_ = some _›
    | (extract_lets +onlyGivenNames x; subst x)
    | with_reducible apply OkO.none
    | with_reducible apply OkO.some
    | with_reducible apply refuseEntry_ok
    | with_reducible apply Rd.bytes_ok
    | with_reducible apply Rd.start_ok
    | with_reducible apply consume_ok
    | with_reducible apply groupOp_ok
    | with_reducible apply joinGroup_ok
    | split

theorem tokeniseOp_ok (h : Ok q s) (c : Cand) : OkO q (tokeniseOp s c) := by
  unfold tokeniseOp
  repeat' first
    | with_reducible assumption
    | intro _
    | refine OkO.out ?_ ‹_ = some _›
    | with_reducible apply OkO.none
    | with_reducible apply OkO.some
    | with_reducible apply tokeniseEnd_ok
    | with_reducible apply tokenisePicture_ok
    | split

theorem doTokenise_ok (h : Ok q s) (p : ℕ) : Ok q (doTokenise s p) := by
  unfold doTokenise
  repeat' first
    | with_reducible assumption
    | intro _
    | refine OkO.out ?_ ‹_ = some _›
    | with_reducible apply tryAll_ok
    | with_reducible apply tokeniseOp_ok

theorem placeUnit_ok (h : Ok q s) (n : ℕ) (xq : List Byte) (u : BatchUnit) : Ok q (placeUnit s n xq u) := by
  unfold placeUnit
  repeat' first
    | with_reducible assumption
    | intro _
    | (extract_lets +onlyGivenNames x; refine (fun (hx : Ok q x) => ?_) ?_; rotate_left; subst x; rotate_right; clear_value x)
    | with_reducible apply modSq_ok
    | with_reducible apply closeBatch_ok
    | split

theorem packSource_ok (h : Ok q s) (c : Cand) : Ok q (packSource s c).1.st := by
  unfold packSource
  extract_lets x e0 o r head e1 v
  have hr : Ok q r.1.st := Rd.bytes_ok (Rd.start_ok h) _ _ _ _
  split
  · exact Rd.bytes_ok hr _ _ _ _
  · exact hr

theorem packOp_ok (h : Ok q s) (c : Cand) : OkO q (packOp s c) := by
  unfold packOp
  repeat' first
    | with_reducible assumption
    | intro _
    | (extract_lets +onlyGivenNames x; refine (fun (hx : Ok q x) => ?_) ?_; rotate_left; subst x; rotate_right; clear_value x)
    | (extract_lets +onlyGivenNames x; subst x)
    | with_reducible apply OkO.none
    | with_reducible apply OkO.some
    | with_reducible apply refuseEntry_ok
    | with_reducible apply Rd.bytes_ok
    | with_reducible apply Rd.start_ok
    | with_reducible apply packSource_ok
    | with_reducible apply consume_ok
    | with_reducible apply removeUnit_ok
    | with_reducible apply discardSlot_ok
    | with_reducible apply modNode_ok
    | with_reducible apply endStreams_ok
    | with_reducible apply fenceClose_ok
    | with_reducible apply closeBatch_ok
    | with_reducible apply modSq_ok
    | with_reducible apply draw_ok
    | with_reducible apply issueWrites_ok
    | with_reducible apply placeUnit_ok
    | with_reducible apply Ok.foldl
    | split

end Sys2Proof.Machine
end

