-- ==== Sys2Proof/Tests/Slice0.lean ====
section
/-! SUPPORT. Small states, a smoke test of each well-formedness check, checks of single commands against the worked
examples of the spec, and for every statement a state and operands that meet its hypotheses. -/

set_option Elab.async false

namespace Sys2Proof.Tests

open Sys2Proof Sys2Proof.Machine

/-! ## Small states -/

/-- Writes a list of stored registers: page, offset, word. -/
def setRegs (s : State) (l : List (Nat × Nat × Nat)) : State := l.foldl (fun s x => wrg s x.1 x.2.1 x.2.2) s

/-- An idle Pod with logical ID `l`, powered. -/
def idlePod (l : Nat) : Pod :=
  { Pod.reset with logical := l, st := .idle, gated := false, isolated := false, copyOk := true, swReq := true, swAck := true }

/-- An idle spare that is off. -/
def sparePod : Pod := { Pod.reset with role := 1 }

/-- The Pods after start-up: logical IDs 0 to 95 and four spares. -/
def somePods : List Pod := (List.range 96).map idlePod ++ List.replicate 4 sparePod

/-- The registers of two submission rings and two completion rings, with the pages enabled. -/
def someRegs : List (Nat × Nat × Nat) :=
  [(0, 0x600, 24), (0, 0x700, 5 * 256), (0, 0xA08, 2 ^ 31), (3, 8, 1), (3, 0x80C, 1000), (3, 0x818, 4), (3, 0x824, 64),
   (8, 8, 1), (10, 8, 1), (12, 8, 1), (0x100, 8, 1), (0x100, 0x404, 6), (0x100, 0x410, 0x101), (0x100, 0x414, 0x20002000),
   (0x100, 0x420, 0xFFFFFFFF), (0x100, 0x444, 0x10026), (0x100, 0x450, 0x101), (0x100, 0x454, 0x20002000), (0x100, 0x460, 0xFFFFFFFF),
   (0x200, 8, 1), (0x200, 0x404, 6), (0x200, 0x410, 0x50001), (0x200, 0x444, 6), (0x200, 0x450, 1), (0x580, 8, 1)]

/-- A block in `READY` with ring 0 and completion ring 0 on. -/
def ready : State :=
  setRegs (fwDefaults { State.reset with
    pins := { State.reset.pins with coldN := true, present := true }
    blk := { State.reset.blk with st := .ready, resetBy := .none }
    pods := somePods
    sqs := [(0, { Sq.opened with scan := true })]
    cqs := [(0, { Cq.empty with on := true, phase := true, timing := true })]
    pwr := { State.reset.pwr with locked := true }
    rng := { State.reset.rng with tableOk := true } }) someRegs

/-- A node of kind `k` and operation `op`, without edges. -/
def someNode (k op : Nat) : Node := ⟨k, op, 0, 0, 0, 0, 0, 0, 0, 0, 0xFFFF, 0, 0, 0, 0⟩

/-- A route of a few nodes without edges. -/
def someRoute (ns : List Node) : Route :=
  { emptyRoute with nodes := ns, nodeCount := ns.length, podsMin := 1, podsMax := 96, maxTasks := 4, tollgates := 1, mpPer := 16 }

/-- `ready` with job 0 bound on logical Pod 0 with route `r`. -/
def bound (r : Route) : State :=
  { ready with
    blk := { ready.blk with st := .running }
    pods := somePods.set 0 { idlePod 0 with st := .bound, bindValid := true }
    jobs := [(0, { Job.empty with
      st := .bound, members := [0], route := r, slotPos := (List.range 64).map (· * 2 ^ 48), gates := [0] })]
    gates := [(0, { Gate.empty with assigned := true, parts := 1, ext := 1 })] }

/-- The four `INGEST` opcodes and `EMIT`. -/
def workRoute : Route := someRoute [someNode 0 1, someNode 0 2, someNode 0 3, someNode 0 4, someNode 10 1]

/-- `ready` with a job bound that takes entries of every opcode. -/
def busy : State := bound workRoute

/-- A submission entry of job 0 that names 64 source bytes. -/
def workEntry : EntryBody := ⟨1, 0, 0, 7, 4096, 64, 0, 0, 0, 0, 0, 0, 0, 0, 0⟩

/-- A submission entry of job 0 without source. -/
def bareEntry : EntryBody := ⟨1, 0, 0, 7, 0, 0, 0, 0, 0, 0, 0, 0, 0, 0, 0⟩

/-- A memory read that delivers nothing. -/
def noRead : HostRead := ⟨.okay, [], 0⟩

/-- The invariant as one check: a witness below holds of a state that passes it. -/
def invOk (s : State) : Bool := s.regs.wf && s.marrow.wf && s.pwr.wf && decide (s.pods.length = 100)

theorem inv_of_ok {s : State} (h : invOk s = true) : Inv s := by
  simp only [invOk, Bool.and_eq_true, decide_eq_true_eq] at h
  exact ⟨h.1.1.1, h.1.1.2, h.1.2, h.2⟩

/-- The hypothesis `calm` as a test. -/
def calmOk (s : State) : Bool :=
  s.marrow.poison.isEmpty && s.marrow.prov.isEmpty && s.marrow.ecc.isEmpty && s.marrow.accPoison.isEmpty &&
  decide (s.itg.rollPhase ≠ 3) && (opAt s s.nextOp).isNone

theorem calm_of_ok {s : State} (h : calmOk s = true) : calm s := by
  simpa [calmOk, calm, and_assoc] using h
theorem inv_reset : Inv State.reset := inv_of_ok (by decide +kernel)

/-- Readings of 100 Pods. -/
def readings (hot : BitVec 16) : Sensors where
  hottest := hot
  power10us := 0
  avgPower := 0
  avgPowerMw := 0
  powerMw := 0
  current := 0
  currentMa := 0
  podTemp := List.replicate 100 0
  podVolt := List.replicate 100 0
  podCurrent := List.replicate 100 0
  podPower := List.replicate 100 0
  podBusy := List.replicate 100 0
  blockBusy := 0

/-- A start-up step that finds every fuse word at 0 with good parity and empty firmware slots. -/
def okStep : StepResult := ⟨List.replicate 64 0, .okay, [], [], [], false⟩

/-! ## Well-formedness: each check refuses an ill-formed command -/

theorem test_wf_read : Instr.wf (.load ⟨.fault, [0], 0⟩) = false := by decide
theorem test_wf_step_fuses : Instr.wf (.startUpStepDone { okStep with fuses := [] }) = false := by decide
theorem test_wf_step_slots : Instr.wf (.startUpStepDone { okStep with storeKind := .fault, slotA := [0] }) = false := by decide +kernel
theorem test_wf_sensors : Instr.wf (.throttleTick { readings 0 with podTemp := [] }) = false := by decide +kernel
theorem test_wf_write_empty : Instr.wf (.write 0 0 0 0 0 0 []) = false := by decide
theorem test_wf_write_long : Instr.wf (.write 0 0 0 0 0 0 [0, 0, 0, 0, 0]) = false := by decide
theorem test_wf_flip_none : Instr.wf (.tstInj (.flip 0 0 0 0)) = false := by decide +kernel
theorem test_wf_flip_many : Instr.wf (.tstInj (.flip 0 0 0 15)) = false := by decide +kernel
theorem test_wf_pair_idle : Instr.wf (.tstInj (.pair 0 0 false true 1)) = false := by decide
theorem test_wf_pair_short : Instr.wf (.tstInj (.pair 0 0 true true 0)) = false := by decide
theorem test_wf_pair_source : Instr.wf (.tstInj (.pair 24 0 true true 1)) = false := by decide
theorem test_wf_source : Instr.wf (.wireFaultClear 24 0) = false := by decide
theorem test_ill_formed_stops : exec (.wireFaultClear 24 0) ready = .fault .illFormed := by rfl
theorem test_wf_good : Instr.wf (.throttleTick (readings 0)) = true ∧ Instr.wf (.startUpStepDone okStep) = true := by decide +kernel

/-! ## Worked examples of the spec -/

/-- The state that a command leads to. -/
def after (c : Instr) (s : State) : State := match exec c s with
  | .next t => t
  | _ => s

/-- Writes a word to byte address `a` of the control window. -/
def wr (a : Nat) (w : Word) (s : State) : State := after (.registerWrite (BitVec.ofNat 22 (a / 4)) w (wordPar w)) s

/-- Ch. 19: the Intake page off, pool class 5 without a size. -/
def poolFive : State :=
  wr 0x3008 1 (wr 0x3458 0x00804000 (wr 0x3454 0x00800000 (wr 0x3450 1 (setRegs ready [(3, 8, 0)]))))

theorem test_pool_class_refused : rg poolFive 3 0x010 = 0x84500364 ∧ enabled poolFive 3 = false := by decide +kernel
theorem test_pool_class_over : rg (after (.bind 0 noRead) poolFive) 3 0x010 = 0xC8000361 := by decide +kernel
theorem test_pool_class_accepted :
    enabled (wr 0x3008 1 (wr 0x3450 0x00080001 (wr 0x3010 0xC0000000 poolFive))) 3 = true ∧
    readWord (wr 0x3008 1 (wr 0x3450 0x00080001 poolFive)) 3 0 = 0x10000003 := by decide +kernel

/-- Ch. 15: physical Pod 33 with logical ID 31. -/
def pod33 : State := { ready with pods := ready.pods.set 33 { idlePod 31 with st := .bound, bindValid := true, job := 12 } }

/-- Ch. 15: one corrected error of line 0x1A40, word 5. -/
def eccEvent : Instr := .faultEvent 2 33 0x000A1A40 ⟨5, 1, 0, 0, 0x023B, 0x02E6⟩

theorem test_ecc_record : ((sget? (after eccEvent pod33).flt.log (after eccEvent pod33).flt.newest).map fun w =>
    (w.page, w.phys, w.logical, w.source, w.rflags)) = some (0x61, 0x21, 0x1F, 2, 4) := by decide +kernel

/-- Ch. 16: a current-limit request of level 2 caps the multiplier at 36. -/
theorem test_ilim_cap : (after (.pwrIlimReq 2) ready).pwr.targetN = 36 ∧ (after (.pwrIlimReq 2) ready).pwr.ilimAck = false := by
  decide +kernel

/-- Ch. 10: the row of eight logits at TEMP 0.5, TOP_K 4 and TOP_P 0.9. -/
def logits : List Fv := [.fin false 2 0, .fin false 1 0, .fin false 3 0, .fin false 3 0, .fin false 1 (-1), .fin true 1 0,
  .fin false 5 (-1), .fin false 0 0]

theorem test_sample_word : (chooseToken logits (.fin false 1 (-1)) (decodeElem 9 0x3F666666) 4 0xC0000000).token = 3 := by decide +kernel
theorem test_sample_low_word : (chooseToken logits (.fin false 1 (-1)) (decodeElem 9 0x3F666666) 4 0x50000000).token = 2 := by decide +kernel
theorem test_sample_greedy : (chooseToken logits fzero (decodeElem 9 0x3F666666) 4 0).token = 2 := by decide +kernel

/-- Ch. 9: −683.62109375 in BF16. -/
theorem test_bf16_rne : (convert 8 none (.fin true 175007 (-8))).1 = 0xC42B := by decide +kernel
theorem test_bf16_sr_high : (convert 8 (some 0x20000000) (.fin true 175007 (-8))).1 = 0xC42B := by decide +kernel
theorem test_bf16_sr_low : (convert 8 (some 0x10000000) (.fin true 175007 (-8))).1 = 0xC42A := by decide +kernel

/-! ## Hypotheses of the statements are met: resets, start-up and pages -/

theorem wit_IdleStepTicks : ready.pending = [] := by decide +kernel
theorem wit_WellFormedCompletes : Instr.wf .pop = true ∧ Instr.wf (.wireFaultClear 24 0) = false := by decide
/-- `busy` with a command waiting. -/
def queued : State := { busy with pending := [.aliveTick true, .pop] }
theorem wit_StepInvariant : invOk queued = true ∧ (match step queued with | .next t => decide (t.pending = [.pop]) | _ => false) = true := by
  decide +kernel
theorem wit_ResetsAssert : ready.pins.coldN = true := by decide +kernel

/-- Cold reset released, no lock yet. -/
def coldRun : State := { State.reset with pins := { State.reset.pins with coldN := true } }
theorem wit_ColdReleaseAndLock : State.reset.pins.coldN = false ∧ coldRun.pins.coldN = true ∧ coldRun.blk.st = .cold ∧
    ready.pwr.locked = true ∧ ready.blk.st ≠ .cold := by decide +kernel

/-- `busy` with warm reset held, and a job saved. -/
def warmHeld : State :=
  { busy with pins := { busy.pins with warmN := false }, jobs := busy.jobs ++ [(1, { Job.empty with st := .saved, ctxAddr := 4096 })] }
/-- `busy` under a block reset. -/
def blockHeld : State := { busy with blk := { busy.blk with resetBy := .block } }
/-- `warmHeld` served by the boot ROM. -/
def romHeld : State := { warmHeld with stw := { warmHeld.stw with active := 2 } }
theorem wit_ResetsRelease_warm : warmHeld.pins.warmN = false ∧ warmHeld.pins.coldN = true ∧ warmHeld.blk.st ≠ .cold ∧
    warmHeld.stw.active ≠ 2 ∧ warmHeld.blk.st ≠ .selfTest ∧ romHeld.stw.active = 2 ∧
    (∃ b ∈ warmHeld.jobs, b.2.st = .saving ∨ b.2.st = .saved) := by decide +kernel
theorem wit_ResetsRelease_block : blockHeld.blk.resetBy = .block := by decide +kernel

/-- The block in step `k` of start-up. -/
def starting (k : Nat) : State := { coldRun with blk := { coldRun.blk with st := .selfTest, step := k, resetBy := .none } }
/-- 64 fuse words, word `i` holding `f i` with good parity. -/
def fuses (f : Nat → Nat) : List (BitVec 33) :=
  (List.range 64).map fun i => BitVec.ofNat 33 (f i + 2 ^ 32 * b2n (evenPar 32 (f i)))
/-- Fuses that leave physical Pods 96 to 99 as spares. -/
def goodFuses : List (BitVec 33) :=
  let w (i : Nat) : Nat := if i = 9 then 0x55 else 0
  let crc := crc32 ((List.range 13).flatMap fun i => leBytes 4 (w i))
  fuses fun i => if i = 13 then crc else w i
theorem wit_StartUpSteps_1 : okStep.wf = true ∧ (starting 1).blk.st = .selfTest ∧ (starting 1).blk.resetBy = .none ∧
    (starting 1).blk.step = 1 ∧ fusesOk okStep.fuses = false ∧ ({ okStep with fuses := goodFuses } : StepResult).wf = true ∧
    fusesOk goodFuses = true := by decide +kernel
theorem wit_StartUpSteps_2 : (starting 2).blk.step = 2 ∧ (starting 2).blk.lastRst = 0 ∧ okStep.storeKind = .okay ∧
    chooseSlot (readSlot okStep.slotA) (readSlot okStep.slotB) = 2 ∧ chooseSlot ⟨true, 1, 1⟩ ⟨false, 0, 0⟩ ≠ 2 ∧
    ({ okStep with storeKind := .fault } : StepResult).wf = true := by decide +kernel
theorem wit_StartUpSteps_fail : ({ okStep with sharedFail := true } : StepResult).wf = true ∧ (starting 3).blk.step = 3 ∧
    (starting 3).blk.lastRst = 0 ∧ (starting 6).blk.step = 6 := by decide +kernel
/-- `starting k` with the Pods of `ready`. -/
def mapped (k : Nat) : State := { starting k with pods := ready.pods }
theorem wit_StartUpSteps_pass : okStep.podFails = [] ∧ okStep.sharedFail = false ∧ testedPods (starting 3) ≠ [] ∧ (starting 4).blk.step = 4 ∧
    (starting 5).blk.step = 5 ∧ invOk (starting 5) = true ∧ (mapped 6).itg.needSpare = [] ∧ activeCount (mapped 6) ≠ 0 ∧
    invOk (mapped 6) = true ∧ (mapped 6).blk.step = 6 := by decide +kernel
theorem wit_StartUpSteps_map : (starting 1).stw.log = [] ∧ invOk (starting 1) = true ∧ fuseRole goodFuses 5 = 0 ∧ fuseRole goodFuses 99 ≠ 0 := by
  decide +kernel
/-- A warm start whose boot ROM serves. -/
def romServes0 : State := { starting 2 with stw := { (starting 2).stw with active := 2 }, blk := { (starting 2).blk with lastRst := 1 } }
theorem wit_StartUpSteps_pods : noReset (starting 3) 22 ∧ ({ okStep with podFails := [3] } : StepResult).wf = true ∧
    (podAt (starting 3) 3).role ≤ 1 ∧ testedPods { starting 3 with pods := [] } ≠ [] ∧
    testedPods { starting 3 with pods := List.replicate 100 { Pod.reset with role := 3 } } = [] ∧
    ({ (starting 2).blk with lastRst := 1 } : Block).lastRst ≠ 0 ∧ romServes0.stw.active = 2 := by
  unfold noReset; decide +kernel
theorem wit_AliveTicks : ready.blk.st ≠ .cold ∧ ready.blk.st ≠ .selfTest ∧ ready.blk.resetBy = .none ∧
    (starting 1).blk.st = .selfTest := by decide +kernel

theorem wit_RegisterWriteStores : invOk ready = true ∧ ctlReady ready = true ∧ ready.blk.st ≠ .selfTest ∧ ready.blk.st ≠ .halted ∧
    (pageKind 0).isSome = true ∧ pageKind 0 ≠ some 0xF0 ∧ (pageKind 0x5FF).isSome = true ∧ pageKind 0x5FF ≠ some 0xF0 ∧
    (1 : BitVec 4) ≠ wordPar 0 := by decide +kernel
theorem wit_RegisterWriteStores_kinds : regFmt 3 0x810 = some (fmt 0xFFFFFFC0) ∧ storesOnly ready 3 0x810 = true ∧
    writeIgnored ready 3 0x400 0 = true ∧ commandOf 0x100 0x400 1 = some (.ringOn (.sq 0)) ∧
    commandOf 0x580 0x020 0x80000005 = some (.milepostSet 5) := by decide +kernel
/-- `ready` with `PING` and tag 5 in the mailbox words. -/
def pingAsked : State := setRegs ready [(0, 0x900, 1 + 2 ^ 16 * 5)]
theorem wit_RegisterWriteStores_mailbox : rg pingAsked 0 0x900 = 1 + 2 ^ 16 * 5 ∧ (∀ i < 8, 0 < i → rg pingAsked 0 (0x900 + 4 * i) = 0) ∧
    invOk pingAsked = true ∧ ctlReady pingAsked = true ∧ pingAsked.blk.st ≠ .selfTest := by decide +kernel
theorem wit_RegisterReadReturns : ctlReady ready = true := by decide +kernel
theorem wit_ColdAndSelfTestPort : State.reset.blk.st = .cold ∧ (starting 1).blk.st = .selfTest ∧
    (starting 1).blk.resetBy = .none ∧ (w1cWrite (starting 1) 3 0x800 1).2 = false ∧
    (w1cWrite (starting 1) 3 0x014 1).2 = true ∧ (pageKind 3).isSome = true ∧ pageKind 3 ≠ some 0xF0 ∧ invOk (starting 1) = true ∧
    ready.blk.resetBy = .none ∧ ready.blk.st = .ready ∧ ready.stw.mbx.length < 8 ∧ (readings 0).wf = true ∧ noRead.wf = true := by
  decide +kernel
/-- `ready` with the Intake page off. -/
def intakeOff : State := setRegs ready [(3, 8, 0)]
theorem wit_PageEnableChanges_set : invOk intakeOff = true ∧ ctrlOpen intakeOff 3 = true ∧ pageCaps 3 % 2 = 1 ∧ enabled intakeOff 3 = false ∧
    pageCheck intakeOff 3 = none ∧ pageCheck (setRegs intakeOff [(3, 0x450, 1)]) 3 = some (0x0364, 0x450) := by decide +kernel
theorem wit_PageEnableChanges_clear : invOk ready = true ∧ ctrlOpen ready 3 = true ∧ enabled ready 3 = true ∧ pageKind 3 ≠ some 0x10 ∧
    (ready.jobs.all fun b => b.2.st = .none) = true ∧ pageCaps 8 % 2 = 1 ∧ enabled ready 8 = true ∧ ready.streams = [] ∧
    enabled ready 0x00C = true ∧ halves ready = [] ∧ pageCaps 0x00C % 2 = 1 ∧
    (∀ i < 16, (cqAt (setRegs ready [(0x201, 8, 1)]) ((0x201 - 0x200) * 16 + i)).on = false) := by decide +kernel
theorem wit_PageDrainDrainsRings : invOk ready = true ∧ ctrlOpen ready 0x100 = true ∧ enabled ready 0x100 = true ∧ (sqAt ready 0).st = .active ∧
    (sqAt ready 15).st = .disabled := by decide +kernel

/-! ## Rings -/

theorem wit_RingControls_on : invOk ready = true ∧ portLive ready = true ∧ (sqAt ready 1).st = .disabled ∧ (cqAt ready 1).on = false ∧
    sqCheck (storeReg { ready with cqs := ready.cqs ++ [(1, { Cq.empty with on := true })] } (sqPage 1) (ringOfs 1 0) 1) 1 = none ∧
    cqCheck (storeReg ready (cqPage 1) (ringOfs 1 0) 1) 1 = none := by decide +kernel
/-- `ready` without submission rings. -/
def noSq : State := { ready with sqs := [] }
theorem wit_RingControls_off : invOk noSq = true ∧ (cqAt noSq 0).on = true ∧ cqNamed (storeReg noSq (cqPage 0) (ringOfs 0 0) 2) 0 = false := by
  decide +kernel
theorem wit_DoorbellAndRescan : portLive ready = true ∧ ready.blk.shut = false ∧ ready.blk.st ≠ .roadside ∧
    (sqAt ready 0).st = .active ∧ (sqAt ready 5).st = .disabled ∧ working ready = true ∧
    (sqAt { ready with sqs := [(0, { Sq.opened with backoff := true })] } 0).backoff = true := by decide +kernel
/-- `ready` with ring 0 draining. -/
def draining : State := { ready with sqs := [(0, { Sq.opened with st := .draining })] }
theorem wit_RingDrains : invOk ready = true ∧ invOk draining = true ∧ (sqAt ready 0).st = .active ∧ (sqAt draining 0).st = .draining ∧ (sqAt draining 0).walked = false ∧
    (draining.entries.all fun e => e.sq ≠ 0) = true ∧ ((cqAt draining (sqCq draining 0)).due.all fun d => d.sq ≠ 0) = true := by
  decide +kernel
/-- A running `SAMPLE` entry of job 0 in slot 0 of ring 0. -/
def entry0 : Entry := ⟨0, 0, 0, 1, workEntry, 0, 0, 0, 0, .running, [], [], false, 0, 0, 0, [], 0, 0, 0⟩
/-- `busy` with a stopped ring. -/
def stopped : State := { busy with sqs := [(0, { Sq.opened with st := .stopped })], entries := [{ entry0 with st := .stopped }] }
theorem wit_DoorbellAndRescan_stopped : portLive stopped = true ∧ stopped.blk.shut = false ∧ stopped.blk.st ≠ .roadside ∧
    (sqAt stopped 0).st = .stopped := by decide +kernel
theorem wit_ResumeActions : invOk stopped = true ∧ portLive stopped = true ∧ (sqAt stopped 0).st = .stopped ∧
    entryAt stopped 0 (sqAt stopped 0).stopSlot = some { entry0 with st := .stopped } ∧ (sqAt busy 0).st = .active := by decide +kernel
/-- A completion that is due. -/
def due0 : Due := ⟨0, 0, 7, 0, false, 0, 0, 0, false, false, none⟩
/-- `busy` with a completion due. -/
def owing : State := { busy with cqs := [(0, { Cq.empty with on := true, phase := true, timing := true, due := [due0] })] }
theorem wit_RingEvents_write : portLive owing = true ∧ (cqAt owing 0).on = true ∧ behind owing (some (0, 0)) = false ∧
    nextDue owing 0 = some due0 ∧ due0.final = false ∧ (cqAt owing 0).timing = true ∧ bits (cqr owing 0 0x10) 31 16 ≠ 0 := by
  decide +kernel
/-- A fetched `FENCE`. -/
def fence0 : Entry := { entry0 with opcode := 5, body := bareEntry, st := .waiting }
/-- `busy` behind a fence that waits for nothing. -/
def fenced : State := { busy with sqs := [(0, { Sq.opened with fence := some 0 })], entries := [fence0] }
/-- A pending `WAIT` of ring 0. -/
def wait0 : Waiter := ⟨3, false, .ring 0 0, 0⟩
/-- `busy` with a `WAIT` pending. -/
def waiting : State := { busy with entries := [{ fence0 with opcode := 6 }], mps := { busy.mps with waiters := [wait0] } }
theorem wit_RingEvents_fence : portLive fenced = true ∧ (sqAt fenced 0).fence = some 0 ∧ entryAt fenced 0 0 = some fence0 ∧
    fence0.st ≠ .done ∧ (fenced.entries.any fun e => e.sq = 0 && decide (e.rank < fence0.rank)) = false := by decide +kernel
theorem wit_RingEvents_timeout : (waiting.mps.waiters.find? fun v => v.src = .ring 0 0) = some wait0 ∧ wait0.take = false ∧
    entryAt waiting 0 0 = some { fence0 with opcode := 6 } := by decide +kernel
theorem wit_RingEvents_final :
    let d := { due0 with final := true, reserved := true }
    let s := { owing with entries := [entry0], cqs := [(0, { (cqAt owing 0) with due := [d], reserved := 1 })] }
    nextDue s 0 = some d ∧ (entryAt s 0 0).isSome = true ∧ behind s (some (0, 0)) = false ∧ portLive s = true := by decide +kernel
theorem wit_RingEvents_take :
    let s := { waiting with mps := { waiting.mps with waiters := [{ wait0 with take := true }] } }
    (s.mps.waiters.find? fun v => v.src = .ring 0 0) = some { wait0 with take := true } ∧
    entryAt s 0 0 = some { fence0 with opcode := 6 } ∧ portLive s = true := by decide +kernel
theorem wit_ResumeActions_entry : ({ entry0 with st := .stopped } : Entry).opcode ≤ 2 ∧
    entryDone stopped { entry0 with st := .stopped, sinks := [] } = false ∧ entry0.rank < 2 ^ 64 := by decide +kernel
theorem wit_RingDrains_walk : [bareEntry].length < sqSize draining 0 ∧ (sqAt draining 0).fetch < sqSize draining 0 ∧
    portLive draining = true := by decide +kernel
theorem wit_PageDrain_refused : ctrlOpen ready 3 = true ∧ pageKind 3 = some 3 ∧ bitN (pageCaps 3) 1 = false := by decide +kernel

/-! ## Jobs -/

/-- A route image: `INGEST` of tensors, an edge, `EMIT`. -/
def imageWith (crc : Nat) : List Byte :=
  leBytes 4 0x45545242 ++ leBytes 2 1 ++ leBytes 2 64 ++ leBytes 4 192 ++ leBytes 4 crc ++ leBytes 2 2 ++ leBytes 2 1 ++
  leBytes 2 0 ++ leBytes 1 1 ++ leBytes 1 96 ++ leBytes 4 1 ++ leBytes 2 2 ++ leBytes 2 1 ++ leBytes 4 64 ++ leBytes 4 128 ++
  leBytes 4 0 ++ leBytes 4 192 ++ leBytes 4 0 ++ leBytes 1 0 ++ leBytes 1 1 ++ leBytes 2 4 ++ leBytes 8 0 ++
  (leBytes 1 0 ++ leBytes 1 4 ++ leBytes 2 0 ++ leBytes 2 0 ++ leBytes 1 0 ++ leBytes 1 1 ++ leBytes 6 0 ++ leBytes 2 0xFFFF ++
    leBytes 16 0) ++
  (leBytes 1 10 ++ leBytes 1 1 ++ leBytes 2 0 ++ leBytes 2 0 ++ leBytes 1 1 ++ leBytes 1 0 ++ leBytes 6 0 ++ leBytes 2 0xFFFF ++
    leBytes 16 0) ++
  (leBytes 2 0 ++ leBytes 2 1 ++ leBytes 4 0 ++ leBytes 2 1 ++ leBytes 1 1 ++ leBytes 1 0 ++ leBytes 2 0 ++ leBytes 2 0) ++
  leBytes 48 0
/-- The image with its CRC. -/
def routeRead : HostRead := ⟨.okay, imageWith (crc32 (imageWith 0)), 0⟩
theorem wit_BindRules : invOk ready = true ∧ portOpen ready = true ∧ routeRead.wf = true ∧ routeRead.kind = .okay ∧
    jobGateCheck (jobStore ready 0 1 false) = none ∧ (job ready 0).st = .none ∧ (job busy 0).st ≠ .none ∧
    setChecks (jobStore ready 0 1 false) (parseRoute routeRead.bytes) = none := by decide +kernel
theorem wit_BindRules_refused : jobGateCheck (jobStore (setRegs ready [(3, 8, 0)]) 0 1 false) = some 0x0361 ∧
    setChecks (jobStore ready 0 1 false) (parseRoute (imageWith 0)) = some (0x0342, 0, 12) := by decide +kernel
theorem wit_JobCommandsAccepted_unbind : invOk busy = true ∧ portOpen busy = true ∧ working busy = true ∧ enabled busy 3 = true ∧
    (job busy 1).st = .none ∧ (job busy 0).st = .bound ∧ (job busy 0).queued = [] ∧ (job busy 0).active = none ∧
    (∃ p ∈ jobPods busy 0, (podAt busy p).st = .bound) := by decide +kernel
theorem wit_JobCommandsAccepted_save : invOk busy = true ∧ rsvSet busy 3 0x804 = false ∧
    imageBytes (job busy 0).members.length (job busy 0).window ≤ rg busy 3 0x80C * 4096 ∧ (job busy 0).route.tollgates ≠ 0 := by
  decide +kernel
/-- `ready` with job 0 saved from one Pod. -/
def savedJob : State := { ready with jobs := [(0, { Job.empty with st := .saved, srcPods := 1, window := 64 })] }
theorem wit_JobCommandsAccepted_restore : invOk savedJob = true ∧ (job savedJob 0).st = .saved ∧ (job savedJob 0).queued = [] ∧
    (job savedJob 0).active = none ∧ setChecks (jobStore savedJob 0 4 false) (parseRoute routeRead.bytes) = none ∧
    rsvSet savedJob 3 0x804 = false ∧ imageBytes 1 (rg savedJob 3 0x824) ≤ rg savedJob 3 0x80C * 4096 ∧
    (argPods savedJob).length = (job savedJob 0).srcPods ∧ working savedJob = true ∧ enabled savedJob 3 = true := by decide +kernel
/-- A `BIND` of logical Pod 2 that has not started. -/
def bind2 : JobCmd := ⟨.bind, false, [2], [2], [0], workRoute, 64, 5, 0, 0⟩
/-- `ready` with that `BIND` accepted. -/
def accepted : State := { ready with jobs := [(0, { Job.empty with st := .binding, members := [2], active := some bind2 })] }
theorem wit_BindStarts : invOk accepted = true ∧ noRead.wf = true ∧ working accepted = true ∧ (job accepted 0).active = some bind2 ∧ bind2.op = .bind ∧
    bind2.unstarted ≠ [] ∧ (∀ g ∈ bind2.gates, (gateAt accepted g).assigned = false) ∧
    physOf accepted 2 = some 2 ∧ (podAt accepted 2).st = .idle ∧ (podAt accepted 2).gated = false ∧ (podAt accepted 2).copyOk = true := by
  decide +kernel
/-- A `RESTORE` of logical Pod 2, whose window is one granule, with one gate. -/
def restore2 : JobCmd := { bind2 with op := .restore, route := parseRoute routeRead.bytes, window := 1 }
/-- `ready` with that `RESTORE` accepted. -/
def restored : State := { ready with jobs := [(0, { Job.empty with st := .restoring, members := [2], active := some restore2 })] }
/-- Header, job section, arrival bits and task records of an image of one member. -/
def contextRead : HostRead :=
  ⟨.okay, leBytes 4 0x58544342 ++ leBytes 2 1 ++ leBytes 2 128 ++ leBytes 1 1 ++ leBytes 1 1 ++ leBytes 2 0 ++
    leBytes 4 restore2.route.crc ++ leBytes 4 1 ++ leBytes 4 0 ++ leBytes 8 (imageBytes 1 1) ++ leBytes 4 7 ++ leBytes 4 0 ++
    leBytes 8 5 ++ leBytes 4 0 ++ List.replicate 72 0 ++ leBytes 4 (0x42494C54 ^^^ 7) ++ leBytes 8 9 ++ List.replicate 4088 0 ++
    List.replicate 64 0, 0⟩
theorem wit_BindStarts_restore : invOk restored = true ∧ contextRead.wf = true ∧ contextRead.kind = .okay ∧ working restored = true ∧
    imageCheck restore2 restore2.route contextRead.bytes = none ∧ restore2.gates.Nodup ∧
    imageCheck restore2 restore2.route [] = some 0x034D ∧ physOf restored 2 = some 2 ∧ (podAt restored 2).st = .idle ∧
    (podAt restored 2).copyOk = true ∧ (job restored 0).active = some restore2 := by decide +kernel
theorem wit_BindStarts_fault : ({ kind := .fault, bytes := [], addr := 0 } : HostRead).wf = true ∧ noReset restored 11 := by
  unfold noReset; decide +kernel
/-- A started `BIND` whose Pod is loaded. -/
def loading : State := { accepted with
  pods := accepted.pods.set 2 { idlePod 2 with st := .restoring, bindValid := true }
  jobs := [(0, { Job.empty with st := .binding, members := [2], active := some { bind2 with unstarted := [], gates := [] } })] }
theorem wit_LoadCompletes : invOk loading = true ∧ working loading = true ∧ (job loading 0).active = some { bind2 with unstarted := [], gates := [] } ∧
    (job loading 0).st = .binding ∧ sharesOpen loading 0 = false ∧ halves loading = [] ∧
    (∃ p ∈ jobPods loading 0, (podAt loading p).st = .restoring) := by decide +kernel
/-- A job that has failed, its Pod draining. -/
def failing : State := { busy with
  pods := busy.pods.set 0 { idlePod 0 with st := .draining, bindValid := true }
  jobs := [(0, { Job.empty with st := .failed, members := [0] })] }
theorem wit_DrainAndSaveEnd_drain : invOk failing = true ∧ portLive failing = true ∧ (podAt failing 0).st = .draining ∧ (podAt failing 0).bindValid = true ∧
    podDrained failing 0 = true ∧ (job failing (podAt failing 0).job).st ≠ .unbinding ∧
    (job failing (podAt failing 0).job).st ≠ .draining ∧ failing.itg.rollSpare = none ∧ (podAt failing 0).due = false := by
  decide +kernel
/-- A job whose commit has been answered. -/
def committed : State := { busy with jobs := [(0, { (job busy 0) with st := .saving, phase := 4 })] }
theorem wit_DrainAndSaveEnd_commit : invOk committed = true ∧ (job committed 0).st = .saving ∧ (job committed 0).phase = 4 ∧
    (job committed 0).queued = [] := by decide +kernel

/-! ## Entries -/

/-- `workEntry` and `bareEntry` with `ARG` `a`. -/
def argEntry (e : EntryBody) (a : BitVec 32) : EntryBody := { e with arg := a }
/-- A route whose descriptor 0 lies at the source and reads. -/
def tensorRoute : Route :=
  { workRoute with
    descCount := 1
    descs := [⟨1, 1, 1, 1, 0, 0, 0, 0, 0, 0, 0, [64, 1, 1, 1, 1, 1, 1, 1], [1, 0, 0, 0, 0, 0, 0, 0], 0⟩] }
/-- `busy` with that route. -/
def tensors : State := bound tensorRoute

theorem wit_TaskEntries_sample : (∃ f, nextRing busy = some (0, f)) ∧ workEntry.eflags.getLsbD 0 = (sqAt busy 0).phase ∧
    entryAt busy 0 (sqAt busy 0).fetch = none ∧ entryCheck busy 0 1 workEntry = none ∧ refusal67 busy 0 1 workEntry = none ∧
    refusal193 busy 1 workEntry = none ∧ noRead.wf = true ∧ noRead.kind = .okay := by decide +kernel
theorem wit_TaskEntries_tensor : (∃ f, nextRing tensors = some (0, f)) ∧ entryAt tensors 0 (sqAt tensors 0).fetch = none ∧
    entryCheck tensors 0 4 workEntry = none ∧ refusal67 tensors 0 4 workEntry = none ∧ refusal193 tensors 4 workEntry = none := by
  decide +kernel
/-- `busy` with a route that takes no `SAMPLE` entry. -/
def noSample : State := bound (someRoute [someNode 0 4, someNode 10 1])
theorem wit_TaskEntries_refused : (∃ f, nextRing noSample = some (0, f)) ∧ entryCheck noSample 0 1 workEntry = none ∧
    refusal67 noSample 0 1 workEntry = some 0x0312 := by decide +kernel
/-- `busy` behind the stop of an entry of ring 0. -/
def behindStop : State := { busy with entries := [{ entry0 with slot := 9, st := .stopped }],
                                      jobs := [(0, { (job busy 0) with nextRank := 1 })] }
theorem wit_TaskEntries_held : (∃ f, nextRing behindStop = some (0, f)) ∧ entryAt behindStop 0 (sqAt behindStop 0).fetch = none ∧
    stopAhead behindStop 0 (job behindStop 0).nextRank = true ∧ entryCheck behindStop 0 1 workEntry = none ∧
    entryCheck behindStop 0 7 bareEntry = none ∧ entryCheck behindStop 0 6 (withMpOp { argEntry bareEntry 15 with arg2 := 1 } 3) = none := by
  refine ⟨⟨true, ?_⟩, ?_⟩ <;> decide +kernel
/-- A stream context without pictures. -/
def stream0 : Stream := ⟨1, 0, 1, 0, 0, 3, 0, 0, 0, [], 0, 0, 0, 0, 0, 0, 0, 0, [], none, none, [], 0, 0, none, [], false⟩
/-- `busy` with stream 0 open. -/
def streaming : State := { busy with streams := [(0, stream0)] }
theorem wit_StreamEntries_new : entryCheck busy 0 2 (argEntry workEntry 1) = none ∧ (argEntry workEntry 1).arg = 1 ∧
    refusal67 busy 0 2 (argEntry workEntry 1) = none ∧ refusal193 busy 2 (argEntry workEntry 1) = none := by decide +kernel
theorem wit_StreamEntries_later : (∃ f, nextRing streaming = some (0, f)) ∧ entryAt streaming 0 (sqAt streaming 0).fetch = none ∧
    entryCheck streaming 0 2 workEntry = none ∧ refusal67 streaming 0 2 workEntry = none ∧ refusal193 streaming 2 workEntry = none ∧
    entryCheck streaming 0 3 bareEntry = none ∧ refusal67 streaming 0 3 bareEntry = none := by decide +kernel
theorem wit_FenceAndNop : bareEntry.eflags.getLsbD 0 = (sqAt busy 0).phase ∧ entryCheck busy 0 5 bareEntry = none ∧
    entryCheck busy 0 7 bareEntry = none := by decide +kernel
/-- `busy` with Milepost 15, the last of the route, set. -/
def mpSet15 : State := { busy with mps := { busy.mps with recs := [(15, { MpRec.empty with value := true })] } }
theorem wit_MilepostEntries_clear : entryCheck busy 0 6 (withMpOp (argEntry bareEntry 15) 0) = none ∧ mpOwned busy 15 = true ∧
    (mpAt busy 15).value = false ∧ busy.mps.waiters = [] ∧
    entryCheck busy 0 6 (withMpOp { argEntry bareEntry 15 with arg2 := 1 } 2) = none ∧
    entryCheck busy 0 6 (withMpOp { argEntry bareEntry 15 with arg2 := 65535 } 3) = none := by decide +kernel
theorem wit_MilepostEntries_set : (∃ f, nextRing mpSet15 = some (0, f)) ∧ entryAt mpSet15 0 (sqAt mpSet15 0).fetch = none ∧
    entryCheck mpSet15 0 6 (withMpOp (argEntry bareEntry 15) 1) = none ∧ mpOwned mpSet15 15 = true ∧ (mpAt mpSet15 15).value = true ∧
    entryCheck mpSet15 0 6 (withMpOp { argEntry bareEntry 15 with arg2 := 1 } 2) = none := by decide +kernel
theorem wit_MalformedEntryHalts : entryCheck busy 0 7 (argEntry bareEntry 1) = some (0x0307, 0x2C) ∧
    entryCheck busy 0 4 bareEntry = some (0x0304, 0x10) ∧ entryCheck busy 0 5 workEntry = some (0x0304, 0x08) ∧
    entryCheck busy 0 3 (argEntry bareEntry 1) = some (0x0307, 0x2C) ∧ entryCheck busy 0 2 (argEntry workEntry 2) = some (0x0307, 0x2C) := by
  decide +kernel

/-! ## Tile operations -/

/-- A descriptor of one run of `n` bytes in the member's window. -/
def bytesDesc (base n : Nat) (flags : Nat) : Desc :=
  ⟨1, 1, 3, flags, 0, 0, 0, base, 0, 0, 0, [n, 1, 1, 1, 1, 1, 1, 1], [1, 0, 0, 0, 0, 0, 0, 0], 0⟩
/-- One node `x` and the descriptors `ds`, with `entry0` running. -/
def working1 (x : Node) (ds : List Desc) : State :=
  { bound { someRoute [x] with descs := ds, descCount := ds.length } with
    jobs := [(0, { (job (bound { someRoute [x] with descs := ds, descCount := ds.length }) 0) with window := 64 })]
    entries := [entry0] }
/-- The candidate that node 0 is there. -/
def cand0 : Cand := ⟨0, 0, 0, 0, 0, 0, 0, true, [], []⟩
/-- An `EMIT`, an `INGEST`, a `LOAD` and a `MOVE` that may issue. -/
def emitting : State := working1 (someNode 10 1) []
def ingesting : State := working1 (someNode 0 1) []
def loadingTile : State := working1 (someNode 9 1) [{ bytesDesc 0 4 1 with space := 1 }, bytesDesc 0 4 2]
def moving : State := working1 (someNode 9 3) [bytesDesc 0 4 1, bytesDesc 64 4 2]
/-- `moving` with a poisoned source line. -/
def poisoned : State := { moving with marrow := { moving.marrow with poison := [0] } }

theorem wit_ReadySetOrdered : (podAt ready 0).st ≠ .bound ∧ candidates moving 0 9 = [cand0] ∧ cand0.fresh = true := by decide +kernel
theorem wit_StationsIssueFirst_next : candidates emitting 0 10 = [] ++ cand0 :: [] ∧ (emitOp emitting cand0).isSome = true := by
  decide +kernel
theorem wit_StationsIssueFirst_transfer : refetch moving 0 = none ∧ candidates moving 0 9 = [] ++ cand0 :: [] ∧
    (transferOp moving cand0).isSome = true := by decide +kernel
/-- A `MOVE` that waits on a provisional line. -/
def provisional : State := { moving with marrow := { moving.marrow with prov := [0] } }
theorem wit_StationsIssueFirst_wait : candidates provisional 0 9 = [cand0] ∧ transferOp provisional cand0 = none ∧
    candidates ready 0 10 = [] := by decide +kernel
theorem wit_MemoryTileOps_load : cand0.entry loadingTile = some entry0 ∧ candidates loadingTile 0 9 = [cand0] ∧
    refetch loadingTile 0 = none ∧ (cand0.node loadingTile).opcode = 1 ∧
    (contextFor loadingTile cand0.p cand0.j cand0.n cand0.rank cand0.h).isSome = true := by decide +kernel
theorem wit_MemoryTileOps_emit : cand0.entry emitting = some entry0 ∧ candidates emitting 0 10 = [cand0] ∧
    opAt emitting emitting.nextOp = none := by decide +kernel
/-- The bytes that the `MOVE` writes. -/
def moved : List WByte := (moveBytes moving cand0 cand0 (bytesDesc 0 4 1) (bytesDesc 64 4 2) (xferElems (bytesDesc 64 4 2) 0)).2.flatMap (·.1)
theorem wit_ResultsProvisional : refetch moving 0 = none ∧ candidates moving 0 9 = [cand0] ∧ moved.length = 4 ∧
    transferOp moving cand0 = some (issueWrites moving cand0 1 moved []) ∧ moving.marrow.wf = true ∧ moving.marrow.ecc = [] ∧
    moving.itg.rollPhase ≠ 3 := by decide +kernel
/-- A `FURLONG` node over 16 granules of the window of one member, a digest due. -/
def digesting : State :=
  let s := working1 (someNode 8 1) [bytesDesc 0 65536 1]
  { s with jobs := [(0, { (job s 0) with nodes := [(0, { NodeSt.empty with digDue := 1 })] })] }
/-- The `FURLONG` candidate. -/
def candF : Cand := ⟨0, 0, 0, 0, furlongRank, 0, 0, true, [], []⟩
theorem wit_FurlongSums : furlongCands digesting 0 = [candF] ∧ digesting.marrow.poison = [] ∧ digesting.marrow.prov = [] ∧
    digesting.marrow.ecc = [] ∧ digesting.itg.rollPhase ≠ 3 := by decide +kernel
/-- A greedy `SAMPLE` row whose line is poisoned. -/
def sampling : State :=
  let s := working1 (someNode 7 1) [bytesDesc 0 4 1]
  { s with marrow := { s.marrow with poison := [0] } }
theorem wit_PoisonEndsJob : candidates sampling 0 7 = [cand0] ∧
    sampleOp sampling cand0 = some (consume (bump sampling 0x00B 2) cand0 [] 1) ∧ (job (bump sampling 0x00B 2) 0).st = .bound ∧
    (bump sampling 0x00B 2).marrow.ecc = [] ∧ (bump sampling 0x00B 2).itg.groups = [] ∧ (bump sampling 0x00B 2).itg.rollPhase ≠ 3 ∧
    (∀ q ∈ jobPods (bump sampling 0x00B 2) 0, (podAt (bump sampling 0x00B 2) q).st = .bound) := by decide +kernel

/-! ## Stations at work -/

/-- A descriptor of bytes in the window: rank, sizes and strides. -/
def boxDesc (dt base : Nat) (size : List Nat) (stride : List Int) (flags : Nat) : Desc :=
  { bytesDesc base 1 flags with
    dtype := dt, rank := size.length
    size := size ++ List.replicate (8 - size.length) 1, stride := stride ++ List.replicate (8 - stride.length) 0 }
/-- A node of kind `k` and operation `op` with its input and output edges, reading the parameter block at `o`. -/
def pipeNode (k op inF inC outF outC : Nat) (o : Nat := 0) : Node :=
  { someNode k op with inFirst := inF, inCount := inC, outFirst := outF, outCount := outC, paramOfs := o, paramSize := 64 }
/-- Job 0 on nodes `ns` joined by edges of four slots of 1 KiB, with entry `e` running and the first slots of edges `full` full of it. -/
def piped (ns : List Node) (es : List (Nat × Nat)) (ds : List Desc) (ps : List Byte) (full : List Nat) (e : Entry) : State :=
  let s := bound { someRoute ns with
    mpPer := 64, edges := es.zipIdx.map fun x => ⟨x.1.1, x.1.2, x.2, 1, 4, 0, 8 * x.2, 0⟩, edgeCount := es.length
    descs := ds, descCount := ds.length, params := ps, paramSize := ps.length }
  { s with
    jobs := [(0, { (job s 0) with window := 64, edges := full.map fun k => (k, ⟨[], [(0, ⟨0, 0, 0, true, 0, none⟩)], 0, 0, []⟩) })]
    entries := [e]
    mps := { s.mps with recs := full.map fun k => (8 * k, { MpRec.empty with value := true }) } }
/-- A parameter block with bytes `l` at their offsets. -/
def block64 (l : List (Nat × Byte)) : List Byte := l.foldl (fun b x => b.set x.1 x.2) (List.replicate 64 0)
/-- One node of kind `k` and operation `op` without edges. -/
def station (k op : Nat) (ds : List Desc) (ps : List (Nat × Byte)) : State :=
  piped [pipeNode k op 0 0 0 0] [] ds (block64 ps) [] entry0
/-- The same with bytes `l` in Marrow. -/
def holding (s : State) (l : List (Nat × Byte)) : State := { s with marrow := { s.marrow with bytes := l } }

/-- A `COPY` of four bytes, a tile turned in place, a `GATHER` and a `SCATTER` in either mode. -/
def copyState : State := holding (station 4 1 [bytesDesc 0 4 1, bytesDesc 64 4 2] [(8, 1)]) [(0, 9), (2, 7)]
def turnState : State :=
  holding (station 4 1 (List.replicate 2 (boxDesc 1 0 [64, 64] [1, 64] 3)) [(0, 1), (8, 1), (10, 1)]) [(1, 9), (64, 7), (70, 3)]
def gatherState : State :=
  holding (station 4 2 [bytesDesc 0 4 1, boxDesc 3 64 [4] [1] 1, bytesDesc 128 4 2] []) [(0, 9), (3, 8), (64, 3), (66, 1), (68, 9)]
def scatterState (mode : Byte) : State :=
  holding (station 4 3 [boxDesc 3 0 [4] [1] 1, boxDesc 3 64 [4] [1] 1, boxDesc 10 128 [4] [1] 3] [(1, mode)])
    [(0, 9), (2, 5), (64, 3), (66, 1), (68, 3), (70, 9), (132, 1)]
/-- A 64 by 64 product of bytes, and the same with its groups handed to a `VECTOR` node. -/
def matrixDescs : List Desc := [boxDesc 1 0 [64, 64] [1, 64] 1, boxDesc 1 4096 [64, 64] [1, 64] 1, boxDesc 10 8192 [64, 64] [1, 64] 2]
def matrixState : State := holding (station 5 1 matrixDescs [(0, 1), (1, 1), (2, 1)]) [(0, 3), (65, 2), (4096, 5), (4161, 7)]
def accRoute : List Node := [pipeNode 5 1 0 0 0 1, { pipeNode 6 1 0 1 0 0 64 with descFirst := 2, descCount := 2 }]
def accParams : List Byte := block64 [(0, 1), (1, 1), (2, 1), (5, 1)] ++ block64 [(3, 1)]
def accState (full : List Nat) : State :=
  holding (piped accRoute [(0, 1)] (matrixDescs ++ [boxDesc 9 32768 [64, 64] [1, 64] 2]) accParams full entry0) [(0, 3), (4096, 5)]
/-- `VECTOR` operations: lanes, a line of two elements, one that goes on, blocks, and sums of parts. -/
def mapState : State :=
  holding { (station 6 1 [boxDesc 9 0 [4] [1] 1, boxDesc 8 64 [4] [1] 2] []) with jobs := (station 6 1 [boxDesc 9 0 [4] [1] 1, boxDesc 8 64 [4] [1] 2] []).jobs.map fun x =>
    (x.1, { x.2 with route := { x.2.route with nodes := x.2.route.nodes.map fun n => { n with descCount := 2 } } }) } [(3, 0x3F), (7, 0x40)]
def lineState (n : Nat) : State := holding (station 6 3 [boxDesc 9 0 [n] [1] 1, boxDesc 9 32768 [1] [1] 2] []) [(3, 0x3F), (7, 0x40)]
def quantState : State :=
  holding (station 6 6 [boxDesc 9 0 [64] [1] 1, { boxDesc 5 1024 [64] [1] 6 with scaleBase := 2048 }] []) [(3, 0x3F), (7, 0x40)]
def sumState : State := holding (station 6 7 [boxDesc 9 0 [4, 2] [1, 4] 1, boxDesc 9 64 [4] [1] 2] []) [(3, 0x3F), (19, 0x40)]
/-- A `SAMPLE` row of four logits with an output slot, and a `RECORD` of a slot. -/
def rowState : State :=
  holding (piped [pipeNode 7 1 0 0 0 1, pipeNode 10 1 0 1 0 0] [(0, 1)] [boxDesc 9 32768 [4] [1] 1] (block64 []) [] entry0) [(32771, 0x3F)]
def recordState : State :=
  holding (piped [pipeNode 0 1 0 0 0 1, pipeNode 8 2 0 1 1 1, pipeNode 10 1 1 1 0 0] [(0, 1), (1, 2)] [] (block64 []) [0] entry0) [(5, 9)]
/-- A `STORE`, a `MULTICAST` to its own member, and one in flight that has left the member out. -/
def storeState : State := holding (station 9 2 [bytesDesc 0 4 1, { bytesDesc 0 4 2 with space := 2 }] []) [(0, 9)]
def castState (full : List Nat) : State :=
  holding (piped [pipeNode 9 4 0 0 0 1, pipeNode 10 1 0 1 0 0] [(0, 1)] [bytesDesc 32768 4 1, { bytesDesc 0 4 2 with space := 3 }]
    (block64 [(0, 1)]) full entry0) [(32768, 9)]
def castOp : TileOp := { candOp (castState []) cand0 true with dropped := [0], awaiting := 1, lines := [] }
def refetchState : State := { castState [] with ops := [castOp], nextOp := 1 }
/-- Source bytes that stand in the slot of a raw `DECODE` node, and a picture of one band that it has started. -/
def decodeRoute : List Node := [pipeNode 0 1 0 0 0 1, pipeNode 1 6 0 1 1 1, pipeNode 10 1 1 1 0 0]
def intakeState : State := holding (piped decodeRoute [(0, 1), (1, 2)] [] (block64 []) [0] entry0) [(3, 9)]
def gray : Picture := { Picture.none with width := 16, height := 16, planes := [List.replicate 256 5] }
def job1 (c : Cand) (n : Nat) : DecodeJob := { collectJob c with node := n, pic := gray, bands := [⟨0, 0, 0, 16, 16⟩] }
def bandJob : DecodeJob := { job1 cand0 1 with works := [⟨gray, [⟨0, 0, 0, 16, 16⟩], none, none, []⟩], shown := some 0,
                                                plan := [⟨0, 0, [0], [0]⟩], left := [0] }
def bandState : State :=
  let s := piped decodeRoute [(0, 1), (1, 2)] [] (block64 []) [] entry0
  { s with decodes := [bandJob], jobs := s.jobs.map fun x => (x.1, { x.2 with nodes := [(1, { NodeSt.empty with works := [⟨0, 0, 1, 2, [], []⟩] })] }) }
/-- A `FRAME` entry, and the picture of one band in the slot of a `MOTION` node and of a `SHAPE` node. -/
def frame0 : Entry := { entry0 with opcode := 2 }
def bandBytes16 : List (Nat × Byte) := [(4096, 16), (4098, 16), (4136, 5)]
def pictureRoute (k op : Nat) : List Node := [pipeNode 0 2 0 0 0 1, pipeNode 1 6 0 1 1 1, pipeNode k op 1 1 2 1, pipeNode 10 1 2 1 0 0]
def fieldState : State := holding (piped (pictureRoute 2 1) [(0, 1), (1, 2), (2, 3)] [] (block64 []) [1] frame0) bandBytes16
def fieldNext' (d : DecodeJob) : State :=
  let s := { fieldState with decodes := [d] }
  { s with jobs := s.jobs.map fun x => (x.1, { x.2 with nodes := [(2, { NodeSt.empty with works := [⟨0, 0, 1, 2, [], [(2, 0)]⟩] })] }) }
def shapeBlock : List Byte := block64 [(4, 8), (6, 8)]
def shapeIn : State :=
  setRegs (holding (piped (pictureRoute 3 1) [(0, 1), (1, 2), (2, 3)] [] shapeBlock [1] frame0) bandBytes16) [(9, 8, 1)]
def shapeOut : State :=
  let s := { shapeIn with decodes := [{ job1 cand0 2 with whole := true }] }
  { s with jobs := s.jobs.map fun x => (x.1, { x.2 with nodes := [(2, { NodeSt.empty with works := [⟨0, 0, 0, 1, [], [(2, 0)]⟩] })] }) }
/-- A shaped record of 8 by 8 bytes in the slot of a `TOKENISE` node with patches of 8 and groups of `t`. -/
def tokenRoute (op : Nat) : List Node := [pipeNode 0 op 0 0 0 1, pipeNode 4 0x10 0 1 1 1, pipeNode 10 1 1 1 0 0]
def tokenState (op t : Nat) (full : List Nat := [0]) : State :=
  holding (piped (tokenRoute op) [(0, 1), (1, 2)] [] (block64 [(0, 8), (1, BitVec.ofNat 8 t)]) full { entry0 with opcode := op })
    [(8, 8), (10, 8), (32, 1), (36, 64), (64, 7)]
/-- The same with the pictures `rs` in the open group. -/
def grouped (s : State) (rs : List Nat) : State :=
  { s with jobs := s.jobs.map fun x => (x.1, { x.2 with nodes := sput x.2.nodes 1 { (sgetD x.2.nodes 1 NodeSt.empty) with group := rs } })
           entries := s.entries ++ rs.map (fun r => { frame0 with rank := r, slot := r, sinks := [0, 1] })
           decodes := rs.map fun r => { collectJob { cand0 with n := 1, rank := r } with
             pic := { Picture.none with planes := [((List.replicate 128 0).set 8 8 |>.set 10 8 |>.set 32 1 |>.set 36 64)] } } }
/-- An `END_STREAM` whose group holds one picture. -/
def endState : State :=
  let s := grouped (tokenState 2 2 []) [0]
  { s with entries := [{ frame0 with sinks := [0, 1] }, { entry0 with opcode := 3, rank := 1, slot := 1, st := .waiting, body := bareEntry }] }
/-- A token record in the slot of a `PACK` node. -/
def packState : State :=
  holding (piped [pipeNode 0 1 0 0 0 1, pipeNode 4 0x10 0 1 1 1, pipeNode 4 0x11 1 1 0 0 64] [(0, 1), (1, 2)] []
    (block64 [(0, 8), (1, 1)] ++ block64 [(0, 64), (2, 1), (4, 4), (12, 5), (14, 1), (0x19, 0x40)]) [1] { entry0 with sinks := [0, 1] })
    [(4096 + 0x3C, 1), (4096 + 0x49, 1), (4096 + 128, 7)]

/-- What the statements ask of a state in which station `k` of Pod 0 runs candidate `c` on entry `e`. -/
def runs (s : State) (k : Nat) (c : Cand) (e : Entry) : Bool :=
  invOk s && calmOk s && decide (candidates s 0 k = [c]) && decide (c.entry s = some e)

theorem wit_MemoryTileOps_ingest : runs ingesting 0 cand0 entry0 = true ∧ entry0.opcode = 1 ∧
    (sourcePieces ingesting cand0 entry0)[cand0.tile]? = some (4096, 64) ∧
    (contextFor ingesting cand0.p cand0.j cand0.n cand0.rank cand0.h).isSome = true ∧
    tokensFree ingesting 0 (readReqs 4096 64 0 0 0 0 0) = true := by decide +kernel
theorem wit_MemoryTileOps_feeds : runs { intakeState with mps := State.reset.mps, jobs := (piped decodeRoute [(0, 1), (1, 2)] [] [] [] entry0).jobs }
      0 { cand0 with outs := [] } entry0 = true ∧
    (edgeSlots (piped decodeRoute [(0, 1), (1, 2)] [] [] [] entry0) cand0 [0]).isSome = true ∧
    ownOutputs (cand0.route (piped decodeRoute [(0, 1), (1, 2)] [] [] [] entry0)) (cand0.node intakeState) = true := by decide +kernel
theorem wit_MemoryTileOps_none : runs (working1 (someNode 0 4) []) 0 cand0 entry0 = false ∧
    runs { ingesting with entries := [{ entry0 with body := bareEntry }] } 0 cand0 { entry0 with body := bareEntry } = true ∧
    (sourcePieces ingesting cand0 { entry0 with body := bareEntry })[cand0.tile]? = none := by decide +kernel
theorem wit_MemoryTileOps_store : runs storeState 9 cand0 entry0 = true ∧ refetch storeState 0 = none ∧ (cand0.node storeState).opcode = 2 ∧
    (contextFor storeState cand0.p cand0.j cand0.n cand0.rank cand0.h).isSome = true ∧ storeState.ops = [] ∧
    storeState.mem.reqs = [] ∧ storeState.mem.held = [] := by decide +kernel
theorem wit_MemoryTileOps_cast : runs (castState []) 9 cand0 entry0 = true ∧ refetch (castState []) 0 = none ∧
    (cand0.node (castState [])).opcode = 4 ∧ castSlots (castState []) cand0 = [(0, 0)] ∧ castLeft (castState []) cand0 = [] ∧
    castLeft (castState [0]) cand0 = [0] := by decide +kernel
theorem wit_MemoryTileOps_refetch : invOk refetchState = true ∧ calmOk refetchState = true ∧ podIssues refetchState 0 = true ∧
    refetchState.ops = [castOp] ∧ castOp.job = (podAt refetchState 0).job ∧ castOp.kind = 9 ∧ castOp.pod ≠ 127 ∧
    opAt refetchState castOp.id = some castOp ∧ (podAt refetchState 0).member ∈ castOp.dropped ∧
    slotEmpty refetchState 0 0 0 0 = true ∧ fedEdge refetchState 0 0 0 = false := by decide +kernel
theorem wit_ResultsProvisional_layout : runs copyState 4 cand0 entry0 = true ∧ enabled copyState 0x00A = true ∧
    (cand0.node copyState).opcode = 1 ∧ transposeDims (cand0.block copyState) (bytesDesc 0 4 1) (bytesDesc 64 4 2) = none ∧
    runs turnState 4 cand0 entry0 = true ∧
    transposeDims (cand0.block turnState) (boxDesc 1 0 [64, 64] [1, 64] 3) (boxDesc 1 0 [64, 64] [1, 64] 3) = some (0, 1) ∧
    runs gatherState 4 cand0 entry0 = true ∧ (cand0.node gatherState).opcode = 2 ∧ runs (scatterState 0) 4 cand0 entry0 = true ∧
    runs (scatterState 1) 4 cand0 entry0 = true ∧ (cand0.node (scatterState 1)).opcode = 3 := by decide +kernel
theorem wit_ResultsProvisional_matrix : runs matrixState 5 cand0 entry0 = true ∧
    (let q := matPos (cand0.route matrixState) (cand0.node matrixState) (matSteps (cand0.route matrixState) (cand0.node matrixState)) 0
     memberPod matrixState 0 (groupMember (cand0.node matrixState) 0 q.num 1) = some 0 ∧ q.first = 0 ∧
     groupOpens matrixState cand0 q 0 (accBase (cand0.route matrixState) 0) = true) ∧
    accOut (cand0.route matrixState) (cand0.node matrixState) = false ∧ runs (accState []) 5 cand0 entry0 = true ∧
    accOut (cand0.route (accState [])) (cand0.node (accState [])) = true ∧
    (let q := matPos (cand0.route (accState [])) (cand0.node (accState [])) 1 0
     groupOpens (accState []) cand0 q 0 (accBase (cand0.route (accState [])) 0) = true) := by decide +kernel
theorem wit_ResultsProvisional_vector : runs mapState 6 cand0 entry0 = true ∧ (cand0.node mapState).opcode = 1 ∧
    accIn (cand0.route mapState) (cand0.node mapState) = false ∧ runs (accState [0]) 6 { cand0 with n := 1 } entry0 = true ∧
    accIn (({ cand0 with n := 1 } : Cand).route (accState [0])) (({ cand0 with n := 1 } : Cand).node (accState [0])) = true ∧
    fullSlot (accState [0]) 0 0 0 0 0 = some 0 ∧ runs (lineState 2) 6 cand0 entry0 = true ∧
    (let pl := vecPlan (cand0.route (lineState 2)) (cand0.node (lineState 2))
     lineKeeps (lineState 2) cand0 (lineSpan (pl.ins.getD 0 pl.out) pl.axis 0) = true) ∧
    runs (lineState 5000) 6 cand0 entry0 = true ∧
    (let pl := vecPlan (cand0.route (lineState 5000)) (cand0.node (lineState 5000))
     let k := lineSpan (pl.ins.getD 0 pl.out) pl.axis 0
     k.goesOn = true ∧ lineKeeps (lineState 5000) cand0 k = true) ∧
    runs quantState 6 cand0 entry0 = true ∧ (cand0.node quantState).opcode = 6 ∧ runs sumState 6 cand0 entry0 = true ∧
    (cand0.node sumState).opcode = 7 := by decide +kernel
theorem wit_ResultsProvisional_rows : runs rowState 7 { cand0 with outs := [(0, 0)] } entry0 = true ∧ runs moving 9 cand0 entry0 = true ∧
    refetch moving 0 = none ∧ (cand0.node moving).opcode = 3 := by decide +kernel
theorem wit_FurlongSums_record : runs recordState 8 { cand0 with n := 1, ins := [(0, 0)], outs := [(1, 0)] } entry0 = true ∧
    furlongCands recordState 0 = [] ∧ (({ cand0 with n := 1 } : Cand).node recordState).opcode = 2 ∧
    inEdges (({ cand0 with n := 1 } : Cand).node recordState) = [0] := by decide +kernel
/-- The candidates of the pipelines. -/
def cand1 : Cand := { cand0 with n := 1 }
def cand2 : Cand := { cand0 with n := 2, outs := [(2, 0)] }
theorem wit_StationsIssueFirst_intake : runs intakeState 1 cand1 entry0 = true ∧ (podAt intakeState 0).member = 0 ∧
    pictureAt intakeState cand1 = none ∧ enabled intakeState 8 = true ∧ entry0.srcPoison = false ∧
    (liveIns intakeState 0 0 1 (cand1.node intakeState)).head? = some 0 ∧ sourceEdge (cand1.route intakeState) 0 = true ∧
    fullSlot intakeState 0 0 0 0 0 = some 0 ∧ mpOwned intakeState (fullId intakeState 0 0 0 0) = true ∧
    (mpAt intakeState (emptyId intakeState 0 0 0 0)).value = false := by decide +kernel
theorem wit_StationsIssueFirst_band :
    let c : Cand := { cand1 with tile := 1, fresh := false }
    runs bandState 1 c entry0 = true ∧ pictureAt bandState c = some bandJob ∧ bandJob.works ≠ [] ∧
    bandJob.left.find? (fun i => (bandJob.plan[i]?).any fun x => x.part % 1 = 0) = some 0 ∧
    planReady bandState c bandJob ⟨0, 0, [0], [0]⟩ = true ∧ bandJob.poisoned = false ∧ (bandSlots bandState c 1).isSome = true := by
  decide +kernel
theorem wit_StationsIssueFirst_motion : runs fieldState 2 cand2 frame0 = true ∧ pictureAt fieldState cand2 = none ∧
    (collectJob cand2).bands = [] ∧ fieldsBefore fieldState cand2 frame0 = true ∧
    (takeBand fieldState cand2 (collectJob cand2)).isSome = true ∧
    ((takeBand fieldState cand2 (collectJob cand2)).any fun r => !needsMref fieldState frame0 r.2.1.pic) = true := by decide +kernel
/-- A field of which an operation is to be run again, and one of which the next is due. -/
def againJob : DecodeJob := { bandJob with node := 2, works := [] }
def nextJob : DecodeJob := { job1 cand0 2 with plan := [⟨0, 0, [0], []⟩], bands := [⟨0, 0, 0, 16, 16⟩, ⟨0, 0, 16, 16, 16⟩] }
theorem wit_StationsIssueFirst_field :
    let c : Cand := { cand2 with tile := 1, fresh := false }
    runs (fieldNext' againJob) 2 c frame0 = true ∧ pictureAt (fieldNext' againJob) c = some againJob ∧ againJob.left.head? = some 0 ∧
    runs (fieldNext' nextJob) 2 c frame0 = true ∧ nextJob.left = [] ∧
    nextJob.plan.length < (nextJob.bands.map (bandTiles (c.block (fieldNext' nextJob)) frame0)).sum ∧
    nextJob.plan.getLast? = some ⟨0, 0, [0], []⟩ := by decide +kernel
theorem wit_StationsIssueFirst_shape : runs shapeIn 3 cand2 frame0 = true ∧ enabled shapeIn 9 = true ∧
    (collectJob cand2).whole = false ∧
    ((takeBand shapeIn cand2 (collectJob cand2)).any fun r => match resolveShape shapeIn cand2 frame0 r.2.1.pic with
      | .ok _ => true
      | .error _ => false) = true ∧
    ((takeBand shapeIn cand2 (collectJob cand2)).any fun r => mpOwned shapeIn (fullId shapeIn 0 0 1 r.2.2) &&
      !(mpAt shapeIn (emptyId shapeIn 0 0 1 r.2.2)).value) = true := by decide +kernel
theorem wit_StationsIssueFirst_pixels :
    let c : Cand := { cand2 with fresh := false }
    runs shapeOut 3 c frame0 = true ∧ (pictureAt shapeOut c).any (·.whole) = true ∧
    (match resolveShape shapeOut c frame0 gray with
      | .ok r => decide ((shapeCuts gray r.1 false)[0]? = some (0, 64))
      | .error _ => false) = true := by decide +kernel
/-- The candidate of a `TOKENISE` node. -/
def candT : Cand := { cand1 with ins := [(0, 0)] }
theorem wit_StationsIssueFirst_tokens : runs (tokenState 1 2) 4 candT entry0 = true ∧
    sortBy (candidates (tokenState 1 2) 0 4 ++ endCands (tokenState 1 2) 0) candBefore = [candT] ∧
    earlierOpen (tokenState 1 2) candT entry0 = false ∧ enabled (tokenState 1 2) 0x00A = true ∧
    (candT.node (tokenState 1 2)).isTokenise = true ∧ (nextSlots (tokenState 1 2) candT).isSome = true ∧
    runs (tokenState 2 2) 4 candT frame0 = true ∧ groupOf (tokenState 2 2) candT 0 = [] ∧
    runs (tokenState 2 1) 4 candT frame0 = true := by decide +kernel
theorem wit_StationsIssueFirst_end :
    let c : Cand := { cand1 with rank := 1 }
    invOk endState = true ∧ calmOk endState = true ∧ sortBy (candidates endState 0 4 ++ endCands endState 0) candBefore = [c] ∧
    (c.entry endState).map (·.opcode) = some 3 ∧ groupOf endState c 0 = [0] ∧ (entryRank endState 0 0).isSome = true ∧
    (nextSlots endState c).isSome = true := by decide +kernel
/-- The candidate of a `PACK` node. -/
def candP : Cand := { cand0 with n := 2, ins := [(1, 0)] }
theorem wit_StationsIssueFirst_pack : invOk packState = true ∧ calmOk packState = true ∧ packCands packState 0 = [candP] ∧
    candP.entry packState = some { entry0 with sinks := [0, 1] } ∧ enabled packState 0x00A = true ∧
    packMay packState candP { entry0 with sinks := [0, 1] } = true ∧ fieldLe (packSource packState candP).2.1 0x3C 4 = 1 ∧
    fieldLe (candP.block packState) 0 2 = 64 ∧ (unitPlace packState 0 (candP.block packState) 1).2.2 = false := by decide +kernel

/-! ## Verdicts and memory -/

/-- An operation in flight of node 0. -/
def op0 : TileOp := { candOp moving cand0 true with lines := [1] }
/-- `moving` with it in flight. -/
def flying : State := { moving with ops := [op0], nextOp := 1, marrow := { moving.marrow with prov := [1] } }
theorem wit_Verdicts : invOk flying = true ∧ opAt flying 0 = some op0 ∧ op0.pod = 0 ∧ opHeld flying op0 = false ∧
    (podAt flying 0).st ≠ .suspect ∧ op0.dropped = [] ∧ ¬ (op0.kind = 8 ∧ op0.opcode = 1) ∧ (podAt flying 0).st = .bound ∧
    flying.itg.groups = [] ∧ flying.itg.rollPhase ≠ 3 ∧
    (∀ q ∈ jobPods flying (podAt flying 0).job, (podAt flying q).st = .bound) := by decide +kernel
/-- An operation that hands a slot over and lets one go, and one outside its tolerance. -/
def handOp : TileOp := { candOp recordState { cand1 with ins := [(0, 0)], outs := [(1, 0)] } true with lines := [1] }
def handing : State := { recordState with ops := [handOp], nextOp := 1 }
theorem wit_Verdicts_slots : invOk handing = true ∧ opAt handing 0 = some handOp ∧ opHeld handing handOp = false ∧
    opAlive handing handOp = true ∧ recordFailed handing handOp = false ∧ handing.mps.waiters = [] ∧ noReset handing 13 ∧
    (edgeOf handing 0 1).sync ≠ 1 ∧ mpOwned handing (fullId handing 0 0 1 0) = true ∧ fullId handing 0 0 0 0 ≠ fullId handing 0 0 1 0 ∧
    emptyId handing 0 0 0 0 ≠ fullId handing 0 0 1 0 ∧ mpOwned handing (emptyId handing 0 0 0 0) = true ∧
    fullId handing 0 0 0 0 ≠ emptyId handing 0 0 0 0 := by
  unfold noReset; decide +kernel
/-- A multicast that has left a receiver out, and a Pod that no longer serves. -/
def castFly : State := { castState [0] with ops := [{ castOp with awaiting := 0 }], nextOp := 1 }
def unserved (s : State) : State := { s with pods := s.pods.set 0 { (podAt s 0) with st := .suspect } }
theorem wit_Verdicts_others : invOk castFly = true ∧ opAt castFly 0 = some { castOp with awaiting := 0 } ∧
    opHeld castFly { castOp with awaiting := 0 } = false ∧ opAlive castFly { castOp with awaiting := 0 } = true ∧
    castOp.dropped ≠ [] ∧ castOp.failing = none ∧ invOk (unserved flying) = true ∧ opHeld (unserved flying) op0 = false ∧
    (podAt (unserved flying) 0).st = .suspect ∧
    verdictSource (judged { op0 with failing := some 3 } .pass) = some (5, 3) ∧
    verdictSource (judged op0 (.parity 9)) = some (4, 9) ∧ (podAt flying 0).st ≠ .test ∧ flying.blk.st ≠ .cold ∧
    noReset flying 4 := by
  unfold noReset; decide +kernel
/-- The last `FURLONG` operation of a digest, of a job alone and of one in a group. -/
def posting (g : Byte) (others : List (Nat × Nat)) : State :=
  let s : State := { digesting with
    jobs := digesting.jobs.map fun x => (x.1, { x.2 with route := { x.2.route with params := g :: x.2.route.params.drop 1 } })
    itg := { digesting.itg with groups := [(0, { Group.empty with members := [0, 1], pending := others })] } }
  { s with ops := [candOp s candF true], nextOp := 1 }
theorem wit_Verdicts_digest :
    let o := candOp digesting candF true
    invOk (posting 0 [(1, 5)]) = true ∧ opAt (posting 0 []) 0 = some o ∧ opHeld (posting 0 []) o = false ∧ o.kind = 8 ∧ o.opcode = 1 ∧
    opAlive (posting 0 []) o = true ∧ o.dropped = [] ∧ postsNext (posting 0 []) o = true ∧ postsNext (posting 255 []) o = true ∧
    nodeParam (job (posting 255 []) 0).route 0 0 1 = 255 ∧ groupReady (groupAt (posting 0 []) 0) = false ∧
    groupReady (groupAt (posting 0 [(1, 5)]) 0) = false ∧ nins (groupAt (posting 0 []) 0).members 0 = [0, 1] ∧
    judge [(1, 5), (0, 0)] = (3, [1, 0]) := by decide +kernel
theorem wit_ScrubCorrects : invOk ready = true ∧ (podAt ready 0).gated = false ∧ (podAt ready 0).st ≠ .off ∧ ready.itg.rollPhase ≠ 3 ∧
    ({ ready.marrow with ecc := [(0, 3)] } : Marrow).wordErr (lkey 0 0) 0 = 2 ∧ ready.marrow.wordErr (lkey 0 0) 7 ≤ 1 := by decide +kernel
/-- A comparison that waits, and a multicast that has left a receiver out. -/
def late : State := { flying with
  itg := { flying.itg with groups := [(0, { Group.empty with pending := [(0, 1)], members := [0, 1] })] }
  ops := [{ op0 with opcode := 4, awaiting := 1, dropped := [1] }] }
theorem wit_LateTimers : invOk late = true ∧ working late = true ∧ rgf late 0 0x700 15 8 ≠ 0 ∧ (groupAt late 0).pending ≠ [] ∧
    (groupAt late 0).late = false ∧ opAt late 0 = some { op0 with opcode := 4, awaiting := 1, dropped := [1] } ∧ op0.kind = 9 := by
  decide +kernel

/-- A read of two lines with tag 5 on port 0, and a commit write. -/
def read5 : MemReq := { readReq 0 128 0 0 0 (.transfer 0 0 0 0) with tag := 5 }
def commit5 : MemReq := { writeReq 0 (leBytes 64 0) 0 1 0 0 (.commit 0 true) with tag := 5 }
/-- `busy` while the read is open, and while a save waits for its commit. -/
def reading : State := { busy with mem := { busy.mem with reqs := [read5] } }
def saving : State := { busy with
  jobs := [(0, { (job busy 0) with st := .saving, phase := 3 })], mem := { busy.mem with reqs := [commit5] } }
theorem wit_MemoryAnswers : reqAt reading 0 5 = some read5 ∧ read5.write = false ∧ read5.beats + 1 < read5.lines ∧
    reqAt saving 0 5 = some commit5 ∧ commit5.write = true ∧ commit5.purpose = .commit 0 true ∧ commit5.also = [] ∧
    (job saving 0).st = .saving ∧ saving.mem.held = [] ∧ saving.mem.retry = [] ∧ commit5.worst = 0 := by decide +kernel
theorem wit_MemoryAnswers_slot : State.reset.blk.st = .cold ∧ reqAt State.reset 0 5 = none ∧ working busy = true ∧
    (sqAt busy 0).st = .active ∧ (sqAt busy 0).scan = true ∧ (sqAt busy 0).rescan = false ∧
    (0 : BitVec 512).getLsbD 8 ≠ (sqAt busy 0).phase := by decide +kernel
/-- `busy` with one operation of a transfer in flight that waits for `r`. -/
def awaiting (r : MemReq) (n : Nat) : State := { busy with
  entries := [entry0], ops := [{ candOp busy cand0 true with kind := 9, opcode := 1, awaiting := n, xfer := some 0, sent := [r] }], nextOp := 1
  streams := [(0, stream0)], mem := { busy.mem with reqs := [r], xfers := [⟨0, 1, 0, 0, 0, 0, 0, 0, false, none⟩] } }
/-- The last beat of a read, a write of the same operation, and writes and reads for other users. -/
def read1 : MemReq := { readReq 4096 64 0 0 0 (.transfer 0 0 0 0) with tag := 5 }
def write1 (p : Purpose) : MemReq := { writeReq 4096 (leBytes 64 7) 0 1 0 0 p with tag := 5 }
def param1 : MemReq := { readReq 4096 64 0 0 0 (.param 0 1 2) with tag := 5 }
theorem wit_MemoryAnswers_data : reqAt (awaiting read1 2) 0 5 = none ∧ reqAt (awaiting read1 2) 1 5 = some read1 ∧ read1.lines ≤ read1.beats + 1 ∧
    read1.also = [] ∧ read1.worst = 0 ∧ portsQuiet (awaiting read1 2) ∧ transferOf read1 = some (0, 0) ∧ read1.write = false ∧
    (opAt (awaiting read1 2) 0).map (·.awaiting) = some 2 ∧ (xferNum (awaiting read1 2) 0).map (·.faulted) = some false := by
  refine ⟨?_, ?_, ?_, ?_, ?_, ⟨?_, ?_, ?_⟩, ?_, ?_, ?_, ?_⟩ <;> decide +kernel
theorem wit_MemoryAnswers_fault : (opAt (awaiting read1 1) 0).map (opAlive (awaiting read1 1)) = some true ∧
    (awaiting read1 1).mem.reqs = [read1] ∧ (xferNum (awaiting read1 1) 0).map (·.state) = some 1 ∧ entryRank (awaiting read1 1) 0 0 = some entry0 ∧
    noReset busy 11 ∧ noReset busy 9 ∧ noReset busy 10 := by
  refine ⟨?_, ?_, ?_, ?_, ⟨?_, ?_⟩, ⟨?_, ?_⟩, ⟨?_, ?_⟩⟩ <;> decide +kernel
theorem wit_MemoryAnswers_writes : plainWrite (write1 (.completion 0 0 0 none)) = true ∧ repeated (write1 (.message 0)) = true ∧
    (write1 (.message 0)).again = false ∧ endsJob (awaiting (write1 (.transfer 0 0 0 0)) 1) (write1 (.transfer 0 0 0 0)) = some 0 ∧
    endsJob saving commit5 = some 0 ∧ endsJob busy (write1 (.directory 0)) = some 0 ∧ paramOf param1 = some (0, 6) ∧
    reqAt (awaiting param1 1) 1 5 = some param1 ∧ saving.blk.st ≠ .halted := by decide +kernel
theorem wit_MemoryTimers : saving.blk.st ≠ .cold ∧ reqAt saving 0 5 = some commit5 ∧ (job saving 0).st = .saving ∧
    ∃ r ∈ ({ busy.mem with held := [{ commit5 with tag := tagMerge }] } : Mem).held, r.tag = tagMerge ∧ r.pod = 0 := by decide +kernel
/-- `busy` with a faulted write kept, and a transfer paused. -/
def kept : State := { busy with mem := { busy.mem with
  retry := [{ commit5 with purpose := .completion 0 0 0 none, again := true }], xfers := [⟨1, 2, 0, 0, 0, 0, 0, 4096, true, none⟩] } }
theorem wit_FaultRecovery_retry : invOk kept = true ∧ portOpen kept = true ∧ portLive kept = true ∧
    repeats kept { commit5 with purpose := .completion 0 0 0 none, again := true } = true := by decide +kernel
theorem wit_FaultRecovery_resume : xferNum kept 1 = some ⟨1, 2, 0, 0, 0, 0, 0, 4096, true, none⟩ ∧ 1 % 32 ≠ 31 ∧
    faultPosting kept 1 = false ∧ some 0 ≠ packNode (job kept 0).route ∧ xferNum kept 4095 = none ∧
    faultPosting { kept with cqs := [(0, { Cq.empty with on := true, due := [{ due0 with status := stFault, xfer := some 1 }] })] } 1 = true := by
  decide +kernel
/-- A job whose node 0 packs, ring 0 CONCEAL, and a batch that asked class 0 for its buffer. -/
def batch0 : Batch := { Batch.fresh 0 with phase := .asked, units := [⟨[0], 0, 0, 0, 0, []⟩] }
/-- `busy` with that batch in phase `p`. -/
def packed (p : BatchPhase) : State :=
  setRegs { bound (someRoute [{ someNode 4 0x11 with paramSize := 0x40 }]) with
    jobs := [(0, { (job (bound (someRoute [])) 0) with
      route := { someRoute [{ someNode 4 0x11 with paramSize := 0x40 }] with params := List.replicate 28 0 ++ leBytes 36 5 } })]
    sqs := [(0, { Sq.opened with asm := { Sq.empty.asm with
      closed := [{ batch0 with phase := p }], openB := { Batch.fresh 1 with units := [⟨[1], 0, 0, 0, 0, []⟩] } } })]
    mem := { busy.mem with poolAsk := [(0, .batch 0)] } } [(0x100, 0x404, 0x26), (3, 0x400, 0x101), (3, 0x408, 0x1)]
theorem wit_PoolAnswers : (packed .asked).mem.poolAsk = (0, .batch 0) :: [] ∧ (packed .asked).blk.st ≠ .cold ∧
    bitN (rg (packed .asked) 1 (0x400 + 4 * 12)) 18 = false ∧ bitN (rg (packed .asked) 1 (0x400 + 4 * 12)) 26 = false ∧
    (packed .asked).mem.poolLate = [] ∧ poolAccepts (packed .asked) 0 0 = true ∧
    ((sqAt (packed .asked) 0).asm.closed.find? fun b => b.phase = .asked) = some batch0 ∧ poolAccepts (packed .asked) 0 1 = false := by
  decide +kernel
theorem wit_PoolAnswers_others : ({ (packed .asked) with mem := { busy.mem with poolAsk := [(0, .motion 3)] } } : State).mem.poolAsk = (0, .motion 3) :: [] ∧
    ({ (packed .asked) with mem := { busy.mem with poolAsk := [(0, .picture 3)], poolLate := [0] } } : State).mem.poolLate = 0 :: [] := by decide +kernel
theorem wit_BatchesLeave_flush : working (packed .asked) = true ∧ (jobPack (packed .asked) (sqJob (packed .asked) 0)).isSome = true ∧
    sqConceal (packed .asked) 0 = true ∧
    fieldLe (nodeBlock (job (packed .asked) 0).route (someNode 4 0x11 |> fun x => { x with paramSize := 0x40 })) 0x1C 4 ≠ 0 ∧
    (sqAt (packed .asked) 0).st = .active ∧ Machine.copying (packed .asked) 0 = false ∧ (sqAt (packed .asked) 0).asm.openB.units ≠ [] := by
  decide +kernel
theorem wit_BatchesLeave_emit : invOk (packed .written) = true ∧ (sqAt (packed .written) 0).asm.closed.head? = some { batch0 with phase := .written } ∧
    (sqAt (packed .dirWait) 0).asm.closed.head? = some { batch0 with phase := .dirWait } ∧ noRead.kind = .okay ∧
    fieldLe noRead.bytes 0 1 % 2 = 0 ∧ (⟨.okay, [1], 0⟩ : HostRead).wf = true ∧ fieldLe [1] 0 1 % 2 = 1 ∧
    packing (packed .haveBuf) 0 = false ∧ podIssues (packed .haveBuf) (packPod (packed .haveBuf) (sqJob (packed .haveBuf) 0) 0) = true ∧
    moveAt (packed .haveBuf) (packed .haveBuf).nextOp = none ∧ portsQuiet (packed .haveBuf) := by
  refine ⟨?_, ?_, ?_, ?_, ?_, ?_, ?_, ?_, ?_, ?_, ⟨?_, ?_, ?_⟩⟩ <;> decide +kernel

/-! ## Mileposts, Tollgates and the Causeway -/

theorem wit_MilepostOperations : invOk busy = true ∧ portLive busy = true ∧ mpOwned busy 15 = true ∧ (mpAt busy 15).value = false ∧
    busy.mps.waiters = [] ∧ (mpAt mpSet15 15).value = true ∧ mpOwned mpSet15 15 = true ∧
    ({ mpAt mpSet15 15 with misSet := 0, misClr := 0, misTake := 0 } : MpRec) ≠ MpRec.empty ∧ mpOwned busy 16 = false ∧
    enabled busy 0x580 = true ∧ busy.mps.dumpState ≠ 1 ∧
    ({ busy.mps with dumpState := 1 } : MpBank).dumpState = 1 := by decide +kernel
/-- Waits and a `TAKE` on Milepost 15. -/
def waited : State := { busy with
  mps := { busy.mps with waiters := [⟨15, false, .ring 0 0, 0⟩, ⟨15, true, .ring 0 1, 1⟩] }
  entries := [{ entry0 with opcode := 6, st := .waiting }, { entry0 with slot := 1, rank := 1, opcode := 6, st := .waiting }] }
theorem wit_MilepostOperations_waits : invOk waited = true ∧ portLive waited = true ∧ mpOwned waited 15 = true ∧
    (mpAt waited 15).value = false ∧ (∀ w ∈ waited.mps.waiters, attached waited w = true) ∧
    (entryAt waited 0 0).isSome = true := by decide +kernel
/-- `busy` with its gate broken. -/
def broken : State := { busy with gates := [(0, { (gateAt busy 0) with broken := true })] }
/-- `busy` with every participant of gate 0 arrived. -/
def arrived : State := { busy with
  gates := [(0, { (gateAt busy 0) with members := [0], externals := [0], extNext := some 3 })] }
theorem wit_Tollgates : invOk busy = true ∧ portLive busy = true ∧ (gateAt busy 255).assigned = false ∧ (gateAt busy 0).assigned = true ∧
    (gateAt busy 0).ext.getLsbD 0 = true ∧ (gateAt busy 0).externals.contains 0 = false ∧ (gateAt broken 0).broken = true ∧
    (job broken (gateAt broken 0).job).st = .bound ∧ (gateAt busy 0).broken = false ∧ (511 : Word).toNat < 512 ∧ 512 ≤ (512 : Word).toNat ∧
    gateArrived (gateAt busy 0) = 0 ∧ gateArrived (gateAt arrived 0) ≠ 0 := by decide +kernel
theorem wit_Tollgates_again : (gateAt arrived 0).assigned = true ∧ (gateAt arrived 0).ext.getLsbD 0 = true ∧
    (gateAt arrived 0).externals.contains 0 = true := by decide +kernel
theorem wit_Tollgates_release : let a := gateAt (arrivals arrived (gateAt arrived 0).job) 0
    invOk arrived = true ∧ portLive arrived = true ∧ a.assigned = true ∧ a.broken = false ∧ gateArrived a = gateExpect a ∧
    0 < gateExpect a ∧ a.job = (gateAt arrived 0).job := by decide +kernel

/-- A route with one edge of one slot of 64 lines. -/
def edgeRoute : Route :=
  { someRoute [{ someNode 0 4 with outCount := 1 }, { someNode 10 1 with inCount := 1 }] with
    edges := [⟨0, 1, 0, 1, 1, 0, 0, 0⟩], edgeCount := 1 }
/-- A half of member 0 on that edge. -/
def half0 : Half := { Half.empty with st := .active, depth := 1, lines := 64 }
/-- A job on that route, port 0 up, half `h` of channel 0 and half `f` feeding. -/
def linked (h f : Half) : State :=
  setRegs { bound edgeRoute with cwy := [(0, { CPort.empty with st := 1, halves := [(0, h), (4, f)] })] }
    [(0x00D, 0x400, 5), (0x00D, 0x480, 1), (0x00D, 0x488, 0x10000)]
/-- The same with no half bound. -/
def unlinked (st : Nat) : State := { linked half0 half0 with cwy := [(0, { CPort.empty with st := st })] }

theorem wit_PortsAndHalves : invOk (unlinked 1) = true ∧ cwyLive (unlinked 1) = true ∧ (halfAt (unlinked 1) 0 0).st = .unbound ∧
    halfCheck (storeReg (unlinked 1) (cwyPage 0) 0x400 1) 0 0 = none ∧
    (halfCheck (storeReg (unlinked 1) (cwyPage 0) 0x400 0x8001) 0 0).isSome = true ∧ (portAt (unlinked 2) 0).st = 2 ∧
    (portAt (unlinked 1) 0).st ≠ 2 ∧ (halfAt (linked { half0 with st := .faulted } half0) 0 0).st = .faulted ∧
    (halfAt (unlinked 1) 0 0).st ≠ .faulted ∧ enabled (unlinked 1) 0x00C = true ∧ (portAt (unlinked 0) 0).st = 0 ∧
    (portAt (unlinked 1) 0).st = 1 := by decide +kernel
/-- The half of channel 0 feeds with slot 0 lent. -/
def fedLent : State := linked half0 { half0 with credits := [0], peer := false }
theorem wit_FedFlits : invOk fedLent = true ∧ cwyLive fedLent = true ∧ memMode fedLent 0 4 = false ∧ (halfAt fedLent 0 4).st = .active ∧
    (halfAt fedLent 0 4).credits.contains 0 = true ∧ 60 + 4 ≤ (halfAt fedLent 0 4).lines ∧ fedLent.mps.waiters = [] ∧
    (halfAt fedLent 0 4).peer = false ∧ (halfAt fedLent 0 4).depth = 1 ∧ (halfAt fedLent 0 4).lines = 64 := by decide +kernel
/-- The same half in memory mode with its aperture at 64 KiB and lines `l` in its buffer. -/
def memFed (l : List ApLine) : State :=
  setRegs { linked half0 { half0 with credits := [0], peer := true, buffer := l } with gates := [(0, { (gateAt busy 0) with ext := 2 })] }
    [(cwyPage 0, 0x480, 3), (cwyPage 0, 0x488, 2), (cwyPage 0, 0x490, 65536)]
theorem wit_FedFlits_memory : invOk (memFed []) = true ∧ cwyLive (memFed []) = true ∧ memMode (memFed []) 0 4 = true ∧
    (halfAt (memFed []) 0 4).st = .active ∧ (halfAt (memFed []) 0 4).credits.contains 0 = true ∧ (halfAt (memFed []) 0 4).buffer = [] ∧
    (halfAt (memFed []) 0 4).bufSets = [] ∧ (memFed []).mem.reqs ++ (memFed []).mem.held = [] ∧
    mpOwned (memFed []) (halfMp (memFed []) 0 4 0 false) = true ∧ (memFed []).mps.waiters = [] ∧
    (halfAt (memFed [⟨0, 3, List.replicate 64 7, true, false, false⟩]) 0 4).buffer ≠ [] := by decide +kernel
/-- Port 0 is a participant of gate 0. -/
def portGate : State := { linked { half0 with credits := [0], sets := [0] } half0 with
  gates := [(0, { (gateAt busy 0) with ext := 2 })] }
theorem wit_OtherFlits : invOk portGate = true ∧ cwyLive portGate = true ∧ (halfAt portGate 0 4).st = .active ∧
    (halfAt portGate 0 4).buffer = [] ∧ (gateAt portGate 0).assigned = true ∧ (gateAt portGate 0).ext.getLsbD 1 = true ∧
    (gateAt portGate 0).externals.contains 1 = false ∧ (halfAt fedLent 0 0).st = .active ∧ 0 < (halfAt fedLent 0 0).depth ∧
    (halfAt fedLent 0 0).credits.contains 0 = false ∧ (halfAt portGate 0 0).job < 256 ∧ (job portGate 0).st = .bound ∧
    (halfAt portGate 0 0).credits.contains 0 = true ∧ (halfAt portGate 0 0).sets.contains 0 = true ∧ flitIllegal 0 = true ∧
    bits 0 3 0 = 0 ∧ bits 1 3 0 = 1 ∧ (halfAt portGate 0 0).depth ≤ 63 ∧ (halfAt fedLent 0 0).sets.contains 0 = false ∧
    (gateAt (memFed []) 0).assigned = true ∧ (gateAt (memFed []) 0).ext.getLsbD 1 = true := by decide +kernel
/-- Slot 0 is full. -/
def fullSlot0 : State := { portGate with mps := { portGate.mps with recs := [(0, { MpRec.empty with value := true })] } }
theorem wit_Couriers_send : invOk fullSlot0 = true ∧ cwyLive fullSlot0 = true ∧ fullSlot0.marrow.ecc = [] ∧ (halfAt fullSlot0 0 0).st = .active ∧
    courierSlot fullSlot0 (halfAt fullSlot0 0 0) = some 0 ∧ (halfAt fullSlot0 0 0).sent.contains (0, 63) = false := by decide +kernel
/-- Line 63 of slot 0 is written and provisional. -/
def eagerLine : State := { linked { half0 with credits := [0], wrote := [(0, 63)] } half0 with marrow := { portGate.marrow with prov := [63] } }
theorem wit_Couriers_forward : bitN (halfReg eagerLine 0 0 0) 2 = true ∧ (halfAt eagerLine 0 0).st = .active ∧
    courierLine (halfAt eagerLine 0 0) = some (0, 63) ∧ invOk eagerLine = true ∧ cwyLive eagerLine = true ∧ eagerLine.marrow.ecc = [] := by decide +kernel
/-- The peer of the feeding half has bound. -/
def fedOpen : State := linked half0 { half0 with peer := true }
/-- The fresh mark of slot 0 is gone. -/
def fedFull : State := { fedOpen with jobs := [(0, { (job fedOpen 0) with edges := [(0, ⟨[], [], 0, 0, []⟩)] })] }
theorem wit_Couriers_fed : invOk fedOpen = true ∧ (halfAt fedOpen 0 4).peer = true ∧ (halfAt fedOpen 0 4).waiting = false ∧
    memMode fedOpen 0 4 = false ∧ slotEmpty fedOpen 0 0 0 0 = true ∧ slotEmpty fedFull 0 0 0 0 = false ∧
    (halfAt (linked half0 { half0 with waiting := true }) 0 4).waiting = true ∧
    bits (halfReg (linked half0 { half0 with waiting := true }) 0 4 8) 31 16 ≠ 0 := by decide +kernel

/-! ## Integrity -/

/-- `busy` with Pod 0 suspect, and the block draining for it. -/
def suspects : State := { busy with blk := { busy.blk with st := .draining }, pods := busy.pods.set 0 { (podAt busy 0) with st := .suspect, cause := 1 } }
/-- `busy` with Pod 0 as `q`. -/
def podIs (q : Pod) : State := { busy with pods := busy.pods.set 0 q }
theorem wit_PodTestsAndMapOuts : invOk suspects = true ∧ suspects.blk.st = .draining ∧ suspects.ops = [] ∧ (podAt suspects 0).st = .suspect ∧
    (podAt (podIs { idlePod 0 with st := .mappedOut }) 0).st = .mappedOut ∧ portOpen busy = true ∧ busy.blk.st ≠ .draining ∧
    busy.blk.st ≠ .halted ∧ (podAt (podIs { idlePod 0 with st := .test, why := .rebind }) 0).why = .rebind ∧
    (podAt (podIs { sparePod with st := .test, why := .spareFor 0 }) 0).why = .spareFor 0 ∧
    (podAt (podIs { sparePod with st := .test, why := .spareDue }) 0).why = .spareDue ∧ busy.blk.shut = false ∧
    busy.blk.st ≠ .roadside ∧ (podAt busy 99).role = 1 ∧ (podAt busy 99).st = .off := by decide +kernel
/-- `busy` with a spare prepared for Pod 0, which has arrived; and while its copy runs. -/
def copying (ph : Nat) : State := { busy with
  gates := [(0, { (gateAt busy 0) with members := [0] })]
  pods := busy.pods.set 99 { sparePod with copyOk := true }
  itg := { busy.itg with rollPod := 0, rollSpare := some 99, rollPhase := ph } }
theorem wit_RotationAndPacks_roll : invOk busy = true ∧ working busy = true ∧ rgf busy 0 0x600 13 0 ≠ 0 ∧ busy.itg.rollPhase = 0 ∧
    nextRoll busy = some 0 ∧ (podAt busy 0).st = .bound ∧ (bestSpare 0 (usableSpares busy)).isSome = true ∧
    nextRoll ready = some 0 ∧ (podAt ready 0).st ≠ .bound := by decide +kernel
theorem wit_RotationAndPacks_copy : invOk (copying 2) = true ∧ (copying 2).itg.rollSpare = some 99 ∧ (copying 2).itg.rollPhase = 2 ∧
    (podAt (copying 2) 0).st = .bound ∧ (job (copying 2) 0).st = .bound ∧ (podAt (copying 2) 99).copyOk = true ∧
    arrivedAt (copying 2) 0 = true ∧ podBusy (copying 2) 0 = false ∧ (copying 3).itg.rollPhase = 3 ∧
    podBusy { copying 3 with ops := [op0] } 0 = true := by decide +kernel
theorem wit_RotationAndPacks_load : noRead.wf = true ∧ portOpen busy = true ∧ noRead.kind = .okay ∧ packCheck busy noRead.bytes = some 0x41 ∧
    (∃ k ∈ ({ busy.itg with packs := [⟨65535, 1, 0, 0, 0, 0, 0, 0⟩] } : Integrity).packs, k.id = (65535 : BitVec 16).toNat) ∧
    (∀ k ∈ busy.itg.packs, k.id ≠ (1 : BitVec 16).toNat) := by decide +kernel

/-! ## Faults, Steward and power -/

/-- `busy` with a wire fault on the pair of source 23. -/
def wired : State := { busy with flt := { busy.flt with insts := [(instKey 23 127, { Inst.empty with wired := true })] } }
theorem wit_FaultSources : busy.blk.st ≠ .cold ∧ pairInst 23 0 = some 127 ∧ pairQuiet busy 23 127 = false ∧ (instAt busy 23 127).wired = false ∧
    hears busy 23 127 = true ∧ (instAt busy 23 127).severe = false ∧ pairInst 5 0 = some 0 ∧ pairQuiet busy 5 0 = false ∧
    hears busy 5 0 = true ∧ pairInst 0 99 = some 99 ∧ pairInst 0 127 = some 127 ∧ (podAt busy 0).st = .bound ∧ (instAt wired 23 127).wired = true ∧ pairInst 2 99 = some 99 ∧
    pairInst 2 100 = none := by decide +kernel
/-- `busy` in factory test mode. -/
def inFactory : State := { busy with itg := { busy.itg with factory := true } }
theorem wit_FaultPageAndProbe : invOk busy = true ∧ portOpen busy = true ∧ bits 0x1601 7 0 ≠ 0 ∧ bits 0x1601 12 8 ≤ 22 ∧ 0x1601 &&& 0xE0E0E000 = 0 ∧
    bits 0x1700 12 8 = 23 ∧ ({ busy.flt with freeze := true } : Collector).freeze = true ∧ busy.blk.st ≠ .halted ∧ busy.itg.shipped = false ∧
    inFactory.itg.factory = true ∧ (98303 : BitVec 17).toNat < 98304 ∧ (Injection.flip 99 98303 7 7).wf = true ∧
    pairInst 23 127 = some 127 ∧ pairQuiet inFactory 23 127 = false ∧ hears inFactory 23 127 = true ∧ busy.rng.tableOk = true ∧
    rsvSet busy 0x00B 0x814 = false ∧ rsvSet busy 0x00B 0x818 = false ∧ rg busy 0x00B 0x80C = 0 ∧ rg busy 0x00B 0x810 = 0 ∧
    rg busy 0x00B 0x814 = 0 ∧ rg busy 0x00B 0x818 = 0 ∧ (Injection.pair 23 127 true true 2).wf = true ∧
    (Injection.pair 23 127 false false 1).wf = true ∧ ready.rng.tableOk = true ∧ State.reset.rng.tableOk = false ∧
    bits (3 : Word).toNat 1 0 % 3 = 0 ∧ bits (5 : Word).toNat 29 2 ≠ 0 := by decide +kernel
/-- `ready` with a reply waiting behind a full queue, and served by the boot ROM. -/
def fullMbx : State := { ready with stw := { ready.stw with mbx := List.replicate 8 [], replies := [[1]] } }
def romServes : State := { ready with stw := { ready.stw with active := 2 } }
theorem wit_MailboxReplies : portOpen ready = true ∧ ready.stw.mbx.length < 8 ∧ romServes.stw.active = 2 ∧ portOpen romServes = true ∧
    (readings 0).wf = true ∧ ready.stw.active ≠ 2 ∧ busy.blk.st = .running ∧ anyActive busy = true ∧ anyActive ready = false ∧
    (∀ p < 100, (podAt ready p).st ≠ .test) ∧ (podAt ready 0).st = .idle ∧ ready.stw.replies = [] ∧
    fullMbx.stw.replies = [1] :: [] ∧ 8 ≤ fullMbx.stw.mbx.length ∧ portOpen fullMbx = true := by decide +kernel
/-- A firmware image whose header passes and whose body is not what its hash says. -/
def fwImage : HostRead :=
  ⟨.okay, leBytes 4 0x49574642 ++ leBytes 2 1 ++ leBytes 2 256 ++ leBytes 4 1 ++ leBytes 4 64 ++ leBytes 304 0, 0⟩
theorem wit_TelemetryLogAndFirmware : telemOn ready = true ∧ telemOn (setRegs ready [(0, 0xA08, 0)]) = false ∧ ready.blk.shut = false ∧
    bits (0x100000 : Word).toNat 31 20 ≠ 0 ∧ bits (0xFFFFF : Word).toNat 31 20 = 0 ∧ fwImage.wf = true ∧ fwImage.kind = .okay ∧
    fwHeaderOk fwImage.bytes 0 = false ∧ fwHeaderOk fwImage.bytes 320 = true ∧ fwVer ready < fieldLe fwImage.bytes 8 4 ∧
    fieldLe fwImage.bytes 8 4 ≤ fwVer { ready with stw := { ready.stw with slotA := ⟨true, 1, 1⟩ } } := by decide +kernel
theorem wit_TelemetryLogAndFirmware_hash :
    slice fwImage.bytes 0x10 48 ≠ sha384 (slice fwImage.bytes 256 (fieldLe fwImage.bytes 0x0C 4)) := by decide +kernel
/-- The same image with the hash of its body; whether its signature passes is the opaque function's to say (log 3). -/
def fwHashed : HostRead :=
  { fwImage with bytes := fwImage.bytes.take 16 ++ sha384 (slice fwImage.bytes 256 64) ++ fwImage.bytes.drop 64 }
theorem wit_TelemetryLogAndFirmware_sound : fwHeaderOk fwHashed.bytes 320 = true ∧ fieldLe fwHashed.bytes 8 4 = 1 ∧ romServes.stw.active = 2 ∧
    slice fwHashed.bytes 0x10 48 = sha384 (slice fwHashed.bytes 256 (fieldLe fwHashed.bytes 0x0C 4)) := by decide +kernel

/-- `ready` with the multiplier on its way from 36 to 48. -/
def climbing : State := { ready with pwr := { ready.pwr with rootN := 36, targetN := 48, slewing := true, slewUp := true } }
/-- `ready` while the supply for 37 is asked for. -/
def asking : State := { ready with pwr := { ready.pwr with rootN := 36, targetN := 48, vreqReq := true, vreq := 100 } }
theorem wit_RootAndCaps : invOk climbing = true ∧ climbing.pwr.slewing = true ∧ invOk asking = true ∧ asking.pwr.vreqReq = true ∧
    asking.pwr.slewing = false ∧ asking.pwr.rootN < asking.pwr.targetN ∧ vreqCode (vguard asking) (asking.pwr.rootN + 1) ≤ asking.pwr.vreq ∧
    ready.pwr.rootN = ready.pwr.targetN ∧ portOpen ready = true ∧ ready.pwr.ilimAck = false ∧ portOpen State.reset = false ∧
    bits (24 : Word).toNat 5 0 = 24 ∧ bits (48 : Word).toNat 5 0 = 48 ∧ bits (48 : Word).toNat 31 6 = 0 ∧ bits (49 : Word).toNat 5 0 = 49 ∧
    bits (23 : Word).toNat 5 0 = 23 ∧ ({ ready.pwr with capDroop := some 46 } : Power).capDroop = some 46 ∧ (readings 840).wf = true ∧
    sext 16 (rgf ready 2 0x404 31 16) ≤ (readings 840).hottest.toInt := by decide +kernel
/-- A Pod whose switch is asked for and has not answered. -/
def powering : Pod := { Pod.reset with logical := 0, st := .idle, swReq := true, gated := true }
theorem wit_PodPower : invOk (podIs powering) = true ∧ (podAt (podIs powering) 0).swAck = false ∧ (podAt (podIs powering) 0).swReq = true ∧
    (podIs powering).rng.tableOk = true ∧ (podAt (podIs powering) 0).role ≤ 1 ∧ (podAt ready 0).swAck = true ∧
    (podAt (podIs powering) 0).st = .idle ∧ (podIs powering).blk.st ≠ .cold ∧ (podAt ready 0).st = .idle ∧ (podAt ready 0).swReq = true ∧
    named ready (podAt ready 0).logical = false ∧ named accepted (podAt accepted 2).logical = true ∧ (podAt accepted 2).st = .idle ∧
    (podAt accepted 2).swReq = true ∧ (podAt ready 0).droop = false ∧ (podAt ready 0).gated = false ∧
    (podAt (podIs { powering with st := .test, why := .rebind }) 0).st = .test := by decide +kernel

end Sys2Proof.Tests
end

section
/-! Reasoning rules of the stored registers: what a register and its reserved-bit record read after a store to the
same and to another word address (spec/19 R456), and what a store leaves unchanged. -/

namespace Sys2Proof.Machine

variable {s : State} {p o p' o' v w : Nat} {f : RegFmt}

/-! ## Number sets -/

theorem contains_nset_self (m : List Nat) (k : Nat) (b : Bool) : (nset m k b).contains k = b := by
  cases b with
  | false => simp [nset, ndel]
  | true => simp [nset, mem_nins]

theorem contains_nset_ne (m : List Nat) {k k' : Nat} (b : Bool) (h : k' ≠ k) :
    (nset m k b).contains k' = m.contains k' := by
  cases b with
  | false => simp [nset, ndel, h]
  | true => simp [nset, mem_nins, h]

theorem ndel_nins (m : List Nat) (k : Nat) : ndel (nins m k) k = ndel m k := by
  unfold ndel
  induction m with
  | nil => simp [nins]
  | cons j m ih =>
    simp only [nins]
    split_ifs
    · simp
    · rfl
    · rw [List.filter_cons, List.filter_cons, ih]

/-- Taking a number out forgets whether it was added just before. -/
theorem ndel_nset (m : List Nat) (k : Nat) (b : Bool) : ndel (nset m k b) k = ndel m k := by
  cases b with
  | false => simp [nset, ndel]
  | true => exact ndel_nins m k

/-! ## Stored words -/

theorem Inv.rising_words (h : Inv s) : rising s.regs.words = true := ((RegFile.wf_iff _).1 h.regs).1

theorem rgw_wrg_self (h : rising s.regs.words = true) (p o v : Nat) : rgw (wrg s p o v) p o = BitVec.ofNat 32 v :=
  sgetD_sset_self _ _ _ _ h

theorem rgw_wrg_ne (h : wa p' o' ≠ wa p o) : rgw (wrg s p o v) p' o' = rgw s p' o' := sgetD_sset_ne _ _ _ _ h

@[simp] theorem rsvSet_wrg : rsvSet (wrg s p o v) p' o' = rsvSet s p' o' := rfl

/-! ## The record of reserved bits (R456) -/

theorem noteRsv_of_regFmt (hf : regFmt p o = some f) : noteRsv s p o w =
    { s with regs := { s.regs with rsv := nset s.regs.rsv (wa p o) (w &&& f.rsv ≠ 0) } } := by
  simp [noteRsv, hf]

theorem noteRsv_of_none (hf : regFmt p o = none) : noteRsv s p o w = s := by
  simp [noteRsv, hf]

@[simp] theorem rgw_noteRsv : rgw (noteRsv s p o w) p' o' = rgw s p' o' := by
  cases hf : regFmt p o with
  | none => rw [noteRsv_of_none hf]
  | some f => rw [noteRsv_of_regFmt hf]; rfl

theorem rsvSet_noteRsv_self (hf : regFmt p o = some f) :
    rsvSet (noteRsv s p o w) p o = decide (w &&& f.rsv ≠ 0) := by
  rw [noteRsv_of_regFmt hf]
  exact contains_nset_self _ _ _

theorem rsvSet_noteRsv_ne (h : wa p' o' ≠ wa p o) : rsvSet (noteRsv s p o w) p' o' = rsvSet s p' o' := by
  cases hf : regFmt p o with
  | none => rw [noteRsv_of_none hf]
  | some f => rw [noteRsv_of_regFmt hf]; exact contains_nset_ne _ _ h

/-! ## A software write of a stored register -/

theorem storeReg_of_regFmt (hf : regFmt p o = some f) : storeReg s p o w =
    noteRsv (wrg s p o ((w &&& f.rw) ||| (rg s p o &&& (0xFFFFFFFF - f.rw)))) p o w := by
  simp [storeReg, hf]

/-- A store changes stored words and records of reserved bits and nothing else. -/
theorem storeReg_frame (s : State) (p o w : Nat) : storeReg s p o w =
    { s with regs := { s.regs with words := (storeReg s p o w).regs.words, rsv := (storeReg s p o w).regs.rsv } } := by
  cases hf : regFmt p o with
  | none => simp [storeReg, hf]
  | some f => rw [storeReg_of_regFmt hf, noteRsv_of_regFmt hf]; rfl

/-- The written bits come from the written word, the others stay. -/
theorem rg_storeReg_self (hr : rising s.regs.words = true) (hf : regFmt p o = some f) (hw : w < 2 ^ 32) :
    rg (storeReg s p o w) p o = (w &&& f.rw) ||| (rg s p o &&& (0xFFFFFFFF - f.rw)) := by
  have hlt : (w &&& f.rw) ||| (rg s p o &&& (0xFFFFFFFF - f.rw)) < 2 ^ 32 :=
    Nat.or_lt_two_pow (lt_of_le_of_lt Nat.and_le_left hw) (lt_of_le_of_lt Nat.and_le_left (rgw s p o).isLt)
  rw [storeReg_of_regFmt hf, rg, rgw_noteRsv, rgw_wrg_self hr, BitVec.toNat_ofNat, Nat.mod_eq_of_lt hlt]

theorem rgw_storeReg_ne (h : wa p' o' ≠ wa p o) : rgw (storeReg s p o w) p' o' = rgw s p' o' := by
  unfold storeReg
  split
  · rfl
  · rw [rgw_noteRsv, rgw_wrg_ne h]

theorem rsvSet_storeReg_self (hf : regFmt p o = some f) :
    rsvSet (storeReg s p o w) p o = decide (w &&& f.rsv ≠ 0) := by
  rw [storeReg_of_regFmt hf, rsvSet_noteRsv_self hf]

theorem rsvSet_storeReg_ne (h : wa p' o' ≠ wa p o) : rsvSet (storeReg s p o w) p' o' = rsvSet s p' o' := by
  unfold storeReg
  split
  · rfl
  · rw [rsvSet_noteRsv_ne h, rsvSet_wrg]

/-- A store that sets no reserved bit replaces the record that was there. -/
theorem storeReg_noteRsv (hf : regFmt p o = some f) (hw : w &&& f.rsv = 0) :
    storeReg (noteRsv s p o v) p o w = storeReg s p o w := by
  have hrg : rg (noteRsv s p o v) p o = rg s p o := by rw [rg, rgw_noteRsv, rg]
  have hdel : nset (nset s.regs.rsv (wa p o) (v &&& f.rsv ≠ 0)) (wa p o) (w &&& f.rsv ≠ 0) =
      nset s.regs.rsv (wa p o) (w &&& f.rsv ≠ 0) := by
    simpa [hw, nset] using ndel_nset s.regs.rsv (wa p o) (v &&& f.rsv ≠ 0)
  rw [storeReg_of_regFmt hf, storeReg_of_regFmt hf, hrg, noteRsv_of_regFmt hf, noteRsv_of_regFmt hf,
    noteRsv_of_regFmt hf, wrg, wrg]
  simp only [hdel]

end Sys2Proof.Machine
end

section
/-! What an event of the fault collector leaves as it was (spec/15 R370 to R377, Table 15-2): its reactions write counters,
records, messages and the persistent log, and a block reset that they start quiesces the ports (spec/17 R410, R411). -/

namespace Sys2Proof.Machine

variable {s : State}

/-- The state with everything blanked that the reactions to an event may change. -/
def eventFrame (s : State) : State :=
  { s with
    pins := { s.pins with present := false, alive := false, rstReq := false }
    pwr := { s.pwr with ilimAck := false, vreqReq := false }
    flt := { State.reset.flt with active := s.flt.active }
    blk := State.reset.blk, regs := State.reset.regs, pods := [], mps := State.reset.mps, mem := State.reset.mem
    stw := State.reset.stw, free := 0 }

theorem eventFrame_foldl {α : Type} {g : State → α → State} (hg : ∀ s a, eventFrame (g s a) = eventFrame s)
    (l : List α) (s : State) : eventFrame (l.foldl g s) = eventFrame s := by
  induction l generalizing s with
  | nil => rfl
  | cons a l ih => rw [List.foldl_cons, ih, hg]

/-! ## Registers, requests and messages -/

@[simp] theorem eventFrame_wrg (p o v : Nat) : eventFrame (wrg s p o v) = eventFrame s := rfl
@[simp] theorem eventFrame_pageErr (p i : Nat) : eventFrame (pageErr s p i) = eventFrame s := rfl
@[simp] theorem eventFrame_latchPage (p : Nat) : eventFrame (latchPage s p) = eventFrame s := rfl
@[simp] theorem eventFrame_modMem (g : Mem → Mem) : eventFrame (modMem s g) = eventFrame s := rfl
@[simp] theorem eventFrame_modStw (g : Steward → Steward) : eventFrame (modStw s g) = eventFrame s := rfl
@[simp] theorem eventFrame_modBlk (g : Block → Block) : eventFrame (modBlk s g) = eventFrame s := rfl
@[simp] theorem eventFrame_draw : eventFrame (draw s) = eventFrame s := rfl
@[simp] theorem eventFrame_logLater (r : LogRec) : eventFrame (logLater s r) = eventFrame s := rfl

@[simp] theorem eventFrame_bump (p k n : Nat) : eventFrame (bump s p k n) = eventFrame s := by
  unfold bump; split <;> rfl

@[simp] theorem eventFrame_sendReq (r : MemReq) : eventFrame (sendReq s r) = eventFrame s := by
  unfold sendReq
  extract_lets j
  generalize freeTag s j = tag
  cases tag with
  | some t => simp [countLines]
  | none => simp

@[simp] theorem eventFrame_memWrite (a : Nat) (d : List Byte) (x c p : Nat) (pu : Purpose) :
    eventFrame (memWrite s a d x c p pu) = eventFrame s := by
  unfold memWrite sendWrite
  split <;> simp

@[simp] theorem eventFrame_sendMsg (who a d x : Nat) : eventFrame (sendMsg s who a d x) = eventFrame s :=
  eventFrame_memWrite ..

@[simp] theorem eventFrame_mbxPush (m : List Word) : eventFrame (mbxPush s m) = eventFrame s := by
  simp only [mbxPush, stwInterrupt]
  split_ifs <;> simp

@[simp] theorem eventFrame_mbxNotice (k : Nat) (ws : List Word) : eventFrame (mbxNotice s k ws) = eventFrame s := by
  unfold mbxNotice
  split_ifs <;> simp

@[simp] theorem eventFrame_logWrite (r : LogRec) : eventFrame (logWrite s r) = eventFrame s := by
  simp [logWrite]

@[simp] theorem eventFrame_logFlush : eventFrame (logFlush s) = eventFrame s := by
  simp [logFlush, eventFrame_foldl]

/-! ## Records -/

/-- A change of the collector that leaves the active sources alone. -/
theorem eventFrame_modFlt {g : Collector → Collector} (hg : (g s.flt).active = s.flt.active) :
    eventFrame (modFlt s g) = eventFrame s := by
  simp [eventFrame, modFlt, hg]

@[simp] theorem eventFrame_logPut (r : Wayside) : eventFrame (logPut s r) = eventFrame s := by
  simp [logPut, eventFrame_modFlt]

@[simp] theorem eventFrame_recordNew (r : Wayside) : eventFrame (recordNew s r) = eventFrame s := by
  unfold recordNew
  split_ifs <;> simp [eventFrame_modFlt]

@[simp] theorem eventFrame_recordEvent (r : Wayside) (x : Inst) (severe wire : Bool) (fired : Nat) :
    eventFrame (recordEvent s r x severe wire fired) = eventFrame s := by
  simp only [recordEvent]
  split
  · simp
  · split
    · split_ifs <;> simp [eventFrame_modFlt]
    · simp

/-! ## Reactions -/

@[simp] theorem eventFrame_dumpStart (b : Bool) : eventFrame (dumpStart s b) = eventFrame s := by
  unfold dumpStart dumpUnit
  rw [eventFrame_foldl (fun s a => eventFrame_memWrite ..), eventFrame_bump]
  rfl

@[simp] theorem eventFrame_dumpOnSevere : eventFrame (dumpOnSevere s) = eventFrame s := by
  unfold dumpOnSevere
  split_ifs
  · rfl
  · simp
  · rfl

/-- A source that names neither a suspect Pod nor a droop has no consequence of its own but the dump. -/
theorem eventFrame_onSevere {src : Nat} (h2 : src ≠ 2) (h4 : src ≠ 4) (h18 : src ≠ 18) (i : Nat) :
    eventFrame (onSevere s src i) = eventFrame s := by
  simp [onSevere, h2, h4, h18]

@[simp] theorem eventFrame_fltInterrupt : eventFrame (fltInterrupt s) = eventFrame s := by
  simp only [fltInterrupt]
  split_ifs <;> simp

@[simp] theorem eventFrame_quiesce : eventFrame (quiesce s) = eventFrame s := rfl

@[simp] theorem eventFrame_startBlockReset : eventFrame (startBlockReset s) = eventFrame s := by
  simp only [startBlockReset]
  split
  · split <;> simp
  · rfl

theorem eventFrame_setRstReq : eventFrame { s with pins := { s.pins with rstReq := true } } = eventFrame s := rfl

@[simp] theorem eventFrame_react (mask : Nat) (r : Wayside) : eventFrame (react s mask r) = eventFrame s := by
  simp [react, apply_ite eventFrame, eventFrame_modFlt, eventFrame_setRstReq]

/-! ## Events -/

/-- An event that the collector hears marks its source as active; the rest of the frame stays. -/
theorem eventFrame_raiseAs {src i : Nat} (hh : hears s src i = true) (h2 : src ≠ 2) (h4 : src ≠ 4) (h18 : src ≠ 18)
    (info : Word) (ctx : EventCtx) (pod : Nat) (wire : Bool) (unit : Nat) :
    eventFrame (raiseAs s src i info ctx pod wire unit) =
      eventFrame (modFlt s fun c => { c with active := c.active ||| BitVec.ofNat 32 (2 ^ src) }) := by
  simp [raiseAs, hh, apply_ite eventFrame, eventFrame_onSevere h2 h4 h18]
  rfl

/-- An event of a block source is heard in every state but `COLD` (R368). -/
theorem hears_block (h : s.blk.st ≠ .cold) (src : Nat) : hears s src 127 = true := by
  simp [hears, h]

/-- What a block event keeps, field by field, with its source active. -/
theorem raise_block_keeps (h : s.blk.st ≠ .cold) {src : Nat} (h2 : src ≠ 2) (h4 : src ≠ 4) (h18 : src ≠ 18)
    (hlt : src < 32) (info pod : Nat) :
    let t := raise s src 127 info pod
    t.flt.active.getLsbD src = true ∧ t.pins.ctlErr = s.pins.ctlErr ∧ t.pwr.locked = s.pwr.locked ∧
      t.marrow = s.marrow ∧ t.jobs = s.jobs ∧ t.sqs = s.sqs := by
  intro t
  have hf : eventFrame t =
      eventFrame (modFlt (draw s) fun c => { c with active := c.active ||| BitVec.ofNat 32 (2 ^ src) }) := by
    have hh : hears (draw s) src 127 = true := hears_block (by simpa using h) src
    simp only [t, raise, eventFrame_raiseAs hh h2 h4 h18]
  have hactive : t.flt.active = s.flt.active ||| BitVec.ofNat 32 (2 ^ src) := congrArg (·.flt.active) hf
  refine ⟨?_, congrArg (·.pins.ctlErr) hf, congrArg (·.pwr.locked) hf, congrArg (·.marrow) hf, congrArg (·.jobs) hf,
    congrArg (·.sqs) hf⟩
  rw [hactive, BitVec.getLsbD_or, BitVec.getLsbD_ofNat, Nat.testBit_two_pow_self]
  simp [hlt]

end Sys2Proof.Machine
end

section
/-! Cold-reset release, PLL lock and loss of lock (spec/00 R8, spec/17 R404, spec/18 R421). -/

namespace Sys2Proof.Machine

theorem coldResetRelease_restarts_time (s : State) (h : s.pins.coldN = false) :
    Becomes .coldResetRelease s (fun t =>
      t.pins = { s.pins with coldN := true } ∧ t.time = 0 ∧ t.blk.st = s.blk.st ∧ t.blk.lastRst = 0 ∧
      t.regs = s.regs ∧ t.pods = s.pods ∧ t.marrow = s.marrow) := by
  refine ⟨doColdRelease s, rfl, ?_⟩
  simp [doColdRelease, h]

theorem pllLock_starts_selfTest (s : State) (hn : s.pins.coldN = true) (hc : s.blk.st = .cold) :
    Becomes .pllLock s (fun t =>
      t.blk = { s.blk with st := .selfTest, step := 1 } ∧ t.pwr = { s.pwr with locked := true } ∧ t.regs = s.regs ∧
      t.pods = s.pods ∧ t.marrow = s.marrow ∧ t.time = s.time) := by
  refine ⟨doPllLock s, rfl, ?_⟩
  simp [doPllLock, hn, hc]

theorem pllLockLoss_raises_clock (s : State) (hl : s.pwr.locked = true) (hc : s.blk.st ≠ .cold) :
    Becomes .pllLockLoss s (fun t =>
      t.pwr.locked = true ∧ t.flt.active.getLsbD 23 = true ∧ t.marrow = s.marrow ∧ t.jobs = s.jobs) := by
  refine ⟨raise s 23 127 0, by simp [exec, execPllLockLoss, doPllLoss, hl], ?_⟩
  obtain ⟨hactive, -, hlocked, hmarrow, hjobs, -⟩ :=
    raise_block_keeps hc (src := 23) (by decide) (by decide) (by decide) (by decide) 0 127
  exact ⟨hlocked.trans hl, hactive, hmarrow, hjobs⟩

/-- Settles O8: the release and the lock are one update each, and a lock lost later is a block event (R404, R421). -/
theorem coldReleaseAndLock : Obligations.ColdReleaseAndLock := fun s =>
  ⟨coldResetRelease_restarts_time s, pllLock_starts_selfTest s, pllLockLoss_raises_clock s⟩

end Sys2Proof.Machine
end

section
/-! A step on an empty queue: one tick, and one turn of each Causeway link (spec/00 R8, spec/13 R322). -/

namespace Sys2Proof.Machine

/-- The port of a link that has taken flit `i`. -/
def CPort.sent (c : CPort) (i turn : Nat) : CPort :=
  { c with tx := c.tx.eraseIdx i, turn := turn, link := c.link ++ (c.tx[i]?).toList }

/-- The turn of the link if the channel `k` places into the round is to send: its first flit, if it has one. -/
def CPort.channelTurn (c : CPort) (k : Nat) : Option CPort :=
  (c.tx.findIdx? (·.ch = (c.turn + k) % 4)).map (c.sent · (((c.turn + k) % 4 + 1) % 4))

theorem linkTurn_eq (c : CPort) : linkTurn c =
    (((c.tx.findIdx? (·.kind = 1)).map (c.sent · c.turn)).or ((List.range 4).findSome? c.channelTurn)).getD c := rfl

/-- The turn of a port with a waiting heartbeat. -/
theorem linkTurn_heartbeat {c : CPort} {i : Nat} (h : c.tx.findIdx? (·.kind = 1) = some i) :
    linkTurn c = c.sent i c.turn := by
  simp [linkTurn_eq, h]

/-- The turn of a port without a heartbeat: the first flit of a channel, or nothing where no channel has one. -/
theorem linkTurn_channel {c : CPort} (h : c.tx.findIdx? (·.kind = 1) = none) :
    (∃ ch i turn, c.tx.findIdx? (·.ch = ch) = some i ∧ linkTurn c = c.sent i turn) ∨
      (linkTurn c = c ∧ ∀ f ∈ c.tx, 4 ≤ f.ch) := by
  have hturn : linkTurn c = ((List.range 4).findSome? c.channelTurn).getD c := by simp [linkTurn_eq, h]
  cases hs : (List.range 4).findSome? c.channelTurn with
  | some d =>
    obtain ⟨k, -, hk⟩ := List.exists_of_findSome?_eq_some hs
    obtain ⟨i, hi, rfl⟩ := Option.map_eq_some_iff.1 hk
    exact .inl ⟨_, i, _, hi, by rw [hturn, hs, Option.getD_some]⟩
  | none =>
    refine .inr ⟨by simp [hturn, hs], fun f hf => ?_⟩
    by_contra hlt
    have hk : (f.ch + 4 - c.turn % 4) % 4 ∈ List.range 4 := List.mem_range.2 (Nat.mod_lt _ (by decide))
    have hnone := Option.map_eq_none_iff.1 (List.findSome?_eq_none_iff.1 hs _ hk)
    have hne := List.findIdx?_eq_none_iff.1 hnone f hf
    simp only [decide_eq_false_iff_not] at hne
    omega

/-- The flit that a link takes is the first that the choice `p` names, and the rest of the port stays. -/
theorem CPort.sent_of_findIdx? {c : CPort} {p : Flit → Bool} {i : Nat} (h : c.tx.findIdx? p = some i) (turn : Nat) :
    ∃ f, c.tx[i]? = some f ∧ p f = true ∧ (c.sent i turn).link = c.link ++ [f] ∧
      ∀ j < i, ∀ g, c.tx[j]? = some g → p g = false := by
  obtain ⟨hi, hp, hbefore⟩ := List.findIdx?_eq_some_iff_getElem.1 h
  refine ⟨c.tx[i], List.getElem?_eq_getElem hi, hp, by simp [CPort.sent, hi], fun j hj g hg => ?_⟩
  obtain ⟨hlt, rfl⟩ := List.getElem?_eq_some_iff.1 hg
  simpa using hbefore j hj

/-- One turn of a link (R322): nothing but the queue and the link changes; one flit leaves, the first of its kind or
channel, unless there is neither a heartbeat nor a flit of a channel. -/
theorem linkTurn_spec (c : CPort) :
    (linkTurn c).st = c.st ∧ (linkTurn c).peerId = c.peerId ∧ (linkTurn c).halves = c.halves ∧
    (((linkTurn c).tx = c.tx ∧ (linkTurn c).link = c.link ∧ ∀ f ∈ c.tx, f.kind ≠ 1 ∧ 4 ≤ f.ch) ∨
      ∃ i f, c.tx[i]? = some f ∧ (linkTurn c).tx = c.tx.eraseIdx i ∧ (linkTurn c).link = c.link ++ [f] ∧
        ∀ j < i, ∀ g, c.tx[j]? = some g → if f.kind = 1 then g.kind ≠ 1 else g.ch ≠ f.ch) := by
  cases hb : c.tx.findIdx? (·.kind = 1) with
  | some i =>
    obtain ⟨f, hf, hkind, hlink, hbefore⟩ := CPort.sent_of_findIdx? hb c.turn
    rw [linkTurn_heartbeat hb]
    refine ⟨rfl, rfl, rfl, .inr ⟨i, f, hf, rfl, hlink, fun j hj g hg => ?_⟩⟩
    rw [if_pos (by simpa using hkind)]
    simpa using hbefore j hj g hg
  | none =>
    have hnone : ∀ f ∈ c.tx, f.kind ≠ 1 := fun f hf => by simpa using List.findIdx?_eq_none_iff.1 hb f hf
    obtain ⟨ch, i, turn, hi, ht⟩ | ⟨ht, hch⟩ := linkTurn_channel hb
    · obtain ⟨f, hf, hfch, hlink, hbefore⟩ := CPort.sent_of_findIdx? hi turn
      rw [ht]
      refine ⟨rfl, rfl, rfl, .inr ⟨i, f, hf, rfl, hlink, fun j hj g hg => ?_⟩⟩
      rw [if_neg (hnone f (List.mem_of_getElem? hf)), (by simpa using hfch : f.ch = ch)]
      simpa using hbefore j hj g hg
    · rw [ht]
      exact ⟨rfl, rfl, rfl, .inl ⟨rfl, rfl, fun f hf => ⟨hnone f hf, hch f hf⟩⟩⟩

theorem sgetD_mapValues {α : Type} (m : List (Nat × α)) (g : α → α) (k : Nat) {d : α} (hd : g d = d) :
    sgetD (m.map fun e => (e.1, g e.2)) k d = g (sgetD m k d) := by
  induction m with
  | nil => simp [hd]
  | cons e m ih =>
    obtain ⟨j, v⟩ := e
    simp only [sgetD] at ih
    simp only [sgetD, List.map_cons, sget?]
    split
    · rfl
    · exact ih

/-- A tick serves each open port a turn, and leaves closed ones as they are. -/
theorem portAt_tick (s : State) (hn : s.pins.coldN = true) (k : Nat) :
    portAt (tick s) k = if portOpen s = true then linkTurn (portAt s k) else portAt s k := by
  have hopen : portOpen { s with time := (s.time + 1) % 2 ^ 64 } = portOpen s := rfl
  simp only [tick, hn, if_true, linkTurns, hopen]
  split
  · exact sgetD_mapValues _ _ _ rfl
  · rfl

/-- A tick counts the time base; of the rest it touches the Causeway ports alone, and those of a closed block not. -/
theorem tick_eq (s : State) (hn : s.pins.coldN = true) :
    tick s = { s with time := (s.time + 1) % 2 ^ 64, cwy := (tick s).cwy } ∧
      (portOpen s = false → (tick s).cwy = s.cwy) := by
  have hopen : portOpen { s with time := (s.time + 1) % 2 ^ 64 } = portOpen s := rfl
  simp only [tick, hn, if_true, linkTurns, hopen]
  cases portOpen s <;> simp

theorem step_of_empty (s : State) (h : s.pending = []) : step s = .next (tick s) := by
  simp [step, h]

/-- Settles O2: the step is `tick`, which serves each open port one turn of its link (R322). -/
theorem idleStepTicks : Obligations.IdleStepTicks := by
  intro s hq
  rw [step_of_empty s hq]
  refine ⟨fun hn => by simp [tick, hn], fun hn => ?_⟩
  obtain ⟨heq, hclosed⟩ := tick_eq s hn
  refine ⟨tick s, rfl, heq, hclosed, fun k => ?_⟩
  simp only [portAt_tick s hn k]
  cases hopen : portOpen s with
  | true =>
    obtain ⟨hst, hpeer, hhalves, hstay | hsent⟩ := linkTurn_spec (portAt s k)
    · obtain ⟨htx, hlink, hnone⟩ := hstay
      exact ⟨hst, hpeer, hhalves, .inl ⟨htx, hlink, .inr hnone⟩⟩
    · exact ⟨hst, hpeer, hhalves, .inr hsent⟩
  | false => exact ⟨rfl, rfl, rfl, .inl ⟨rfl, rfl, .inl rfl⟩⟩

end Sys2Proof.Machine
end

section
/-! A control-port read (spec/00 R12, spec/18 R427): the answer, and the little that reading a register does besides. -/

namespace Sys2Proof.Machine

/-- What a read does besides answering changes no field that a read is said to keep; a gate's mark of an unseen release
goes when its `TG_STATE` is read (R313). -/
theorem readEffect_keeps (s : State) (p o : Nat) :
    let t := readEffect s p o
    t.pins = s.pins ∧ t.regs.live = s.regs.live ∧ t.regs.latched = s.regs.latched ∧ t.blk = s.blk ∧ t.pods = s.pods ∧
      t.jobs = s.jobs ∧ t.sqs = s.sqs ∧ t.cqs = s.cqs ∧ t.marrow = s.marrow ∧ t.mem = s.mem ∧ t.flt = s.flt ∧
      t.entries = s.entries := by
  simp only [readEffect]
  split_ifs <;> simp

theorem gateAt_modGate (s : State) (b g : Nat) (f : Gate → Gate) :
    gateAt (modGate s b f) g = if g = b then f (gateAt s b) else gateAt s g := by
  split
  · next h => subst h; simp [gateAt, modGate]
  · next h => exact sgetD_supd_ne _ _ _ _ h

theorem gateAt_readEffect (s : State) (p o g : Nat) :
    gateAt (readEffect s p o) g = gateAt s g ∨
      (gateAt (readEffect s p o) g = { gateAt s g with unseen := false } ∧ p = 0x020 ∧ 0x800 ≤ o ∧ (o - 0x800) / 4 = g) := by
  by_cases h : p = 0x020 ∧ 0x800 ≤ o ∧ o < 0xC00
  · obtain ⟨rfl, hlo, hhi⟩ := h
    have hread : readEffect s 0x020 o = modGate s ((o - 0x800) / 4) fun g => { g with unseen := false } := by
      simp [readEffect, hlo, hhi, show ¬ o < 0x300 by omega]
    rw [hread, gateAt_modGate]
    split
    · next hg => subst hg; exact .inr ⟨rfl, rfl, hlo, rfl⟩
    · exact .inl rfl
  · refine .inl ?_
    simp only [readEffect, if_neg h]
    split_ifs <;> rfl

theorem exec_registerRead (s : State) (a : BitVec 22) (h : ctlReady s = true) :
    exec (.registerRead a) s = .next (readEffect (answer s (readWord s (a.toNat / 1024) (a.toNat % 1024 * 4)) false)
      (a.toNat / 1024) (a.toNat % 1024 * 4)) := by
  simp [exec, execRegisterRead, doRegRead, h]

/-- Settles O14: a read is the port's answer followed by the register's own effect of being read. -/
theorem registerReadReturns : Obligations.RegisterReadReturns := by
  intro s a hr
  refine ⟨_, exec_registerRead s a hr, ?_⟩
  generalize hu : answer s (readWord s (a.toNat / 1024) (a.toNat % 1024 * 4)) false = u
  obtain ⟨hpins, hlive, hlatched, hblk, hpods, hjobs, hsqs, hcqs, hmarrow, hmem, hflt, hentries⟩ :=
    readEffect_keeps u (a.toNat / 1024) (a.toNat % 1024 * 4)
  rw [hpins, hlive, hlatched, hblk, hpods, hjobs, hsqs, hcqs, hmarrow, hmem, hflt, hentries]
  subst hu
  refine ⟨rfl, rfl, rfl, rfl, rfl, rfl, rfl, rfl, rfl, rfl, rfl, rfl, rfl, fun g => ?_⟩
  refine (gateAt_readEffect _ _ _ g).imp id fun ⟨hg, hp, ho, hn⟩ => ⟨hg, ?_⟩
  omega

end Sys2Proof.Machine
end

section
/-! Control-port writes (spec/19 R439 to R449): which fields clear on a write, which writes a page takes, and how a
page passes a write on to its registers. -/

namespace Sys2Proof.Machine

variable {s : State} {p o v k : Nat} {w : Word} {c : Instr}

/-! ## Pages by kind (Table 19-1) -/

theorem pageKind_eq_iff_of_le_three (h : k ≤ 3) : pageKind p = some k ↔ p = k := by
  unfold pageKind
  split_ifs <;> simp <;> omega

theorem pageKind_eq_iff_of_station (h : 8 ≤ k) (h' : k ≤ 0xC) : pageKind p = some k ↔ p = k := by
  unfold pageKind
  split_ifs <;> simp <;> omega

theorem pageKind_port : pageKind p = some 0x0D ↔ 0x00D ≤ p ∧ p ≤ 0x014 := by
  unfold pageKind
  split_ifs <;> simp <;> omega

theorem pageKind_gates : pageKind p = some 0x30 ↔ p = 0x020 := by
  unfold pageKind
  split_ifs <;> simp <;> omega

theorem pageKind_sq : pageKind p = some 0x10 ↔ 0x100 ≤ p ∧ p ≤ 0x1FF := by
  unfold pageKind
  split_ifs <;> simp <;> omega

theorem pageKind_cq : pageKind p = some 0x20 ↔ 0x200 ≤ p ∧ p ≤ 0x23F := by
  unfold pageKind
  split_ifs <;> simp <;> omega

/-- The kinds of page that Table 19-1 assigns. -/
theorem pageKind_cases (h : pageKind p = some k) :
    k ≤ 3 ∨ (8 ≤ k ∧ k ≤ 0xC) ∨ k = 0x0D ∨ k = 0x30 ∨ k = 0x40 ∨ k = 0x10 ∨ k = 0x20 ∨ k = 0x50 ∨ k = 0xF0 := by
  unfold pageKind at h
  split_ifs at h <;> simp at h <;> omega

theorem pageKind_lt (h : pageKind p = some k) : p < 4096 := by
  unfold pageKind at h
  split_ifs at h <;> omega

/-! ## Bit fields -/

theorem bits_eq_div_mod (v hi lo : Nat) : bits v hi lo = v / 2 ^ lo % 2 ^ (hi + 1 - lo) := by
  rw [bits, Nat.shiftRight_eq_div_pow]

theorem bitN_eq_decide (v i : Nat) : bitN v i = decide (v / 2 ^ i % 2 = 1) := Nat.testBit_eq_decide_div_mod_eq

/-- A number with no bit in a field has nothing in common with the field's mask. -/
theorem and_mask_eq_zero {v lo n : Nat} (h : v / 2 ^ lo % 2 ^ n = 0) : v &&& (2 ^ n - 1) * 2 ^ lo = 0 := by
  refine Nat.eq_of_testBit_eq fun i => ?_
  have hfield := congrArg (Nat.testBit · (i - lo)) h
  simp only [Nat.testBit_mod_two_pow, Nat.testBit_div_two_pow, Nat.zero_testBit] at hfield
  rw [Nat.testBit_and, Nat.testBit_mul_two_pow, Nat.testBit_two_pow_sub_one, Nat.zero_testBit]
  by_cases hlo : lo ≤ i
  · rw [Nat.sub_add_cancel hlo] at hfield
    rw [Bool.and_comm]
    simpa [hlo] using hfield
  · simp [hlo]

theorem or_two_pow_eq_self {v i : Nat} (h : bitN v i = true) : v ||| 2 ^ i = v := by
  refine Nat.eq_of_testBit_eq fun j => ?_
  rw [Nat.testBit_or, Nat.testBit_two_pow]
  by_cases hj : i = j
  · subst hj; simpa [bitN] using h
  · simp [hj]

/-! ## Fields that clear on a write (R10) -/

/-- Whether a register has fields that a write of 1 clears: those of every page's header, of the fault page, and the
interrupt states of completion rings. -/
def w1cField (p o : Nat) : Bool :=
  decide (o = 0x010 ∨ o = 0x014 ∨ (p = 1 ∧ (o = 0x020 ∨ o = 0x024 ∨ o = 0x028 ∨ o = 0x02C ∨ o = 0x030)) ∨
    (pageKind p = some 0x20 ∧ 0x060 ≤ o ∧ o < 0x0E0 ∧ o % 8 = 0))

theorem w1cWrite_snd (s : State) (p o v : Nat) : (w1cWrite s p o v).2 = w1cField p o := by
  simp only [w1cWrite, w1cField]
  split_ifs <;> simp_all

theorem w1cField_eq_false (h1 : o ≠ 0x010) (h2 : o ≠ 0x014) (h3 : p = 1 → o < 0x020 ∨ 0x034 ≤ o)
    (h4 : pageKind p = some 0x20 → o < 0x060 ∨ 0x0E0 ≤ o) : w1cField p o = false := by
  simp only [w1cField, decide_eq_false_iff_not]
  rintro (h | h | ⟨hp, h⟩ | ⟨hp, h⟩)
  · exact h1 h
  · exact h2 h
  · have := h3 hp; omega
  · have := h4 hp; omega

/-! ## From the port to the page -/

/-- A write with good parity is answered without error, and goes to its page (R427). -/
theorem exec_registerWrite (h : ctlReady s = true) (a : BitVec 22) (w : Word) :
    exec (.registerWrite a w (wordPar w)) s =
      .next (regWrite (answer s 0 false) (a.toNat / 1024) (a.toNat % 1024 * 4) w.toNat) := by
  simp [exec, execRegisterWrite, doRegWrite, h]

theorem regWrite_of_unassigned (h : pageKind p = none ∨ pageKind p = some 0xF0) : regWrite s p o v = s := by
  rcases h with h | h <;> simp [regWrite, h]

theorem regWrite_of_w1cField (hk : pageKind p = some k) (hF : k ≠ 0xF0) (hc : w1cField p o = true) :
    regWrite s p o v = (w1cWrite s p o v).1 := by
  simp [regWrite, hk, w1cWrite_snd, hc]

theorem regWrite_of_applied (hk : pageKind p = some k) (hF : k ≠ 0xF0) (hc : w1cField p o = false)
    (hs : s.blk.st ≠ .selfTest) (hh : s.blk.st ≠ .halted ∨ haltedOk p o v = true) :
    regWrite s p o v = pageWrite s p o v := by
  have hh' : ¬ (s.blk.st = .halted ∧ haltedOk p o v = false) := by
    rintro ⟨h1, h2⟩; simp [h1, h2] at hh
  simp [regWrite, hk, w1cWrite_snd, hc, hs, hh']

theorem regWrite_of_halted (hc : w1cField p o = false) (hh : s.blk.st = .halted) (ho : haltedOk p o v = false) :
    regWrite s p o v = s := by
  simp only [regWrite, w1cWrite_snd, hc, hh, ho]
  split <;> simp

end Sys2Proof.Machine
end

section
/-! What a page does with a write of one of its registers (spec/19 Table 19-4): one equation per kind of page, and the
writes that store a word or do nothing. -/

namespace Sys2Proof.Machine

variable {s : State} {p o v k : Nat} {f : RegFmt}

/-! ## Equations of `pageWrite` -/

theorem pageWrite_ctrl (s : State) (p v : Nat) : pageWrite s p 0x008 v = pageCtrl s p v := by
  unfold pageWrite
  split
  · next hk => simp [pageCtrl, hk]
  · simp

theorem pageWrite_errMask (hk : pageKind p = some k) : pageWrite s p 0x018 v = storeReg s p 0x018 v := by
  simp [pageWrite, hk]

theorem pageWrite_header (h8 : o ≠ 0x008) (h18 : o ≠ 0x018) (ho : o < 0x020) : pageWrite s p o v = s := by
  unfold pageWrite
  split
  · rfl
  · rw [if_neg h8, if_neg h18, if_pos ho]

section
variable (ho : 0x020 ≤ o)
include ho

theorem pageWrite_steward : pageWrite s 0 o v = stwWrite s o v := by
  simp [pageWrite, pageKind, show o ≠ 0x008 by omega, show o ≠ 0x018 by omega, Nat.not_lt.2 ho]

theorem pageWrite_faults : pageWrite s 1 o v =
    if o = 0x048 ∧ (fltRefusal s o v).isNone then doFreeze s (bitN v 0) else fltWrite s o v := by
  simp [pageWrite, pageKind, show o ≠ 0x008 by omega, show o ≠ 0x018 by omega, Nat.not_lt.2 ho]

theorem pageWrite_power : pageWrite s 2 o v = pwrWrite s o v := by
  simp [pageWrite, pageKind, show o ≠ 0x008 by omega, show o ≠ 0x018 by omega, Nat.not_lt.2 ho]

theorem pageWrite_intake : pageWrite s 3 o v = inkWrite s o v := by
  simp [pageWrite, pageKind, show o ≠ 0x008 by omega, show o ≠ 0x018 by omega, Nat.not_lt.2 ho]

theorem pageWrite_gated (hk : pageKind p = some 0x08 ∨ pageKind p = some 0x09 ∨ pageKind p = some 0x0A ∨
    pageKind p = some 0x0C) : pageWrite s p o v = gatedWrite s p o v := by
  rcases hk with hk | hk | hk | hk <;>
    simp [pageWrite, hk, show o ≠ 0x008 by omega, show o ≠ 0x018 by omega, Nat.not_lt.2 ho]

theorem pageWrite_random : pageWrite s 0x0B o v = if o = 0x800 then doProbe s v else storeReg s 0x0B o v := by
  simp [pageWrite, pageKind, show o ≠ 0x008 by omega, show o ≠ 0x018 by omega, Nat.not_lt.2 ho]

theorem pageWrite_port (hk : pageKind p = some 0x0D) : pageWrite s p o v = portWrite s (pageInst p) o v := by
  simp [pageWrite, hk, show o ≠ 0x008 by omega, show o ≠ 0x018 by omega, Nat.not_lt.2 ho]

theorem pageWrite_gates : pageWrite s 0x020 o v = tgWrite s o v := by
  simp [pageWrite, pageKind, show o ≠ 0x008 by omega, show o ≠ 0x018 by omega, Nat.not_lt.2 ho]

theorem pageWrite_sq (hk : pageKind p = some 0x10) : pageWrite s p o v = sqWrite s p o v := by
  simp [pageWrite, hk, show o ≠ 0x008 by omega, show o ≠ 0x018 by omega, Nat.not_lt.2 ho]

theorem pageWrite_cq (hk : pageKind p = some 0x20) : pageWrite s p o v = cqWrite s p o v := by
  simp [pageWrite, hk, show o ≠ 0x008 by omega, show o ≠ 0x018 by omega, Nat.not_lt.2 ho]

theorem pageWrite_mileposts : pageWrite s 0x580 o v = mpWrite s o v := by
  simp [pageWrite, pageKind, show o ≠ 0x008 by omega, show o ≠ 0x018 by omega, Nat.not_lt.2 ho]

end

/-! ## Writes that store a word -/

theorem cwyPage_pageInst (hk : pageKind p = some 0x0D) : cwyPage (pageInst p) = p := by
  have h := pageKind_port.1 hk
  simp only [cwyPage, pageInst, if_pos h]
  omega

theorem stwWrite_mailboxWord (ho : 0x900 ≤ o) (ho' : o < 0x920) : stwWrite s o v = storeReg s 0 o v := by
  have href : stwRefusal s o v = none := by
    unfold stwRefusal
    extract_lets
    rw [if_neg, if_neg, if_neg, if_neg, if_neg] <;> omega
  unfold stwWrite
  rw [href]
  simp [show o ≠ 0x61C by omega, show o ≠ 0x920 by omega, show o ≠ 0x980 by omega]

theorem inkWrite_open (h1 : o ≠ 0x800) (h2 : o ≠ 0x880) (h : ¬ ((0x400 ≤ o ∧ o < 0x800) ∨ (0x840 ≤ o ∧ o < 0x880))) :
    inkWrite s o v = storeReg s 3 o v := by
  simp only [inkWrite, if_neg h1, if_neg h2, if_neg h]

theorem inkWrite_gated (h : (0x400 ≤ o ∧ o < 0x800) ∨ (0x840 ≤ o ∧ o < 0x880)) :
    inkWrite s o v = if enabled s 3 then s else storeReg s 3 o v := by
  simp only [inkWrite, if_neg (show o ≠ 0x800 by omega), if_neg (show o ≠ 0x880 by omega), if_pos h]

theorem gatedWrite_stores (h : o < 0x400 ∨ enabled s p = false) : gatedWrite s p o v = storeReg s p o v :=
  if_neg (by rintro ⟨h1, h2⟩; rcases h with h | h <;> [omega; simp [h] at h2])

theorem gatedWrite_enabled (ho : 0x400 ≤ o) (h : enabled s p = true) : gatedWrite s p o v = s := if_pos ⟨ho, h⟩

theorem portWrite_stores (k : Nat) (ho : 0x400 ≤ o) (ho' : o < 0x500) (hr : o % 0x20 ≠ 0)
    (hh : (halfAt s k ((o - 0x400) / 0x20)).st = .unbound) : portWrite s k o v = storeReg s (cwyPage k) o v := by
  simp only [portWrite, if_neg (show o ≠ 0x024 by omega), if_pos (And.intro ho ho'),
    if_neg (show ¬ (o - 0x400) % 0x20 = 0 by omega), if_pos hh]

theorem sqWrite_stores (ho : 0x400 ≤ o) (ho' : o < 0x800) (hr : o % 0x40 ≠ 0)
    (hq : (sqAt s ((p - 0x100) * 16 + (o - 0x400) / 0x40)).st = .disabled) : sqWrite s p o v = storeReg s p o v := by
  simp only [sqWrite, if_neg (show ¬ (0x020 ≤ o ∧ o < 0x060) by omega), if_pos (And.intro ho ho'), if_neg hr, if_pos hq]

theorem cqWrite_stores (ho : 0x400 ≤ o) (ho' : o < 0x800) (hr : o % 0x40 ≠ 0)
    (hq : (cqAt s ((p - 0x200) * 16 + (o - 0x400) / 0x40)).on = false) : cqWrite s p o v = storeReg s p o v := by
  simp [cqWrite, show ¬ (0x020 ≤ o ∧ o < 0x060) by omega, ho, ho', hr, hq]

theorem regFmt_random_range (hf : regFmt 0x0B o = some f) (h18 : o ≠ 0x018) : 0x020 ≤ o := by
  by_contra h
  have hk : pageKind 0x0B = some 0x0B := rfl
  have : fmtRng o = none := by
    simp only [fmtRng]
    rw [if_neg, if_neg, if_neg, if_neg, if_neg, if_neg] <;> omega
  simp [regFmt, hk, h18, this] at hf

theorem pageWrite_gated_stores (hk : pageKind p = some 0x08 ∨ pageKind p = some 0x09 ∨ pageKind p = some 0x0A ∨
    pageKind p = some 0x0C) (h : (0x020 ≤ o ∧ o < 0x400) ∨ (0x400 ≤ o ∧ enabled s p = false)) :
    pageWrite s p o v = storeReg s p o v ∧ w1cField p o = false := by
  refine ⟨?_, w1cField_eq_false (by omega) (by omega) ?_ ?_⟩
  · rw [pageWrite_gated (by omega) hk]
    exact gatedWrite_stores (h.imp (·.2) (·.2))
  · rintro rfl; simp [pageKind] at hk
  · intro h20; simp [h20] at hk

/-- The registers of `storesOnly` are stored, and no write clears a field of theirs. -/
theorem pageWrite_of_storesOnly (hf : regFmt p o = some f) (h : storesOnly s p o = true) :
    pageWrite s p o v = storeReg s p o v ∧ w1cField p o = false := by
  obtain ⟨k, hk⟩ : ∃ k, pageKind p = some k := by
    cases hk : pageKind p with
    | none => simp [regFmt, hk] at hf
    | some k => exact ⟨k, rfl⟩
  by_cases h18 : o = 0x018
  · subst h18
    exact ⟨pageWrite_errMask hk, by simp [w1cField]⟩
  simp only [storesOnly, decide_eq_false h18, Bool.false_and, Bool.false_or] at h
  split at h
  case h_1 hk =>
    obtain rfl := (pageKind_eq_iff_of_le_three (by decide)).1 hk
    simp only [decide_eq_true_eq] at h
    exact ⟨by rw [pageWrite_steward (by omega), stwWrite_mailboxWord h.1 h.2],
      w1cField_eq_false (by omega) (by omega) (by omega) (by omega)⟩
  case h_2 hk =>
    obtain rfl := (pageKind_eq_iff_of_le_three (by decide)).1 hk
    simp only [Bool.or_eq_true, Bool.and_eq_true, decide_eq_true_eq, Bool.not_eq_true'] at h
    refine ⟨?_, w1cField_eq_false (by omega) (by omega) (by omega) (by simp [hk])⟩
    rw [pageWrite_intake (by omega)]
    rcases h with h | ⟨h, hoff⟩
    · exact inkWrite_open (by omega) (by omega) (by omega)
    · rw [inkWrite_gated h, hoff]; simp
  case h_3 hk => exact pageWrite_gated_stores (.inl hk) (by simpa using h)
  case h_4 hk => exact pageWrite_gated_stores (.inr (.inl hk)) (by simpa using h)
  case h_5 hk => exact pageWrite_gated_stores (.inr (.inr (.inl hk))) (by simpa using h)
  case h_6 hk => exact pageWrite_gated_stores (.inr (.inr (.inr hk))) (by simpa using h)
  case h_7 hk =>
    obtain rfl := (pageKind_eq_iff_of_station (by decide) (by decide)).1 hk
    have ho := regFmt_random_range hf h18
    simp only [ne_eq, decide_not, Bool.not_eq_true', decide_eq_false_iff_not] at h
    exact ⟨by rw [pageWrite_random ho, if_neg h], w1cField_eq_false (by omega) (by omega) (by omega) (by simp [hk])⟩
  case h_8 hk =>
    have hp := pageKind_port.1 hk
    simp only [decide_eq_true_eq] at h
    obtain ⟨hlo, hhi, hr, hh⟩ := h
    refine ⟨?_, w1cField_eq_false (by omega) (by omega) (by omega) (by omega)⟩
    rw [pageWrite_port (by omega) hk, portWrite_stores _ hlo hhi hr hh, cwyPage_pageInst hk]
  case h_9 hk =>
    have hp := pageKind_sq.1 hk
    simp only [decide_eq_true_eq] at h
    obtain ⟨hlo, hhi, hr, hq⟩ := h
    refine ⟨?_, w1cField_eq_false (by omega) (by omega) (by omega) (by omega)⟩
    rw [pageWrite_sq (by omega) hk, sqWrite_stores hlo hhi hr hq]
  case h_10 hk =>
    have hp := pageKind_cq.1 hk
    simp only [decide_eq_true_eq] at h
    obtain ⟨hlo, hhi, hr, hq⟩ := h
    refine ⟨?_, w1cField_eq_false (by omega) (by omega) (by omega) (by omega)⟩
    rw [pageWrite_cq (by omega) hk, cqWrite_stores hlo hhi hr hq]
  case h_11 hk =>
    obtain rfl := pageKind_gates.1 hk
    obtain rfl := of_decide_eq_true h
    exact ⟨by simp [pageWrite_gates, tgWrite], by decide⟩
  case h_12 hk =>
    simp only [Bool.or_eq_true, Bool.and_eq_true, decide_eq_true_eq, Bool.not_eq_true'] at h
    obtain ⟨rfl, h⟩ := h
    refine ⟨?_, w1cField_eq_false (by omega) (by omega) (by omega) (by omega)⟩
    rw [pageWrite_mileposts (by omega), mpWrite, if_neg (by omega), if_neg (by omega)]
    exact gatedWrite_stores (h.imp (by omega) (·.2))
  case h_13 => cases h

end Sys2Proof.Machine
end

section
/-! Writes that a page ignores, and writes that are commands (spec/19 R441, R449, Table 19-4). -/

namespace Sys2Proof.Machine

variable {s : State} {p o v k : Nat} {w : Word} {c : Instr}

/-! ## Ignored writes -/

/-- A write that clears nothing and that its page would ignore changes nothing in any block state. -/
theorem regWrite_of_pageWrite_self (hc : w1cField p o = false) (h : pageWrite s p o v = s) : regWrite s p o v = s := by
  simp only [regWrite, w1cWrite_snd, hc, h, Bool.false_eq_true, if_false, ite_self]
  split <;> rfl

/-- The writes of `writeIgnored` change nothing. -/
theorem regWrite_of_writeIgnored (h : writeIgnored s p o v = true) : regWrite s p o v = s := by
  simp only [writeIgnored, Bool.or_eq_true, Bool.and_eq_true, decide_eq_true_eq, Bool.not_eq_true',
    List.contains_iff_mem, List.mem_cons, List.not_mem_nil, or_false, w1cWrite_snd] at h
  rcases h with ((((hk | hk) | ho) | ⟨⟨hk, ho⟩, hen⟩) | ⟨⟨hk, ho⟩, hen⟩) | ⟨⟨hh, hok⟩, hc⟩
  · exact regWrite_of_unassigned (.inl hk)
  · exact regWrite_of_unassigned (.inr hk)
  · exact regWrite_of_pageWrite_self (w1cField_eq_false (by omega) (by omega) (by omega) (by omega))
      (pageWrite_header (by omega) (by omega) (by omega))
  · refine regWrite_of_pageWrite_self (w1cField_eq_false (by omega) (by omega) (by omega) (by omega)) ?_
    rw [pageWrite_gated (by omega) hk, gatedWrite_enabled ho hen]
  · obtain rfl := (pageKind_eq_iff_of_le_three (by decide)).1 hk
    refine regWrite_of_pageWrite_self (w1cField_eq_false (by omega) (by omega) (by omega) (by omega)) ?_
    rw [pageWrite_intake (by omega), inkWrite_gated (.inl ho), if_pos hen]
  · exact regWrite_of_halted hc hh hok

/-! ## Command registers -/

theorem portOpen_of_portLive (h : portLive s = true) : portOpen s = true := by
  simp only [portLive, Bool.and_eq_true] at h; exact h.1

theorem not_halted_of_portLive (h : portLive s = true) : s.blk.st ≠ .halted := by
  simp only [portLive, Bool.and_eq_true, decide_eq_true_eq] at h; exact h.2

/-- `GO` is bit 31. -/
theorem bitN_go (h : 2 ^ 31 ≤ w.toNat) : bitN w.toNat 31 = true := by
  rw [bitN_eq_decide, decide_eq_true_eq]
  omega

/-- The outbound mailbox's `POP` and the removal of a pack. -/
theorem commandOf_steward (h8 : o ≠ 0x008) (h : commandOf 0 o w = some c) :
    0x020 ≤ o ∧ exec c s = .next (stwWrite s o w.toNat) := by
  simp only [commandOf, if_neg h8, show pageKind 0 = some 0 from rfl] at h
  split_ifs at h with hpop hrem
  · obtain ⟨rfl, hv⟩ := hpop
    cases h
    refine ⟨by omega, ?_⟩
    rw [hv]
    rfl
  · obtain ⟨rfl, hv⟩ := hrem
    cases h
    refine ⟨by omega, ?_⟩
    have hrsv : w.toNat &&& 0x3FFC0000 = 0 := and_mask_eq_zero (lo := 18) (n := 12) (by omega)
    have href : stwRefusal s 0x61C w.toNat = none := by
      simp [stwRefusal, fmtStw, hrsv]
    have h31 : bitN w.toNat 31 = true := bitN_go (by omega)
    have hop : bits w.toNat 17 16 = 2 := by rw [bits_eq_div_mod]; omega
    simp [stwWrite, href, rwCmd, h31, hop, exec, execRemove]

/-- `PWR_N_MAX`. -/
theorem commandOf_power (hlive : portLive s = true) (h8 : o ≠ 0x008) (h : commandOf 2 o w = some c) :
    0x020 ≤ o ∧ exec c s = .next (pwrWrite s o w.toNat) := by
  simp only [commandOf, if_neg h8, show pageKind 2 = some 2 from rfl] at h
  split_ifs at h with ho
  subst ho
  cases h
  exact ⟨by omega, by simp [pwrWrite, exec, execPwrNMaxWrite, doNMax, portOpen_of_portLive hlive]⟩

/-- The fields of a job command word with `GO` (Table 2-7). -/
theorem jobWord_fields {v op stage : Nat} (hv : v = 2 ^ 31 + (op * 2 ^ 8 + 2 ^ 16 * stage + v % 2 ^ 8)) (hop : op < 8)
    (hs : stage < 2) :
    bitN v 31 = true ∧ bits v 7 0 = v % 2 ^ 8 ∧ bits v 10 8 = op ∧ bitN v 16 = decide (stage = 1) := by
  simp only [bitN_eq_decide, bits_eq_div_mod, decide_eq_true_eq, decide_eq_decide]
  omega

/-- A `RESUME` stores its own argument without a reserved bit, whatever the write before it recorded. -/
theorem doResume_noteRsv (hlive : portLive s = true) {n : Nat} (hn : n < 2 ^ 12) (v : Nat) :
    doResume (noteRsv s 3 0x880 v) n = doResume s n := by
  have hf : regFmt 3 0x880 = some ⟨0xFFF, 0x3FFFF000, 0⟩ := rfl
  have hrsv : n &&& 0x3FFFF000 = 0 := and_mask_eq_zero (lo := 12) (n := 18) (by omega)
  have hlive' : portLive (noteRsv s 3 0x880 v) = true := by rw [noteRsv_of_regFmt hf]; exact hlive
  simp only [doResume, hlive, hlive', storeReg_noteRsv hf hrsv, Bool.true_eq_false, if_false]

/-- `INK_JOB_CMD` and `INK_XFER_CTRL` with `GO`. -/
theorem commandOf_intake (hlive : portLive s = true) (h8 : o ≠ 0x008) (h : commandOf 3 o w = some c) :
    0x020 ≤ o ∧ exec c s = .next (inkWrite s o w.toNat) := by
  simp only [commandOf, if_neg h8, show pageKind 3 = some 3 from rfl, decide_eq_true_eq] at h
  split_ifs at h with h1 h2 h3 h4
  · obtain ⟨rfl, hv⟩ := h1
    obtain ⟨h31, hj, hop, hat⟩ := jobWord_fields (op := 2) (stage := 0) (by omega) (by omega) (by omega)
    cases h
    exact ⟨by omega, by simp [inkWrite, jobCmd, h31, hj, hop, hat, exec, execUnbind]⟩
  · obtain ⟨rfl, hv⟩ := h2
    obtain ⟨h31, hj, hop, hat⟩ := jobWord_fields (op := 3) (stage := 0) (by omega) (by omega) (by omega)
    cases h
    exact ⟨by omega, by simp [inkWrite, jobCmd, h31, hj, hop, hat, exec, execSave]⟩
  · obtain ⟨rfl, hv⟩ := h3
    obtain ⟨h31, hj, hop, hat⟩ := jobWord_fields (op := 3) (stage := 1) (by omega) (by omega) (by omega)
    cases h
    exact ⟨by omega, by simp [inkWrite, jobCmd, h31, hj, hop, hat, exec, execSave]⟩
  · obtain ⟨rfl, hv⟩ := h4
    cases h
    refine ⟨by omega, ?_⟩
    have h31 : bitN w.toNat 31 = true := bitN_go (by omega)
    have hn : bits w.toNat 11 0 = w.toNat % 2 ^ 12 := by rw [bits_eq_div_mod]; omega
    simp only [inkWrite, show ¬ (0x880 = 0x800) by decide, if_false, if_true, h31, hn, exec, execXferResume,
      BitVec.toNat_ofNat, doResume_noteRsv hlive (Nat.mod_lt w.toNat (by decide : 0 < 2 ^ 12))]

/-- The probe of the random source. -/
theorem commandOf_random (hlive : portLive s = true) (h8 : o ≠ 0x008) (h : commandOf 0x0B o w = some c) :
    0x020 ≤ o ∧ exec c s = .next (pageWrite s 0x0B o w.toNat) := by
  simp only [commandOf, if_neg h8, show pageKind 0x0B = some 0x0B from rfl] at h
  split_ifs at h with ho
  obtain ⟨rfl, hv⟩ := ho
  cases h
  have h31 : bitN w.toNat 31 = true := bitN_go (by omega)
  refine ⟨by omega, ?_⟩
  rw [pageWrite_random (by omega), if_pos rfl]
  simp only [exec, execRngProbe, portOpen_of_portLive hlive, if_true, or_two_pow_eq_self h31]

/-- `FLT_CFG`s, the interrupt and selection registers, and the freeze of the log. -/
theorem commandOf_faults (hlive : portLive s = true) (h8 : o ≠ 0x008) (hal : o % 4 = 0) (hlt : o < 0x1000)
    (hsev : o ≠ 0x028) (h : commandOf 1 o w = some c) : 0x034 ≤ o ∧ exec c s = .next (pageWrite s 1 o w.toNat) := by
  simp only [commandOf, if_neg h8, if_neg hsev, show pageKind 1 = some 1 from rfl] at h
  have hopen := portOpen_of_portLive hlive
  split_ifs at h with hfr hcfg
  · obtain ⟨rfl, hv⟩ := hfr
    cases h
    have href : fltRefusal s 0x048 w.toNat = none := by
      simp [fltRefusal, bits_eq_div_mod]; omega
    have hon : decide (w.toNat = 1) = bitN w.toNat 0 := by
      rw [bitN_eq_decide, decide_eq_decide]; omega
    refine ⟨by omega, ?_⟩
    rw [pageWrite_faults (by omega), href]
    simp [exec, execFreeze, hon]
  · cases h
    have ho : 4 * (o / 4 % 2 ^ 10) = o := by omega
    refine ⟨by omega, ?_⟩
    rw [pageWrite_faults (by omega), if_neg (by omega)]
    simp only [exec, execFltCfgWrite, doFltCfg, BitVec.toNat_ofNat, ho, hopen, if_pos hcfg, Bool.true_eq_false, if_false]

/-- The port command and the halves of a Causeway port. -/
theorem commandOf_port (hlive : portLive s = true) (h8 : o ≠ 0x008) (hk : pageKind p = some 0x0D)
    (h : commandOf p o w = some c) : 0x020 ≤ o ∧ exec c s = .next (portWrite s (pageInst p) o w.toNat) := by
  have hp := pageKind_port.1 hk
  have hinst : pageInst p % 2 ^ 3 = pageInst p := by
    simp only [pageInst, if_pos hp]; omega
  have hcwy : cwyLive s = true := hlive
  simp only [commandOf, if_neg h8, hk] at h
  split_ifs at h with h1 h2 h3
  · obtain ⟨rfl, hv⟩ := h1
    cases h
    exact ⟨by omega, by
      simp only [portWrite, exec, execPortReset, portOpen_of_portLive hlive, BitVec.toNat_ofNat, hinst, hv, if_true]⟩
  · obtain ⟨rfl, hlt, hm⟩ := h2
    cases h
    have hw : 2 + 4 * (w.toNat / 4 % 2 ^ 3) = w.toNat := by omega
    exact ⟨by omega, by simp only [portWrite, exec, execHalfResume, hcwy, BitVec.toNat_ofNat, hinst, hw, if_true]⟩
  · obtain ⟨hlo, hhi, hr, hm⟩ := h3
    cases h
    have hh : (o - 0x400) / 0x20 % 2 ^ 3 = (o - 0x400) / 0x20 := by omega
    have hw : w.toNat ||| 1 = w.toNat := or_two_pow_eq_self (i := 0) (by rw [bitN_eq_decide]; simpa using hm)
    refine ⟨by omega, ?_⟩
    simp only [portWrite, if_neg (show o ≠ 0x024 by omega), if_pos (And.intro hlo hhi),
      if_pos (show (o - 0x400) % 0x20 = 0 by omega), exec, execHalfEn, hcwy, BitVec.toNat_ofNat, hinst, hh, hw, if_true]

/-- Doorbells and controls of submission rings. -/
theorem commandOf_sq (h8 : o ≠ 0x008) (hk : pageKind p = some 0x10) (h : commandOf p o w = some c) :
    0x020 ≤ o ∧ exec c s = .next (sqWrite s p o w.toNat) := by
  have hp := pageKind_sq.1 hk
  simp only [commandOf, if_neg h8, hk] at h
  split_ifs at h with h1 h2
  · cases h
    have hn : ((p - 0x100) * 16 + (o - 0x020) / 4) % 2 ^ 12 = (p - 0x100) * 16 + (o - 0x020) / 4 := by omega
    exact ⟨by omega, by simp only [sqWrite, if_pos h1, exec, execSqDoorbell, BitVec.toNat_ofNat, hn]⟩
  · obtain ⟨hlo, hhi, hr⟩ := h2
    have hn : ((p - 0x100) * 16 + (o - 0x400) / 0x40) % 2 ^ 12 = (p - 0x100) * 16 + (o - 0x400) / 0x40 := by omega
    have hctrl : sqWrite s p o w.toNat = sqCtrl s ((p - 0x100) * 16 + (o - 0x400) / 0x40) w.toNat := by
      simp only [sqWrite, if_neg (show ¬ (0x020 ≤ o ∧ o < 0x060) by omega), if_pos (And.intro hlo hhi), if_pos hr]
    refine ⟨by omega, ?_⟩
    rw [hctrl]
    split at h <;> cases h <;>
      simp only [exec, execRingOn, execRingDrain, execRetry, execSkip, execDropBatch, BitVec.toNat_ofNat, *]

/-- Heads and controls of completion rings. -/
theorem commandOf_cq (h8 : o ≠ 0x008) (hk : pageKind p = some 0x20) (h : commandOf p o w = some c) :
    0x020 ≤ o ∧ (o < 0x060 ∨ 0x0E0 ≤ o) ∧ exec c s = .next (cqWrite s p o w.toNat) := by
  have hp := pageKind_cq.1 hk
  simp only [commandOf, if_neg h8, hk] at h
  split_ifs at h with h1 h2 h3
  · cases h
    have hn : ((p - 0x200) * 16 + (o - 0x020) / 4) % 2 ^ 10 = (p - 0x200) * 16 + (o - 0x020) / 4 := by omega
    exact ⟨by omega, by omega, by simp only [cqWrite, if_pos h1, exec, execCqHeadWrite, BitVec.toNat_ofNat, hn]⟩
  all_goals
    obtain ⟨hlo, hhi, hr, hv⟩ := h2
    have hn : ((p - 0x200) * 16 + (o - 0x400) / 0x40) % 2 ^ 10 = (p - 0x200) * 16 + (o - 0x400) / 0x40 := by omega
    have hctrl : cqWrite s p o w.toNat = cqCtrl s ((p - 0x200) * 16 + (o - 0x400) / 0x40) w.toNat := by
      simp only [cqWrite, if_neg (show ¬ (0x020 ≤ o ∧ o < 0x060) by omega), if_pos (And.intro hlo hhi), if_pos hr]
    refine ⟨by omega, by omega, ?_⟩
    rw [hctrl]
    cases h
  · have hw : 1 + 2 * b2n (decide (w.toNat = 3)) = w.toNat := by
      by_cases h3 : w.toNat = 3 <;> simp [b2n, h3]; omega
    simp only [exec, execRingOn, BitVec.toNat_ofNat, hn, hw]
  · have hw : 2 * b2n (decide (w.toNat = 2)) = w.toNat := by
      by_cases h2 : w.toNat = 2 <;> simp [b2n, h2]; omega
    simp only [exec, execCqOff, BitVec.toNat_ofNat, hn, hw]

/-- `TG_CMD` with `GO` and the `EXT` masks. -/
theorem commandOf_gates (h8 : o ≠ 0x008) (h : commandOf 0x020 o w = some c) :
    0x020 ≤ o ∧ exec c s = .next (tgWrite s o w.toNat) := by
  simp only [commandOf, if_neg h8, show pageKind 0x020 = some 0x30 from rfl, decide_eq_true_eq] at h
  split_ifs at h with hcfg h1 h2 h3 h4
  · cases h
    have hb : (o - 0x400) / 4 % 2 ^ 8 = (o - 0x400) / 4 := by omega
    refine ⟨by omega, ?_⟩
    simp only [tgWrite, if_neg (show o ≠ 0x020 by omega), if_pos hcfg, exec, execTgCfgWrite, BitVec.toNat_ofNat, hb]
  all_goals
    have ho : o = 0x020 := by omega
    have h31 : bitN w.toNat 31 = true := bitN_go (by omega)
    have hwrite : tgWrite s o w.toNat = tgCmd s w.toNat := by simp only [tgWrite, if_pos ho, h31, if_true]
    refine ⟨by omega, ?_⟩
    rw [hwrite]
    cases h
    simp only [exec, execArrive, execRecover, execFail, BitVec.toNat_ofNat, b2n, Bool.false_eq_true, if_false, if_true]
    congr 2
    omega

/-- `MP_OP` with `GO` and the dump command. -/
theorem commandOf_mileposts (h8 : o ≠ 0x008) (hk : pageKind p = some 0x50) (h : commandOf p o w = some c) :
    p = 0x580 ∧ 0x020 ≤ o ∧ exec c s = .next (mpWrite s o w.toNat) := by
  simp only [commandOf, if_neg h8, hk, decide_eq_true_eq] at h
  split_ifs at h with hp hd h1 h2 h3
  · obtain ⟨rfl, hv⟩ := hd
    cases h
    have h31 : bitN w.toNat 31 = true := bitN_go (by omega)
    exact ⟨not_not.1 hp, by omega, by simp [mpWrite, h31, exec, execMpDump]⟩
  all_goals
    have ho : o = 0x020 := by omega
    have h31 : bitN w.toNat 31 = true := bitN_go (by omega)
    have hwrite : mpWrite s o w.toNat = mpOp s w.toNat := by simp only [mpWrite, if_pos ho, h31, if_true]
    refine ⟨not_not.1 hp, by omega, ?_⟩
    rw [hwrite]
    cases h
    simp only [exec, execMilepostSet, execMilepostClear, execMisuseZero, BitVec.toNat_ofNat]
    congr 2
    omega

/-- `PAGE_CTRL` with `ENABLE` 1 or 0; a page that no chapter assigns, or that the Steward keeps, takes neither. -/
theorem commandOf_pageCtrl (hlive : portLive s = true) (hp : p < 4096) (h : commandOf p 0x008 w = some c) :
    w.toNat < 2 ∧ exec c s = .next (pageCtrl s p w.toNat) := by
  have hopen : ctrlOpen s p = true := by
    simp [ctrlOpen, portOpen_of_portLive hlive, not_halted_of_portLive hlive]
  have hpage : p % 2 ^ 12 = p := by omega
  simp only [commandOf, if_true] at h
  split_ifs at h with h1 h0 <;> cases h
  · exact ⟨by omega, by simp only [exec, execPageEnableSet, doPageCtrl, BitVec.toNat_ofNat, hpage, hopen, if_true, h1]⟩
  · exact ⟨by omega, by simp only [exec, execPageEnableClear, doPageCtrl, BitVec.toNat_ofNat, hpage, hopen, if_true, h0]⟩

theorem pageCtrl_of_unassigned (h : pageKind p = none ∨ pageKind p = some 0xF0) (hv : v < 2) : pageCtrl s p v = s := by
  rcases h with h | h
  · simp [pageCtrl, h]
  · have hcaps : pageCaps p = 0 := by simp [pageCaps, h]
    have hv2 : bits v 31 2 = 0 ∧ bitN v 1 = false := by
      simp only [bits_eq_div_mod, bitN_eq_decide, decide_eq_false_iff_not]; omega
    have hcap0 : bitN 0 0 = false := rfl
    simp [pageCtrl, h, hcaps, hcap0, hv2]

/-- A command register but `PAGE_CTRL` and `FLT_SEVERE` has no field that clears, and its page's write is its command. -/
theorem commandOf_pageWrite (hlive : portLive s = true) (ho : o % 4 = 0) (ho' : o < 0x1000) (h8 : o ≠ 0x008)
    (hsev : ¬ (p = 1 ∧ o = 0x028)) (hk : pageKind p = some k) (h : commandOf p o w = some c) :
    w1cField p o = false ∧ exec c s = .next (pageWrite s p o w.toNat) := by
  have hclear (h1 : k ≠ 1) (h20 : k ≠ 0x20) (hlo : 0x020 ≤ o) : w1cField p o = false :=
    w1cField_eq_false (by omega) (by omega)
      (fun hp => absurd (Option.some.inj (hk.symm.trans (by rw [hp]; rfl))) h1)
      (fun hc => absurd (Option.some.inj (hk.symm.trans hc)) h20)
  rcases pageKind_cases hk with h3 | ⟨h8', hC⟩ | rfl | rfl | rfl | rfl | rfl | rfl | rfl
  · obtain rfl := (pageKind_eq_iff_of_le_three h3).1 hk
    interval_cases p
    · obtain ⟨hlo, hexec⟩ := commandOf_steward (s := s) h8 h
      exact ⟨hclear (by decide) (by decide) hlo, by rw [hexec, pageWrite_steward hlo]⟩
    · obtain ⟨hlo, hexec⟩ := commandOf_faults hlive h8 ho ho' (by omega) h
      exact ⟨w1cField_eq_false (by omega) (by omega) (by omega) (by simp [hk]), hexec⟩
    · obtain ⟨hlo, hexec⟩ := commandOf_power hlive h8 h
      exact ⟨hclear (by decide) (by decide) hlo, by rw [hexec, pageWrite_power hlo]⟩
    · obtain ⟨hlo, hexec⟩ := commandOf_intake hlive h8 h
      exact ⟨hclear (by decide) (by decide) hlo, by rw [hexec, pageWrite_intake hlo]⟩
  · obtain rfl := (pageKind_eq_iff_of_station h8' hC).1 hk
    by_cases hB : p = 0x0B
    · subst hB
      obtain ⟨hlo, hexec⟩ := commandOf_random hlive h8 h
      exact ⟨hclear (by decide) (by decide) hlo, hexec⟩
    · interval_cases p <;> simp [commandOf, h8, hk] at h hB
  · obtain ⟨hlo, hexec⟩ := commandOf_port hlive h8 hk h
    exact ⟨hclear (by decide) (by decide) hlo, by rw [hexec, pageWrite_port hlo hk]⟩
  · obtain rfl := pageKind_gates.1 hk
    obtain ⟨hlo, hexec⟩ := commandOf_gates (s := s) h8 h
    exact ⟨hclear (by decide) (by decide) hlo, by rw [hexec, pageWrite_gates hlo]⟩
  · simp [commandOf, h8, hk] at h
  · obtain ⟨hlo, hexec⟩ := commandOf_sq (s := s) h8 hk h
    exact ⟨hclear (by decide) (by decide) hlo, by rw [hexec, pageWrite_sq hlo hk]⟩
  · obtain ⟨hlo, hrange, hexec⟩ := commandOf_cq (s := s) h8 hk h
    have hp := pageKind_cq.1 hk
    exact ⟨w1cField_eq_false (by omega) (by omega) (by omega) (fun _ => hrange), by rw [hexec, pageWrite_cq hlo hk]⟩
  · obtain ⟨rfl, hlo, hexec⟩ := commandOf_mileposts (s := s) h8 hk h
    exact ⟨hclear (by decide) (by decide) hlo, by rw [hexec, pageWrite_mileposts hlo]⟩
  · simp [commandOf, h8, hk] at h

/-- A write to a command register runs its command. -/
theorem exec_commandOf (hlive : portLive s = true) (hp : p < 4096) (ho : o % 4 = 0) (ho' : o < 0x1000)
    (h : commandOf p o w = some c) : exec c s = .next (regWrite s p o w.toNat) := by
  have hst : s.blk.st ≠ .selfTest := by
    have hopen := portOpen_of_portLive hlive
    simp only [portOpen, decide_eq_true_eq] at hopen
    exact hopen.2.1
  have happly {k : Nat} (hk : pageKind p = some k) (hF : k ≠ 0xF0) (hc : w1cField p o = false) :
      regWrite s p o w.toNat = pageWrite s p o w.toNat :=
    regWrite_of_applied hk hF hc hst (.inl (not_halted_of_portLive hlive))
  by_cases h8 : o = 0x008
  · subst h8
    obtain ⟨hv, hexec⟩ := commandOf_pageCtrl hlive hp h
    by_cases hun : pageKind p = none ∨ pageKind p = some 0xF0
    · rw [hexec, pageCtrl_of_unassigned hun hv, regWrite_of_unassigned hun]
    · rw [not_or] at hun
      obtain ⟨k, hk⟩ := Option.ne_none_iff_exists'.1 hun.1
      rw [hexec, happly hk (by rintro rfl; exact hun.2 hk) (by simp [w1cField]), pageWrite_ctrl]
  by_cases hsev : p = 1 ∧ o = 0x028
  · obtain ⟨rfl, rfl⟩ := hsev
    cases h
    rw [regWrite_of_w1cField (k := 1) rfl (by decide) (by decide)]
    simp [w1cWrite, exec, execFltSevereClear]
  cases hk : pageKind p with
  | none => simp [commandOf, h8, hk] at h
  | some k =>
    have hF : k ≠ 0xF0 := by rintro rfl; simp [commandOf, h8, hk] at h
    obtain ⟨hc, hexec⟩ := commandOf_pageWrite hlive ho ho' h8 hsev hk h
    rw [hexec, happly hk hF hc]

/-! ## The inbound mailbox -/

/-- `GO` of the inbound mailbox serves the command in its words (R388, Table 16-4). -/
theorem mbxGo_of_words {op : Nat} {tag : BitVec 16} (hc : (c = .ping tag ∧ op = 1) ∨ (c = .logFlush tag ∧ op = 3) ∨
      (c = .shutdown tag ∧ op = 4) ∨ (c = .fwQuery tag ∧ op = 6))
    (h0 : rg s 0 0x900 = op + 2 ^ 16 * tag.toNat) (hz : ∀ i < 8, 0 < i → rg s 0 (0x900 + 4 * i) = 0) :
    exec c s = .next (mbxGo s) := by
  have hlt := tag.isLt
  have hop : bits (rg s 0 0x900) 7 0 = op := by rw [h0, bits_eq_div_mod]; omega
  have htag : BitVec.ofNat 16 (bits (rg s 0 0x900) 31 16) = tag := by
    refine BitVec.eq_of_toNat_eq ?_
    rw [h0, bits_eq_div_mod, BitVec.toNat_ofNat]; omega
  have hrsv : bits (rg s 0 0x900) 15 8 = 0 := by rw [h0, bits_eq_div_mod]; omega
  have hzero : ((List.range 8).drop 1).all (fun k => decide (rg s 0 (0x900 + 4 * k) = 0)) = true := by
    rw [List.all_eq_true]
    intro k hk
    have hk8 : k < 8 := List.mem_range.1 (List.mem_of_mem_drop hk)
    have hk0 : 0 < k := by
      rcases Nat.eq_zero_or_pos k with rfl | hpos
      · exact absurd hk (by decide)
      · exact hpos
    exact decide_eq_true (hz k hk8 hk0)
  rcases hc with ⟨rfl, rfl⟩ | ⟨rfl, rfl⟩ | ⟨rfl, rfl⟩ | ⟨rfl, rfl⟩ <;>
    simp only [mbxGo, Nat.mul_zero, Nat.add_zero, hop, htag, hrsv, hzero] <;> rfl

theorem stwWrite_mailboxGo : stwWrite s 0x920 0x80000000 = mbxGo s := by
  have href : stwRefusal s 0x920 0x80000000 = none := by
    simp [stwRefusal, bits]
  have hgo : bitN 0x80000000 31 = true := by decide
  simp [stwWrite, href, hgo]

end Sys2Proof.Machine
end

section
/-! Control-port writes (spec/00 R10, spec/18 R427, R428, spec/19 R449): the clauses of the statement, each from what the page
does with the write. -/

namespace Sys2Proof.Machine

variable {s : State} {w : Word}

theorem portLive_of_ctlReady (hr : ctlReady s = true) (hst : s.blk.st ≠ .selfTest) (hh : s.blk.st ≠ .halted) :
    portLive s = true := by
  simp only [ctlReady, Bool.and_eq_true, decide_eq_true_eq] at hr
  simp [portLive, portOpen, hr, hst, hh]

theorem not_cold_of_ctlReady (hr : ctlReady s = true) : s.blk.st ≠ .cold := by
  simp only [ctlReady, Bool.and_eq_true, decide_eq_true_eq] at hr
  exact hr.1

/-- A write to a register that only stores is answered and stored. -/
theorem registerWrite_stores (hr : ctlReady s = true) (hst : s.blk.st ≠ .selfTest) (hh : s.blk.st ≠ .halted)
    (a : BitVec 22) {f : RegFmt} (hf : regFmt (a.toNat / 1024) (a.toNat % 1024 * 4) = some f)
    (h : storesOnly s (a.toNat / 1024) (a.toNat % 1024 * 4) = true) :
    exec (.registerWrite a w (wordPar w)) s =
      .next (storeReg (answer s 0 false) (a.toNat / 1024) (a.toNat % 1024 * 4) w.toNat) := by
  rw [exec_registerWrite hr]
  generalize a.toNat / 1024 = p at hf h ⊢
  generalize a.toNat % 1024 * 4 = o at hf h ⊢
  obtain ⟨hpage, hc⟩ := pageWrite_of_storesOnly (s := answer s 0 false) (v := w.toNat) hf h
  obtain ⟨k, hk⟩ : ∃ k, pageKind p = some k := by
    cases hk : pageKind p with
    | none => simp [regFmt, hk] at hf
    | some k => exact ⟨k, rfl⟩
  have hF : k ≠ 0xF0 := by rintro rfl; simp [storesOnly, hk] at h
  rw [regWrite_of_applied (s := answer s 0 false) hk hF hc hst (.inl hh), hpage]

/-- What the stored registers read after the port has answered and stored, and what the store leaves unchanged. -/
theorem registerWrite_stores_spec (hI : Inv s) (p o : Nat) {f : RegFmt} (hf : regFmt p o = some f) (w : Word) :
    let t := storeReg (answer s 0 false) p o w.toNat
    rg t p o = (w.toNat &&& f.rw) ||| (rg s p o &&& (0xFFFFFFFF - f.rw)) ∧
      rsvSet t p o = decide (w.toNat &&& f.rsv ≠ 0) ∧
      (∀ p' o', wa p' o' ≠ wa p o → rgw t p' o' = rgw s p' o' ∧ rsvSet t p' o' = rsvSet s p' o') ∧
      t = { answer s 0 false with regs := { s.regs with words := t.regs.words, rsv := t.regs.rsv } } :=
  ⟨rg_storeReg_self (s := answer s 0 false) hI.rising_words hf w.isLt, rsvSet_storeReg_self hf,
    fun _ _ hne => ⟨rgw_storeReg_ne hne, rsvSet_storeReg_ne hne⟩, storeReg_frame (answer s 0 false) p o w.toNat⟩

/-- `PAGE_ERR_MASK` holds the word written, and it is the only stored word that changes. -/
theorem registerWrite_errMask (hI : Inv s) (hr : ctlReady s = true) (hst : s.blk.st ≠ .selfTest)
    (hh : s.blk.st ≠ .halted) {p : Nat} (hk : (pageKind p).isSome = true) (hF : pageKind p ≠ some 0xF0) :
    Becomes (.registerWrite (BitVec.ofNat 22 (p * 1024 + 6)) w (wordPar w)) s (fun t =>
      t.pins = (answer s 0 false).pins ∧ rgw t p 0x018 = w ∧
      (∀ p' o', wa p' o' ≠ wa p 0x018 → rgw t p' o' = rgw s p' o') ∧ t.regs.live = s.regs.live ∧ t.pods = s.pods ∧
      t.jobs = s.jobs ∧ t.sqs = s.sqs ∧ t.cqs = s.cqs ∧ t.marrow = s.marrow ∧ t.mps = s.mps ∧ t.mem = s.mem ∧
      t.flt = s.flt) := by
  obtain ⟨k, hk⟩ := Option.isSome_iff_exists.1 hk
  have hp : p < 4096 := pageKind_lt hk
  have ha : (BitVec.ofNat 22 (p * 1024 + 6)).toNat = p * 1024 + 6 := by rw [BitVec.toNat_ofNat]; omega
  have hpage : (BitVec.ofNat 22 (p * 1024 + 6)).toNat / 1024 = p := by omega
  have hofs : (BitVec.ofNat 22 (p * 1024 + 6)).toNat % 1024 * 4 = 0x018 := by omega
  have hf : regFmt p 0x018 = some (fmt 0xFFFFFFFF) := by simp [regFmt, hk]
  have hexec := registerWrite_stores (w := w) hr hst hh (BitVec.ofNat 22 (p * 1024 + 6))
    (by rw [hpage, hofs]; exact hf) (by rw [hpage, hofs]; simp [storesOnly, hF])
  rw [hpage, hofs] at hexec
  obtain ⟨hself, -, hother, hframe⟩ := registerWrite_stores_spec hI p 0x018 hf w
  refine ⟨_, hexec, ?_⟩
  generalize storeReg (answer s 0 false) p 0x018 w.toNat = t at hself hother hframe ⊢
  have hw : rgw t p 0x018 = w := by
    refine BitVec.eq_of_toNat_eq (hself.trans ?_)
    simp only [fmt, Nat.sub_self, Nat.and_zero, Nat.or_zero]
    exact (Nat.and_two_pow_sub_one_eq_mod w.toNat 32).trans (Nat.mod_eq_of_lt w.isLt)
  exact ⟨congrArg (·.pins) hframe, hw, fun p' o' hne => (hother p' o' hne).1, congrArg (·.regs.live) hframe,
    congrArg (·.pods) hframe, congrArg (·.jobs) hframe, congrArg (·.sqs) hframe, congrArg (·.cqs) hframe,
    congrArg (·.marrow) hframe, congrArg (·.mps) hframe, congrArg (·.mem) hframe, congrArg (·.flt) hframe⟩

/-- `GO` of the inbound mailbox is a register write that every state past self-test applies (R388, R449). -/
theorem registerWrite_mailboxGo (hr : ctlReady s = true) (hst : s.blk.st ≠ .selfTest) {c : Instr} {op : Nat}
    {tag : BitVec 16} (hc : (c = .ping tag ∧ op = 1) ∨ (c = .logFlush tag ∧ op = 3) ∨ (c = .shutdown tag ∧ op = 4) ∨
      (c = .fwQuery tag ∧ op = 6))
    (h0 : rg s 0 0x900 = op + 2 ^ 16 * tag.toNat) (hz : ∀ i < 8, 0 < i → rg s 0 (0x900 + 4 * i) = 0) :
    exec (.registerWrite (BitVec.ofNat 22 0x248) 0x80000000 (wordPar 0x80000000)) s = exec c (answer s 0 false) := by
  have hpage : (BitVec.ofNat 22 0x248).toNat / 1024 = 0 := by decide
  have hofs : (BitVec.ofNat 22 0x248).toNat % 1024 * 4 = 0x920 := by decide
  have hword : (0x80000000 : Word).toNat = 0x80000000 := by decide
  have hwrite : regWrite (answer s 0 false) 0 0x920 0x80000000 = mbxGo (answer s 0 false) := by
    rw [regWrite_of_applied (s := answer s 0 false) (k := 0) rfl (by decide) (by decide) hst (.inr rfl),
      pageWrite_steward (by decide), stwWrite_mailboxGo]
  rw [exec_registerWrite hr, mbxGo_of_words (s := answer s 0 false) hc h0 hz, hpage, hofs, hword, hwrite]

theorem writeIgnored_answer (s : State) (d : Nat) (e : Bool) (p o v : Nat) :
    writeIgnored (answer s d e) p o v = writeIgnored s p o v := by
  simp only [writeIgnored, w1cWrite_snd]
  rfl

/-- A write with bad parity is answered as an error and is an event of the control port's source (R428). -/
theorem registerWrite_badParity (hr : ctlReady s = true) (a : BitVec 22) {par : BitVec 4} (hp : par ≠ wordPar w) :
    Becomes (.registerWrite a w par) s (fun t =>
      t.pins.ctlErr = true ∧ t.flt.active.getLsbD 8 = true ∧ t.marrow = s.marrow ∧ t.jobs = s.jobs ∧ t.sqs = s.sqs) := by
  refine ⟨raise (answer s 0 true) 8 127 0xFFFF, by simp [exec, execRegisterWrite, doRegWrite, hr, hp], ?_⟩
  obtain ⟨hactive, herr, -, hmarrow, hjobs, hsqs⟩ :=
    raise_block_keeps (s := answer s 0 true) (not_cold_of_ctlReady hr) (src := 8) (by decide) (by decide) (by decide)
      (by decide) 0xFFFF 127
  exact ⟨herr, hactive, hmarrow, hjobs, hsqs⟩

/-- Settles O13: the write goes to its page, which stores it, ignores it or runs its command; bad parity is an event. -/
theorem registerWriteStores : Obligations.RegisterWriteStores := by
  intro s w hI hr hst u
  refine ⟨fun hh p hk hF => registerWrite_errMask hI hr hst hh hk hF, fun hh a f hf h => ?_, fun a h => ?_,
    fun hh a c h => ?_, fun c op tag hc h0 hz => registerWrite_mailboxGo hr hst hc h0 hz, fun a par hp => ?_⟩
  · exact ⟨_, registerWrite_stores hr hst hh a hf h, registerWrite_stores_spec hI _ _ hf w⟩
  · rw [exec_registerWrite hr]
    exact congrArg _ (regWrite_of_writeIgnored ((writeIgnored_answer ..).trans h))
  · rw [exec_registerWrite hr]
    exact (exec_commandOf (portLive_of_ctlReady (s := answer s 0 false) hr hst hh) (by omega) (by omega) (by omega) h).symm
  · obtain ⟨t, ht, herr, hactive, hkept⟩ := registerWrite_badParity (w := w) hr a hp
    exact ⟨t, ht, herr, hactive, fun _ => hkept⟩

end Sys2Proof.Machine
end

section
/-! Every step keeps the invariant (spec/01 R16, R31, spec/11 R262) and takes its one command from the queue. The lemma of each
meaning stands under Sys2Proof/Laws; here every command cites the one of its meaning. -/

namespace Sys2Proof.Machine

open Host

variable {q : List Instr} {s t : State}

/-- The next state, where the outcome is one, keeps the invariant and has the queue `q`. -/
structure OkNext (q : List Instr) (o : Outcome State Fault Refusal) : Prop where
  all : ∀ t, o = .next t → Ok q t

theorem OkNext.next (h : Ok q s) : OkNext q (.next s) := ⟨fun _ e => Outcome.next.inj e ▸ h⟩

theorem OkNext.checked {b : Prop} [Decidable b] (h : Ok q s) : OkNext q (if b then .next s else .fault .illFormed) := by
  split
  · exact .next h
  · exact ⟨fun _ e => nomatch e⟩

/-- A command with a gate of its own either runs or leaves the state as it is. -/
theorem Ok.ite {b : Prop} [Decidable b] (ht : Ok q t) (hs : Ok q s) : Ok q (if b then t else s) := by
  split
  · exact ht
  · exact hs

theorem execMemResponse_ok (h : Ok q s) (a : RspTarget) (k : RspKind) (data : BitVec 512) (ok : Bool) :
    OkNext q (execMemResponse a k data ok s) := by
  unfold execMemResponse
  split
  · exact .next (doMemTimeout_ok h _ _)
  · exact .next (doMemResponse_ok h _ _ _ _)

/-- Every command keeps the invariant and leaves the queue alone. -/
theorem exec_ok (h : Ok q s) (i : Instr) : OkNext q (exec i s) :=
  match i with
  | .coldResetAssert => .next (doColdAssert_ok h)
  | .coldResetRelease => .next (doColdRelease_ok h)
  | .pllLock => .next (doPllLock_ok h)
  | .pllLockLoss => .next (doPllLoss_ok h)
  | .powerLoss => .next (doPowerLoss_ok h)
  | .warmResetAssert => .next (doWarmAssert_ok h)
  | .warmResetRelease => .next (doWarmRelease_ok h)
  | .startUpStepDone .. => .checked (doStepDone_ok h _)
  | .aliveTick .. => .next (doAliveTick_ok h _)
  | .registerWrite .. => .next (doRegWrite_ok h _ _ _)
  | .pageEnableSet .. => .next (doPageCtrl_ok h _ _)
  | .pageEnableClear .. => .next (doPageCtrl_ok h _ _)
  | .pageDrain .. => .next (doPageDrain_ok h _)
  | .bind .. => .checked (doBind_ok h _ _ _)
  | .unbind .. => .next (doUnbind_ok h _ _)
  | .save .. => .next (doSave_ok h _ _)
  | .restore .. => .checked (doRestore_ok h _ _ _)
  | .jobCommandStart .. => .checked (doStart_ok h _ _)
  | .jobLoadComplete .. => .next (doLoadDone_ok h _)
  | .drainComplete .. => .next (doDrainDone_ok h _)
  | .saveCommit .. => .next (doSaveCommit_ok h _)
  | .sqDoorbell .. => .next (doDoorbell_ok h _)
  | .ringOn (.sq _) => .next (sqCtrl_ok h _ _)
  | .ringOn (.cq _ _) => .next (cqCtrl_ok h _ _)
  | .cqOff .. => .next (cqCtrl_ok h _ _)
  | .ringDrain .. => .next (sqCtrl_ok h _ _)
  | .ringDrainDone .. => .next (doDrainWalk_ok h _ _ _)
  | .retry .. => .next (sqCtrl_ok h _ _)
  | .skip .. => .next (sqCtrl_ok h _ _)
  | .dropBatch .. => .next (sqCtrl_ok h _ _)
  | .cqHeadWrite .. => .next (cqHead_ok h _ _)
  | .cqMaskWrite .. => .next (cqCtrl_ok h _ _)
  | .slotRescanTimer .. => .next (doRescan_ok h _)
  | .entrySample .. => .checked (fetchEntry_ok h _ _ _ _)
  | .entryFrame .. => .checked (fetchEntry_ok h _ _ _ _)
  | .entryEndStream .. => .next (fetchEntry_ok h _ _ _ _)
  | .entryTensor .. => .next (fetchEntry_ok h _ _ _ _)
  | .entryFence .. => .next (fetchEntry_ok h _ _ _ _)
  | .entryMilepostSet .. => .next (fetchEntry_ok h _ _ _ _)
  | .entryMilepostClear .. => .next (fetchEntry_ok h _ _ _ _)
  | .entryMilepostWait .. => .next (fetchEntry_ok h _ _ _ _)
  | .entryMilepostTake .. => .next (fetchEntry_ok h _ _ _ _)
  | .entryNop .. => .next (fetchEntry_ok h _ _ _ _)
  | .fenceRelease .. => .next (doFenceRelease_ok h _)
  | .milepostTimeout .. => .next (doMpTimeout_ok h _ _)
  | .completionWrite .. => .next (doCompletion_ok h _)
  | .coalTimerExpire .. => .next (doCoal_ok h _)
  | .ingestTileOp .. => .next (runStation_ok h _ _ _ fun _ _ hs => ingestOp_ok hs _)
  | .decodeTileOp .. => .next (runStation_ok h _ _ _ fun _ _ hs => decodeOp_ok hs _)
  | .motionTileOp .. => .next (runStation_ok h _ _ _ fun _ _ hs => motionOp_ok hs _)
  | .shapeTileOp .. => .next (runStation_ok h _ _ _ fun _ _ hs => shapeOp_ok hs _)
  | .layoutTileOp .. => .next (runStation_ok h _ _ _ fun _ _ hs => layoutOp_ok hs _)
  | .tokeniseTileOp .. => .next (doTokenise_ok h _)
  | .packTileOp .. => .next (tryAll_ok h _ _ fun _ _ hs => packOp_ok hs _)
  | .matrixTileOp .. => .next (runStation_ok h _ _ _ fun _ _ hs => matrixOp_ok hs _)
  | .vectorTileOp .. => .next (runStation_ok h _ _ _ fun _ _ hs => vectorOp_ok hs _)
  | .sampleTileOp .. => .next (runStation_ok h _ _ _ fun _ _ hs => sampleOp_ok hs _)
  | .digestTileOp .. => .next (doDigest_ok h _)
  | .replicaLateTimer .. => .next (doReplicaLate_ok h _)
  | .transferTileOp .. => .next (doTransfer_ok h _)
  | .emitTileOp .. => .next (runStation_ok h _ _ _ fun _ _ hs => emitOp_ok hs _)
  | .batchEmit .. => .checked (doBatchEmit_ok h _ _)
  | .batchFlushTimer .. => .next (doFlush_ok h _)
  | .dirSlotRetry .. => .checked (doDirRetry_ok h _ _)
  | .verdict .. => .next (doVerdict_ok h _ _ _)
  | .scrubLine .. => .next (doScrub_ok h _)
  | .memResponse t k data ok => execMemResponse_ok h t k data ok
  | .memTimeout .. => .next (doMemTimeout_ok h _ _)
  | .mergeHoldExpire .. => .next (expireHolds_ok h _)
  | .multicastDeadline .. => .next (doDeadline_ok h _ _)
  | .writeFaultRetry => .next (doWriteRetry_ok h)
  | .xferResume .. => .next (doResume_ok h _)
  | .poolResponse .. => .next (doPoolResponse_ok h _)
  | .poolRetryTimer .. => .next (doPoolRetry_ok h _)
  | .poolTimeout => .next (doPoolTimeout_ok h)
  | .milepostSet .. => .next (mpOp_ok h _)
  | .milepostClear .. => .next (mpOp_ok h _)
  | .misuseZero .. => .next (mpOp_ok h _)
  | .mpDump => .next (doDump_ok h)
  | .arrive .. => .next (tgCmd_ok h _)
  | .recover .. => .next (tgCmd_ok h _)
  | .fail .. => .next (tgCmd_ok h _)
  | .tgCfgWrite .. => .next (tgCfg_ok h _ _)
  | .tollgateRelease .. => .next (releaseGate_ok h _)
  | .halfEn .. => .next (.ite (halfCfg_ok h _ _ _) h)
  | .portReset .. => .next (.ite (portCmd_ok h _ _) h)
  | .halfResume .. => .next (.ite (portCmd_ok h _ _) h)
  | .heartbeatTimer => .next (doHeartTimer_ok h)
  | .heartbeat .. => .next (doHeartbeat_ok h _ _)
  | .portLost .. => .next (doPortLost_ok h _)
  | .write .. => .checked (doWrite_ok h _ _ _ _ _ _ _)
  | .poison .. => .next (doPoison_ok h _ _ _ _ _)
  | .set .. => .next (doSet_ok h _ _ _)
  | .cwyArrive .. => .next (doCwyArrive_ok h _ _ _)
  | .credit .. => .next (doCredit_ok h _ _ _)
  | .ack .. => .next (doAck_ok h _ _ _)
  | .abort .. => .next (doAbort_ok h _ _)
  | .cwyBind .. => .next (doCwyBind_ok h _ _ _ _)
  | .courierSend .. => .next (doCourierSend_ok h _ _)
  | .courierForwardLine .. => .next (doForward_ok h _ _)
  | .fedCredit .. => .next (doFedCredit_ok h _ _)
  | .fedTakeTimeout .. => .next (doFedTimeout_ok h _ _)
  | .suspectDrainDone => .next (doSuspectDone_ok h)
  | .mapOutDone .. => .next (doMapOutDone_ok h _)
  | .podTestDone .. => .next (doPodTest_ok h _ _)
  | .rollTimer => .next (doRoll_ok h)
  | .swapCopyStart => .next (doCopyStart_ok h)
  | .swapCopyDone => .next (doCopyDone_ok h)
  | .load .. => .checked (doLoad_ok h _)
  | .remove .. => .next (doRemove_ok h _)
  | .faultEvent .. => .checked (doFaultEvent_ok h _ _ _ _)
  | .wireFault .. => .checked (doWireFault_ok h _ _ _ _)
  | .wireFaultClear .. => .checked (doWireClear_ok h _ _)
  | .fltSevereClear .. => .next (doSevereClear_ok h _)
  | .fltCfgWrite .. => .next (doFltCfg_ok h _ _)
  | .freeze .. => .next (doFreeze_ok h _)
  | .freezeTimeout => .next (doFreezeTimeout_ok h)
  | .factory => .next (doFactory_ok h)
  | .tstInj .. => .checked (doInject_ok h _)
  | .ping .. => .next (doPing_ok h _)
  | .telemNow .. => .checked (doTelemNow_ok h _ _)
  | .logFlush .. => .next (doLogFlush_ok h _)
  | .shutdown .. => .next (doShutdown_ok h _)
  | .fwUpdate .. => .checked (doFwUpdate_ok h _ _ _ _ _ _)
  | .fwQuery .. => .next (doFwQuery_ok h _)
  | .pop => .next (doPop_ok h)
  | .logFlushTimer => .next (doLogTimer_ok h)
  | .telemetrySnapshot .. => .checked (doSnapshot_ok h _)
  | .throttleTick .. => .checked (doThrottle_ok h _)
  | .rootStep => .next (doRootStep_ok h)
  | .pwrVreqAck => .next (doVreqAck_ok h)
  | .pwrSwAck .. => .next (doSwAck_ok h _ _ _)
  | .switchTimeout .. => .next (doSwTimeout_ok h _)
  | .idleGateTimer .. => .next (doIdleGate_ok h _)
  | .pwrIlimReq .. => .next (doIlimReq_ok h _)
  | .pwrIlimReqFall => .next (doIlimFall_ok h)
  | .pwrNMaxWrite .. => .next (doNMax_ok h _)
  | .droopDetect .. => .next (doDroop_ok h _ _)
  | .droopRecover .. => .next (doDroopEnd_ok h _)
  | .droopCapExpire => .next (doDroopCap_ok h)
  | .rngProbe .. => .next (.ite (doProbe_ok h _) h)
  | .registerRead .. => .next (doRegRead_ok h _)
  | .blockResetRelease => .next (doBlockRelease_ok h)
  | .sparePodTestDue .. => .next (doSpareDue_ok h _)
  | .illegalFlit .. => .next (doIllegalFlit_ok h _ _ _)

theorem tick_ok (h : Ok q s) : Ok q (tick s) := .ite (linkTurns_ok (h.same rfl rfl rfl rfl rfl)) h

/-- One step from the invariant: it holds again, and the queue has lost its front. -/
theorem step_ok (h : Inv s) (e : step s = .next t) : Ok s.pending.tail t := by
  unfold step at e
  split at e
  next hp =>
    rw [hp]
    exact Outcome.next.inj e ▸ tick_ok ⟨h, hp⟩
  next c rest hp =>
    rw [hp]
    exact (exec_ok (s := { s with pending := rest }) ⟨⟨h.regs, h.marrow, h.pwr, h.pods⟩, rfl⟩ c).all t e

/-- Settles O5: each meaning keeps the invariant, and so does the idle step. -/
theorem stepInvariant : Obligations.StepInvariant := fun _ _ h e => (step_ok h e).inv

/-- Settles O4: empty tables are in canonical form, the multiplier starts at 48, and there are 100 Pods (R16, R31). -/
theorem resetInvariant : Obligations.ResetInvariant :=
  ⟨rfl, rfl, rfl, List.length_replicate⟩

end Sys2Proof.Machine
end

section
/-! The end of a save (spec/02 R58, R60, spec/14 R354). A Pod due for test hands its logical ID to a prepared spare when an accepted
command names the ID: the spare's assignment is written to the persistent log, and that write is a new memory request. -/

namespace Sys2Proof.Machine

variable {s : State}

theorem sendReq_mem_ne (s : State) (r : MemReq) : (sendReq s r).mem ≠ s.mem := by
  unfold sendReq
  extract_lets j
  generalize freeTag s j = tag
  intro h
  cases tag with
  | some n => simpa [countLines] using congrArg (·.reqs.length) h
  | none => simpa using congrArg (·.held.length) h

/-- A log record is one more request: no area of writes repeated after a fault holds it back (R282). -/
theorem logWrite_mem_ne (s : State) (r : LogRec) : (logWrite s r).mem ≠ s.mem := by
  simpa [logWrite, memWrite, sendWrite, writeReq, behind, Purpose.area] using sendReq_mem_ne (modStw s _) _

@[simp] theorem zeroise_mem (s : State) (p : Nat) : (zeroise s p).mem = s.mem := by
  simp only [zeroise]
  split <;> rfl

@[simp] theorem toIdle_mem (s : State) (p : Nat) : (toIdle s p).mem = s.mem := by
  simp only [toIdle]
  split <;> rfl

/-- A release that hands the logical ID over changes the memory requests. -/
theorem freePod_handover_mem_ne {p t : Nat} (hspare : s.itg.rollSpare = some t)
    (h : (podAt s p).due = true ∧ s.itg.rollPod = p ∧ named s (podAt s p).logical = true ∧ (podAt s t).st = .test ∧
      (podAt s t).why = .prepared ∧ (podAt s t).gated = false) : (freePod s p).mem ≠ s.mem := by
  simp only [freePod, hspare, if_pos h, toIdle_mem]
  exact fun e => logWrite_mem_ne _ _ (e.trans (by simp))

@[simp] theorem restRound_mem (s : State) : (restRound s).mem = s.mem := by
  unfold restRound
  split <;> rfl

@[simp] theorem arbSettle_mem (s : State) : (arbSettle s).mem = s.mem := by
  unfold arbSettle
  rw [restRound_mem]
  split <;> rfl

@[simp] theorem syncBlock_mem (s : State) : (syncBlock s).mem = s.mem := by
  unfold syncBlock
  split
  · split <;> rfl
  · split <;> rfl
  · rfl

@[simp] theorem setJobSt_mem (s : State) (j : Nat) (x : JobState) : (setJobSt s j x).mem = s.mem := by simp [setJobSt]

/-- Job 0 holds its committed image; its Pod 0 is due for test, Pod 1 is its prepared spare, and the `RESTORE` of job 1 waits
for the logical ID of Pod 0. -/
def savedAtHandover : State := { State.reset with
  blk := { State.reset.blk with st := .running, resetBy := .none }
  pods := { Pod.reset with logical := 0, st := .saving, bindValid := true, due := true } ::
    { Pod.reset with role := 1, st := .test, why := .prepared, gated := false } :: List.replicate 98 Pod.reset
  jobs := [(0, { Job.empty with st := .saving, members := [0], phase := 4 }),
    (1, { Job.empty with st := .restoring, active := some ⟨.restore, false, [0], [0], [], emptyRoute, 0, 0, 0, 0⟩ })]
  itg := { State.reset.itg with rollPod := 0, rollPhase := 2, rollSpare := some 1 } }

theorem savedAtHandover_inv : Inv savedAtHandover := ⟨rfl, rfl, rfl, rfl⟩

theorem jobSaved_handover_mem_ne : (jobSaved savedAtHandover 0).mem ≠ savedAtHandover.mem := by
  have hpods : jobPods (freeGates (modJob savedAtHandover 0 fun b =>
    { b with gateCounts := b.gates.map fun g => (gateAt savedAtHandover g).count }) 0) 0 = [0] := by decide +kernel
  simp only [jobSaved, hpods, List.foldl_cons, List.foldl_nil, setJobSt_mem, modJob_mem]
  exact freePod_handover_mem_ne (t := 1) rfl (by decide +kernel)

/-- Refutes O27: when the released Pod hands its logical ID to a prepared spare (R60, R354), the assignment's log record is a new
memory request, so the memory ports do not stay as they were. -/
theorem not_drainAndSaveEnd : ¬ Obligations.DrainAndSaveEnd := by
  intro h
  obtain ⟨t, ht, -, -, -, -, -, -, -, -, -, hmem⟩ :=
    (h savedAtHandover savedAtHandover_inv (by decide)).2 0 (by decide) (by decide) (by decide)
  have hcommit : exec (.saveCommit 0) savedAtHandover = .next (jobSaved savedAtHandover 0) := by
    simp only [exec, execSaveCommit, doSaveCommit]
    rw [if_pos (by decide)]
    rfl
  rw [hcommit] at ht
  exact jobSaved_handover_mem_ne (Host.Outcome.next.inj ht ▸ hmem)

end Sys2Proof.Machine
end

section
/-! What a memory request, a message, a mailbox notice and a log record leave as they were (spec/11 R282, R424, spec/16 R389,
R391): they count lines, queue requests and change the Steward's queues, and nothing else. -/

namespace Sys2Proof.Machine

variable {s : State}

/-- The state with the counters, the memory ports and the Steward blanked. -/
def portFrame (s : State) : State :=
  { s with regs := { s.regs with live := [] }, mem := State.reset.mem, stw := State.reset.stw }

theorem portFrame_bump (p k n : Nat) : portFrame (bump s p k n) = portFrame s := by
  unfold bump
  split <;> rfl

theorem portFrame_sendReq (r : MemReq) : portFrame (sendReq s r) = portFrame s := by
  unfold sendReq
  extract_lets j
  generalize freeTag s j = tag
  cases tag with
  | some n => exact portFrame_bump ..
  | none => rfl

theorem portFrame_memWrite (a : Nat) (d : List Byte) (x c p : Nat) (u : Purpose) :
    portFrame (memWrite s a d x c p u) = portFrame s := by
  unfold memWrite sendWrite
  split
  · rfl
  · exact portFrame_sendReq _

theorem portFrame_logWrite (r : LogRec) : portFrame (logWrite s r) = portFrame s :=
  portFrame_memWrite ..

theorem portFrame_stwInterrupt : portFrame (stwInterrupt s) = portFrame s := by
  unfold stwInterrupt
  split
  · exact portFrame_memWrite ..
  · rfl

theorem portFrame_mbxPush (m : List Word) : portFrame (mbxPush s m) = portFrame s := by
  simp only [mbxPush]
  split
  · exact portFrame_stwInterrupt
  · rfl

theorem portFrame_mbxNotice (k : Nat) (ws : List Word) : portFrame (mbxNotice s k ws) = portFrame s := by
  unfold mbxNotice
  split
  · rfl
  · rw [portFrame_mbxPush]
    split <;> rfl

end Sys2Proof.Machine
end

section
/-! The caps and the root multiplier (spec/01 R31, spec/16 R395 to R398, Table 16-6). -/

namespace Sys2Proof.Machine

variable {s t : State}

/-! ## What the next change of the root leaves as it was -/

/-- The power state without the change of the root under way, the supply request and the answer on `PWR_ILIM_ACK`. -/
def Power.atRest (p : Power) : Power :=
  { p with slewing := false, slewUp := false, vreq := 0, vreqReq := false, vreqAck := false, ilimAck := false }

/-- The state with everything blanked that the start of a change of the root and the answer to a current-limit request may
change. -/
def capFrame (s : State) : State := { portFrame s with pwr := s.pwr.atRest }

theorem capFrame_of_portFrame (h : portFrame t = portFrame s) : capFrame t = capFrame s :=
  congrArg (fun u => { u with pwr := u.pwr.atRest }) h

@[simp] theorem capFrame_advanceRoot : capFrame (advanceRoot s) = capFrame s := by
  simp only [advanceRoot]
  split_ifs <;> rfl

@[simp] theorem capFrame_ilimAnswer : capFrame (ilimAnswer s) = capFrame s := by
  simp only [ilimAnswer]
  split
  · rw [capFrame_of_portFrame (portFrame_bump ..)]
    rfl
  · rfl

/-- The least cap is read from stored words and from caps that neither changes. -/
theorem leastCap_congr (h : capFrame t = capFrame s) : leastCap t = leastCap s :=
  (congrArg leastCap h : leastCap (capFrame t) = leastCap (capFrame s))

theorem ilimCap_congr (h : capFrame t = capFrame s) (l : Nat) : ilimCap t l = ilimCap s l :=
  (congrArg (ilimCap · l) h : ilimCap (capFrame t) l = ilimCap (capFrame s) l)

theorem rg_congr (h : capFrame t = capFrame s) (p o : Nat) : rg t p o = rg s p o :=
  (congrArg (rg · p o) h : rg (capFrame t) p o = rg (capFrame s) p o)

theorem advanceRoot_ilimAck : (advanceRoot s).pwr.ilimAck = s.pwr.ilimAck := by
  simp only [advanceRoot]
  split_ifs <;> rfl

theorem advanceRoot_of_eq (h : s.pwr.rootN = s.pwr.targetN) : advanceRoot s = s := if_pos (.inr h)

/-- A step up starts at once when the supply already stands for it (R395). -/
theorem advanceRoot_up (hs : s.pwr.slewing = false) (hlt : s.pwr.rootN < s.pwr.targetN) (hq : s.pwr.vreqReq = false)
    (ha : s.pwr.vreqAck = true) (hv : vreqCode (vguard s) (s.pwr.rootN + 1) ≤ s.pwr.vreq) :
    advanceRoot s = modPwr s fun p => { p with slewing := true, slewUp := true } := by
  simp [advanceRoot, hs, hlt.ne, hlt.not_gt, hq, ha, hv]

theorem ilimAnswer_ilimAck_iff (hreq : s.pwr.ilimReq = true) (hack : s.pwr.ilimAck = false) :
    (ilimAnswer s).pwr.ilimAck = true ↔ s.pwr.rootN ≤ ilimCap s s.pwr.ilimLvl := by
  simp only [ilimAnswer, hreq, hack]
  split <;> simp_all

/-! ## A new evaluation of the caps (R397) -/

/-- The evaluation ends with the next change of the root and the answer to a current-limit request; before them stand the new
target, the caps in force and perhaps a notice. -/
theorem retarget_eq (s : State) : ∃ u, retarget s = ilimAnswer (advanceRoot u) ∧
    portFrame u = portFrame (modPwr s fun p => { p with targetN := leastCap s, caps := capBits s }) := by
  refine ⟨_, rfl, ?_⟩
  split
  · exact portFrame_mbxNotice ..
  · rfl

theorem capFrame_retarget (s : State) :
    capFrame (retarget s) = capFrame (modPwr s fun p => { p with targetN := leastCap s, caps := capBits s }) := by
  obtain ⟨u, hu, hf⟩ := retarget_eq s
  rw [hu, capFrame_ilimAnswer, capFrame_advanceRoot, capFrame_of_portFrame hf]

/-- The target and the bits of the caps in force do not enter the least cap. -/
theorem leastCap_retarget (s : State) : leastCap (retarget s) = leastCap s :=
  (leastCap_congr (capFrame_retarget s)).trans rfl

theorem retarget_targetN (s : State) : (retarget s).pwr.targetN = leastCap (retarget s) :=
  (congrArg (·.pwr.targetN) (capFrame_retarget s)).trans (leastCap_retarget s).symm

theorem retarget_capDroop (s : State) : (retarget s).pwr.capDroop = s.pwr.capDroop :=
  congrArg (·.pwr.capDroop) (capFrame_retarget s)

/-- A pending current-limit request is answered exactly when the root is within its level's cap (R398). -/
theorem retarget_ilimAck_iff (hreq : s.pwr.ilimReq = true) (hack : s.pwr.ilimAck = false) :
    (retarget s).pwr.ilimAck = true ↔ (retarget s).pwr.rootN ≤ ilimCap (retarget s) s.pwr.ilimLvl := by
  obtain ⟨u, hu, hf⟩ := retarget_eq s
  have hr : capFrame (retarget s) = capFrame (advanceRoot u) := by rw [hu, capFrame_ilimAnswer]
  have ha : capFrame (advanceRoot u) = capFrame u := capFrame_advanceRoot
  have hreq' : (advanceRoot u).pwr.ilimReq = true :=
    (congrArg (·.pwr.ilimReq) ha).trans ((congrArg (·.pwr.ilimReq) hf).trans hreq)
  have hack' : (advanceRoot u).pwr.ilimAck = false :=
    advanceRoot_ilimAck.trans ((congrArg (·.pwr.ilimAck) hf).trans hack)
  have hlvl : (advanceRoot u).pwr.ilimLvl = s.pwr.ilimLvl :=
    (congrArg (·.pwr.ilimLvl) ha).trans (congrArg (·.pwr.ilimLvl) hf)
  have hroot : (retarget s).pwr.rootN = (advanceRoot u).pwr.rootN := congrArg (·.pwr.rootN) hr
  rw [hroot, ilimCap_congr hr, ← hlvl, hu]
  exact ilimAnswer_ilimAck_iff hreq' hack'

/-- A cap of 24 is the least there can be. -/
theorem leastCap_of_capTherm (h : s.pwr.capTherm = 24) : leastCap s = 24 := by
  simp only [leastCap, h]
  omega

theorem leastCap_le_nMax (h : 24 ≤ rgf s 2 0x40C 5 0) : leastCap s ≤ rgf s 2 0x40C 5 0 := by
  simp only [leastCap]
  omega

/-! ## Single commands -/

theorem rootStep_moves (h : s.pwr.slewing = true) : Becomes .rootStep s (fun t => t.pwr.targetN = s.pwr.targetN ∧
    t.pwr.rootN = (if s.pwr.slewUp then min 48 (s.pwr.rootN + 1) else max 24 (s.pwr.rootN - 1)) ∧ t.jobs = s.jobs ∧
    t.pods = s.pods) := by
  refine ⟨doRootStep s, rfl, ?_⟩
  have hf : capFrame (doRootStep s) = capFrame (modPwr s fun p => { p with
      rootN := if s.pwr.slewUp then min 48 (s.pwr.rootN + 1) else max 24 (s.pwr.rootN - 1) }) := by
    simp only [doRootStep, h, Bool.true_eq_false, if_false, capFrame_ilimAnswer, capFrame_advanceRoot, bump_pwr]
    cases s.pwr.slewUp with
    | true => rfl
    | false => rfl
  exact ⟨congrArg (·.pwr.targetN) hf, congrArg (·.pwr.rootN) hf, congrArg (·.jobs) hf, congrArg (·.pods) hf⟩

theorem vreqAck_advances (h : s.pwr.vreqReq = true) : Becomes .pwrVreqAck s (fun t =>
    t.pwr.rootN = s.pwr.rootN ∧ t.pwr.targetN = s.pwr.targetN ∧
    (s.pwr.rootN = s.pwr.targetN → t.pwr = { s.pwr with vreqReq := false, vreqAck := true }) ∧
    (s.pwr.slewing = false → s.pwr.rootN < s.pwr.targetN → vreqCode (vguard s) (s.pwr.rootN + 1) ≤ s.pwr.vreq →
      t.pwr = { s.pwr with vreqReq := false, vreqAck := true, slewing := true, slewUp := true })) := by
  have he : exec .pwrVreqAck s = .next (advanceRoot (modPwr s fun p => { p with vreqReq := false, vreqAck := true })) := by
    simp [exec, execPwrVreqAck, doVreqAck, h]
  generalize hu : (modPwr s fun p => { p with vreqReq := false, vreqAck := true }) = u at he
  have hp : u.pwr = { s.pwr with vreqReq := false, vreqAck := true } := hu ▸ rfl
  have hg : vguard u = vguard s := hu ▸ rfl
  have hf : capFrame (advanceRoot u) = capFrame s := capFrame_advanceRoot.trans (hu ▸ rfl)
  refine ⟨_, he, congrArg (·.pwr.rootN) hf, congrArg (·.pwr.targetN) hf, fun heq => ?_, fun hs hlt hv => ?_⟩
  · rw [advanceRoot_of_eq (by simpa [hp] using heq), hp]
  · rw [advanceRoot_up (by simpa [hp] using hs) (by simpa [hp] using hlt) (by simp [hp]) (by simp [hp])
      (by simpa [hp, hg] using hv), modPwr_pwr, hp]

theorem ilimReq_answered (l : BitVec 2) (ho : portOpen s = true) (ha : s.pwr.ilimAck = false) :
    Becomes (.pwrIlimReq l) s (fun t => t.pwr.ilimLvl = l.toNat ∧ t.pwr.ilimReq = true ∧ t.pwr.targetN = leastCap t ∧
      (t.pwr.ilimAck = true ↔ t.pwr.rootN ≤ ilimCap t l.toNat) ∧ t.jobs = s.jobs ∧ t.pods = s.pods) := by
  refine ⟨takeIlim s l.toNat, by simp [exec, execPwrIlimReq, doIlimReq, ho, ha], ?_⟩
  have hf := capFrame_retarget (modPwr s fun p => { p with ilimLvl := l.toNat, ilimWant := l.toNat, ilimReq := true })
  have ha' := retarget_ilimAck_iff
    (s := modPwr s fun p => { p with ilimLvl := l.toNat, ilimWant := l.toNat, ilimReq := true }) rfl ha
  exact ⟨congrArg (·.pwr.ilimLvl) hf, congrArg (·.pwr.ilimReq) hf, retarget_targetN _, ha', congrArg (·.jobs) hf,
    congrArg (·.pods) hf⟩

/-! ## `PWR_N_MAX` (Tables 16-8, 16-9) -/

theorem nMax_stored (hI : Inv s) (w : Word) (ho : portOpen s = true) (hlo : 24 ≤ bits w.toNat 5 0)
    (hhi : bits w.toNat 5 0 ≤ 48) (hrsv : bits w.toNat 31 6 = 0) : Becomes (.pwrNMaxWrite w) s (fun t =>
      rg t 2 0x40C % 64 = w.toNat ∧ t.pwr.targetN = leastCap t ∧ t.pwr.targetN ≤ w.toNat ∧ t.jobs = s.jobs) := by
  have hlt : ¬ (bits w.toNat 5 0 < 24 ∨ bits w.toNat 5 0 > 48) := by omega
  refine ⟨retarget (storeReg s 2 0x40C w.toNat), by simp [exec, execPwrNMaxWrite, doNMax, writeNMax, ho, hlt, hrsv], ?_⟩
  have hf := capFrame_retarget (storeReg s 2 0x40C w.toNat)
  have hrg : rg (retarget (storeReg s 2 0x40C w.toNat)) 2 0x40C = rg (storeReg s 2 0x40C w.toNat) 2 0x40C :=
    (rg_congr hf 2 0x40C).trans rfl
  have hw : w.toNat < 64 := by
    have := w.isLt
    rw [bits_eq_div_mod] at hrsv
    omega
  have hreg : rg (storeReg s 2 0x40C w.toNat) 2 0x40C % 64 = w.toNat := by
    rw [rg_storeReg_self hI.rising_words (show regFmt 2 0x40C = some (fmt 0x3F 48) from rfl) w.isLt,
      show (64 : Nat) = 2 ^ 6 from rfl, Nat.or_mod_two_pow, Nat.and_mod_two_pow, Nat.and_mod_two_pow]
    simpa [fmt, Nat.mod_eq_of_lt hw] using (Nat.and_two_pow_sub_one_eq_mod w.toNat 6).trans (Nat.mod_eq_of_lt hw)
  have hfield : rgf (storeReg s 2 0x40C w.toNat) 2 0x40C 5 0 = w.toNat := by simp [rgf, bits_eq_div_mod, hreg]
  refine ⟨hrg ▸ hreg, retarget_targetN _, ?_, (congrArg (·.jobs) hf).trans ?_⟩
  · rw [retarget_targetN, leastCap_retarget]
    exact (leastCap_le_nMax (by rw [hfield]; rw [bits_eq_div_mod] at hlo; omega)).trans hfield.le
  · exact congrArg (·.jobs) (storeReg_frame s 2 0x40C w.toNat)

/-- A refusal leaves its code and offset in `PAGE_REFUSE` (spec/19 R446). -/
theorem refused_refuse (h : rising s.regs.words = true) (p : Nat) {code o : Nat} (hc : code < 2 ^ 16) (ho : o < 2 ^ 12) :
    refused (refuse s p code o) p code o := by
  simp only [refused, refuse, rg, rgw_wrg_self h, BitVec.toNat_ofNat, bitN_eq_decide, b2n]
  rw [Nat.mod_eq_of_lt (show o < 4096 from ho), decide_eq_true_eq]
  split <;> constructor <;> omega

theorem words_noteRsv (p o w : Nat) : (noteRsv s p o w).regs.words = s.regs.words := by
  unfold noteRsv
  split <;> rfl

theorem pwr_noteRsv (p o w : Nat) : (noteRsv s p o w).pwr = s.pwr := by
  unfold noteRsv
  split <;> rfl

theorem nMax_refused (hI : Inv s) (w : Word) (ho : portOpen s = true) (h : bits w.toNat 5 0 < 24 ∨ 48 < bits w.toNat 5 0) :
    Becomes (.pwrNMaxWrite w) s (fun t =>
      refused t 2 0x0204 0x40C ∧ rgw t 2 0x40C = rgw s 2 0x40C ∧ t.pwr = s.pwr) := by
  have hr : rising (noteRsv s 2 0x40C w.toNat).regs.words = true := words_noteRsv 2 0x40C w.toNat ▸ hI.rising_words
  refine ⟨refuse (noteRsv s 2 0x40C w.toNat) 2 0x0204 0x40C, by simp [exec, execPwrNMaxWrite, doNMax, writeNMax, ho, h],
    refused_refuse hr 2 (by decide) (by decide), ?_, pwr_noteRsv ..⟩
  rw [refuse, rgw_wrg_ne (by decide), rgw_noteRsv]

/-! ## The droop cap and the throttle tick -/

theorem droopCapExpire_renews {c : Nat} (h : s.pwr.capDroop = some c) : Becomes .droopCapExpire s (fun t =>
    t.pwr.targetN = leastCap t ∧
    t.pwr.capDroop = if allPods.any (fun p => (instAt s 18 p).severe) then some (s.pwr.rootN - 2) else none) := by
  refine ⟨doDroopCap s, rfl, ?_⟩
  simp only [doDroopCap, h, Option.isNone_some, Bool.false_eq_true, if_false]
  split
  · exact ⟨retarget_targetN _, retarget_capDroop _⟩
  · exact ⟨retarget_targetN _, retarget_capDroop _⟩

/-- An event of the block's sensors leaves the power state but for the pins of a block reset (R410). -/
theorem eventFrame_pwr_raise {src : Nat} (h2 : src ≠ 2) (h4 : src ≠ 4) (h18 : src ≠ 18) (i info pod : Nat) :
    (eventFrame (raise s src i info pod)).pwr = (eventFrame s).pwr := by
  cases hh : hears (draw s) src i with
  | true =>
    rw [raise, eventFrame_raiseAs hh h2 h4 h18]
    rfl
  | false =>
    rw [raise, raiseAs, if_pos hh]
    rfl

theorem nextTherm_critical (x : BitVec 16) (p : Power) (h : sext 16 (rgf s 2 0x404 31 16) ≤ x.toInt) :
    (nextTherm s x p).capTherm = 24 := by
  simp [nextTherm, h]

/-- Below the critical temperature the thermal cap falls one step at once and then every ten samples, and rises one step
every hundred (Table 16-6). -/
theorem nextTherm_capTherm (x : BitVec 16) (p : Power) (h : x.toInt < sext 16 (rgf s 2 0x404 31 16)) :
    (sext 16 (rgf s 2 0x404 15 0) ≤ x.toInt → (nextTherm s x p).capTherm =
      if p.capTherm = 48 ∨ 9 ≤ p.thermTick then max 24 (p.capTherm - 1) else p.capTherm) ∧
    (x.toInt < sext 16 (rgf s 2 0x404 15 0) - 24 → (nextTherm s x p).capTherm =
      if p.capTherm < 48 ∧ 99 ≤ p.thermTick then p.capTherm + 1 else p.capTherm) := by
  refine ⟨fun ht => ?_, fun ht => ?_⟩
  · simp only [nextTherm, if_neg h.not_ge, if_pos ht, ge_iff_le]
    split <;> rfl
  · have hn : ¬ sext 16 (rgf s 2 0x404 15 0) ≤ x.toInt := by omega
    simp only [nextTherm, if_neg h.not_ge, if_neg hn, ht, true_and, ge_iff_le]
    by_cases hc : p.capTherm < 48 <;> by_cases hk : 99 ≤ p.thermTick <;> simp [hc, hk]

/-- The thermal sample moves the thermal cap and its counter only. -/
theorem nextTherm_frame (x : BitVec 16) (p : Power) :
    nextTherm s x p = { p with capTherm := (nextTherm s x p).capTherm, thermTick := (nextTherm s x p).thermTick } := by
  simp only [nextTherm]
  split_ifs <;> rfl

/-- The power sample moves the power cap and its counter only. -/
theorem nextPower_frame (x : Sensors) (p : Power) :
    nextPower s x p = { p with capPower := (nextPower s x p).capPower, powerTick := (nextPower s x p).powerTick } := by
  simp only [nextPower]
  split_ifs <;> rfl

theorem nextPower_above_peak (x : Sensors) (p : Power) (h : rgf s 2 0x400 31 16 < x.power10us.toNat) :
    (nextPower s x p).capPower =
      if p.capPower = 48 ∨ 9 ≤ p.powerTick then max 24 (p.capPower - 1) else p.capPower := by
  simp only [nextPower, gt_iff_lt, if_pos h, ge_iff_le]
  split <;> rfl

/-- What the samples make of the power state, before the events and the new target (R397). -/
def sampledPower (s : State) (x : Sensors) : Power :=
  { nextPower s x (nextTherm s x.hottest s.pwr) with
    power := x.power10us.toNat, avgPower := x.avgPower.toNat, current := x.current.toNat
    critical := decide (sext 16 (rgf s 2 0x404 31 16) ≤ x.hottest.toInt)
    overI := decide (x.current.toNat > rgf s 2 0x414 15 0) }

/-- A throttle tick is the samples, perhaps an event of heat and one of current, and an evaluation of the caps. -/
theorem throttle_eq (x : Sensors) (ho : portOpen s = true) : ∃ u, doThrottle s x = retarget u ∧
    (eventFrame u).pwr = { sampledPower s x with ilimAck := false, vreqReq := false } := by
  simp only [doThrottle, ho, Bool.true_eq_false, if_false]
  refine ⟨_, rfl, ?_⟩
  rw [apply_ite eventFrame, apply_ite State.pwr, eventFrame_pwr_raise (by decide) (by decide) (by decide), ite_self,
    apply_ite eventFrame, apply_ite State.pwr, eventFrame_pwr_raise (by decide) (by decide) (by decide), ite_self]
  rfl

theorem throttleTick_samples (x : Sensors) (hx : x.wf = true) (ho : portOpen s = true) :
    Becomes (.throttleTick x) s (fun t => t.pwr.targetN = leastCap t ∧
      t.pwr.power = x.power10us.toNat ∧ t.pwr.avgPower = x.avgPower.toNat ∧ t.pwr.current = x.current.toNat ∧
      t.pwr.capTherm = (nextTherm s x.hottest s.pwr).capTherm ∧
      t.pwr.capPower = (nextPower s x (nextTherm s x.hottest s.pwr)).capPower ∧ t.pwr.rootN = s.pwr.rootN) := by
  obtain ⟨u, hu, hp⟩ := throttle_eq x ho
  have hf := capFrame_retarget u
  have hc : (retarget u).pwr.capTherm = (nextPower s x (nextTherm s x.hottest s.pwr)).capTherm :=
    (congrArg (·.pwr.capTherm) hf).trans (congrArg (·.capTherm) hp)
  have hr : (retarget u).pwr.rootN = (nextPower s x (nextTherm s x.hottest s.pwr)).rootN :=
    (congrArg (·.pwr.rootN) hf).trans (congrArg (·.rootN) hp)
  rw [nextPower_frame] at hc hr
  rw [nextTherm_frame] at hr
  exact ⟨_, by simp [exec, execThrottleTick, hx, hu], retarget_targetN u,
    (congrArg (·.pwr.power) hf).trans (congrArg (·.power) hp),
    (congrArg (·.pwr.avgPower) hf).trans (congrArg (·.avgPower) hp),
    (congrArg (·.pwr.current) hf).trans (congrArg (·.current) hp), hc,
    (congrArg (·.pwr.capPower) hf).trans (congrArg (·.capPower) hp), hr⟩

/-- Settles O59: each command ends in a new target of the root or in the next change of the root, and neither moves more than
the statement says (R395 to R398). -/
theorem rootAndCaps : Obligations.RootAndCaps := by
  intro s hI
  refine ⟨rootStep_moves, vreqAck_advances, fun l => ⟨ilimReq_answered l, fun hc => ?_⟩, rfl,
    fun w ho => ⟨nMax_stored hI w ho, nMax_refused hI w ho⟩, fun c => droopCapExpire_renews, fun x hx ho => ?_⟩
  · simp [exec, execPwrIlimReq, doIlimReq, hc, modPwr]
  · obtain ⟨t, ht, htarget, hpower, havg, hcur, htherm, hcap, hroot⟩ := throttleTick_samples x hx ho
    refine ⟨t, ht, htarget, hpower, havg, hcur, fun hcrit => ?_, fun hcool => ?_, fun hpeak => ?_, hroot⟩
    · have h24 : t.pwr.capTherm = 24 := htherm.trans (nextTherm_critical _ _ hcrit)
      exact ⟨h24, htarget.trans (leastCap_of_capTherm h24)⟩
    · rw [htherm]
      exact nextTherm_capTherm _ _ hcool
    · rw [hcap, nextPower_above_peak _ _ hpeak, nextTherm_frame]

end Sys2Proof.Machine
end

section
/-! What rings, streams, transfers, records and messages leave as they were: the Pods, their Marrow, the jobs, the block and its
power (spec/03 R84, spec/04 R100, spec/13 R324, spec/15 R376). -/

namespace Sys2Proof.Machine

variable {s t : State}

/-- The state with everything blanked that rings, streams, transfers, records and messages may change. -/
def podFrame (s : State) : State :=
  { portFrame s with
    flt := { State.reset.flt with active := s.flt.active }
    regs := State.reset.regs, mps := State.reset.mps, gates := [], entries := [], ops := [], sqs := [], cqs := []
    arb := State.reset.arb, streams := [], cache := [], decodes := [], cwy := [], free := 0 }

theorem podFrame_of_portFrame (h : portFrame t = portFrame s) : podFrame t = podFrame s :=
  congrArg (fun u => { u with
    flt := { State.reset.flt with active := u.flt.active }
    regs := State.reset.regs, mps := State.reset.mps, gates := [], entries := [], ops := [], sqs := [], cqs := []
    arb := State.reset.arb, streams := [], cache := [], decodes := [], cwy := [], free := 0 }) h

theorem podFrame_foldl {α : Type} {g : State → α → State} (hg : ∀ s a, podFrame (g s a) = podFrame s) (l : List α)
    (s : State) : podFrame (l.foldl g s) = podFrame s := by
  induction l generalizing s with
  | nil => rfl
  | cons a l ih => rw [List.foldl_cons, ih, hg]

/-! ## Records and messages -/

@[simp] theorem podFrame_pageErr (p i : Nat) : podFrame (pageErr s p i) = podFrame s := rfl
@[simp] theorem podFrame_latchPage (p : Nat) : podFrame (latchPage s p) = podFrame s := rfl
@[simp] theorem podFrame_modMem (f : Mem → Mem) : podFrame (modMem s f) = podFrame s := rfl
@[simp] theorem podFrame_modStw (f : Steward → Steward) : podFrame (modStw s f) = podFrame s := rfl
@[simp] theorem podFrame_logLater (r : LogRec) : podFrame (logLater s r) = podFrame s := rfl

@[simp] theorem podFrame_bump (p k n : Nat) : podFrame (bump s p k n) = podFrame s :=
  podFrame_of_portFrame (portFrame_bump ..)

@[simp] theorem podFrame_sendReq (r : MemReq) : podFrame (sendReq s r) = podFrame s :=
  podFrame_of_portFrame (portFrame_sendReq r)

@[simp] theorem podFrame_memWrite (a : Nat) (d : List Byte) (x c p : Nat) (u : Purpose) :
    podFrame (memWrite s a d x c p u) = podFrame s :=
  podFrame_of_portFrame (portFrame_memWrite ..)

@[simp] theorem podFrame_sendMsg (who a d x : Nat) : podFrame (sendMsg s who a d x) = podFrame s := podFrame_memWrite ..

@[simp] theorem podFrame_mbxNotice (k : Nat) (ws : List Word) : podFrame (mbxNotice s k ws) = podFrame s :=
  podFrame_of_portFrame (portFrame_mbxNotice ..)

@[simp] theorem podFrame_logWrite (r : LogRec) : podFrame (logWrite s r) = podFrame s :=
  podFrame_of_portFrame (portFrame_logWrite r)

@[simp] theorem podFrame_logFlush : podFrame (logFlush s) = podFrame s := by
  simp [logFlush, podFrame_foldl]

/-- A change of the collector that leaves the active sources alone. -/
theorem podFrame_modFlt {g : Collector → Collector} (hg : (g s.flt).active = s.flt.active) :
    podFrame (modFlt s g) = podFrame s := by
  simp [podFrame, portFrame, modFlt, hg]

@[simp] theorem podFrame_logPut (r : Wayside) : podFrame (logPut s r) = podFrame s := by
  simp [logPut, podFrame_modFlt]

@[simp] theorem podFrame_recordNew (r : Wayside) : podFrame (recordNew s r) = podFrame s := by
  unfold recordNew
  split_ifs <;> simp [podFrame_modFlt]

@[simp] theorem podFrame_recordEvent (r : Wayside) (x : Inst) (severe wire : Bool) (fired : Nat) :
    podFrame (recordEvent s r x severe wire fired) = podFrame s := by
  simp only [recordEvent]
  split
  · simp
  · split
    · split_ifs <;> simp [podFrame_modFlt]
    · simp

@[simp] theorem podFrame_dumpOnSevere : podFrame (dumpOnSevere s) = podFrame s := by
  unfold dumpOnSevere
  split_ifs
  · rfl
  · rw [dumpStart, dumpUnit, podFrame_foldl (fun s a => podFrame_memWrite ..), podFrame_bump]
    rfl
  · rfl

@[simp] theorem podFrame_fltInterrupt : podFrame (fltInterrupt s) = podFrame s := by
  simp only [fltInterrupt]
  split_ifs <;> simp

/-! ## Rings, streams and halves -/

@[simp] theorem podFrame_modSq (n : Nat) (f : Sq → Sq) : podFrame (modSq s n f) = podFrame s := rfl
@[simp] theorem podFrame_modCq (c : Nat) (f : Cq → Cq) : podFrame (modCq s c f) = podFrame s := rfl
@[simp] theorem podFrame_modEntry (n k : Nat) (f : Entry → Entry) : podFrame (modEntry s n k f) = podFrame s := rfl
@[simp] theorem podFrame_modHalf (k h : Nat) (f : Half → Half) : podFrame (modHalf s k h f) = podFrame s := rfl
@[simp] theorem podFrame_endXfers (j r : Nat) : podFrame (endXfers s j r) = podFrame s := rfl
@[simp] theorem podFrame_freePoolOf (c a : Nat) : podFrame (freePoolOf s c a) = podFrame s := rfl
@[simp] theorem podFrame_freeGates (j : Nat) : podFrame (freeGates s j) = podFrame s := rfl

@[simp] theorem podFrame_arbSettle : podFrame (arbSettle s) = podFrame s := by
  unfold arbSettle restRound
  split_ifs <;> rfl

@[simp] theorem podFrame_finish (e : Entry) (status detail count info : Nat) :
    podFrame (finish s e status detail count info) = podFrame s := by
  unfold finish addDue
  split
  · split_ifs <;> simp
  · rfl

@[simp] theorem podFrame_forgetAsks (c : Nat) (f : PoolUser → Bool) : podFrame (forgetAsks s c f) = podFrame s := by
  simp only [forgetAsks, podFrame_modMem]
  exact podFrame_foldl (fun _ _ => podFrame_freePoolOf ..) _ _

@[simp] theorem podFrame_dropBatches (n : Nat) : podFrame (dropBatches s n) = podFrame s := by
  simp only [dropBatches, podFrame_modSq, podFrame_modMem, podFrame_forgetAsks]
  refine podFrame_foldl (fun s b => ?_) _ _
  split <;> rfl

@[simp] theorem podFrame_writeStream (k : Nat) (x : Stream) (r : Nat) : podFrame (writeStream s k x r) = podFrame s := by
  unfold writeStream
  split <;> simp

theorem podFrame_setStreams (l : List (Nat × Stream)) : podFrame { s with streams := l } = podFrame s := rfl

@[simp] theorem podFrame_closeSome (f : Nat × Stream → Bool) (cs : Nat) : podFrame (closeSome s f cs) = podFrame s := by
  simp only [closeSome, podFrame_setStreams]
  refine podFrame_foldl (fun s e => ?_) _ _
  simp only [podFrame_writeStream, podFrame_forgetAsks]
  have hbufs (u : State) : podFrame ((heldBufs e.2.dpb).foldl (fun s a => freePoolOf s e.2.pool a) u) = podFrame u :=
    podFrame_foldl (fun _ _ => podFrame_freePoolOf ..) _ _
  split
  · exact hbufs s
  · exact hbufs s

@[simp] theorem podFrame_closeStreams (j : Nat) : podFrame (closeStreams s j) = podFrame s := podFrame_closeSome ..

@[simp] theorem podFrame_endRingEntries (n status : Nat) (cause : List Nat) :
    podFrame (endRingEntries s n status cause) = podFrame s :=
  podFrame_foldl (fun s e => by simp) _ _

theorem podFrame_setMps (m : MpBank) : podFrame { s with mps := m } = podFrame s := rfl

@[simp] theorem podFrame_drainRing (n status : Nat) (cause : List Nat) : podFrame (drainRing s n status cause) = podFrame s := by
  unfold drainRing
  split
  · rfl
  · rfl
  · simp only [podFrame_arbSettle, podFrame_closeSome, podFrame_dropBatches, podFrame_endRingEntries]
    rfl

@[simp] theorem podFrame_drainJobRings (j status : Nat) (cause : List Nat) :
    podFrame (drainJobRings s j status cause) = podFrame s :=
  podFrame_foldl (fun _ _ => podFrame_drainRing ..) _ _

@[simp] theorem podFrame_sendFlit (k : Nat) (f : Flit) : podFrame (sendFlit s k f) = podFrame s := by
  change podFrame (bump (bump s _ _ _) _ _ _) = podFrame s
  simp

@[simp] theorem podFrame_abortHalves (j : Nat) : podFrame (abortHalves s j) = podFrame s := by
  refine (podFrame_foldl (fun s e => ?_) _ _).trans (podFrame_setMps _)
  split <;> simp

end Sys2Proof.Machine
end

section
/-! One Pod after an update of a Pod, and a zeroised Marrow slice (spec/02 R34, spec/11 R262). -/

namespace Sys2Proof.Machine

variable {s t : State}

theorem podAt_congr (h : t.pods = s.pods) (p : Nat) : podAt t p = podAt s p := congrArg (·.getD p Pod.reset) h

theorem podAt_modPod (s : State) (p x : Nat) (f : Pod → Pod) :
    podAt (modPod s p f) x = if x = p ∧ p < s.pods.length then f (podAt s p) else podAt s x := by
  simp only [podAt, modPod_pods, List.getD_eq_getElem?_getD, List.getElem?_modify]
  by_cases hx : x = p
  · subst hx
    by_cases hl : x < s.pods.length
    · simp [hl]
    · simp [hl]
  · simp [hx, Ne.symm hx]

theorem podAt_modPod_self {p : Nat} (h : p < s.pods.length) (f : Pod → Pod) :
    podAt (modPod s p f) p = f (podAt s p) := by
  rw [podAt_modPod, if_pos ⟨rfl, h⟩]

theorem podAt_modPod_ne {p x : Nat} (h : x ≠ p) (f : Pod → Pod) : podAt (modPod s p f) x = podAt s x := by
  rw [podAt_modPod, if_neg fun hx => h hx.1]

@[simp] theorem length_modPod (p : Nat) (f : Pod → Pod) : (modPod s p f).pods.length = s.pods.length := by simp

/-- A Pod takes its place in the list of physical Pods (R16). -/
theorem Inv.pod_lt (h : Inv s) (p : Fin 100) : p.val < s.pods.length := by
  rw [h.pods]
  exact p.isLt

/-! ## Zeroisation -/

theorem sget?_filter_key {α : Type} (m : List (Nat × α)) (g : Nat → Bool) (k : Nat) :
    sget? (m.filter fun e => g e.1) k = if g k then sget? m k else none := by
  induction m with
  | nil => simp
  | cons e m ih =>
    obtain ⟨j, v⟩ := e
    by_cases hj : g j = true
    · rw [List.filter_cons_of_pos (by simpa using hj)]
      by_cases hk : j = k
      · subst hk
        simp [sget?, hj]
      · simp [sget?, hk, ih]
    · rw [List.filter_cons_of_neg (by simpa using hj), ih]
      by_cases hk : j = k
      · subst hk
        simp [hj]
      · simp [sget?, hk]

theorem bytes_zeroiseMarrow (m : Marrow) (p k : Nat) :
    sgetD (zeroiseMarrow m p).bytes k 0 = if k / 6291456 = p then 0 else sgetD m.bytes k 0 := by
  simp only [zeroiseMarrow, sgetD, sget?_filter_key m.bytes fun k => !decide (k / 6291456 = p)]
  by_cases h : k / 6291456 = p <;> simp [h]

/-- Zeroisation changes the Marrow and the Milepost records, and nothing else. -/
theorem zeroise_eq (s : State) (p : Nat) :
    zeroise s p = { s with marrow := zeroiseMarrow s.marrow p, mps := (zeroise s p).mps } := by
  simp only [zeroise]
  split <;> rfl

@[simp] theorem zeroise_pods (p : Nat) : (zeroise s p).pods = s.pods := by rw [zeroise_eq]
@[simp] theorem zeroise_marrow (p : Nat) : (zeroise s p).marrow = zeroiseMarrow s.marrow p := by rw [zeroise_eq]
@[simp] theorem zeroise_jobs (p : Nat) : (zeroise s p).jobs = s.jobs := by rw [zeroise_eq]
@[simp] theorem zeroise_flt (p : Nat) : (zeroise s p).flt = s.flt := by rw [zeroise_eq]
@[simp] theorem zeroise_blk (p : Nat) : (zeroise s p).blk = s.blk := by rw [zeroise_eq]
@[simp] theorem zeroise_rng (p : Nat) : (zeroise s p).rng = s.rng := by rw [zeroise_eq]
@[simp] theorem podAt_zeroise (p x : Nat) : podAt (zeroise s p) x = podAt s x := podAt_congr (zeroise_pods p) x

theorem zeroisedPod_of_marrow {p : Nat} (h : t.marrow = zeroiseMarrow s.marrow p) : zeroisedPod s t p := fun a => by
  rw [h, bytes_zeroiseMarrow]

end Sys2Proof.Machine
end

section
/-! What the ends of jobs and the calls for spares leave as they were (spec/02 R53, Table 2-11, spec/14 R348, R349, R361): the
Pods that work for no job, every Pod's count of passed tests, zeroised Marrow, and the active fault sources. -/

namespace Sys2Proof.Machine

variable {s t u : State}

/-- Whether no end of a job and no call for a spare changes the Pod: it works for no job and is no spare that is off. -/
def Pod.leftAlone (q : Pod) : Bool :=
  decide (q.st ≠ .bound ∧ q.st ≠ .saving ∧ q.st ≠ .restoring ∧ ¬ (q.role = 1 ∧ q.st = .off))

/-- Jobs have ended or spares have been called between `s` and `t`. -/
structure JobsEnd (s t : State) : Prop where
  pods : ∀ p, (podAt s p).leftAlone = true → podAt t p = podAt s p
  tests : ∀ p, (podAt t p).tests = (podAt s p).tests ∧ (podAt t p).testTime = (podAt s p).testTime
  bytes : ∀ k, sgetD s.marrow.bytes k 0 = 0 → sgetD t.marrow.bytes k 0 = 0
  active : t.flt.active = s.flt.active
  block : s.blk.st = .ready ∨ s.blk.st = .running → t.blk.st = .ready ∨ t.blk.st = .running

theorem JobsEnd.refl (s : State) : JobsEnd s s := ⟨fun _ _ => rfl, fun _ => ⟨rfl, rfl⟩, fun _ h => h, rfl, fun h => h⟩

theorem JobsEnd.trans (h : JobsEnd s t) (h' : JobsEnd t u) : JobsEnd s u where
  pods p hp := by
    have hq := h.pods p hp
    exact (h'.pods p (hq ▸ hp)).trans hq
  tests p := ⟨(h'.tests p).1.trans (h.tests p).1, (h'.tests p).2.trans (h.tests p).2⟩
  bytes k hk := h'.bytes k (h.bytes k hk)
  active := h'.active.trans h.active
  block hb := h'.block (h.block hb)

theorem JobsEnd.foldl {α : Type} {f : State → α → State} {l : List α}
    (hf : ∀ s a, JobsEnd s (f s a)) (s : State) :
    JobsEnd s (l.foldl f s) := by
  induction l generalizing s with
  | nil => exact .refl s
  | cons a l ih => exact (hf s a).trans (ih _)

/-! ## Operations that change no Pod -/

theorem JobsEnd.of_eq (hp : t.pods = s.pods) (hm : t.marrow.bytes = s.marrow.bytes) (hf : t.flt.active = s.flt.active)
    (hb : t.blk.st = s.blk.st ∨ t.blk.st = .ready ∨ t.blk.st = .running) : JobsEnd s t where
  pods p _ := podAt_congr hp p
  tests p := by simp [podAt_congr hp p]
  bytes k hk := hm ▸ hk
  active := hf
  block h := hb.elim (· ▸ h) id

theorem JobsEnd.of_podFrame (h : podFrame t = podFrame s) : JobsEnd s t :=
  .of_eq (congrArg (·.pods) h) (congrArg (·.marrow.bytes) h) (congrArg (·.flt.active) h) (.inl (congrArg (·.blk.st) h))

theorem zeroise_jobsEnd (s : State) (p : Nat) : JobsEnd s (zeroise s p) where
  pods x _ := podAt_zeroise p x
  tests x := by simp
  bytes k hk := by rw [zeroise_marrow, bytes_zeroiseMarrow, hk, ite_self]
  active := by simp
  block h := by simpa using h

theorem syncBlock_jobsEnd (s : State) : JobsEnd s (syncBlock s) := by
  unfold syncBlock
  split
  · split
    · exact .of_eq rfl rfl rfl (.inr (.inr rfl))
    · exact .refl s
  · split
    · exact .refl s
    · exact .of_eq rfl rfl rfl (.inr (.inl rfl))
  · exact .refl s

theorem modJob_jobsEnd (s : State) (j : Nat) (f : Job → Job) : JobsEnd s (modJob s j f) := .of_eq rfl rfl rfl (.inl rfl)

theorem setJobSt_jobsEnd (s : State) (j : Nat) (x : JobState) : JobsEnd s (setJobSt s j x) :=
  (modJob_jobsEnd s j _).trans ((syncBlock_jobsEnd _).trans (.of_podFrame podFrame_arbSettle))

theorem abandonSwap_jobsEnd (s : State) : JobsEnd s (abandonSwap s) := by
  have hitg (u : State) (i : Integrity) : JobsEnd u { u with itg := i } := .of_eq rfl rfl rfl (.inl rfl)
  simp only [abandonSwap]
  split
  · exact (zeroise_jobsEnd s _).trans (hitg _ _)
  · exact hitg _ _

theorem endCopy_jobsEnd (s : State) (j : Nat) : JobsEnd s (endCopy s j) := by
  unfold endCopy
  split
  · exact abandonSwap_jobsEnd s
  · exact .refl s

/-! ## A Pod of an ended job -/

/-- An update of a Pod that works for a job, or that is a spare at rest. -/
theorem modPod_jobsEnd {p : Nat} {f : Pod → Pod} (h : (podAt s p).leftAlone = false)
    (hf : ∀ q, (f q).tests = q.tests ∧ (f q).testTime = q.testTime) : JobsEnd s (modPod s p f) where
  pods x hx := podAt_modPod_ne (fun hxp => by simp [← hxp, hx] at h) f
  tests x := by
    rw [podAt_modPod]
    split
    · next hx => exact hx.1 ▸ hf _
    · exact ⟨rfl, rfl⟩
  bytes _ hk := hk
  active := rfl
  block hb := hb

theorem modPod_modPod (s : State) (p : Nat) (f g : Pod → Pod) : modPod (modPod s p f) p g = modPod s p fun q => g (f q) := by
  simp [modPod, List.modify_modify_eq, Function.comp_def]

/-- A Pod that has become `IDLE`, gated at once or not (R394). -/
def idled (off : Bool) (q : Pod) : Pod := { q with st := .idle, isolated := q.isolated || off, swReq := q.swReq && !off }

theorem toIdle_eq (s : State) (p : Nat) : ∃ off, toIdle s p = modPod s p (idled off) := by
  simp only [toIdle]
  split
  · exact ⟨true, (modPod_modPod ..).trans (congrArg (modPod s p) (funext fun q => by simp [idled]))⟩
  · exact ⟨false, congrArg (modPod s p) (funext fun q => by simp [idled])⟩

/-- A release zeroises the Pod's slice and changes its record, but for what its tests left there. -/
theorem releasePod_eq (s : State) (p : Nat) : ∃ f, releasePod s p = modPod (zeroise s p) p f ∧
    ∀ q, (f q).tests = q.tests ∧ (f q).testTime = q.testTime := by
  simp only [releasePod]
  split
  · exact ⟨_, modPod_modPod .., fun _ => ⟨rfl, rfl⟩⟩
  · obtain ⟨off, h⟩ := toIdle_eq (modPod (zeroise s p) p fun q => { q with bindValid := false, job := 0, member := 0 }) p
    exact ⟨_, h.trans (modPod_modPod ..), fun _ => ⟨rfl, rfl⟩⟩

theorem releasePod_jobsEnd {p : Nat} (h : (podAt s p).leftAlone = false) : JobsEnd s (releasePod s p) := by
  obtain ⟨f, he, hf⟩ := releasePod_eq s p
  rw [he]
  exact (zeroise_jobsEnd s p).trans (modPod_jobsEnd (by simpa using h) hf)

theorem endPod_jobsEnd (s : State) (p : Nat) : JobsEnd s (endPod s p) := by
  unfold endPod
  split
  · next h => exact modPod_jobsEnd (by simp [Pod.leftAlone, h]) fun _ => ⟨rfl, rfl⟩
  · next h => exact releasePod_jobsEnd (by simp [Pod.leftAlone, h])
  · next h => exact releasePod_jobsEnd (by simp [Pod.leftAlone, h])
  · exact .refl s

/-! ## Ends of jobs -/

theorem endPods_jobsEnd (s : State) (l : List Nat) : JobsEnd s (l.foldl endPod s) :=
  .foldl endPod_jobsEnd s

theorem endWork_jobsEnd (s : State) (j status : Nat) (cause : List Nat) : JobsEnd s (endWork s j status cause) := by
  have hrings : JobsEnd s (endCopy (drainJobRings s j status cause) j) :=
    (JobsEnd.of_podFrame (podFrame_drainJobRings ..)).trans (endCopy_jobsEnd _ j)
  have hstreams : JobsEnd (endCopy (drainJobRings s j status cause) j)
      (closeStreams (freeGates (abortHalves (endCopy (drainJobRings s j status cause) j) j) j) j) :=
    .of_podFrame (by simp)
  refine (hrings.trans hstreams).trans ?_
  simp only [endWork]
  generalize closeStreams (freeGates (abortHalves (endCopy (drainJobRings s j status cause) j) j) j) j = u
  refine JobsEnd.trans ?_ (endPods_jobsEnd _ _)
  exact .of_eq rfl rfl rfl (.inl rfl)

theorem failOne_jobsEnd (s : State) (j reason status : Nat) (cause : List Nat) :
    JobsEnd s (failOne s j reason status cause) := by
  simp only [failOne]
  split
  · exact .refl s
  · exact (endWork_jobsEnd ..).trans ((modJob_jobsEnd ..).trans (setJobSt_jobsEnd ..))

theorem compareGroup_jobsEnd (s : State) (g : Nat) : JobsEnd s (compareGroup s g) := by
  refine JobsEnd.trans (t := modGroup s g _) (.of_eq rfl rfl rfl (.inl rfl)) (.foldl (fun u j => ?_) _)
  exact JobsEnd.trans (t := splitPoison u j g) (.of_eq rfl rfl rfl (.inl rfl)) (failOne_jobsEnd ..)

theorem settle_jobsEnd (n : Nat) (s : State) : JobsEnd s (settle n s) := by
  induction n generalizing s with
  | zero => exact .refl s
  | succ n ih =>
    unfold settle
    split
    · exact (compareGroup_jobsEnd s _).trans (ih _)
    · exact .refl s

theorem failWaiting_jobsEnd (s : State) (l : Nat) : JobsEnd s (failWaiting s l) := by
  refine JobsEnd.trans (.foldl (fun u e => ?_) s) (settle_jobsEnd _ _)
  exact (endWork_jobsEnd ..).trans ((modJob_jobsEnd ..).trans (setJobSt_jobsEnd ..))

/-! ## Calls for spares -/

/-- A choice that keeps what it has or takes the next answers with an element of the list, or with what it had at first. -/
theorem mem_of_foldl_choice {f : Option Nat → Nat → Option Nat} (hf : ∀ b c, f b c = b ∨ f b c = some c) {x : Nat}
    (l : List Nat) (b : Option Nat) (h : l.foldl f b = some x) : x ∈ l ∨ b = some x := by
  induction l generalizing b with
  | nil => exact .inr h
  | cons c l ih =>
    rcases ih _ h with hm | hb
    · exact .inl (List.mem_cons_of_mem c hm)
    · rcases hf b c with he | he
      · exact .inr (he ▸ hb)
      · exact .inl (by simp [Option.some.inj (he ▸ hb)])

theorem bestSpare_mem {p x : Nat} {l : List Nat} (h : bestSpare p l = some x) : x ∈ l := by
  refine (mem_of_foldl_choice (fun b c => ?_) l none h).resolve_right (by simp)
  cases b with
  | none => exact .inr rfl
  | some d =>
    by_cases hd : hops p c < hops p d
    · exact .inr (if_pos hd)
    · exact .inl (if_neg hd)

theorem startTest_eq (s : State) (p : Nat) (why : TestWhy) :
    startTest s p why = modPod s p fun q => { q with st := .test, why := why, swReq := true } :=
  modPod_modPod ..

theorem serveVacant_jobsEnd (s : State) : JobsEnd s (serveVacant s) := by
  refine .foldl (fun u v => ?_) s
  split
  · exact .refl u
  · split
    · next p hp =>
      have hspare : (podAt u p).role = 1 ∧ (podAt u p).st = .off := by
        simpa [usableSpares] using (List.mem_filter.1 (bestSpare_mem hp)).2
      rw [startTest_eq]
      exact modPod_jobsEnd (by simp [Pod.leftAlone, hspare]) fun _ => ⟨rfl, rfl⟩
    · split
      · exact .refl u
      · exact failWaiting_jobsEnd u _

end Sys2Proof.Machine
end

section
/-! What an event of a Pod's own source leaves as it was (spec/15 R368 to R377, spec/16 R396): a droop may lower the root, and a
reaction may start a block reset, which takes the Pods' power away (spec/17 R410). -/

namespace Sys2Proof.Machine

variable {s : State}

/-- A Pod but for its switch request and isolation. -/
def Pod.unpowered (q : Pod) : Pod := { q with swReq := false, isolated := true }

/-- A state with everything blanked that a block reset's start and a new target of the root may change; of the block it says
whether it is `COLD`. -/
def blankPower (s : State) : State :=
  { s with
    pins := State.reset.pins, blk := { State.reset.blk with st := if s.blk.st = .cold then .cold else .selfTest }
    pods := s.pods.map Pod.unpowered, pwr := State.reset.pwr }

/-- What every event keeps whose source makes no Pod suspect. -/
def podEventFrame (s : State) : State := blankPower (podFrame s)

theorem podEventFrame_of_podFrame {t : State} (h : podFrame t = podFrame s) : podEventFrame t = podEventFrame s :=
  congrArg blankPower h

theorem podEventFrame_bump (p k n : Nat) : podEventFrame (bump s p k n) = podEventFrame s :=
  podEventFrame_of_podFrame (podFrame_bump ..)

/-! ## The power -/

theorem podEventFrame_advanceRoot : podEventFrame (advanceRoot s) = podEventFrame s := by
  simp only [advanceRoot]
  split_ifs <;> rfl

theorem podEventFrame_ilimAnswer : podEventFrame (ilimAnswer s) = podEventFrame s := by
  simp only [ilimAnswer]
  split
  · exact podEventFrame_bump ..
  · rfl

theorem podEventFrame_retarget : podEventFrame (retarget s) = podEventFrame s := by
  obtain ⟨u, hu, hf⟩ := retarget_eq s
  rw [hu, podEventFrame_ilimAnswer, podEventFrame_advanceRoot, podEventFrame_of_podFrame (podFrame_of_portFrame hf)]
  rfl

theorem podEventFrame_onSevere {src : Nat} (h2 : src ≠ 2) (h4 : src ≠ 4) (i : Nat) :
    podEventFrame (onSevere s src i) = podEventFrame s := by
  simp only [onSevere, if_neg h2, if_neg h4]
  rw [podEventFrame, podFrame_dumpOnSevere]
  split
  · exact podEventFrame_retarget
  · rfl

/-! ## A block reset -/

theorem podEventFrame_modBlk {f : Block → Block} (h : (f s.blk).st = .cold ↔ s.blk.st = .cold) :
    podEventFrame (modBlk s f) = podEventFrame s := by
  have hst : (if (f s.blk).st = .cold then BlockState.cold else .selfTest) = if s.blk.st = .cold then .cold else .selfTest :=
    if_congr h rfl rfl
  exact congrArg (fun x => { podEventFrame s with blk := { State.reset.blk with st := x } }) hst

theorem podEventFrame_quiesce : podEventFrame (quiesce s) = podEventFrame s := by
  have hpods : (s.pods.map fun q : Pod => { q with swReq := false, isolated := true }).map Pod.unpowered =
      s.pods.map Pod.unpowered := by
    simp [Function.comp_def, Pod.unpowered]
  exact congrArg (fun l => { podEventFrame s with pods := l }) hpods

theorem podEventFrame_startBlockReset : podEventFrame (startBlockReset s) = podEventFrame s := by
  have hcount : podEventFrame (modBlk s fun b => { b with blockCnt := min 65535 (b.blockCnt + 1) }) = podEventFrame s :=
    podEventFrame_modBlk Iff.rfl
  simp only [startBlockReset]
  split
  · split
    · exact hcount
    · exact hcount
    · exact hcount
    · exact hcount
    · next hc _ _ _ =>
      rw [podEventFrame_modBlk (by simpa [quiesce] using hc), podEventFrame_bump, podEventFrame_quiesce, hcount]
  · rfl

theorem podEventFrame_setRstReq : podEventFrame { s with pins := { s.pins with rstReq := true } } = podEventFrame s := rfl

theorem podEventFrame_react (mask : Nat) (r : Wayside) : podEventFrame (react s mask r) = podEventFrame s := by
  simp only [react, apply_ite podEventFrame, podEventFrame_startBlockReset, podEventFrame_setRstReq, ite_self]
  simp [podEventFrame, podFrame_modFlt, apply_ite podFrame]

/-! ## Events -/

/-- An event that the collector hears marks its source as active. -/
theorem podEventFrame_raiseAs {src i : Nat} (hh : hears s src i = true) (h2 : src ≠ 2) (h4 : src ≠ 4) (info : Word)
    (ctx : EventCtx) (pod : Nat) (wire : Bool) (unit : Nat) :
    podEventFrame (raiseAs s src i info ctx pod wire unit) =
      podEventFrame (modFlt s fun c => { c with active := c.active ||| BitVec.ofNat 32 (2 ^ src) }) := by
  simp only [raiseAs, hh, Bool.true_eq_false, if_false, podEventFrame_react, apply_ite podEventFrame,
    podEventFrame_onSevere h2 h4, ite_self]
  simp only [podEventFrame, podFrame_recordEvent, apply_ite podFrame, podFrame_bump, ite_self]
  rfl

/-- A Pod's failed test and its droop are heard in every state but `COLD`, the Pod's own `TEST` included (R368). -/
theorem hears_steward (h : s.blk.st ≠ .cold) {src : Nat} (hsrc : src = 18 ∨ src = 22) (i : Nat) : hears s src i = true := by
  simp [hears, h, hsrc.symm]

/-- What such an event leaves as it was, field by field, with its source active. -/
structure PodEvent (s t : State) (src : Nat) : Prop where
  active : t.flt.active = s.flt.active ||| BitVec.ofNat 32 (2 ^ src)
  notCold : t.blk.st ≠ .cold
  pods : t.pods.map Pod.unpowered = s.pods.map Pod.unpowered
  jobs : t.jobs = s.jobs
  marrow : t.marrow = s.marrow

theorem raise_podEvent (h : s.blk.st ≠ .cold) {src : Nat} (hsrc : src = 18 ∨ src = 22) (i info : Nat) :
    PodEvent s (raise s src i info) src := by
  have hf : podEventFrame (raise s src i info) =
      podEventFrame (modFlt s fun c => { c with active := c.active ||| BitVec.ofNat 32 (2 ^ src) }) := by
    rw [raise, podEventFrame_raiseAs (hears_steward (s := draw s) h hsrc i) (by omega) (by omega)]
    rfl
  have hblk : (podEventFrame (raise s src i info)).blk.st = .selfTest := by
    rw [hf]
    exact if_neg h
  refine ⟨congrArg (·.flt.active) hf, fun hc => ?_, congrArg (·.pods) hf, congrArg (·.jobs) hf, congrArg (·.marrow) hf⟩
  have hcold : (podEventFrame (raise s src i info)).blk.st = .cold := if_pos hc
  exact absurd (hcold.symm.trans hblk) (by decide)

namespace PodEvent

variable {t : State} {src : Nat}

theorem pod (h : PodEvent s t src) (p : Nat) : (podAt t p).unpowered = (podAt s p).unpowered := by
  have hmap := congrArg (·.getD p Pod.reset.unpowered) h.pods
  simp only [List.getD_map] at hmap
  exact hmap

theorem length (h : PodEvent s t src) : t.pods.length = s.pods.length := by
  simpa using congrArg List.length h.pods

theorem active_src (h : PodEvent s t src) (hlt : src < 32) : t.flt.active.getLsbD src = true := by
  rw [h.active, BitVec.getLsbD_or, BitVec.getLsbD_ofNat, Nat.testBit_two_pow_self]
  simp [hlt]

theorem active_of_active (h : PodEvent s t src) {k : Nat} (hk : s.flt.active.getLsbD k = true) :
    t.flt.active.getLsbD k = true := by
  rw [h.active, BitVec.getLsbD_or, hk, Bool.true_or]

end PodEvent

end Sys2Proof.Machine
end

section
/-! A failed Pod test (spec/01 R21, spec/10 R243, spec/14 R352): the event, the map-out with cause 6, and a spare for the logical
ID that the Pod held. -/

namespace Sys2Proof.Machine

variable {s : State}

/-- The record of a Pod that is mapped out. -/
def Pod.out (x : PodState) (q : Pod) : Pod := { q with role := 3, logical := 127, st := x, due := false, why := .none }

theorem pods_of_portFrame {t : State} (h : portFrame t = portFrame s) : t.pods = s.pods := congrArg (·.pods) h
theorem marrow_of_portFrame {t : State} (h : portFrame t = portFrame s) : t.marrow = s.marrow := congrArg (·.marrow) h
theorem flt_of_portFrame {t : State} (h : portFrame t = portFrame s) : t.flt = s.flt := congrArg (·.flt) h

@[simp] theorem logWrite_pods (r : LogRec) : (logWrite s r).pods = s.pods := pods_of_portFrame (portFrame_logWrite r)
@[simp] theorem logWrite_marrow (r : LogRec) : (logWrite s r).marrow = s.marrow := marrow_of_portFrame (portFrame_logWrite r)
@[simp] theorem logWrite_flt (r : LogRec) : (logWrite s r).flt = s.flt := flt_of_portFrame (portFrame_logWrite r)

theorem mapOutTo_pods (s : State) (p : Nat) (x : PodState) : (mapOutTo s p x).pods = (modPod s p (Pod.out x)).pods := by
  simp only [mapOutTo, logWrite_pods]
  split <;> rfl

theorem mapOutTo_marrow (s : State) (p : Nat) (x : PodState) : (mapOutTo s p x).marrow = s.marrow := by
  simp only [mapOutTo, logWrite_marrow]
  split <;> rfl

theorem mapOutTo_active (s : State) (p : Nat) (x : PodState) : (mapOutTo s p x).flt.active = s.flt.active := by
  simp only [mapOutTo, logWrite_flt]
  split <;> rfl

theorem podAt_mapOutTo_self {p : Nat} (h : p < s.pods.length) (x : PodState) :
    podAt (mapOutTo s p x) p = (podAt s p).out x :=
  (podAt_congr (mapOutTo_pods s p x) p).trans (podAt_modPod_self h _)

theorem podAt_mapOutTo_ne {p k : Nat} (h : k ≠ p) (x : PodState) : podAt (mapOutTo s p x) k = podAt s k :=
  (podAt_congr (mapOutTo_pods s p x) k).trans (podAt_modPod_ne h _)

theorem length_mapOutTo (p : Nat) (x : PodState) : (mapOutTo s p x).pods.length = s.pods.length := by
  rw [mapOutTo_pods, length_modPod]

/-- What a failed test makes of its Pod, with the sources that were active and its own. -/
structure TestFailed (s t : State) (p : Nat) : Prop where
  role : (podAt t p).role = 3
  logical : (podAt t p).logical = 127
  cause : (podAt t p).cause = 6
  st : (podAt t p).st = .off
  swReq : (podAt t p).swReq = false
  source : t.flt.active.getLsbD 22 = true
  active : ∀ k, s.flt.active.getLsbD k = true → t.flt.active.getLsbD k = true

theorem failTest_failed {p : Nat} (hlen : p < s.pods.length) (hc : s.blk.st ≠ .cold) (step pack : Nat) :
    TestFailed s (failTest s p step pack) p := by
  have hev := raise_podEvent hc (.inr rfl) p (step + 2 ^ 16 * pack)
  have hend := serveVacant_jobsEnd (modPod (mapOut (raise s 22 p (step + 2 ^ 16 * pack)) p) p fun q => { q with cause := 6 })
  change JobsEnd _ (failTest s p step pack) at hend
  generalize raise s 22 p (step + 2 ^ 16 * pack) = u at hev hend
  have hlen' : p < u.pods.length := hev.length ▸ hlen
  have hpod : podAt (modPod (mapOut u p) p fun q => { q with cause := 6 }) p =
      { (podAt u p).out .off with isolated := true, swReq := false, cause := 6 } := by
    rw [mapOut, powerDown, modPod_modPod, podAt_modPod_self (by rwa [length_mapOutTo]), podAt_mapOutTo_self hlen']
  have hactive : (failTest s p step pack).flt.active = u.flt.active := by
    rw [hend.active, modPod_flt, mapOut, powerDown, modPod_flt, mapOutTo_active]
  have hp : podAt (failTest s p step pack) p = { (podAt u p).out .off with isolated := true, swReq := false, cause := 6 } :=
    (hend.pods p (by simp [hpod, Pod.leftAlone, Pod.out])).trans hpod
  constructor
  · rw [hp]; rfl
  · rw [hp]; rfl
  · rw [hp]
  · rw [hp]; rfl
  · rw [hp]
  · rw [hactive]; exact hev.active_src (by decide)
  · intro k hk
    rw [hactive]
    exact hev.active_of_active hk

end Sys2Proof.Machine
end

section
/-! Pod power switches, idle gating and droops (spec/02 R34, spec/10 R243, spec/16 R393, R394, R396). -/

namespace Sys2Proof.Machine

variable {s : State} {p : Nat}

/-! ## A switch answers -/

/-- What an update of Pod `p` and its zeroisation make of a state. -/
structure Zeroised (s t : State) (p : Nat) (q : Pod) : Prop where
  pod : podAt t p = q
  others : ∀ x, x ≠ p → podAt t x = podAt s x
  marrow : zeroisedPod s t p
  jobs : t.jobs = s.jobs

theorem Zeroised.of_eq {t : State} {f : Pod → Pod} (hlen : p < s.pods.length) (hp : t.pods = s.pods.modify p f)
    (hm : t.marrow = zeroiseMarrow s.marrow p) (hj : t.jobs = s.jobs) : Zeroised s t p (f (podAt s p)) :=
  ⟨(podAt_congr (t := t) (s := modPod s p f) hp p).trans (podAt_modPod_self hlen f),
    fun x hx => (podAt_congr (t := t) (s := modPod s p f) hp x).trans (podAt_modPod_ne hx f), zeroisedPod_of_marrow hm, hj⟩

/-- A Pod whose switch has closed is zeroised, powered and no longer isolated; its copy of Chard's table is not looked at yet. -/
def poweredUp (s : State) (p : Nat) : State :=
  bump (zeroise (modPod (modPod s p fun q => { q with swAck := true, gated := false }) p
    fun q => { q with isolated := false }) p) 2 3

theorem doSwAck_up (hack : (podAt s p).swAck = false) (hreq : (podAt s p).swReq = true) (copy : Bool) :
    doSwAck s p true copy =
      if s.rng.tableOk = true ∧ (podAt s p).role ≤ 1 ∧ (podAt s p).why ≠ .startUp then
        if copy then
          let t := modPod (poweredUp s p) p fun q => { q with copyOk := true }
          if (podAt s p).why = .prepared then { t with itg := { t.itg with rollPhase := 2 } } else t
        else failPowerUp (poweredUp s p) p 3
      else poweredUp s p := by
  simp [doSwAck, hack, hreq, poweredUp]

theorem poweredUp_pods (s : State) (p : Nat) : (poweredUp s p).pods =
    s.pods.modify p fun q => { q with swAck := true, gated := false, isolated := false } := by
  rw [poweredUp, bump_pods, zeroise_pods, modPod_modPod, modPod_pods]

theorem swAck_up_copied (hlen : p < s.pods.length) (hack : (podAt s p).swAck = false) (hreq : (podAt s p).swReq = true)
    (htab : s.rng.tableOk = true) (hrole : (podAt s p).role ≤ 1) (hwhy : (podAt s p).why ≠ .startUp) :
    Zeroised s (doSwAck s p true true) p
      { podAt s p with swAck := true, gated := false, isolated := false, copyOk := true } := by
  have hpods : (modPod (poweredUp s p) p fun q => { q with copyOk := true }).pods =
      s.pods.modify p fun q => { q with swAck := true, gated := false, isolated := false, copyOk := true } := by
    rw [modPod_pods, poweredUp_pods]
    exact List.modify_modify_eq ..
  rw [doSwAck_up hack hreq, if_pos ⟨htab, hrole, hwhy⟩, if_pos rfl]
  refine Zeroised.of_eq hlen (f := fun q => { q with swAck := true, gated := false, isolated := false, copyOk := true })
    ?_ ?_ ?_
  · split
    · exact hpods
    · exact hpods
  · split <;> simp [poweredUp]
  · split <;> simp [poweredUp]

theorem swAck_up_uncopied (hlen : p < s.pods.length) (hack : (podAt s p).swAck = false) (hreq : (podAt s p).swReq = true)
    (h : s.rng.tableOk = false ∨ 2 ≤ (podAt s p).role ∨ (podAt s p).why = .startUp) (copy : Bool) :
    Zeroised s (doSwAck s p true copy) p { podAt s p with swAck := true, gated := false, isolated := false } := by
  have hn : ¬ (s.rng.tableOk = true ∧ (podAt s p).role ≤ 1 ∧ (podAt s p).why ≠ .startUp) := by
    rintro ⟨htab, hrole, hwhy⟩
    rcases h with h | h | h
    · simp [htab] at h
    · omega
    · exact hwhy h
  rw [doSwAck_up hack hreq, if_neg hn]
  exact .of_eq hlen (poweredUp_pods s p) (by simp [poweredUp]) (by simp [poweredUp])

theorem swAck_down (hlen : p < s.pods.length) (hack : (podAt s p).swAck = true) (copy : Bool) :
    Zeroised s (doSwAck s p false copy) p { podAt s p with swAck := false, gated := true, copyOk := false } := by
  simp only [doSwAck, Bool.false_eq_true, if_false, hack, if_true]
  exact .of_eq hlen (f := fun q => { q with swAck := false, gated := true, copyOk := false }) (zeroise_pods p)
    (zeroise_marrow p) (zeroise_jobs p)

/-! ## A Pod that fails its power-up checks -/

theorem st_of_unpowered {q q' : Pod} (h : q.unpowered = q'.unpowered) : q.st = q'.st := congrArg (·.st) h
theorem droop_of_unpowered {q q' : Pod} (h : q.unpowered = q'.unpowered) : q.droop = q'.droop := congrArg (·.droop) h
theorem droops_of_unpowered {q q' : Pod} (h : q.unpowered = q'.unpowered) : q.droops = q'.droops := congrArg (·.droops) h

theorem TestFailed.of_active {t u : State} (h : TestFailed u t p) (hf : u.flt.active = s.flt.active) : TestFailed s t p :=
  { h with active := fun k hk => h.active k (hf ▸ hk) }

theorem failPowerUp_failed (hlen : p < s.pods.length) (hst : (podAt s p).st = .idle ∨ (podAt s p).st = .test)
    (hc : s.blk.st ≠ .cold) (step : Nat) : TestFailed s (failPowerUp s p step) p := by
  have hfail (u : State) (hp : u.pods = (setPodSt s p .test).pods) (hb : u.blk.st = s.blk.st)
      (hf : u.flt.active = s.flt.active) : TestFailed s (failTest u p step 0) p :=
    (failTest_failed (by rwa [hp, setPodSt, length_modPod]) (hb ▸ hc) step 0).of_active hf
  simp only [failPowerUp, if_pos hst]
  refine hfail _ ?_ ?_ ?_
  · split <;> split <;> rfl
  · split <;> split <;> rfl
  · split <;> split <;> rfl

theorem swAck_up_failed (hlen : p < s.pods.length) (hack : (podAt s p).swAck = false) (hreq : (podAt s p).swReq = true)
    (htab : s.rng.tableOk = true) (hrole : (podAt s p).role ≤ 1) (hwhy : (podAt s p).why ≠ .startUp)
    (hst : (podAt s p).st = .idle ∨ (podAt s p).st = .test) (hc : s.blk.st ≠ .cold) :
    TestFailed s (doSwAck s p true false) p := by
  have hpod : podAt (poweredUp s p) p = { podAt s p with swAck := true, gated := false, isolated := false } :=
    (Zeroised.of_eq hlen (poweredUp_pods s p) (by simp [poweredUp]) (by simp [poweredUp])).pod
  rw [doSwAck_up hack hreq, if_pos ⟨htab, hrole, hwhy⟩, if_neg (by decide)]
  refine (failPowerUp_failed ?_ ?_ ?_ 3).of_active ?_
  · rw [poweredUp_pods, List.length_modify]
    exact hlen
  · rw [hpod]
    exact hst
  · simpa [poweredUp] using hc
  · simp [poweredUp]

/-- A switch that does not answer is a droop event of its Pod and a failed test (R393). -/
theorem switchTimeout_failed (hlen : p < s.pods.length) (hreq : (podAt s p).swReq = true)
    (hack : (podAt s p).swAck = false) (hst : (podAt s p).st = .idle ∨ (podAt s p).st = .test) (hc : s.blk.st ≠ .cold) :
    TestFailed s (doSwTimeout s p) p ∧ (doSwTimeout s p).flt.active.getLsbD 18 = true := by
  have hev : PodEvent (powerDown s p) (raise (powerDown s p) 18 p 0) 18 :=
    raise_podEvent (s := powerDown s p) hc (.inl rfl) p 0
  have he : doSwTimeout s p = failPowerUp (raise (powerDown s p) 18 p 0) p 5 := by simp [doSwTimeout, hreq, hack]
  rw [he]
  generalize raise (powerDown s p) 18 p 0 = u at hev
  have hpst : (podAt u p).st = (podAt s p).st := by
    rw [st_of_unpowered (hev.pod p), powerDown, podAt_modPod_self hlen]
  have hfail := failPowerUp_failed (s := u) (p := p) (by rw [hev.length, powerDown, length_modPod]; exact hlen)
    (hpst ▸ hst) hev.notCold 5
  exact ⟨{ hfail with active := fun k hk => hfail.active k (hev.active_of_active hk) },
    hfail.active 18 (hev.active_src (by decide))⟩

/-! ## Idle gating and droops -/

theorem idleGate_gates (hlen : p < s.pods.length) (hst : (podAt s p).st = .idle) (hreq : (podAt s p).swReq = true)
    (hn : named s (podAt s p).logical = false) :
    podAt (doIdleGate s p) p = { podAt s p with isolated := true, swReq := false } ∧
      (∀ x, x ≠ p → podAt (doIdleGate s p) x = podAt s x) ∧ (doIdleGate s p).jobs = s.jobs ∧
      (doIdleGate s p).marrow = s.marrow := by
  have he : doIdleGate s p = powerDown s p := by simp [doIdleGate, hst, hreq, hn]
  rw [he]
  exact ⟨podAt_modPod_self hlen _, fun x hx => podAt_modPod_ne hx _, rfl, rfl⟩

theorem droop_counted (hlen : p < s.pods.length) (hd : (podAt s p).droop = false) (hg : (podAt s p).gated = false)
    (hc : s.blk.st ≠ .cold) (mv : BitVec 16) :
    (podAt (doDroop s p mv) p).droop = true ∧ (podAt (doDroop s p mv) p).droops = (podAt s p).droops + 1 ∧
      (doDroop s p mv).flt.active.getLsbD 18 = true ∧ (doDroop s p mv).jobs = s.jobs ∧
      (doDroop s p mv).marrow = s.marrow := by
  have he : doDroop s p mv =
      raise (bump (modPod s p fun q => { q with droop := true, droops := q.droops + 1 }) 2 1) 18 p mv.toNat := by
    simp [doDroop, hd, hg]
  have hev := raise_podEvent (s := bump (modPod s p fun q => { q with droop := true, droops := q.droops + 1 }) 2 1)
    (by simpa using hc) (.inl rfl) p mv.toNat
  rw [← he] at hev
  have hpod : podAt (bump (modPod s p fun q => { q with droop := true, droops := q.droops + 1 }) 2 1) p =
      { podAt s p with droop := true, droops := (podAt s p).droops + 1 } :=
    (podAt_congr (bump_pods ..) p).trans (podAt_modPod_self hlen _)
  have hunp := hev.pod p
  rw [hpod] at hunp
  exact ⟨droop_of_unpowered hunp, droops_of_unpowered hunp, hev.active_src (by decide), hev.jobs.trans (bump_jobs ..),
    hev.marrow.trans (bump_marrow ..)⟩

/-- Settles O60: each command is one update of its Pod, with the slice zeroised when the rail changes, or a failed test
(R34, R393, R394, R396). -/
theorem podPower : Obligations.PodPower := by
  intro s p hI q others
  have hlen := hI.pod_lt p
  refine ⟨fun hack hreq => ⟨fun htab hrole hwhy => ?_, fun htab hrole hwhy hst hc _ => ?_, fun h copy => ?_⟩,
    fun hack hreq copy => ?_, fun copy hack => ?_, fun hreq hack hst hc => ?_,
    fun hst hreq => ⟨fun hn => ⟨_, rfl, idleGate_gates hlen hst hreq hn⟩, fun hn => ?_⟩,
    fun mv hd hg hc => ⟨_, rfl, droop_counted hlen hd hg hc mv⟩, ?_⟩
  · obtain ⟨hpod, hothers, hmarrow, hjobs⟩ := swAck_up_copied hlen hack hreq htab hrole hwhy
    exact ⟨_, rfl, hpod, hothers, hmarrow, hjobs⟩
  · have h := swAck_up_failed hlen hack hreq htab hrole hwhy hst hc
    exact ⟨_, rfl, h.role, h.cause, h.st, h.swReq, h.source⟩
  · obtain ⟨hpod, hothers, hmarrow, hjobs⟩ := swAck_up_uncopied hlen hack hreq h copy
    exact ⟨_, rfl, hpod, hothers, hmarrow, hjobs⟩
  · simp [exec, execPwrSwAck, doSwAck, q, hack, hreq, modPod]
  · obtain ⟨hpod, hothers, hmarrow, hjobs⟩ := swAck_down hlen hack copy
    exact ⟨_, rfl, hpod, hothers, hmarrow, hjobs⟩
  · obtain ⟨h, h18⟩ := switchTimeout_failed hlen hreq hack hst hc
    exact ⟨_, rfl, h.role, h.cause, h.st, h.swReq, h18, h.source⟩
  · simp [exec, execIdleGateTimer, doIdleGate, q, hn]
  · exact ⟨_, rfl, podAt_modPod_self hlen _, fun x hx => podAt_modPod_ne hx _, rfl, rfl, rfl⟩

end Sys2Proof.Machine
end

section
/-! Pod tests, map-outs and the end of a suspect drain (spec/02 R34, Table 2-11, spec/14 R348 to R354). -/

namespace Sys2Proof.Machine

variable {s t u : State} {p : Nat}

/-! ## The prepared spare of a rotation (R351) -/

/-- A rotation has ended between `s` and `t`: a spare that was prepared for it may have gone back to `OFF`, zeroised. -/
structure SpareDropped (s t : State) : Prop where
  pods : ∀ x, (podAt s x).why ≠ .prepared → podAt t x = podAt s x
  cause : ∀ x, (podAt t x).cause = (podAt s x).cause
  length : t.pods.length = s.pods.length
  bytes : ∀ k, sgetD s.marrow.bytes k 0 = 0 → sgetD t.marrow.bytes k 0 = 0
  blk : t.blk = s.blk
  flt : t.flt = s.flt

theorem SpareDropped.refl (s : State) : SpareDropped s s :=
  ⟨fun _ _ => rfl, fun _ => rfl, rfl, fun _ h => h, rfl, rfl⟩

theorem spareDropped_of_prepared {x : Nat} (h : (podAt s x).why = .prepared) :
    SpareDropped s (powerDown (zeroise (modPod s x fun q => { q with st := .off, why := .none }) x) x) := by
  have hpods : (powerDown (zeroise (modPod s x fun q => { q with st := .off, why := .none }) x) x).pods =
      (modPod s x fun q => { q with st := .off, why := .none, isolated := true, swReq := false }).pods := by
    rw [powerDown, modPod_pods, zeroise_pods, modPod_pods]
    exact List.modify_modify_eq ..
  refine ⟨fun y hy => ?_, fun y => ?_, ?_, fun k hk => ?_, ?_, ?_⟩
  · rw [podAt_congr hpods, podAt_modPod_ne fun hyx => hy (by rw [hyx, h])]
  · rw [podAt_congr hpods, podAt_modPod]
    split
    · next hx => rw [hx.1]
    · rfl
  · rw [hpods, length_modPod]
  · rw [powerDown, modPod_marrow, zeroise_marrow, bytes_zeroiseMarrow, modPod_marrow, hk, ite_self]
  · rw [powerDown, modPod_blk, zeroise_blk, modPod_blk]
  · rw [powerDown, modPod_flt, zeroise_flt, modPod_flt]

theorem rollDone_spareDropped (s : State) (p : Nat) : SpareDropped s (rollDone s p) := by
  simp only [rollDone, dropSpare]
  split
  · split
    · split
      · next hp =>
        have h := spareDropped_of_prepared hp
        exact ⟨h.pods, h.cause, h.length, h.bytes, h.blk, h.flt⟩
      · exact ⟨fun _ _ => rfl, fun _ => rfl, rfl, fun _ h => h, rfl, rfl⟩
    · exact ⟨fun _ _ => rfl, fun _ => rfl, rfl, fun _ h => h, rfl, rfl⟩
  · exact .refl s

/-! ## The end of a suspect drain (R348, R349) -/

/-- A Pod that has left service with the cause it became suspect for. -/
structure Withdrawn (cause : Nat) (q : Pod) : Prop where
  st : q.st = .mappedOut
  role : q.role = 3
  cause : q.cause = cause
  bind : q.bindValid = false
  why : q.why = .none

/-- The Pod withdrawn last, before its cause is written back and its binding cleared. -/
theorem withdraw_mid (s : State) (p : Nat) : SpareDropped (mapOutTo (zeroise s p) p .mappedOut)
    (rollDone (mapOutTo (zeroise s p) p .mappedOut) p) := rollDone_spareDropped _ p

theorem withdraw_self (h : p < s.pods.length) : Withdrawn (podAt s p).cause (podAt (withdraw s p) p) := by
  have hz : p < (zeroise s p).pods.length := by rwa [zeroise_pods]
  have hmid := podAt_mapOutTo_self hz .mappedOut
  have hroll := (withdraw_mid s p).pods p (by rw [hmid]; simp [Pod.out])
  have hlen : p < (rollDone (mapOutTo (zeroise s p) p .mappedOut) p).pods.length := by
    rwa [(withdraw_mid s p).length, length_mapOutTo]
  rw [withdraw, podAt_modPod_self hlen, hroll, hmid]
  constructor <;> rfl

/-- A withdrawal touches no other Pod but a prepared spare, and no cause. -/
theorem withdraw_ne {x : Nat} (hx : x ≠ p) : (podAt (withdraw s p) x).cause = (podAt s x).cause ∧
    ((podAt s x).why ≠ .prepared → podAt (withdraw s p) x = podAt s x) := by
  have hmid : podAt (mapOutTo (zeroise s p) p .mappedOut) x = podAt s x := by
    rw [podAt_mapOutTo_ne hx, podAt_zeroise]
  rw [withdraw, podAt_modPod_ne hx]
  refine ⟨((withdraw_mid s p).cause x).trans (by rw [hmid]), fun hw => ?_⟩
  exact ((withdraw_mid s p).pods x (by rwa [hmid])).trans hmid

theorem length_withdraw : (withdraw s p).pods.length = s.pods.length := by
  rw [withdraw, length_modPod, (withdraw_mid s p).length, length_mapOutTo, zeroise_pods]

theorem bytes_withdraw (s : State) (p k : Nat) (h : sgetD s.marrow.bytes k 0 = 0 ∨ k / 6291456 = p) :
    sgetD (withdraw s p).marrow.bytes k 0 = 0 := by
  rw [withdraw, modPod_marrow]
  refine (withdraw_mid s p).bytes k ?_
  rw [mapOutTo_marrow, zeroise_marrow, bytes_zeroiseMarrow]
  split
  · rfl
  · next hk => exact h.resolve_right hk

theorem withdraw_withdrawn {c x : Nat} (h : p < s.pods.length) (hx : Withdrawn c (podAt s x)) :
    Withdrawn c (podAt (withdraw s p) x) := by
  by_cases hxp : x = p
  · subst hxp
    exact hx.cause ▸ withdraw_self h
  · rw [(withdraw_ne hxp).2 (by simp [hx.why])]
    exact hx

theorem foldl_withdraw_withdrawn {c x : Nat} (l : List Nat) (hl : ∀ p ∈ l, p < s.pods.length)
    (hx : Withdrawn c (podAt s x)) : Withdrawn c (podAt (l.foldl withdraw s) x) := by
  induction l generalizing s with
  | nil => exact hx
  | cons p l ih =>
    rw [List.foldl_cons]
    refine ih (fun a ha => ?_) (withdraw_withdrawn (hl p (by simp)) hx)
    rw [length_withdraw]
    exact hl a (by simp [ha])

theorem foldl_withdraw_bytes (l : List Nat) (k : Nat) (h : sgetD s.marrow.bytes k 0 = 0 ∨ k / 6291456 ∈ l) :
    sgetD (l.foldl withdraw s).marrow.bytes k 0 = 0 := by
  induction l generalizing s with
  | nil => exact h.resolve_right (by simp)
  | cons p l ih =>
    rw [List.foldl_cons]
    refine ih (h.elim (fun h0 => .inl (bytes_withdraw s p k (.inl h0))) fun hm => ?_)
    exact (List.mem_cons.1 hm).imp (fun he => bytes_withdraw s p k (.inr he)) id

/-- Every Pod of the list leaves service with its own cause. -/
theorem foldl_withdraw_mem (l : List Nat) (hl : ∀ p ∈ l, p < s.pods.length) {x : Nat} (hx : x ∈ l) :
    Withdrawn (podAt s x).cause (podAt (l.foldl withdraw s) x) := by
  induction l generalizing s with
  | nil => simp at hx
  | cons p l ih =>
    have hl' : ∀ a ∈ l, a < (withdraw s p).pods.length := fun a ha => by
      rw [length_withdraw]
      exact hl a (by simp [ha])
    rw [List.foldl_cons]
    by_cases hxp : x = p
    · subst hxp
      exact foldl_withdraw_withdrawn l hl' (withdraw_self (hl x (by simp)))
    · rw [← (withdraw_ne (s := s) hxp).1]
      exact ih hl' ((List.mem_cons.1 hx).resolve_left hxp)

theorem suspectDrainDone_withdraws (hI : Inv s) (hb : s.blk.st = .draining) (ho : s.ops = []) :
    Becomes .suspectDrainDone s (fun t => (t.blk.st = .ready ∨ t.blk.st = .running) ∧
      (∀ p, (podAt s p).st = .suspect → p < 100 → (podAt t p).st = .mappedOut ∧ (podAt t p).role = 3 ∧
        (podAt t p).cause = (podAt s p).cause ∧ (podAt t p).bindValid = false ∧
        ∀ k, k / 6291456 = p → sgetD t.marrow.bytes k 0 = 0)) := by
  have he : exec .suspectDrainDone s = .next (serveVacant (modBlk
      ((allPods.filter fun p => (podAt s p).st = .suspect).foldl withdraw s)
      fun b => { b with st := if anyActive ((allPods.filter fun p => (podAt s p).st = .suspect).foldl withdraw s)
        then .running else .ready })) := by
    simp [exec, execSuspectDrainDone, doSuspectDone, hb, ho]
  have hl : ∀ p ∈ allPods.filter fun p => (podAt s p).st = .suspect, p < s.pods.length := fun p hp => by
    rw [hI.pods]
    exact List.mem_range.1 (List.mem_filter.1 hp).1
  generalize hv : (allPods.filter fun p => (podAt s p).st = .suspect) = l at he hl
  have hend := serveVacant_jobsEnd (modBlk (l.foldl withdraw s)
    fun b => { b with st := if anyActive (l.foldl withdraw s) then .running else .ready })
  refine ⟨_, he, hend.block ?_, fun p hp hlt => ?_⟩
  · change (if _ then BlockState.running else .ready) = _ ∨ (if _ then BlockState.running else .ready) = _
    split <;> simp
  · have hmem : p ∈ l := hv ▸ List.mem_filter.2 ⟨List.mem_range.2 hlt, by simpa using hp⟩
    have hw := foldl_withdraw_mem l hl hmem
    have hsame := hend.pods p (by simp [podAt_congr (modBlk_pods ..), Pod.leftAlone, hw.st])
    rw [hsame]
    exact ⟨hw.st, hw.role, hw.cause, hw.bind,
      fun k hk => hend.bytes k (foldl_withdraw_bytes l k (.inr (hk ▸ hmem)))⟩

/-! ## Map-outs and tests that begin -/

theorem mapOutDone_off (hlen : p < s.pods.length) (hst : (podAt s p).st = .mappedOut) :
    podAt (doMapOutDone s p) p = { podAt s p with st := .off, isolated := true, swReq := false } ∧
      (∀ x, x ≠ p → podAt (doMapOutDone s p) x = podAt s x) ∧ (doMapOutDone s p).marrow = s.marrow ∧
      (doMapOutDone s p).jobs = s.jobs := by
  have he : doMapOutDone s p = modPod s p fun q => { q with st := .off, isolated := true, swReq := false } := by
    rw [doMapOutDone, if_pos hst]
    exact modPod_modPod ..
  rw [he]
  exact ⟨podAt_modPod_self hlen _, fun x hx => podAt_modPod_ne hx _, rfl, rfl⟩

/-! ## Passed tests (R352, R354) -/

/-- The result of a Pod's test counts: the Pod is in `TEST`, the ports are open, and the block neither drains nor is halted. -/
structure TestCounts (s : State) (p : Nat) : Prop where
  st : (podAt s p).st = .test
  portsOpen : portOpen s = true
  notDraining : s.blk.st ≠ .draining
  notHalted : s.blk.st ≠ .halted

theorem TestCounts.not_ignored (h : TestCounts s p) :
    ¬ ((podAt s p).st ≠ .test ∨ s.blk.st = .draining ∨ s.blk.st = .halted ∨ portOpen s = false) := by
  simp [h.st, h.portsOpen, h.notDraining, h.notHalted]

theorem TestCounts.notCold (h : TestCounts s p) : s.blk.st ≠ .cold := by
  have ho := h.portsOpen
  simp only [portOpen, decide_eq_true_eq] at ho
  exact ho.1

/-- The packs count a passed test; what follows depends on what the test was for. -/
theorem doPodTest_spareFor (h : TestCounts s p) {l : Nat} (hw : (podAt s p).why = .spareFor l) :
    ∃ u, u.pods = s.pods ∧ u.time = s.time ∧ doPodTest s p .pass =
      serveVacant (toIdle (modPod (assignId (passTest u p) p l) p fun q => { q with why := .none }) p) := by
  simp only [doPodTest, if_neg h.not_ignored, hw]
  refine ⟨_, ?_, ?_, rfl⟩ <;> rfl

theorem doPodTest_rebind (h : TestCounts s p) (hw : (podAt s p).why = .rebind) :
    ∃ u, u.pods = s.pods ∧ u.time = s.time ∧ doPodTest s p .pass =
      serveVacant (rollDone (toIdle (modPod (passTest u p) p fun q => { q with why := .none }) p) p) := by
  simp only [doPodTest, if_neg h.not_ignored, hw]
  refine ⟨_, ?_, ?_, rfl⟩ <;> rfl

theorem doPodTest_spareDue (h : TestCounts s p) (hw : (podAt s p).why = .spareDue) :
    ∃ u, u.pods = s.pods ∧ u.time = s.time ∧ doPodTest s p .pass =
      serveVacant (powerDown (modPod (passTest u p) p fun q => { q with st := .off, why := .none }) p) := by
  simp only [doPodTest, if_neg h.not_ignored, hw]
  refine ⟨_, ?_, ?_, rfl⟩ <;> rfl

/-- The record of a Pod that has passed a test at time `time`. -/
def Pod.passed (time : Nat) (q : Pod) : Pod := { q with tests := min 255 (q.tests + 1), testTime := time, due := false }

theorem podAt_passTest (hp : u.pods = s.pods) (ht : u.time = s.time) (hlen : p < s.pods.length) :
    podAt (passTest u p) p = (podAt s p).passed s.time := by
  rw [passTest, podAt_modPod_self (hp ▸ hlen), podAt_congr hp, ht, Pod.passed]

theorem length_passTest : (passTest s p).pods.length = s.pods.length := length_modPod ..

theorem podAt_toIdle (hlen : p < s.pods.length) : ∃ off, podAt (toIdle s p) p = idled off (podAt s p) := by
  obtain ⟨off, h⟩ := toIdle_eq s p
  exact ⟨off, by rw [h, podAt_modPod_self hlen]⟩

theorem assignId_pods (s : State) (p l : Nat) :
    (assignId s p l).pods = (modPod s p fun q => { q with role := 0, logical := l }).pods := by
  simp only [assignId, logWrite_pods]

theorem passed_spareFor (hlen : p < s.pods.length) (h : TestCounts s p) {l : Nat} (hw : (podAt s p).why = .spareFor l) :
    ∃ off, podAt (doPodTest s p .pass) p =
      idled off { (podAt s p).passed s.time with role := 0, logical := l, why := .none } := by
  obtain ⟨u, hp, ht, he⟩ := doPodTest_spareFor h hw
  have hu : p < u.pods.length := hp ▸ hlen
  have hassign : podAt (assignId (passTest u p) p l) p = { (podAt s p).passed s.time with role := 0, logical := l } := by
    rw [podAt_congr (assignId_pods ..), podAt_modPod_self (by rwa [length_passTest]), podAt_passTest hp ht hlen]
  have hlen' : p < (assignId (passTest u p) p l).pods.length := by rwa [assignId_pods, length_modPod, length_passTest]
  obtain ⟨off, hidle⟩ := podAt_toIdle
    (s := modPod (assignId (passTest u p) p l) p fun q => { q with why := .none }) (by rwa [length_modPod])
  rw [podAt_modPod_self hlen', hassign] at hidle
  refine ⟨off, ?_⟩
  rw [he, (serveVacant_jobsEnd _).pods p (by simp [hidle, Pod.leftAlone, idled]), hidle]

theorem passed_rebind (hlen : p < s.pods.length) (h : TestCounts s p) (hw : (podAt s p).why = .rebind) :
    ∃ off, podAt (doPodTest s p .pass) p = idled off { (podAt s p).passed s.time with why := .none } := by
  obtain ⟨u, hp, ht, he⟩ := doPodTest_rebind h hw
  have hu : p < u.pods.length := hp ▸ hlen
  obtain ⟨off, hidle⟩ := podAt_toIdle (s := modPod (passTest u p) p fun q => { q with why := .none })
    (by rwa [length_modPod, length_passTest])
  rw [podAt_modPod_self (by rwa [length_passTest]), podAt_passTest hp ht hlen] at hidle
  have hroll := (rollDone_spareDropped (toIdle (modPod (passTest u p) p fun q => { q with why := .none }) p) p).pods p
    (by simp [hidle, idled])
  refine ⟨off, ?_⟩
  rw [he, (serveVacant_jobsEnd _).pods p (by simp [hroll, hidle, Pod.leftAlone, idled]), hroll, hidle]

theorem passed_spareDue (hlen : p < s.pods.length) (h : TestCounts s p) (hw : (podAt s p).why = .spareDue) :
    (podAt (doPodTest s p .pass) p).tests = min 255 ((podAt s p).tests + 1) ∧
      (podAt (doPodTest s p .pass) p).testTime = s.time := by
  obtain ⟨u, hp, ht, he⟩ := doPodTest_spareDue h hw
  have hu : p < u.pods.length := hp ▸ hlen
  have hpod : podAt (powerDown (modPod (passTest u p) p fun q => { q with st := .off, why := .none }) p) p =
      { (podAt s p).passed s.time with st := .off, why := .none, isolated := true, swReq := false } := by
    rw [powerDown, modPod_modPod, podAt_modPod_self (by rwa [length_passTest]), podAt_passTest hp ht hlen]
  obtain ⟨htests, htime⟩ := (serveVacant_jobsEnd
    (powerDown (modPod (passTest u p) p fun q => { q with st := .off, why := .none }) p)).tests p
  rw [he, htests, htime, hpod]
  exact ⟨rfl, rfl⟩

/-! ## Failed tests -/

theorem failed_test (hlen : p < s.pods.length) (h : TestCounts s p) (step : BitVec 4) (pack : BitVec 16) :
    TestFailed s (doPodTest s p (.fail step pack)) p := by
  simp only [doPodTest, if_neg h.not_ignored]
  refine (failTest_failed ?_ ?_ _ _).of_active ?_
  · split
    · exact hlen
    · rw [(rollDone_spareDropped _ p).length]
      exact hlen
  · split
    · exact h.notCold
    · rw [(rollDone_spareDropped _ p).blk]
      exact h.notCold
  · split
    · rfl
    · rw [(rollDone_spareDropped _ p).flt]

/-- Settles O53: a withdrawal, a map-out and a test result are each one update of their Pod's record, and no call for a spare
touches it afterwards (R348 to R354). -/
theorem podTestsAndMapOuts : Obligations.PodTestsAndMapOuts := by
  intro s hI
  refine ⟨suspectDrainDone_withdraws hI, fun p hst => ⟨_, rfl, mapOutDone_off (hI.pod_lt p) hst⟩,
    fun p hst ho hd hh => ?_, fun p ho hsh hr hh hrole hoff => ?_⟩
  · have hlen := hI.pod_lt p
    have hc : TestCounts s p.val := ⟨hst, ho, hd, hh⟩
    refine ⟨fun l hw => ⟨_, rfl, ?_⟩, fun hw => ⟨_, rfl, passed_spareDue hlen hc hw⟩, fun step pack => ?_⟩
    · rcases hw with hw | hw
      · obtain ⟨off, h⟩ := passed_rebind hlen hc hw
        rw [h]
        exact ⟨rfl, rfl, rfl, rfl, fun hl => by simp [hw] at hl⟩
      · obtain ⟨off, h⟩ := passed_spareFor hlen hc hw
        rw [h]
        exact ⟨rfl, rfl, rfl, rfl, fun _ => ⟨rfl, rfl⟩⟩
    · have h := failed_test hlen hc step pack
      exact ⟨_, rfl, h.role, h.logical, h.cause, h.st, h.source⟩
  · have he : exec (.sparePodTestDue p) s = .next (modPod s p.val fun q =>
        { q with st := .test, why := .spareDue, swReq := true }) := by
      simp [exec, execSparePodTestDue, doSpareDue, ho, hsh, hrole, hoff, hr, hh, startTest_eq]
    exact ⟨_, he, podAt_modPod_self (hI.pod_lt p) _, fun x hx => podAt_modPod_ne hx _, rfl, rfl, rfl⟩

end Sys2Proof.Machine
end

section
/-! Lists put in order by `sortBy`, and the ready set of a station (spec/02 R39, R51, R67, Table 2-10, spec/12 R297, spec/17
Table 17-1). -/

namespace Sys2Proof.Machine

/-! ## Sorting -/

section
variable {α : Type} {le : α → α → Bool}

theorem mem_putSorted {x y : α} {l : List α} : y ∈ putSorted le x l ↔ y = x ∨ y ∈ l := by
  induction l with
  | nil => simp [putSorted]
  | cons z l ih =>
    simp only [putSorted]
    split
    · simp
    · simp only [List.mem_cons, ih]
      tauto

@[simp] theorem mem_sortBy {y : α} {l : List α} : y ∈ sortBy l le ↔ y ∈ l := by
  induction l with
  | nil => simp [sortBy]
  | cons x l ih =>
    change y ∈ putSorted le x (sortBy l le) ↔ _
    rw [mem_putSorted, ih, List.mem_cons]

theorem pairwise_putSorted (htot : ∀ a b, le a b = true ∨ le b a = true)
    (htrans : ∀ a b c, le a b = true → le b c = true → le a c = true) {x : α} {l : List α}
    (h : l.Pairwise fun a b => le a b = true) : (putSorted le x l).Pairwise fun a b => le a b = true := by
  induction l with
  | nil => simp [putSorted]
  | cons y l ih =>
    obtain ⟨hy, hl⟩ := List.pairwise_cons.1 h
    simp only [putSorted]
    split
    · next hxy =>
      refine List.pairwise_cons.2 ⟨fun z hz => ?_, h⟩
      rcases List.mem_cons.1 hz with rfl | hz
      · exact hxy
      · exact htrans _ _ _ hxy (hy z hz)
    · next hxy =>
      refine List.pairwise_cons.2 ⟨fun z hz => ?_, ih hl⟩
      rcases mem_putSorted.1 hz with rfl | hz
      · exact (htot z y).resolve_left hxy
      · exact hy z hz

/-- A list sorted by a total order is ordered. -/
theorem pairwise_sortBy (htot : ∀ a b, le a b = true ∨ le b a = true)
    (htrans : ∀ a b c, le a b = true → le b c = true → le a c = true) (l : List α) :
    (sortBy l le).Pairwise fun a b => le a b = true := by
  induction l with
  | nil => exact List.Pairwise.nil
  | cons x l ih => exact pairwise_putSorted htot htrans ih

end

/-! ## Issue order -/

theorem candBefore_iff (a c : Cand) : candBefore a c = true ↔
    a.task < c.task ∨ (a.task = c.task ∧ (a.n < c.n ∨ (a.n = c.n ∧
      (a.rank < c.rank ∨ (a.rank = c.rank ∧ a.tile ≤ c.tile))))) := by
  simp [candBefore]

theorem candBefore_total (a c : Cand) : candBefore a c = true ∨ candBefore c a = true := by
  simp only [candBefore_iff]
  omega

theorem candBefore_trans (a b c : Cand) (h : candBefore a b = true) (h' : candBefore b c = true) :
    candBefore a c = true := by
  simp only [candBefore_iff] at *
  omega

/-! ## Where candidates come from -/

theorem candidates_eq_nil {s : State} {p : Nat} (h : (podAt s p).st ≠ .bound ∨ working s = false) (k : Nat) :
    candidates s p k = [] := by
  have hp : podReady s p = false := by
    rcases h with h | h <;> simp [podReady, podIssues, h]
  simp [candidates, hp]

/-- Every candidate of a station comes from a node on a home member. -/
theorem mem_candidates {s : State} {p k : Nat} {c : Cand} (h : c ∈ candidates s p k) :
    ∃ hm n, c ∈ nodeCands s p (podAt s p).job hm n := by
  unfold candidates at h
  split at h
  · simp at h
  · simp only [mem_sortBy, List.mem_flatMap] at h
    obtain ⟨n, -, h⟩ := h
    split at h
    · obtain ⟨hm, -, h⟩ := List.mem_flatMap.1 h
      exact ⟨hm, n, h⟩
    · simp at h

/-- New work of a node has input slots and output slots of its own. -/
theorem fresh_nodeCands {s : State} {p j h n : Nat} {c : Cand} (hc : c ∈ nodeCands s p j h n) (hf : c.fresh = true) :
    c.j = j ∧ c.h = h ∧ (∃ op r, inputSlots s j h op (nodeOf s j n) r = some c.ins) ∧
      outputSlots s j h (nodeOf s j n) = some c.outs := by
  simp only [nodeCands, List.mem_append, List.mem_map, List.mem_filterMap] at hc
  rcases hc with ⟨w, -, rfl⟩ | ⟨r, -, hc⟩
  · simp at hf
  · split at hc
    · simp at hc
    · split at hc
      · next hi ho =>
        obtain rfl := Option.some.inj hc
        exact ⟨rfl, rfl, ⟨_, r, hi⟩, ho⟩
      · simp at hc

theorem slotFull_of_fullSlot {s : State} {j h e r b k : Nat} (hk : fullSlot s j h e r b = some k) :
    slotFull s j h e k = true := by
  simp only [fullSlot, Option.map_eq_some_iff] at hk
  obtain ⟨f, hf, rfl⟩ := hk
  have := List.find?_some hf
  simp only [decide_eq_true_eq] at this
  exact this.2.2

/-- A fold that fails or adds slots to a list keeps what holds of every slot that it adds. -/
theorem forall_of_foldl_slots {f : Option (List (Nat × Nat)) → Nat → Option (List (Nat × Nat))} {P : Nat × Nat → Prop}
    (hf : ∀ a e l, f a e = some l → ∃ l', a = some l' ∧ ((∀ x ∈ l', P x) → ∀ x ∈ l, P x)) (es : List Nat)
    {a : Option (List (Nat × Nat))} {l : List (Nat × Nat)} (ha : ∀ l', a = some l' → ∀ x ∈ l', P x)
    (h : es.foldl f a = some l) : ∀ x ∈ l, P x := by
  induction es generalizing a with
  | nil => exact ha l h
  | cons e es ih =>
    refine ih (fun l' hl' => ?_) h
    obtain ⟨l'', hl'', hP⟩ := hf a e l' hl'
    exact hP (ha l'' hl'')

theorem inputSlots_full {s : State} {j h op r : Nat} {x : Node} {l : List (Nat × Nat)}
    (hl : inputSlots s j h op x r = some l) : ∀ i ∈ l, ∃ e, i.1 = h * 4096 + e ∧ slotFull s j h e i.2 = true := by
  refine forall_of_foldl_slots (fun a e l hs => ?_) _ (by simp) hl
  cases a with
  | none => simp at hs
  | some l' =>
    refine ⟨l', rfl, fun hP => ?_⟩
    simp only at hs
    split at hs
    · simp at hs
    · split at hs
      · simp at hs
      · next k hk =>
        obtain rfl := Option.some.inj hs
        split
        · exact hP
        · simp only [List.mem_append, List.mem_singleton]
          rintro i (hi | rfl)
          · exact hP i hi
          · exact ⟨e, rfl, slotFull_of_fullSlot hk⟩

theorem outputSlots_empty {s : State} {j h : Nat} {x : Node} {l : List (Nat × Nat)} (hl : outputSlots s j h x = some l) :
    ∀ o ∈ l, ∃ e, o.1 = h * 4096 + e ∧ slotEmpty s j h e o.2 = true := by
  unfold outputSlots at hl
  split at hl
  · obtain rfl := Option.some.inj hl
    simp
  · refine forall_of_foldl_slots (fun a e l hs => ?_) _ (by simp) hl
    cases a with
    | none => simp at hs
    | some l' =>
      refine ⟨l', rfl, fun hP => ?_⟩
      simp only at hs
      split at hs
      · next he =>
        obtain rfl := Option.some.inj hs
        simp only [List.mem_append, List.mem_singleton]
        rintro o (ho | rfl)
        · exact hP o ho
        · exact ⟨e, rfl, (Bool.and_eq_true _ _ ▸ he).1⟩
      · simp at hs

/-- Settles O33: the ready set is sorted by the issue order, and new work is taken up with the slots that `inputSlots` and
`outputSlots` find (R39, R51, R67). -/
theorem readySetOrdered : Obligations.ReadySetOrdered := by
  intro s p k
  refine ⟨?_, fun c hc hf => ?_, fun h => candidates_eq_nil h k⟩
  · unfold candidates
    split
    · exact List.Pairwise.nil
    · exact (pairwise_sortBy candBefore_total candBefore_trans _).imp (candBefore_iff _ _).1
  · obtain ⟨h, n, hc⟩ := mem_candidates hc
    obtain ⟨hj, hh, ⟨op, r, hi⟩, ho⟩ := fresh_nodeCands hc hf
    rw [hj, hh]
    exact ⟨inputSlots_full hi, outputSlots_empty ho⟩

end Sys2Proof.Machine
end

section
/-! Job commands accepted and refused (spec/02 R44 to R46, Tables 2-7, 2-9): the store of the command word, a refusal, the read of
the route image, and a `BIND`. -/

namespace Sys2Proof.Machine

variable {s t : State} {j k : Nat}

/-! ## Jobs and states of jobs -/

theorem job_congr (h : t.jobs = s.jobs) (k : Nat) : job t k = job s k := congrArg (sgetD · k Job.empty) h

theorem job_modJob (s : State) (j k : Nat) (f : Job → Job) :
    job (modJob s j f) k = if k = j then f (job s j) else job s k := by
  by_cases h : k = j
  · subst h
    rw [if_pos rfl]
    exact sgetD_supd_self ..
  · rw [if_neg h]
    exact sgetD_supd_ne _ _ _ _ h

@[simp] theorem job_modJob_self (s : State) (j : Nat) (f : Job → Job) : job (modJob s j f) j = f (job s j) := by
  rw [job_modJob, if_pos rfl]

theorem job_modJob_ne (h : k ≠ j) (f : Job → Job) : job (modJob s j f) k = job s k := by
  rw [job_modJob, if_neg h]

/-- The fetch arbiter's settling changes its own record only (R73). -/
theorem arbSettle_eq (s : State) : arbSettle s = { s with arb := (arbSettle s).arb } := by
  unfold arbSettle restRound
  split_ifs <;> rfl

/-- The block follows its jobs between `READY` and `RUNNING`, and nothing else changes (Table 17-3). -/
theorem syncBlock_eq (s : State) : syncBlock s = { s with blk := (syncBlock s).blk } := by
  unfold syncBlock
  split
  · split <;> rfl
  · split <;> rfl
  · rfl

theorem setJobSt_eq (s : State) (j : Nat) (x : JobState) :
    setJobSt s j x = { modJob s j fun b => { b with st := x } with
      blk := (syncBlock (modJob s j fun b => { b with st := x })).blk, arb := (setJobSt s j x).arb } := by
  rw [setJobSt, arbSettle_eq, syncBlock_eq]

section
variable (x : JobState)

@[simp] theorem setJobSt_jobs : (setJobSt s j x).jobs = (modJob s j fun b => { b with st := x }).jobs := by rw [setJobSt_eq]
@[simp] theorem setJobSt_pods : (setJobSt s j x).pods = s.pods := by rw [setJobSt_eq]; rfl
@[simp] theorem setJobSt_marrow : (setJobSt s j x).marrow = s.marrow := by rw [setJobSt_eq]; rfl
@[simp] theorem setJobSt_regs : (setJobSt s j x).regs = s.regs := by rw [setJobSt_eq]; rfl
@[simp] theorem setJobSt_mps : (setJobSt s j x).mps = s.mps := by rw [setJobSt_eq]; rfl
@[simp] theorem setJobSt_gates : (setJobSt s j x).gates = s.gates := by rw [setJobSt_eq]; rfl
@[simp] theorem setJobSt_sqs : (setJobSt s j x).sqs = s.sqs := by rw [setJobSt_eq]; rfl
@[simp] theorem setJobSt_cqs : (setJobSt s j x).cqs = s.cqs := by rw [setJobSt_eq]; rfl
@[simp] theorem setJobSt_entries : (setJobSt s j x).entries = s.entries := by rw [setJobSt_eq]; rfl
@[simp] theorem setJobSt_itg : (setJobSt s j x).itg = s.itg := by rw [setJobSt_eq]; rfl
@[simp] theorem setJobSt_cwy : (setJobSt s j x).cwy = s.cwy := by rw [setJobSt_eq]; rfl
@[simp] theorem setJobSt_blk : (setJobSt s j x).blk = (syncBlock (modJob s j fun b => { b with st := x })).blk := by
  rw [setJobSt_eq]

theorem job_setJobSt (k : Nat) : job (setJobSt s j x) k = if k = j then { job s j with st := x } else job s k :=
  (job_congr (setJobSt_jobs x) k).trans (job_modJob ..)

@[simp] theorem job_setJobSt_self : job (setJobSt s j x) j = { job s j with st := x } := by
  rw [job_setJobSt, if_pos rfl]

theorem job_setJobSt_ne (h : k ≠ j) : job (setJobSt s j x) k = job s k := by
  rw [job_setJobSt, if_neg h]

end

theorem mem_of_sget? {α : Type} {m : List (Nat × α)} {k : Nat} {v : α} (h : sget? m k = some v) : (k, v) ∈ m := by
  induction m with
  | nil => simp at h
  | cons e m ih =>
    obtain ⟨i, w⟩ := e
    by_cases hk : i = k
    · subst hk
      simp_all [sget?]
    · simp only [sget?, if_neg hk] at h
      exact List.mem_cons_of_mem _ (ih h)

/-- A job in a working state keeps the block in `RUNNING` (Table 17-1). -/
theorem anyActive_of_job (h : (job s j).st.active = true) : anyActive s = true := by
  cases hj : sget? s.jobs j with
  | none => simp [job, sgetD, hj, Job.empty, JobState.active] at h
  | some b =>
    refine List.any_eq_true.2 ⟨(j, b), mem_of_sget? hj, ?_⟩
    simpa [job, sgetD, hj] using h

theorem setJobSt_running {x : JobState} (hb : s.blk.st = .ready ∨ s.blk.st = .running) (hx : x.active = true) :
    (setJobSt s j x).blk.st = .running := by
  have ha : anyActive (modJob s j fun b => { b with st := x }) = true := anyActive_of_job (j := j) (by simpa using hx)
  rw [setJobSt_blk, syncBlock]
  rcases hb with hb | hb <;> simp [hb, ha]

theorem working_iff : working s = true ↔ (s.blk.st = .ready ∨ s.blk.st = .running) ∧ s.blk.shut = false := by
  simp [working]

/-! ## The command word and refusals -/

/-- The store of the command word changes stored words and records of reserved bits and nothing else. -/
theorem jobStore_frame (s : State) (j op : Nat) (at' : Bool) : ∃ words rsv,
    jobStore s j op at' = { s with regs := { s.regs with words := words, rsv := rsv } } := by
  unfold jobStore
  rw [storeReg_frame]
  exact ⟨_, _, rfl⟩

section
variable (j) (op : Nat) (at' : Bool)

@[simp] theorem jobStore_jobs : (jobStore s j op at').jobs = s.jobs := by
  obtain ⟨_, _, h⟩ := jobStore_frame s j op at'; rw [h]
@[simp] theorem jobStore_pods : (jobStore s j op at').pods = s.pods := by
  obtain ⟨_, _, h⟩ := jobStore_frame s j op at'; rw [h]
@[simp] theorem jobStore_blk : (jobStore s j op at').blk = s.blk := by
  obtain ⟨_, _, h⟩ := jobStore_frame s j op at'; rw [h]
@[simp] theorem jobStore_gates : (jobStore s j op at').gates = s.gates := by
  obtain ⟨_, _, h⟩ := jobStore_frame s j op at'; rw [h]
@[simp] theorem jobStore_marrow : (jobStore s j op at').marrow = s.marrow := by
  obtain ⟨_, _, h⟩ := jobStore_frame s j op at'; rw [h]
@[simp] theorem jobStore_mps : (jobStore s j op at').mps = s.mps := by
  obtain ⟨_, _, h⟩ := jobStore_frame s j op at'; rw [h]
@[simp] theorem jobStore_sqs : (jobStore s j op at').sqs = s.sqs := by
  obtain ⟨_, _, h⟩ := jobStore_frame s j op at'; rw [h]
@[simp] theorem jobStore_itg : (jobStore s j op at').itg = s.itg := by
  obtain ⟨_, _, h⟩ := jobStore_frame s j op at'; rw [h]
theorem job_jobStore : job (jobStore s j op at') k = job s k := job_congr (jobStore_jobs j op at') k

theorem jobStore_inv (h : Inv s) : Inv (jobStore s j op at') := (jobStore_ok ⟨h, rfl⟩ j op at').inv

/-- Every register but the command word stays as it was. -/
theorem rg_jobStore_ne {o : Nat} (h : wa 3 o ≠ wa 3 0x800) : rg (jobStore s j op at') 3 o = rg s 3 o :=
  by rw [jobStore, rg, rgw_wrg_ne h, rgw_storeReg_ne h, rg]

theorem rsvSet_jobStore_ne {o : Nat} (h : wa 3 o ≠ wa 3 0x800) : rsvSet (jobStore s j op at') 3 o = rsvSet s 3 o :=
  by rw [jobStore, rsvSet_wrg, rsvSet_storeReg_ne h]

end

theorem rg_wrg_self (h : Inv s) (p o v : Nat) : rg (wrg s p o v) p o = v % 2 ^ 32 := by
  rw [rg, rgw_wrg_self h.rising_words, BitVec.toNat_ofNat]

theorem rg_wrg_ne {p o p' o' v : Nat} (h : wa p' o' ≠ wa p o) : rg (wrg s p o v) p' o' = rg s p' o' :=
  congrArg BitVec.toNat (rgw_wrg_ne h)

theorem Inv.wrg (h : Inv s) (p o v : Nat) : Inv (wrg s p o v) := (wrg_ok ⟨h, rfl⟩ p o v).inv

theorem refuse_eq (s : State) (p code o : Nat) : ∃ ov, ov < 2 ∧
    refuse s p code o = wrg s p 0x010 (code + 2 ^ 16 * (o % 4096) + 2 ^ 30 * ov + 2 ^ 31) := by
  unfold refuse
  extract_lets old ov
  refine ⟨ov, ?_, rfl⟩
  simp only [ov, b2n]
  split <;> decide

/-- A refused command is four register writes. -/
theorem jobRefuse_eq (s : State) (x : Nat × Nat × Nat) : ∃ ov, ov < 2 ∧ jobRefuse s x =
    wrg (wrg (wrg (wrg s 3 0x800 (rg s 3 0x800 ||| 2 ^ 30)) 3 0x830 x.2.2) 3 0x834 x.2.1) 3 0x010
      (x.1 + 2 ^ 16 * 0x800 + 2 ^ 30 * ov + 2 ^ 31) := refuse_eq ..

@[simp] theorem jobRefuse_jobs (x : Nat × Nat × Nat) : (jobRefuse s x).jobs = s.jobs := by
  obtain ⟨ov, -, h⟩ := jobRefuse_eq s x
  rw [h, wrg_jobs, wrg_jobs, wrg_jobs, wrg_jobs]

@[simp] theorem jobRefuse_pods (x : Nat × Nat × Nat) : (jobRefuse s x).pods = s.pods := by
  obtain ⟨ov, -, h⟩ := jobRefuse_eq s x
  rw [h, wrg_pods, wrg_pods, wrg_pods, wrg_pods]

/-- What a refused command leaves in the registers: `REFUSED`, the sub-reason, the location, and `PAGE_REFUSE` (R44). -/
structure RefusalRegs (t : State) (x : Nat × Nat × Nat) : Prop where
  flag : bitN (rg t 3 0x800) 30 = true
  sub : rg t 3 0x830 = x.2.2 % 2 ^ 32
  loc : rg t 3 0x834 = x.2.1 % 2 ^ 32
  page : ∃ ov, ov < 2 ∧ rg t 3 0x010 = (x.1 + 2 ^ 16 * 0x800 + 2 ^ 30 * ov + 2 ^ 31) % 2 ^ 32

theorem jobRefuse_regs (h : Inv s) (x : Nat × Nat × Nat) : RefusalRegs (jobRefuse s x) x := by
  have h1 := h.wrg 3 0x800 (rg s 3 0x800 ||| 2 ^ 30)
  have h2 := h1.wrg 3 0x830 x.2.2
  have h3 := h2.wrg 3 0x834 x.2.1
  obtain ⟨ov, hov, he⟩ := jobRefuse_eq s x
  rw [he]
  constructor
  · rw [rg_wrg_ne (by decide), rg_wrg_ne (by decide), rg_wrg_ne (by decide), rg_wrg_self h]
    simp only [bitN, Nat.testBit_mod_two_pow, Nat.testBit_or, Nat.testBit_two_pow_self]
    simp
  · rw [rg_wrg_ne (by decide), rg_wrg_ne (by decide), rg_wrg_self h1]
  · rw [rg_wrg_ne (by decide), rg_wrg_self h2]
  · exact ⟨ov, hov, rg_wrg_self h3 ..⟩

theorem RefusalRegs.refused {x : Nat × Nat × Nat} (h : RefusalRegs t x) (hx : x.1 < 2 ^ 16) : refused t 3 x.1 0x800 := by
  obtain ⟨ov, hov, he⟩ := h.page
  refine ⟨by rw [he]; omega, ?_⟩
  rw [bitN_eq_decide, he]
  exact decide_eq_true (by omega)

theorem RefusalRegs.code {x : Nat × Nat × Nat} (h : RefusalRegs t x) : rg t 3 0x010 % 65536 = x.1 % 65536 := by
  obtain ⟨ov, hov, he⟩ := h.page
  rw [he]
  omega

theorem jobGateCheck_lt {code : Nat} (h : jobGateCheck s = some code) : code < 2 ^ 16 := by
  unfold jobGateCheck at h
  split at h
  · simp at h
    omega
  · split at h
    · simp at h
      omega
    · simp at h

theorem jobGateCheck_none_iff : jobGateCheck s = none ↔ working s = true ∧ enabled s 3 = true := by
  unfold jobGateCheck
  split
  · simp_all
  · split <;> simp_all

/-- A state that a refused command leaves: registers and nothing else. -/
theorem jobRefuse_refusal (h : Inv s) {code : Nat} (hc : code < 2 ^ 16) :
    (jobRefuse s (code, 0, 0)).jobs = s.jobs ∧ bitN (rg (jobRefuse s (code, 0, 0)) 3 0x800) 30 = true ∧
      refused (jobRefuse s (code, 0, 0)) 3 code 0x800 :=
  have hr := jobRefuse_regs h (code, 0, 0)
  ⟨jobRefuse_jobs _, hr.flag, hr.refused hc⟩

/-! ## The read of a route image -/

theorem bump_live (s : State) (p k n : Nat) : ∃ live, bump s p k n = { s with regs := { s.regs with live := live } } := by
  unfold bump
  split <;> exact ⟨_, rfl⟩

/-- A read that is answered with data counts its lines and is on record, and nothing else changes (R271). -/
theorem hostRead_of_okay {i : HostRead} (h : i.kind = .okay) (s : State) (a n x : Nat) : ∃ live mem,
    hostRead s a n x i = { s with regs := { s.regs with live := live }, mem := mem } := by
  obtain ⟨live, hb⟩ := bump_live s 3 0 (if n = 0 then 0 else (a + n - 1) / 64 + 1 - a / 64)
  simp only [hostRead, h, modMem]
  rw [hb]
  exact ⟨live, _, rfl⟩

/-! ## Accepted commands -/

/-- The power-up of gated members changes Pods and nothing else (Table 2-14). -/
theorem wakePods_eq (s : State) (ls : List Nat) : wakePods s ls = { s with pods := (wakePods s ls).pods } := by
  unfold wakePods
  induction ls generalizing s with
  | nil => rfl
  | cons l ls ih =>
    rw [List.foldl_cons, ih]
    split
    · split <;> rfl
    · rfl

@[simp] theorem wakePods_jobs (ls : List Nat) : (wakePods s ls).jobs = s.jobs := by rw [wakePods_eq]
@[simp] theorem wakePods_blk (ls : List Nat) : (wakePods s ls).blk = s.blk := by rw [wakePods_eq]
@[simp] theorem wakePods_marrow (ls : List Nat) : (wakePods s ls).marrow = s.marrow := by rw [wakePods_eq]
@[simp] theorem wakePods_gates (ls : List Nat) : (wakePods s ls).gates = s.gates := by rw [wakePods_eq]
@[simp] theorem wakePods_mps (ls : List Nat) : (wakePods s ls).mps = s.mps := by rw [wakePods_eq]
@[simp] theorem wakePods_sqs (ls : List Nat) : (wakePods s ls).sqs = s.sqs := by rw [wakePods_eq]
@[simp] theorem wakePods_cqs (ls : List Nat) : (wakePods s ls).cqs = s.cqs := by rw [wakePods_eq]
@[simp] theorem wakePods_entries (ls : List Nat) : (wakePods s ls).entries = s.entries := by rw [wakePods_eq]
theorem job_wakePods (ls : List Nat) (k : Nat) : job (wakePods s ls) k = job s k := job_congr (wakePods_jobs ls) k

/-- What the store of a command word and the read of its route image leave as it was. -/
structure ArgKept (s u : State) : Prop where
  jobs : u.jobs = s.jobs
  blk : u.blk = s.blk
  pods : u.pods = s.pods
  marrow : u.marrow = s.marrow
  gates : u.gates = s.gates
  mps : u.mps = s.mps
  sqs : u.sqs = s.sqs
  cqs : u.cqs = s.cqs
  entries : u.entries = s.entries

theorem argKept_routeRead {r : HostRead} (h : r.kind = .okay) (s : State) (j op : Nat) (at' : Bool) :
    ArgKept s (routeRead (jobStore s j op at') r) := by
  obtain ⟨words, rsv, ha⟩ := jobStore_frame s j op at'
  obtain ⟨live, mem, hu⟩ := hostRead_of_okay h (jobStore s j op at') (rg64 (jobStore s j op at') 3 0x810)
    (max 64 r.bytes.length) 0
  rw [routeRead, hu, ha]
  constructor <;> rfl

theorem setChecks_routeRead {r : HostRead} (h : r.kind = .okay) (s : State) (x : Route) :
    setChecks (routeRead s r) x = setChecks s x := by
  obtain ⟨live, mem, hu⟩ := hostRead_of_okay h s (rg64 s 3 0x810) (max 64 r.bytes.length) 0
  rw [routeRead, hu]
  rfl

theorem argCmd_routeRead {r : HostRead} (h : r.kind = .okay) (s : State) (op : JobOp) (at' : Bool) (x : Route) :
    argCmd (routeRead s r) op at' x = argCmd s op at' x := by
  obtain ⟨live, mem, hu⟩ := hostRead_of_okay h s (rg64 s 3 0x810) (max 64 r.bytes.length) 0
  rw [routeRead, hu]
  rfl

theorem routeRead_inv {r : HostRead} (h : Inv s) (j op : Nat) (at' : Bool) : Inv (routeRead (jobStore s j op at') r) :=
  (hostRead_ok ⟨jobStore_inv j op at' h, rfl⟩ ..).inv

/-- The state of a `BIND` accepted at `u` with the command `c`. -/
def boundBy (u : State) (j : Nat) (c : JobCmd) : State :=
  wakePods (setJobSt (modJob u j fun _ =>
    { Job.empty with members := c.pods, active := some c, route := c.route, window := c.window, seed := c.seed }) j
    .binding) c.pods

/-- A `BIND` past the checks of block, page and job state: the route, Pod-set and window checks decide (R45, R46). -/
theorem doBind_checked {r : HostRead} (ho : portOpen s = true) (hg : jobGateCheck (jobStore s j 1 false) = none)
    (hj : (job s j).st = .none) (hk : r.kind = .okay) :
    doBind s j r = match setChecks (jobStore s j 1 false) (parseRoute r.bytes) with
      | some x => jobRefuse (routeRead (jobStore s j 1 false) r) x
      | none => boundBy (routeRead (jobStore s j 1 false) r) j
          (argCmd (jobStore s j 1 false) .bind false (parseRoute r.bytes)) := by
  simp only [doBind, ho, hg, Bool.true_eq_false, if_false, job_jobStore, hj, ne_eq, not_true_eq_false,
    setChecks_routeRead hk, argCmd_routeRead hk]
  rfl

theorem jobStore_working (hg : jobGateCheck (jobStore s j 1 false) = none) : working s = true :=
  (jobGateCheck_none_iff.1 hg).1

/-- Settles O23: a refused `BIND` writes registers only, and an accepted one makes the job `BINDING` (R44 to R46). -/
theorem bindRules : Obligations.BindRules := by
  intro s j r hI ho hr
  have hIa := jobStore_inv j.toNat 1 false hI
  have hexec : exec (.bind j r) s = .next (doBind s j.toNat r) := by simp [exec, execBind, hr]
  refine ⟨fun code hc => ⟨_, hexec, ?_⟩, fun hg => ⟨fun hj => ⟨_, hexec, ?_⟩, fun hj hk => ?_⟩⟩
  · have he : doBind s j.toNat r = jobRefuse (jobStore s j.toNat 1 false) (code, 0, 0) := by simp [doBind, ho, hc]
    rw [he]
    exact jobRefuse_refusal hIa (jobGateCheck_lt hc)
  · have he : doBind s j.toNat r = jobRefuse (jobStore s j.toNat 1 false) (0x034B, 0, 0) := by
      simp only [doBind, ho, hg, job_jobStore]
      exact if_pos hj
    rw [he]
    exact jobRefuse_refusal hIa (by decide)
  · have he := doBind_checked ho hg hj hk
    have hu := argKept_routeRead hk s j.toNat 1 false
    have hI := routeRead_inv (r := r) hI j.toNat 1 false
    generalize routeRead (jobStore s j.toNat 1 false) r = u at he hu hI
    refine ⟨fun x hx => ⟨_, hexec, ?_⟩, fun hx => ⟨_, hexec, ?_⟩⟩
    · have hr := jobRefuse_regs hI x
      rw [he, hx]
      exact ⟨(jobRefuse_jobs x).trans hu.jobs, hr.flag, hr.code, hr.loc, hr.sub⟩
    · rw [he, hx]
      simp only [boundBy, job_wakePods, job_setJobSt_self, job_modJob_self]
      refine ⟨trivial, rfl, rfl, rfl, rfl, trivial, fun k hk => ?_, ?_, ?_⟩
      · rw [job_setJobSt_ne _ hk, job_modJob_ne hk, job_congr hu.jobs]
      · rw [wakePods_blk]
        exact setJobSt_running (by simpa [hu.blk] using (working_iff.1 (jobStore_working hg)).1) rfl
      · simp [hu.marrow, hu.gates, hu.mps, hu.sqs, hu.cqs, hu.entries]

end Sys2Proof.Machine
end

section
/-! JOB_LOAD_COMPLETE (spec/02 R53, spec/11 R282, spec/12 R297, R312): a loaded job rewinds its edges, its parked halves resume,
its members may arrive at its gates, and its buffer transfers go on. -/

namespace Sys2Proof.Machine

variable {s t u : State} {j : Nat}

/-- What each step of a fold keeps, the fold keeps. -/
theorem foldl_keeps {α β : Type} {f : State → α → State} (g : State → β) {l : List α}
    (hf : ∀ s, ∀ a ∈ l, g (f s a) = g s) (s : State) : g (l.foldl f s) = g s :=
  List.foldlRecOn l f (motive := fun t => g t = g s) rfl fun t ht a ha => (hf t a ha).trans ht

/-! ## Buffer transfers -/

theorem portFrame_holdReq (s : State) (r : MemReq) : portFrame (holdReq s r) = portFrame s := by
  have hput (u : State) (m : MemReq) (g : Mem → Mem) :
      portFrame (if wholeBlock m then sendReq u m else modMem u g) = portFrame u := by
    split
    · exact portFrame_sendReq m
    · rfl
  unfold holdReq
  split
  · exact (hput ..).trans (portFrame_bump ..)
  · exact hput ..

theorem portFrame_putTile (s : State) (b : BufMove) (p n : Nat) : portFrame (putTile s b p n) = portFrame s :=
  foldl_keeps portFrame (fun u _ _ => portFrame_holdReq u _) _

theorem portFrame_sendMove (s : State) (b : BufMove) : portFrame (sendMove s b) = portFrame s := by
  simp only [sendMove]
  split
  · rfl
  · split
    · split
      · exact portFrame_putTile ..
      · rfl
    · split
      · exact portFrame_putTile ..
      · rfl

/-- Buffer transfers that go on change counters and the memory ports, and nothing else. -/
theorem portFrame_pumpMoves (s : State) : portFrame (pumpMoves s) = portFrame s := by
  refine foldl_keeps portFrame (fun u b _ => ?_) s
  split
  · exact portFrame_sendMove ..
  · rfl

theorem pumpMoves_of_no_moves (h : s.mem.moves = []) : pumpMoves s = s := by
  rw [pumpMoves, h]
  rfl

/-! ## Parked halves -/

/-- Every parked half of job `j` stands on a member below `n`. -/
def ParkedBelow (j n : Nat) (s : State) : Prop :=
  ∀ x ∈ halves s, x.2.2.job = j → x.2.2.st = .parked → x.2.2.member < n

theorem mem_halves {x : Nat × Nat × Half} :
    x ∈ halves s ↔ ∃ e ∈ s.cwy, ∃ h ∈ e.2.halves, h.2.st ≠ .unbound ∧ (e.1, h.1, h.2) = x := by
  simp [halves, List.mem_flatMap, and_assoc]

theorem mem_supd {α : Type} {m : List (Nat × α)} {k : Nat} {d : α} {f : α → α} {e : Nat × α} (h : e ∈ supd m k d f) :
    e ∈ m ∨ e = (k, f d) ∨ ∃ v, (k, v) ∈ m ∧ e = (k, f v) := by
  rcases mem_sput h with rfl | he
  · cases hk : sget? m k with
    | none => exact .inr (.inl (by simp [sgetD, hk]))
    | some v => exact .inr (.inr ⟨v, mem_of_sget? hk, by simp [sgetD, hk]⟩)
  · exact .inl he

/-- A half after an update of one half was there before, or is the updated one. -/
theorem mem_halves_modHalf {k h : Nat} {f : Half → Half} (hf : ∀ y, (f y).st = y.st) {x : Nat × Nat × Half}
    (hx : x ∈ halves (modHalf s k h f)) : x ∈ halves s ∨ ∃ y, (k, h, y) ∈ halves s ∧ x = (k, h, f y) := by
  obtain ⟨e, he, a, ha, hst, rfl⟩ := mem_halves.1 hx
  rw [modHalf_cwy] at he
  rcases mem_supd he with he | rfl | ⟨c, hc, rfl⟩
  · exact .inl (mem_halves.2 ⟨e, he, a, ha, hst, rfl⟩)
  · rcases mem_supd ha with ha | rfl | ⟨v, hv, rfl⟩
    · cases ha
    · exact absurd (hf _) hst
    · cases hv
  · rcases mem_supd ha with ha | rfl | ⟨v, hv, rfl⟩
    · exact .inl (mem_halves.2 ⟨(k, c), hc, a, ha, hst, rfl⟩)
    · exact absurd (hf _) hst
    · exact .inr ⟨v, mem_halves.2 ⟨(k, c), hc, (h, v), hv, hf v ▸ hst, rfl⟩, rfl⟩

theorem ParkedBelow.modHalf {n : Nat} (hs : ParkedBelow j n s) (k h : Nat) {f : Half → Half}
    (hf : ∀ y, (f y).st = y.st ∧ (f y).job = y.job ∧ (f y).member = y.member) :
    ParkedBelow j n (modHalf s k h f) := fun x hx hj hp => by
  rcases mem_halves_modHalf (fun y => (hf y).1) hx with hx | ⟨y, hy, rfl⟩
  · exact hs x hx hj hp
  · obtain ⟨hst, hjob, hm⟩ := hf y
    exact hm ▸ hs _ hy (hjob.symm.trans hj) (hst.symm.trans hp)

theorem ParkedBelow.congr {n : Nat} (hs : ParkedBelow j n s) (h : t.cwy = s.cwy) : ParkedBelow j n t := by
  unfold ParkedBelow halves at *
  rwa [h]

theorem mpForces_frame (s : State) (l : List Nat) (a b : State → Nat → Nat) (v : Bool) :
    ∃ m, l.foldl (fun s x => mpForce (mpForce s (a s x) v) (b s x) v) s = { s with mps := m } := by
  refine List.foldlRecOn (motive := fun t => ∃ m, t = { s with mps := m }) l _ ⟨s.mps, rfl⟩ fun t ht x _ => ?_
  obtain ⟨m, rfl⟩ := ht
  exact ⟨_, rfl⟩

/-! ## Steps of a load's end -/

/-- A step of the end of job `j`'s load: records of its edges, Mileposts, halves and its own gates may differ. -/
structure LoadStep (j : Nat) (s t : State) : Prop where
  job : job t j = { job s j with edges := (job t j).edges }
  others : ∀ k, k ≠ j → Machine.job t k = Machine.job s k
  pods : t.pods = s.pods
  marrow : t.marrow = s.marrow
  entries : t.entries = s.entries
  sqs : t.sqs = s.sqs
  mem : t.mem = s.mem
  gates : ∀ g, g ∉ (Machine.job s j).gates → gateAt t g = gateAt s g

theorem LoadStep.refl (j : Nat) (s : State) : LoadStep j s s :=
  ⟨rfl, fun _ _ => rfl, rfl, rfl, rfl, rfl, rfl, fun _ _ => rfl⟩

theorem LoadStep.trans (h : LoadStep j s t) (h' : LoadStep j t u) : LoadStep j s u where
  job := by rw [h'.job, h.job]
  others k hk := (h'.others k hk).trans (h.others k hk)
  pods := h'.pods.trans h.pods
  marrow := h'.marrow.trans h.marrow
  entries := h'.entries.trans h.entries
  sqs := h'.sqs.trans h.sqs
  mem := h'.mem.trans h.mem
  gates g hg := (h'.gates g (by rwa [h.job])).trans (h.gates g hg)

theorem LoadStep.foldl {α : Type} {f : State → α → State} {l : List α} (hf : ∀ s, ∀ a ∈ l, LoadStep j s (f s a)) (s : State) :
    LoadStep j s (l.foldl f s) :=
  List.foldlRecOn l f (.refl j s) fun t ht a ha => ht.trans (hf t a ha)

theorem loadStep_modHalf (j : Nat) (s : State) (k h : Nat) (f : Half → Half) : LoadStep j s (modHalf s k h f) :=
  ⟨rfl, fun _ _ => rfl, rfl, rfl, rfl, rfl, rfl, fun _ _ => rfl⟩

theorem loadStep_setMps (j : Nat) (s : State) (m : MpBank) : LoadStep j s { s with mps := m } :=
  ⟨rfl, fun _ _ => rfl, rfl, rfl, rfl, rfl, rfl, fun _ _ => rfl⟩

theorem loadStep_modEdge (s : State) (j m e : Nat) (f : EdgeSt → EdgeSt) : LoadStep j s (modEdge s j m e f) where
  job := by
    unfold modEdge
    simp only [job_modJob_self]
  others k hk := job_modJob_ne hk _
  pods := rfl
  marrow := rfl
  entries := rfl
  sqs := rfl
  mem := rfl
  gates _ _ := rfl

theorem rewindHalves_step (s : State) (j m e : Nat) : LoadStep j s (rewindHalves s j m e) := by
  refine .foldl (fun u x _ => ?_) s
  split
  · exact (loadStep_setMps j u _).trans (loadStep_modHalf ..)
  · exact .refl j u

theorem rewindHalves_parked {n : Nat} (hs : ParkedBelow j n s) (m e : Nat) : ParkedBelow j n (rewindHalves s j m e) := by
  refine List.foldlRecOn _ _ hs fun u hu x _ => ?_
  split
  · exact ParkedBelow.modHalf (hu.congr rfl) _ _ fun y => ⟨rfl, rfl, rfl⟩
  · exact hu

/-- A rewound edge is fresh, and so are the halves on it (R297). -/
theorem rewindEdge_eq (s : State) (j m e : Nat) : rewindEdge s j m e = s ∨ ∃ b f,
    rewindEdge s j m e = rewindHalves (modEdge { s with mps := b } j m e f) j m e := by
  simp only [rewindEdge]
  split
  · obtain ⟨b, hb⟩ := mpForces_frame s (List.range (edgeOf s j e).depth) (fun s => fullId s j m e)
      (fun s => emptyId s j m e) false
    exact .inr ⟨b, _, by rw [← hb]⟩
  · exact .inl rfl

theorem rewindEdge_step (s : State) (j m e : Nat) : LoadStep j s (rewindEdge s j m e) := by
  rcases rewindEdge_eq s j m e with h | ⟨b, f, h⟩
  · rw [h]
    exact .refl j s
  · rw [h]
    exact (loadStep_setMps j s b).trans ((loadStep_modEdge ..).trans (rewindHalves_step ..))

theorem rewindEdge_parked {n : Nat} (hs : ParkedBelow j n s) (m e : Nat) : ParkedBelow j n (rewindEdge s j m e) := by
  rcases rewindEdge_eq s j m e with h | ⟨b, f, h⟩
  · rwa [h]
  · rw [h]
    have hm : ParkedBelow j n (modEdge { s with mps := b } j m e f) := hs.congr rfl
    exact rewindHalves_parked hm m e

theorem rewindJob_step (s : State) (j : Nat) : LoadStep j s (rewindJob s j) :=
  .foldl (fun _ _ _ => .foldl (fun _ _ _ => rewindEdge_step ..) _) s

theorem rewindJob_parked {n : Nat} (hs : ParkedBelow j n s) : ParkedBelow j n (rewindJob s j) :=
  List.foldlRecOn _ _ hs fun _ hu _ _ => List.foldlRecOn _ _ hu fun _ hu e _ => rewindEdge_parked hu _ e

/-- Parked halves of present members resume, and no job ends (Table 13-3). -/
theorem resumeHalves_step (hs : ParkedBelow j (job s j).members.length s) : LoadStep j s (resumeHalves s j) := by
  unfold resumeHalves
  rw [if_neg]
  · exact .foldl (fun u x _ => loadStep_modHalf ..) s
  · intro ha
    obtain ⟨x, hx, hle⟩ := List.any_eq_true.1 ha
    obtain ⟨hx, hj, hp⟩ : x ∈ halves s ∧ x.2.2.job = j ∧ x.2.2.st = .parked := by simpa using hx
    exact Nat.not_lt.2 (of_decide_eq_true hle) (hs x hx hj hp)

theorem gateAt_modGate_ne {b g : Nat} (h : g ≠ b) (f : Gate → Gate) : gateAt (modGate s b f) g = gateAt s g :=
  sgetD_supd_ne _ _ _ _ h

theorem loadStep_modGate {b : Nat} (hb : b ∈ (job s j).gates) (f : Gate → Gate) : LoadStep j s (modGate s b f) where
  job := rfl
  others _ _ := rfl
  pods := rfl
  marrow := rfl
  entries := rfl
  sqs := rfl
  mem := rfl
  gates g hg := gateAt_modGate_ne (fun he : g = b => hg (he ▸ hb)) f

theorem loadStep_bump (j : Nat) (s : State) (p k n : Nat) : LoadStep j s (bump s p k n) := by
  obtain ⟨live, h⟩ := bump_live s p k n
  rw [h]
  exact ⟨rfl, fun _ _ => rfl, rfl, rfl, rfl, rfl, rfl, fun _ _ => rfl⟩

/-- A member that has not arrived yet arrives: its gate and the counters change (R312). -/
theorem gateArriveMember_step {b m : Nat} (hb : b ∈ (job s j).gates) (hm : (gateAt s b).members.contains m = false) :
    LoadStep j s (gateArriveMember s b m) := by
  simp only [gateArriveMember, hm, Bool.false_eq_true, if_false]
  exact (loadStep_modGate hb _).trans ((loadStep_bump ..).trans (loadStep_bump ..))

theorem arrivals_step (s : State) (j : Nat) : LoadStep j s (arrivals s j) := by
  simp only [arrivals]
  split
  · refine List.foldlRecOn (motive := LoadStep j s) _ _ (.refl j s) fun t ht g hg => ?_
    refine List.foldlRecOn (motive := LoadStep j s) _ _ ht fun u hu m _ => ?_
    split
    · next hm =>
      rw [Bool.and_eq_true, Bool.not_eq_true'] at hm
      exact hu.trans (gateArriveMember_step (by rwa [hu.job]) hm.1)
    · exact hu
  · exact .refl j s

/-! ## The Pods of a loaded job -/

theorem mem_jobPods {p : Nat} : p ∈ jobPods s j ↔ p < 100 ∧ (podAt s p).bindValid = true ∧ (podAt s p).job = j := by
  simp [jobPods, allPods]

/-- The Pods `l` of a loaded job become `BOUND` (R53). -/
def bindPods (s : State) (l : List Nat) : State :=
  l.foldl (fun s p => if (podAt s p).st = .restoring then setPodSt s p .bound else s) s

theorem bindPods_frame (s : State) (l : List Nat) : ∃ ps, bindPods s l = { s with pods := ps } := by
  refine List.foldlRecOn (motive := fun t : State => ∃ ps, t = { s with pods := ps }) l _ ⟨s.pods, rfl⟩ fun t ht p _ => ?_
  obtain ⟨ps, rfl⟩ := ht
  split
  · exact ⟨_, rfl⟩
  · exact ⟨ps, rfl⟩

theorem podAt_bindPods_bound {p : Nat} (h : (podAt s p).st = .bound) (l : List Nat) : (podAt (bindPods s l) p).st = .bound := by
  refine List.foldlRecOn (motive := fun t => (podAt t p).st = .bound) l _ h fun t ht x _ => ?_
  split
  · rw [setPodSt, podAt_modPod]
    split
    · rfl
    · exact ht
  · exact ht

theorem podAt_bindPods {p : Nat} (hl : p < s.pods.length) (h : (podAt s p).st = .restoring) {l : List Nat} (hp : p ∈ l) :
    (podAt (bindPods s l) p).st = .bound := by
  induction l generalizing s with
  | nil => cases hp
  | cons x l ih =>
    by_cases hx : p = x
    · subst hx
      have hb : (podAt (setPodSt s p .bound) p).st = .bound := by rw [setPodSt, podAt_modPod_self hl]
      rw [bindPods, List.foldl_cons, if_pos h]
      exact podAt_bindPods_bound hb l
    · have hp' := (List.mem_cons.1 hp).resolve_left hx
      rw [bindPods, List.foldl_cons]
      split
      · refine ih (by rwa [setPodSt, length_modPod]) ?_ hp'
        rwa [setPodSt, podAt_modPod_ne hx]
      · exact ih hl h hp'

/-- A bound job's members join the replica groups its route names (R361). -/
def joinGroups (s : State) (j : Nat) (c : JobCmd) : State :=
  if c.op = .bind then
    (jobGroups s j).foldl (fun s g => modGroup s g fun x => { x with members := nins x.members j }) s
  else s

theorem joinGroups_frame (s : State) (j : Nat) (c : JobCmd) : ∃ i, joinGroups s j c = { s with itg := i } := by
  unfold joinGroups
  split
  · refine List.foldlRecOn (motive := fun t => ∃ i, t = { s with itg := i }) _ _ ⟨s.itg, rfl⟩ fun t ht g _ => ?_
    obtain ⟨i, rfl⟩ := ht
    exact ⟨_, rfl⟩
  · exact ⟨s.itg, rfl⟩

theorem doLoadDone_loaded {c : JobCmd} (hw : working s = true) (ha : (job s j).active = some c) (hu : c.unstarted = [])
    (hst : (job s j).st = .binding ∨ (job s j).st = .restoring) (hs : sharesOpen s j = false) :
    doLoadDone s j = pumpMoves (arrivals (resumeHalves (rewindJob
      (joinGroups (setJobSt (modJob (bindPods s (jobPods s j)) j fun b => { b with active := none }) j .bound) j c) j) j) j) := by
  have hc : ¬(working s = false ∨ (!(decide ((job s j).st = .binding) || decide ((job s j).st = .restoring))) = true ∨
      c.unstarted ≠ [] ∨ sharesOpen s j = true) := by
    rcases hst with hst | hst <;> simp [hw, hu, hs, hst]
  simp only [doLoadDone, ha]
  rw [if_neg hc]
  rfl

/-- Job `j` of `t` is the bound job of `s`. -/
structure BoundIn (j : Nat) (s t : State) : Prop where
  job : job t j = { job s j with active := none, st := .bound }
  others : ∀ k, k ≠ j → Machine.job t k = Machine.job s k
  pods : ∀ p ∈ jobPods s j, (podAt s p).st = .restoring → (podAt t p).st = .bound
  marrow : t.marrow = s.marrow
  entries : t.entries = s.entries
  sqs : t.sqs = s.sqs
  mem : t.mem = s.mem
  gates : t.gates = s.gates
  cwy : t.cwy = s.cwy

theorem boundIn_joinGroups (hI : Inv s) (j : Nat) (c : JobCmd) : BoundIn j s
    (joinGroups (setJobSt (modJob (bindPods s (jobPods s j)) j fun b => { b with active := none }) j .bound) j c) := by
  obtain ⟨ps, hps⟩ := bindPods_frame s (jobPods s j)
  have hb (k : Nat) : job (bindPods s (jobPods s j)) k = job s k := job_congr (by rw [hps]) k
  have hu : BoundIn j s (setJobSt (modJob (bindPods s (jobPods s j)) j fun b => { b with active := none }) j .bound) := by
    constructor
    · rw [job_setJobSt_self, job_modJob_self, hb]
    · intro k hk
      rw [job_setJobSt_ne _ hk, job_modJob_ne hk, hb]
    · intro p hp hr
      rw [podAt_congr (setJobSt_pods _)]
      exact podAt_bindPods (by rw [hI.pods]; exact (mem_jobPods.1 hp).1) hr hp
    all_goals rw [hps]; simp
  generalize setJobSt _ j .bound = u at hu ⊢
  obtain ⟨i, hi⟩ := joinGroups_frame u j c
  rw [hi]
  exact ⟨hu.job, hu.others, hu.pods, hu.marrow, hu.entries, hu.sqs, hu.mem, hu.gates, hu.cwy⟩

/-- Settles O26: the Pods and the job become `BOUND`, and no later step of the load's end changes their state (R53). -/
theorem loadCompletes : Obligations.LoadCompletes := by
  intro s j c hI hw ha hu hst hs hp
  refine ⟨_, rfl, ?_⟩
  rw [doLoadDone_loaded hw ha hu hst hs]
  have hb := boundIn_joinGroups hI j.toNat c
  generalize joinGroups _ j.toNat c = b at hb ⊢
  have hparked : ParkedBelow j.toNat (job s j.toNat).members.length b := ParkedBelow.congr hp hb.cwy
  have hrewind := rewindJob_step b j.toNat
  have hresume : LoadStep j.toNat (rewindJob b j.toNat) (resumeHalves (rewindJob b j.toNat) j.toNat) := by
    refine resumeHalves_step ?_
    rw [hrewind.job, hb.job]
    exact rewindJob_parked hparked
  have hstep := (hrewind.trans hresume).trans (arrivals_step _ j.toNat)
  generalize arrivals _ j.toNat = a at hstep ⊢
  have hpump := portFrame_pumpMoves a
  have hjobs (k : Nat) : job (pumpMoves a) k = job a k := job_congr (congrArg (·.jobs) hpump) k
  refine ⟨?_, ?_, ?_, ?_, fun p hm hr => ?_, fun k hk => ?_, ?_, ?_, ?_, fun g hg => ?_, fun hmoves => ?_⟩
  · rw [hjobs, hstep.job, hb.job]
  · rw [hjobs, hstep.job, hb.job]
  · rw [hjobs, hstep.job, hb.job]
  · rw [hjobs, hstep.job, hb.job]
  · have hpods : (pumpMoves a).pods = a.pods := congrArg (·.pods) hpump
    rw [podAt_congr hpods, podAt_congr hstep.pods]
    exact hb.pods p hm hr
  · rw [hjobs, hstep.others k hk, hb.others k hk]
  · exact (congrArg (·.marrow) hpump).trans (hstep.marrow.trans hb.marrow)
  · exact (congrArg (·.entries) hpump).trans (hstep.entries.trans hb.entries)
  · exact (congrArg (·.sqs) hpump).trans (hstep.sqs.trans hb.sqs)
  · have hgates : (pumpMoves a).gates = a.gates := congrArg (·.gates) hpump
    have hg' : gateAt a g = gateAt b g := hstep.gates g (by rwa [hb.job])
    rw [gateAt, hgates, ← gateAt, hg', gateAt, hb.gates, ← gateAt]
  · have hmem := hstep.mem.trans hb.mem
    rw [pumpMoves_of_no_moves (hmem ▸ hmoves), hmem]

end Sys2Proof.Machine
end

section
/-! Ends of jobs (spec/02 R50, R53, Table 2-11, spec/03 R84, R85, spec/14 R361): what they leave of gates, rings, replica groups,
and of the jobs and Pods that do not end. -/

namespace Sys2Proof.Machine

variable {s t u : State} {j k p : Nat}

/-- A fold that meets `p` in its list, at the first of which `A` becomes `B`. -/
theorem foldl_reaches {f : State → Nat → State} {A B : State → Prop} (hother : ∀ s x, x ≠ p → A s → A (f s x))
    (hself : ∀ s, A s → B (f s p)) (hkeep : ∀ s x, B s → B (f s x)) {l : List Nat} (hp : p ∈ l) (h : A s) :
    B (l.foldl f s) := by
  induction l generalizing s with
  | nil => cases hp
  | cons x l ih =>
    rw [List.foldl_cons]
    by_cases hx : x = p
    · subst hx
      exact List.foldlRecOn l f (hself s h) fun t ht y _ => hkeep t y ht
    · exact ih ((List.mem_cons.1 hp).resolve_left (Ne.symm hx)) (hother s x hx h)

/-! ## Operations that leave jobs, Pods, gates and rings alone -/

/-- The state with everything blanked that ends of entries, streams and halves may change. -/
def ringFrame (s : State) : State := { podFrame s with gates := s.gates, sqs := s.sqs }

theorem ringFrame_of_portFrame (h : portFrame t = portFrame s) : ringFrame t = ringFrame s := by
  unfold ringFrame
  rw [podFrame_of_portFrame h, show t.gates = s.gates from congrArg (·.gates) h, show t.sqs = s.sqs from congrArg (·.sqs) h]

@[simp] theorem ringFrame_bump (p k n : Nat) : ringFrame (bump s p k n) = ringFrame s :=
  ringFrame_of_portFrame (portFrame_bump ..)
@[simp] theorem ringFrame_memWrite (a : Nat) (d : List Byte) (x c p : Nat) (pu : Purpose) :
    ringFrame (memWrite s a d x c p pu) = ringFrame s := ringFrame_of_portFrame (portFrame_memWrite ..)
@[simp] theorem ringFrame_modMem (f : Mem → Mem) : ringFrame (modMem s f) = ringFrame s := rfl
@[simp] theorem ringFrame_modMps (f : MpBank → MpBank) : ringFrame (modMps s f) = ringFrame s := rfl
@[simp] theorem ringFrame_modCq (c : Nat) (f : Cq → Cq) : ringFrame (modCq s c f) = ringFrame s := rfl
@[simp] theorem ringFrame_modEntry (n k : Nat) (f : Entry → Entry) : ringFrame (modEntry s n k f) = ringFrame s := rfl
@[simp] theorem ringFrame_modHalf (k h : Nat) (f : Half → Half) : ringFrame (modHalf s k h f) = ringFrame s := rfl
@[simp] theorem ringFrame_endXfers (j r : Nat) : ringFrame (endXfers s j r) = ringFrame s := rfl
@[simp] theorem ringFrame_freePoolOf (c a : Nat) : ringFrame (freePoolOf s c a) = ringFrame s := rfl

@[simp] theorem ringFrame_arbSettle : ringFrame (arbSettle s) = ringFrame s := by
  rw [arbSettle_eq]
  rfl

@[simp] theorem ringFrame_finish (e : Entry) (status detail count info : Nat) :
    ringFrame (finish s e status detail count info) = ringFrame s := by
  unfold finish addDue
  split
  · split_ifs <;> simp
  · rfl

@[simp] theorem ringFrame_forgetAsks (c : Nat) (f : PoolUser → Bool) : ringFrame (forgetAsks s c f) = ringFrame s := by
  simp only [forgetAsks, ringFrame_modMem]
  exact foldl_keeps ringFrame (fun _ _ _ => ringFrame_freePoolOf ..) _

@[simp] theorem ringFrame_writeStream (k : Nat) (x : Stream) (r : Nat) : ringFrame (writeStream s k x r) = ringFrame s := by
  unfold writeStream
  split <;> simp

theorem ringFrame_setStreams (l : List (Nat × Stream)) : ringFrame { s with streams := l } = ringFrame s := rfl

@[simp] theorem ringFrame_closeSome (f : Nat × Stream → Bool) (cs : Nat) : ringFrame (closeSome s f cs) = ringFrame s := by
  simp only [closeSome, ringFrame_setStreams]
  refine foldl_keeps ringFrame (fun s e _ => ?_) _
  simp only [ringFrame_writeStream, ringFrame_forgetAsks]
  have hbufs (u : State) : ringFrame ((heldBufs e.2.dpb).foldl (fun s a => freePoolOf s e.2.pool a) u) = ringFrame u :=
    foldl_keeps ringFrame (fun _ _ _ => ringFrame_freePoolOf ..) _
  split
  · exact hbufs s
  · exact hbufs s

@[simp] theorem ringFrame_closeStreams (j : Nat) : ringFrame (closeStreams s j) = ringFrame s := ringFrame_closeSome ..

@[simp] theorem ringFrame_endRingEntries (n status : Nat) (cause : List Nat) :
    ringFrame (endRingEntries s n status cause) = ringFrame s :=
  foldl_keeps ringFrame (fun _ _ _ => by simp) _

@[simp] theorem ringFrame_sendFlit (k : Nat) (f : Flit) : ringFrame (sendFlit s k f) = ringFrame s := by
  change ringFrame (bump (bump s _ _ _) _ _ _) = ringFrame s
  simp

@[simp] theorem ringFrame_abortHalves (j : Nat) : ringFrame (abortHalves s j) = ringFrame s := by
  refine (foldl_keeps ringFrame (fun s e _ => ?_) _).trans (show ringFrame { s with mps := _ } = ringFrame s from rfl)
  split <;> simp

/-! ## What ends of jobs may leave -/

/-- Whether a ring fetches nothing more. -/
def ringEnded (s : State) (n : Nat) : Prop := (sqAt s n).st = .draining ∨ (sqAt s n).st = .disabled

/-- Jobs have ended between `s` and `t`: no gate is newly assigned, no ring has begun again, no digest is newly pending. -/
structure JobsCease (s t : State) : Prop where
  gates : ∀ g ∈ t.gates, g.2.assigned = true → g ∈ s.gates
  rings : ∀ n, ringEnded s n → ringEnded t n
  pending : ∀ e ∈ t.itg.groups, ∀ d ∈ e.2.pending, ∃ e' ∈ s.itg.groups, d ∈ e'.2.pending

theorem JobsCease.refl (s : State) : JobsCease s s := ⟨fun _ h _ => h, fun _ h => h, fun e he _ hd => ⟨e, he, hd⟩⟩

theorem JobsCease.trans (h : JobsCease s t) (h' : JobsCease t u) : JobsCease s u where
  gates g hg ha := h.gates g (h'.gates g hg ha) ha
  rings n hn := h'.rings n (h.rings n hn)
  pending e he d hd := by
    obtain ⟨e', he', hd'⟩ := h'.pending e he d hd
    exact h.pending e' he' d hd'

theorem JobsCease.foldl {α : Type} {f : State → α → State} {l : List α} (hf : ∀ s, ∀ a ∈ l, JobsCease s (f s a)) (s : State) :
    JobsCease s (l.foldl f s) :=
  List.foldlRecOn l f (.refl s) fun t ht a ha => ht.trans (hf t a ha)

theorem JobsCease.of_eq (hg : t.gates = s.gates) (hs : t.sqs = s.sqs) (hi : t.itg.groups = s.itg.groups) : JobsCease s t where
  gates g h _ := hg ▸ h
  rings n h := by rwa [ringEnded, sqAt, hs]
  pending e he d hd := ⟨e, hi ▸ he, hd⟩

theorem JobsCease.of_ringFrame (h : ringFrame t = ringFrame s) : JobsCease s t :=
  .of_eq (congrArg (·.gates) h) (congrArg (·.sqs) h) (congrArg (·.itg.groups) h)

/-! ## The parts of the end of a job -/

theorem sqAt_modSq (s : State) (n m : Nat) (f : Sq → Sq) : sqAt (modSq s n f) m = if m = n then f (sqAt s n) else sqAt s m := by
  by_cases h : m = n
  · subst h
    rw [if_pos rfl]
    exact sgetD_supd_self ..
  · rw [if_neg h]
    exact sgetD_supd_ne _ _ _ _ h

theorem modSq_cease {n : Nat} {f : Sq → Sq}
    (hf : ∀ q : Sq, q.st = .draining ∨ q.st = .disabled → (f q).st = .draining ∨ (f q).st = .disabled) :
    JobsCease s (modSq s n f) where
  gates _ h _ := h
  rings m h := by
    unfold ringEnded at h ⊢
    rw [sqAt_modSq]
    split
    · next hm => exact hf _ (hm ▸ h)
    · exact h
  pending e he d hd := ⟨e, he, hd⟩

theorem dropBatches_cease (s : State) (n : Nat) : JobsCease s (dropBatches s n) := by
  simp only [dropBatches]
  refine JobsCease.trans (.of_ringFrame ?_) (modSq_cease fun q h => h)
  simp only [ringFrame_modMem, ringFrame_forgetAsks]
  refine foldl_keeps ringFrame (fun s b _ => ?_) _
  split <;> rfl

/-- A ring with the mark of a drain (R84). -/
def drained (status : Nat) (q : Sq) : Sq :=
  { q with st := .draining, drainStatus := status, scan := false, rescan := false, backoff := false, fence := none,
           walked := false }

theorem drainRing_marked (s : State) (n status : Nat) (cause : List Nat) :
    ringEnded s n ∧ drainRing s n status cause = s ∨ JobsCease (modSq s n (drained status)) (drainRing s n status cause) := by
  unfold drainRing
  split
  · next h => exact .inl ⟨.inr h, rfl⟩
  · next h => exact .inl ⟨.inl h, rfl⟩
  · extract_lets marked _ waits
    have hentries : JobsCease marked (endRingEntries waits n status cause) :=
      .of_ringFrame ((ringFrame_endRingEntries ..).trans rfl)
    exact .inr (hentries.trans ((dropBatches_cease _ n).trans (.of_ringFrame (by simp))))

theorem drainRing_cease (s : State) (n status : Nat) (cause : List Nat) : JobsCease s (drainRing s n status cause) := by
  rcases drainRing_marked s n status cause with ⟨-, h⟩ | h
  · rw [h]
    exact .refl s
  · exact (modSq_cease fun _ _ => .inl rfl).trans h

theorem drainRing_ends (s : State) (n status : Nat) (cause : List Nat) : ringEnded (drainRing s n status cause) n := by
  rcases drainRing_marked s n status cause with ⟨h, he⟩ | h
  · rwa [he]
  · exact h.rings n (.inl (by rw [sqAt_modSq, if_pos rfl]; rfl))

theorem drainJobRings_cease (s : State) (j status : Nat) (cause : List Nat) : JobsCease s (drainJobRings s j status cause) :=
  .foldl (fun _ _ _ => drainRing_cease ..) s

/-- The drain of a job's rings drains each of them (R85). -/
theorem drainJobRings_ends {n : Nat} (hn : n ∈ jobRings s j) (status : Nat) (cause : List Nat) :
    ringEnded (drainJobRings s j status cause) n :=
  foldl_reaches (A := fun _ => True) (fun _ _ _ _ => trivial) (fun s _ => drainRing_ends s n status cause)
    (fun s x h => (drainRing_cease s x status cause).rings n h) hn trivial

theorem abandonSwap_cease (s : State) : JobsCease s (abandonSwap s) := by
  simp only [abandonSwap]
  split
  · exact .of_eq (by rw [zeroise_eq]) (by rw [zeroise_eq]) (by rw [zeroise_eq])
  · exact .of_eq rfl rfl rfl

theorem endCopy_cease (s : State) (j : Nat) : JobsCease s (endCopy s j) := by
  unfold endCopy
  split
  · exact abandonSwap_cease s
  · exact .refl s

theorem freeGates_cease (s : State) (j : Nat) : JobsCease s (freeGates s j) where
  gates g hg ha := by
    obtain ⟨e, he, rfl⟩ := List.mem_map.1 hg
    split_ifs at ha ⊢
    · cases ha
    · exact he
  rings _ h := h
  pending e he d hd := ⟨e, he, hd⟩

theorem freeGates_free (s : State) (j : Nat) : ∀ g ∈ (freeGates s j).gates, g.2.assigned = true → g.2.job ≠ j := by
  intro g hg ha
  obtain ⟨e, he, rfl⟩ := List.mem_map.1 hg
  split_ifs at ha ⊢ with h
  · cases ha
  · exact fun hj => h ⟨ha, hj⟩

theorem leaveGroups_cease (s : State) (j : Nat) : JobsCease s (leaveGroups s j) where
  gates _ h _ := h
  rings _ h := h
  pending e he d hd := by
    obtain ⟨e', he', rfl⟩ := List.mem_map.1 he
    exact ⟨e', he', List.mem_of_mem_filter hd⟩

theorem leaveGroups_not_pending (s : State) (j : Nat) : ∀ e ∈ (leaveGroups s j).itg.groups, ∀ d ∈ e.2.pending, d.1 ≠ j := by
  intro e he d hd
  obtain ⟨e', he', rfl⟩ := List.mem_map.1 he
  simpa using (List.mem_filter.1 hd).2

/-! ## The end of a job -/

theorem jobPods_congr (h : t.pods = s.pods) : jobPods t j = jobPods s j := by
  unfold jobPods
  simp only [podAt_congr h]

theorem endPod_pods (s : State) (p : Nat) : ∃ m mps ps, endPod s p = { s with marrow := m, mps := mps, pods := ps } := by
  have hrelease : ∃ m mps ps, releasePod s p = { s with marrow := m, mps := mps, pods := ps } := by
    obtain ⟨f, h, -⟩ := releasePod_eq s p
    rw [h, zeroise_eq]
    exact ⟨_, _, _, rfl⟩
  unfold endPod
  split
  · exact ⟨s.marrow, s.mps, _, rfl⟩
  · exact hrelease
  · exact hrelease
  · exact ⟨s.marrow, s.mps, s.pods, rfl⟩

theorem endPod_cease (s : State) (p : Nat) : JobsCease s (endPod s p) := by
  obtain ⟨m, mps, ps, h⟩ := endPod_pods s p
  rw [h]
  exact .of_eq rfl rfl rfl

@[simp] theorem job_endPod (p k : Nat) : job (endPod s p) k = job s k := by
  obtain ⟨m, mps, ps, h⟩ := endPod_pods s p
  rw [h]
  rfl

theorem endPod_length (s : State) (p : Nat) : (endPod s p).pods.length = s.pods.length := by
  unfold endPod
  split
  · exact length_modPod ..
  · obtain ⟨f, h, -⟩ := releasePod_eq s p
    rw [h, length_modPod, zeroise_pods]
  · obtain ⟨f, h, -⟩ := releasePod_eq s p
    rw [h, length_modPod, zeroise_pods]
  · rfl

theorem podAt_endPod_ne {x : Nat} (h : x ≠ p) : podAt (endPod s p) x = podAt s x := by
  unfold endPod
  split
  · exact podAt_modPod_ne h _
  · obtain ⟨f, he, -⟩ := releasePod_eq s p
    rw [he, podAt_modPod_ne h, podAt_zeroise]
  · obtain ⟨f, he, -⟩ := releasePod_eq s p
    rw [he, podAt_modPod_ne h, podAt_zeroise]
  · rfl

theorem podAt_endPod_draining (h : (podAt s p).st = .draining) (x : Nat) : (podAt (endPod s x) p).st = .draining := by
  rw [(endPod_jobsEnd s x).pods p (by simp [Pod.leftAlone, h]), h]

theorem podAt_endPod_bound (hl : p < s.pods.length) (h : (podAt s p).st = .bound) :
    podAt (endPod s p) p = { podAt s p with st := .draining } := by
  simp only [endPod, h]
  exact podAt_modPod_self hl _

theorem endCopy_pods (s : State) (j : Nat) : (endCopy s j).pods = s.pods := by
  unfold endCopy abandonSwap
  split
  · split
    · rw [zeroise_eq]
    · rfl
  · rfl

theorem endCopy_jobs (s : State) (j : Nat) : (endCopy s j).jobs = s.jobs := by
  unfold endCopy abandonSwap
  split
  · split
    · rw [zeroise_eq]
    · rfl
  · rfl

/-- The halves, gates and streams of an ended job end. -/
def endHeld (s : State) (j : Nat) : State := closeStreams (freeGates (abortHalves s j) j) j

/-- An ended job leaves its replica groups, its transfers, commands and work. -/
def stripJob (s : State) (j : Nat) : State :=
  let s := modMem (leaveGroups s j) fun m =>
    { m with xfers := m.xfers.filter fun x => x.job ≠ j, moves := m.moves.filter fun b => b.job ≠ j }
  let s := modJob { s with decodes := s.decodes.filter fun d => d.job ≠ j } j fun b =>
    { b with queued := [], active := none, nodes := [], edges := [] }
  { s with ops := s.ops.filter fun o => !(o.job = j && o.pod = 127) }

/-- The state in which the Pods of an ended job end. -/
def endJobWork (s : State) (j status : Nat) (cause : List Nat) : State :=
  stripJob (endHeld (endCopy (drainJobRings s j status cause) j) j) j

theorem endWork_eq (s : State) (j status : Nat) (cause : List Nat) :
    endWork s j status cause = (jobPods (endJobWork s j status cause) j).foldl endPod (endJobWork s j status cause) := rfl

theorem endHeld_cease (s : State) (j : Nat) : JobsCease s (endHeld s j) :=
  (JobsCease.of_ringFrame (ringFrame_abortHalves j)).trans
    ((freeGates_cease _ j).trans (.of_ringFrame (ringFrame_closeStreams j)))

theorem podFrame_endHeld (s : State) (j : Nat) : podFrame (endHeld s j) = podFrame s := by simp [endHeld]

theorem endHeld_free (s : State) (j : Nat) : ∀ g ∈ (endHeld s j).gates, g.2.assigned = true → g.2.job ≠ j := by
  have h := freeGates_free (abortHalves s j) j
  generalize hu : freeGates (abortHalves s j) j = u at h
  rwa [endHeld, hu, show (closeStreams u j).gates = u.gates from congrArg (·.gates) (ringFrame_closeStreams j)]

theorem stripJob_cease (s : State) (j : Nat) : JobsCease s (stripJob s j) :=
  (leaveGroups_cease s j).trans (.of_eq rfl rfl rfl)

theorem stripJob_jobs (s : State) (j : Nat) : (stripJob s j).jobs =
    (modJob s j fun b => { b with queued := [], active := none, nodes := [], edges := [] }).jobs := rfl

theorem job_stripJob_ne (hk : k ≠ j) (s : State) : job (stripJob s j) k = job s k :=
  (job_congr (stripJob_jobs s j) k).trans (job_modJob_ne hk _)

section
variable (s : State) (j status : Nat) (cause : List Nat)

theorem endJobWork_cease : JobsCease s (endJobWork s j status cause) :=
  (drainJobRings_cease s j status cause).trans ((endCopy_cease _ j).trans
    ((endHeld_cease _ j).trans (stripJob_cease _ j)))

theorem endJobWork_rings_end {n : Nat} (hn : n ∈ jobRings s j) : ringEnded (endJobWork s j status cause) n :=
  ((endCopy_cease _ j).trans ((endHeld_cease _ j).trans (stripJob_cease _ j))).rings n
    (drainJobRings_ends hn status cause)

/-- The gates of an ended job are free (R50). -/
theorem endJobWork_free : ∀ g ∈ (endJobWork s j status cause).gates, g.2.assigned = true → g.2.job ≠ j := fun g hg ha =>
  endHeld_free _ j g ((stripJob_cease _ j).gates g hg ha) ha

theorem endJobWork_pods : (endJobWork s j status cause).pods = s.pods := by
  have hstrip (u : State) : (stripJob u j).pods = u.pods := rfl
  have hholds (u : State) : (endHeld u j).pods = u.pods := congrArg (·.pods) (podFrame_endHeld u j)
  rw [endJobWork, hstrip, hholds, endCopy_pods]
  exact congrArg (·.pods) (podFrame_drainJobRings ..)

variable {j} in
theorem job_endJobWork_ne (hk : k ≠ j) : job (endJobWork s j status cause) k = job s k := by
  have hholds (u : State) : (endHeld u j).jobs = u.jobs := congrArg (·.jobs) (podFrame_endHeld u j)
  rw [endJobWork, job_stripJob_ne hk, job_congr (hholds _), job_congr (endCopy_jobs _ j)]
  exact job_congr (congrArg (·.jobs) (podFrame_drainJobRings ..)) k

/-! What the end of a job leaves, its Pods included. -/

theorem endWork_cease : JobsCease s (endWork s j status cause) := by
  rw [endWork_eq]
  exact (endJobWork_cease ..).trans (.foldl (fun _ _ _ => endPod_cease ..) _)

variable {j} in
theorem job_endWork_ne (hk : k ≠ j) : job (endWork s j status cause) k = job s k := by
  rw [endWork_eq]
  exact (foldl_keeps (job · k) (fun _ _ _ => job_endPod ..) _).trans (job_endJobWork_ne s status cause hk)

theorem endWork_rings_end {n : Nat} (hn : n ∈ jobRings s j) : ringEnded (endWork s j status cause) n := by
  rw [endWork_eq]
  exact (JobsCease.foldl (fun _ _ _ => endPod_cease ..) _).rings n (endJobWork_rings_end s j status cause hn)

theorem endWork_free : ∀ g ∈ (endWork s j status cause).gates, g.2.assigned = true → g.2.job ≠ j := by
  rw [endWork_eq]
  intro g hg ha
  exact endJobWork_free s j status cause g
    ((JobsCease.foldl (fun _ _ _ => endPod_cease ..) _).gates g hg ha) ha

/-- A Pod of another job stays as it was. -/
theorem podAt_endWork_ne (hp : p ∉ jobPods s j) : podAt (endWork s j status cause) p = podAt s p := by
  rw [endWork_eq, jobPods_congr (endJobWork_pods s j status cause)]
  refine (foldl_keeps (podAt · p) (fun u x hx => podAt_endPod_ne ?_) _).trans (podAt_congr (endJobWork_pods ..) p)
  rintro rfl
  exact hp hx

/-- A bound Pod of the job drains (Table 2-11). -/
theorem podAt_endWork_bound (hI : Inv s) (hp : p ∈ jobPods s j) (hb : (podAt s p).st = .bound) :
    podAt (endWork s j status cause) p = { podAt s p with st := .draining } := by
  have hl : p < s.pods.length := by
    rw [hI.pods]
    exact (mem_jobPods.1 hp).1
  have hpods := endJobWork_pods s j status cause
  rw [endWork_eq, jobPods_congr hpods]
  generalize endJobWork s j status cause = u at hpods
  refine foldl_reaches (A := fun t => p < t.pods.length ∧ podAt t p = podAt s p)
    (B := fun t => podAt t p = { podAt s p with st := .draining }) ?_ ?_ ?_ hp ⟨hpods ▸ hl, podAt_congr hpods p⟩
  · exact fun t x hx ⟨hlen, ht⟩ => ⟨(endPod_length t x).symm ▸ hlen, (podAt_endPod_ne (Ne.symm hx)).trans ht⟩
  · exact fun t ⟨hlen, ht⟩ => by rw [podAt_endPod_bound hlen (ht ▸ hb), ht]
  · exact fun t x ht => by rw [(endPod_jobsEnd t x).pods p (by simp [Pod.leftAlone, ht]), ht]

end

/-! ## Comparisons of replica groups (R361) -/

/-- Job `k` has failed already, or no replica group holds a digest of it. -/
def spared (s : State) (k : Nat) : Prop :=
  (job s k).st = .failed ∨ ∀ e ∈ s.itg.groups, ∀ d ∈ e.2.pending, d.1 ≠ k

section
variable (s : State) (j reason status : Nat) (cause : List Nat)

theorem modJob_cease (f : Job → Job) : JobsCease s (modJob s j f) := .of_eq rfl rfl rfl

theorem setJobSt_cease (x : JobState) : JobsCease s (setJobSt s j x) :=
  .of_eq (setJobSt_gates x) (setJobSt_sqs x) (by rw [setJobSt_itg])

/-- A job that fails ends, and then reads `FAILED` with its reason; a job that has ended stays (Table 3-7). -/
theorem failOne_eq : failOne s j reason status cause = s ∨ failOne s j reason status cause =
    setJobSt (modJob (endWork s j status cause) j fun b => { b with reason := reason }) j .failed := by
  simp only [failOne]
  split
  · exact .inl rfl
  · exact .inr rfl

theorem failOne_cease : JobsCease s (failOne s j reason status cause) := by
  rcases failOne_eq s j reason status cause with h | h
  · rw [h]
    exact .refl s
  · rw [h]
    exact (endWork_cease s j status cause).trans ((modJob_cease _ j _).trans (setJobSt_cease _ j _))

variable {s j} in
theorem job_failOne_spared (hk : (job s k).st = .failed ∨ k ≠ j) : job (failOne s j reason status cause) k = job s k := by
  by_cases hkj : k = j
  · subst hkj
    rw [failOne]
    exact congrArg (job · k) (if_pos (.inr (.inl (hk.resolve_right fun h => h rfl))))
  · rcases failOne_eq s j reason status cause with h | h
    · rw [h]
    · rw [h, job_setJobSt_ne _ hkj, job_modJob_ne hkj, job_endWork_ne s status cause hkj]

omit s j in
theorem podAt_modJob (s : State) (j : Nat) (f : Job → Job) (p : Nat) : podAt (modJob s j f) p = podAt s p := rfl

theorem podAt_failOne_ne (hp : p ∉ jobPods s j) : podAt (failOne s j reason status cause) p = podAt s p := by
  rcases failOne_eq s j reason status cause with h | h
  · rw [h]
  · rw [h, podAt_congr (setJobSt_pods _), podAt_modJob, podAt_endWork_ne s j status cause hp]

end

theorem mem_judge {ds : List (Nat × Nat)} {k : Nat} (h : k ∈ (judge ds).2) : ∃ d ∈ ds, d.1 = k := by
  unfold judge at h
  extract_lets at h
  split at h
  · simp at h
  · split at h
    · obtain ⟨d, hd, rfl⟩ := List.mem_map.1 h
      exact ⟨d, List.mem_of_mem_filter hd, rfl⟩
    · obtain ⟨d, hd, rfl⟩ := List.mem_map.1 h
      exact ⟨d, hd, rfl⟩

theorem modGroup_cease {g : Nat} {f : Group → Group} (hf : ∀ x, (f x).pending = []) : JobsCease s (modGroup s g f) where
  gates _ h _ := h
  rings _ h := h
  pending e he d hd := by
    rcases mem_supd he with he | rfl | ⟨v, -, rfl⟩
    · exact ⟨e, he, hd⟩
    · rw [hf] at hd
      cases hd
    · rw [hf] at hd
      cases hd

theorem mem_groupAt_pending {g : Nat} {d : Nat × Nat} (h : d ∈ (groupAt s g).pending) :
    ∃ e ∈ s.itg.groups, d ∈ e.2.pending := by
  cases hg : sget? s.itg.groups g with
  | none => simp [groupAt, sgetD, hg, Group.empty] at h
  | some x => exact ⟨(g, x), mem_of_sget? hg, by simpa [groupAt, sgetD, hg] using h⟩

/-- Between `s` and `t` jobs other than `k` have ended. -/
structure Spares (k : Nat) (s t : State) : Prop where
  cease : JobsCease s t
  job : job t k = job s k
  pods : (Machine.job s k).st ≠ .failed → ∀ p ∈ jobPods s k, podAt t p = podAt s p

theorem Spares.refl (k : Nat) (s : State) : Spares k s s := ⟨.refl s, rfl, fun _ _ _ => rfl⟩

theorem Spares.trans (h : Spares k s t) (h' : Spares k t u) : Spares k s u where
  cease := h.cease.trans h'.cease
  job := h'.job.trans h.job
  pods hf p hp := by
    have hq := h.pods hf p hp
    exact (h'.pods (by rwa [h.job]) p (mem_jobPods.2 (hq ▸ mem_jobPods.1 hp))).trans hq

theorem spared.mono (h : spared s k) (hs : Spares k s t) : spared t k := by
  refine h.imp (fun hf => by rwa [hs.job]) fun hp e he d hd => ?_
  obtain ⟨e', he', hd'⟩ := hs.cease.pending e he d hd
  exact hp e' he' d hd'

/-- The end of another job spares a job (R361). -/
theorem failOne_spares {j : Nat} (h : (job s k).st = .failed ∨ k ≠ j) (reason status : Nat) (cause : List Nat) :
    Spares k s (failOne s j reason status cause) where
  cease := failOne_cease ..
  job := job_failOne_spared _ _ _ h
  pods hf _ hp := podAt_failOne_ne _ _ _ _ _ fun hpj =>
    h.resolve_left hf ((mem_jobPods.1 hp).2.2.symm.trans (mem_jobPods.1 hpj).2.2)

theorem compareGroup_spares (h : spared s k) (g : Nat) : Spares k s (compareGroup s g) := by
  simp only [compareGroup]
  refine List.foldlRecOn (motive := Spares k s) _ _ ⟨modGroup_cease fun _ => rfl, rfl, fun _ _ _ => rfl⟩
    fun t ht i hi => ?_
  have hpoison : Spares k t (splitPoison t i g) := ⟨.of_eq rfl rfl rfl, rfl, fun _ _ _ => rfl⟩
  refine (ht.trans hpoison).trans (failOne_spares ?_ ..)
  refine h.imp (fun hf => by rwa [hpoison.job, ht.job]) fun hp hki => ?_
  obtain ⟨d, hd, hdi⟩ := mem_judge hi
  obtain ⟨e, he, hde⟩ := mem_groupAt_pending hd
  exact hp e he d hde (hdi.trans hki.symm)

theorem settle_spares (n : Nat) (h : spared s k) : Spares k s (settle n s) := by
  induction n generalizing s with
  | zero => exact .refl k s
  | succ n ih =>
    unfold settle
    split
    · next e _ =>
      have hc := compareGroup_spares h e.1
      exact hc.trans (ih (h.mono hc))
    · exact .refl k s

theorem settleGroups_spares (h : spared s k) : Spares k s (settleGroups s) := settle_spares _ h

/-- Comparisons assign no gate and begin no ring again, whatever they end. -/
theorem settle_cease (n : Nat) (s : State) : JobsCease s (settle n s) := by
  induction n generalizing s with
  | zero => exact .refl s
  | succ n ih =>
    unfold settle
    split
    · refine JobsCease.trans ?_ (ih _)
      exact (modGroup_cease fun _ => rfl).trans (.foldl (fun u i _ => JobsCease.trans (t := splitPoison u i _)
        (.of_eq rfl rfl rfl) (failOne_cease ..)) _)
    · exact .refl s

end Sys2Proof.Machine
end

section
/-! UNBIND, SAVE and RESTORE (spec/02 R44, R54, R58, R61, Table 2-9). -/

namespace Sys2Proof.Machine

variable {s t : State} {j p : Nat}

/-- A command of an open port that meets the checks of block and page (R45). -/
structure Commands (s : State) : Prop where
  inv : Inv s
  opened : portOpen s = true
  works : working s = true
  enabled : Machine.enabled s 3 = true

theorem jobGateCheck_jobStore (h : Commands s) (j op : Nat) (at' : Bool) : jobGateCheck (jobStore s j op at') = none := by
  refine jobGateCheck_none_iff.2 ⟨?_, ?_⟩
  · rw [working, jobStore_blk]
    exact h.works
  · have he := h.enabled
    unfold Machine.enabled at he ⊢
    rwa [rg_jobStore_ne]
    decide

/-- The argument registers are not the command's. -/
theorem argCmd_save_jobStore (s : State) (j op : Nat) (b at' : Bool) (r : Route) :
    argCmd (jobStore s j op b) .save at' r = argCmd s .save at' r := by
  simp only [argCmd, argImage, rg64]
  rw [rg_jobStore_ne j op b (o := 0x824) (by decide), rg_jobStore_ne j op b (o := 0x828) (by decide),
    rg_jobStore_ne j op b (o := 0x828 + 4) (by decide), rg_jobStore_ne j op b (o := 0x804) (by decide),
    rg_jobStore_ne j op b (o := 0x804 + 4) (by decide), rg_jobStore_ne j op b (o := 0x80C) (by decide)]
  simp

/-! ## Refusals -/

theorem doUnbind_refused (h : Commands s) (hj : (job s j).st = .none) :
    doUnbind s j = jobRefuse (jobStore s j 2 false) (0x034B, 0, 0) := by
  simp only [doUnbind, h.opened, jobGateCheck_jobStore h, job_jobStore, hj]
  rfl

theorem doSave_refused (h : Commands s) (hj : (job s j).st = .none) (at' : Bool) :
    doSave s j at' = jobRefuse (jobStore s j 3 at') (0x034B, 0, 0) := by
  simp only [doSave, h.opened, jobGateCheck_jobStore h, job_jobStore, hj]
  rfl

/-- A refused command writes registers only. -/
theorem jobStore_refused (h : Commands s) (j op : Nat) (at' : Bool) :
    let t := jobRefuse (jobStore s j op at') (0x034B, 0, 0)
    t.jobs = s.jobs ∧ bitN (rg t 3 0x800) 30 = true ∧ refused t 3 0x034B 0x800 ∧ t.pods = s.pods := by
  intro t
  obtain ⟨hjobs, hflag, hpage⟩ := jobRefuse_refusal (jobStore_inv j op at' h.inv) (code := 0x034B) (by decide)
  exact ⟨hjobs.trans (jobStore_jobs j op at'), hflag, hpage, (jobRefuse_pods _).trans (jobStore_pods j op at')⟩

/-! ## UNBIND -/

/-- The state in which the work of job `j` has ended and comparisons are settled. -/
def workEnded (s : State) (j : Nat) : State := settleGroups (endWork s j stAborted)

theorem podAt_workEnded (hI : Inv s) (hp : p ∈ jobPods s j) (hb : (podAt s p).st = .bound) :
    podAt (workEnded s j) p = { podAt s p with st := .draining } := by
  have hd := podAt_endWork_bound s j stAborted [] hI hp hb
  rw [workEnded, settleGroups, (settle_jobsEnd _ _).pods p (by simp [Pod.leftAlone, hd]), hd]

theorem workEnded_free (s : State) (j : Nat) : ∀ g ∈ (workEnded s j).gates, g.2.assigned = true → g.2.job ≠ j :=
  fun g hg ha => endWork_free s j stAborted [] g ((settle_cease _ _).gates g hg ha) ha

theorem doUnbind_bound (h : Commands s) (hb : (job s j).st = .bound) (hq : (job s j).queued = [])
    (ha : (job s j).active = none) : doUnbind s j =
      if (jobPods (workEnded (jobStore s j 2 false) j) j).isEmpty then jobGone (workEnded (jobStore s j 2 false) j) j
      else setJobSt (modJob (workEnded (jobStore s j 2 false) j) j fun b =>
        { b with active := some unbindCmd, reason := 0 }) j .unbinding := by
  have hu : settleGroups (endWork (jobStore s j 2 false) j stAborted) = workEnded (jobStore s j 2 false) j := rfl
  simp only [doUnbind, h.opened, jobGateCheck_jobStore h, job_jobStore, hb, hq, ha, Bool.true_eq_false, if_false,
    decide_true, Bool.true_or, Bool.not_true, List.isEmpty_nil, Option.isSome_none, Bool.or_self, Bool.false_eq_true]
  rw [hu]

/-- An accepted UNBIND: the job's Pods drain and its gates are free (Table 2-9). -/
theorem doUnbind_drains (h : Commands s) (hb : (job s j).st = .bound) (hq : (job s j).queued = [])
    (ha : (job s j).active = none) (hp : ∃ p ∈ jobPods s j, (podAt s p).st = .bound) :
    let t := doUnbind s j
    (job t j).st = .unbinding ∧ (job t j).active = some unbindCmd ∧ (job t j).reason = 0 ∧
      (∀ p ∈ jobPods s j, (podAt s p).st = .bound → (podAt t p).st = .draining) ∧
      (∀ g ∈ t.gates, g.2.assigned = true → g.2.job ≠ j) := by
  intro t
  have ht : t = _ := doUnbind_bound h hb hq ha
  clear_value t
  have hpods := jobStore_pods (s := s) j 2 false
  have hd (p : Nat) (hpj : p ∈ jobPods s j) (hpb : (podAt s p).st = .bound) :
      podAt (workEnded (jobStore s j 2 false) j) p = { podAt s p with st := .draining } := by
    rw [podAt_workEnded (jobStore_inv j 2 false h.inv) (by rwa [jobPods_congr hpods]) (by rwa [podAt_congr hpods]),
      podAt_congr hpods]
  have hfree := workEnded_free (jobStore s j 2 false) j
  generalize workEnded (jobStore s j 2 false) j = u at ht hd hfree
  obtain ⟨p, hpj, hpb⟩ := hp
  have hmem : p ∈ jobPods u j := by
    rw [mem_jobPods, hd p hpj hpb]
    exact mem_jobPods.1 hpj
  rw [if_neg (by simpa using List.ne_nil_of_mem hmem)] at ht
  subst ht
  simp only [job_setJobSt_self, job_modJob_self, true_and]
  refine ⟨fun p hpj hpb => ?_, ?_⟩
  · rw [podAt_congr (setJobSt_pods _), podAt_modJob, hd p hpj hpb]
  · rw [setJobSt_gates]
    exact hfree

/-! ## SAVE -/

/-- The state in which a drain of job `j` finds its Pods: the job is `DRAINING` and out of its groups. -/
def leftGroups (s : State) (j : Nat) : State := endCopy (leaveGroups (setJobSt s j .draining) j) j

theorem job_leftGroups (s : State) (j : Nat) : job (leftGroups s j) j = { job s j with st := .draining } :=
  (job_congr (endCopy_jobs _ j) j).trans (job_setJobSt_self _)

theorem leftGroups_pods (s : State) (j : Nat) : (leftGroups s j).pods = s.pods :=
  (endCopy_pods _ j).trans (setJobSt_pods _)

theorem leftGroups_spared (s : State) (j : Nat) : spared (leftGroups s j) j := .inr fun e he d hd => by
  obtain ⟨e', he', hd'⟩ := (endCopy_cease _ j).pending e he d hd
  exact leaveGroups_not_pending _ j e' he' d hd'

/-- The bound Pods of `l` drain (R54). -/
def drainPods (s : State) (l : List Nat) : State :=
  l.foldl (fun s p => if (podAt s p).st = .bound then setPodSt s p .draining else s) s

theorem beginDrain_eq (s : State) (j : Nat) : beginDrain s j =
    drainPods (settleGroups (leftGroups s j)) (jobPods (settleGroups (leftGroups s j)) j) := rfl

theorem job_drainPods (s : State) (l : List Nat) (k : Nat) : job (drainPods s l) k = job s k :=
  foldl_keeps (job · k) (fun u p _ => by split <;> rfl) s

theorem podAt_drainPods (hl : p < s.pods.length) (hb : (podAt s p).st = .bound) {l : List Nat} (hp : p ∈ l) :
    (podAt (drainPods s l) p).st = .draining := by
  refine foldl_reaches (A := fun t => p < t.pods.length ∧ (podAt t p).st = .bound) (B := fun t => (podAt t p).st = .draining)
    (fun t x hx ⟨hlen, ht⟩ => ?_) (fun t ⟨hlen, ht⟩ => ?_) (fun t x ht => ?_) hp ⟨hl, hb⟩
  · split
    · exact ⟨(length_modPod x _).symm ▸ hlen, by rwa [setPodSt, podAt_modPod_ne (Ne.symm hx)]⟩
    · exact ⟨hlen, ht⟩
  · rw [if_pos ht, setPodSt, podAt_modPod_self hlen]
  · by_cases hx : p = x
    · subst hx
      rwa [if_neg (by simp [ht])]
    · split
      · rwa [setPodSt, podAt_modPod_ne hx]
      · exact ht

/-- A drain makes the job `DRAINING`, and its bound Pods with it; comparisons end only other jobs (R54, R361). -/
theorem beginDrain_drains (hI : Inv s) (j : Nat) : job (beginDrain s j) j = { job s j with st := .draining } ∧
    ∀ p ∈ jobPods s j, (podAt s p).st = .bound → (podAt (beginDrain s j) p).st = .draining := by
  have hs := settleGroups_spares (leftGroups_spared s j)
  have hj := job_leftGroups s j
  have hps := leftGroups_pods s j
  have hIu : Inv (settleGroups (leftGroups s j)) :=
    (settleGroups_ok (endCopy_ok (leaveGroups_ok (setJobSt_ok ⟨hI, rfl⟩ j _) j) j)).inv
  rw [beginDrain_eq]
  generalize leftGroups s j = u at hs hj hps hIu
  refine ⟨by rw [job_drainPods, hs.job, hj], fun p hp hb => ?_⟩
  have hpu : podAt (settleGroups u) p = podAt s p :=
    (hs.pods (by simp [hj]) p (by rwa [jobPods_congr hps])).trans (podAt_congr hps p)
  have hmem : p ∈ jobPods (settleGroups u) j := by
    rw [mem_jobPods, hpu]
    exact mem_jobPods.1 hp
  refine podAt_drainPods ?_ (hpu ▸ hb) hmem
  rw [hIu.pods]
  exact (mem_jobPods.1 hp).1

theorem doSave_bound (h : Commands s) (hb : (job s j).st = .bound) (hq : (job s j).queued = []) (ha : (job s j).active = none)
    (hr : rsvSet s 3 0x804 = false) (hn : imageBytes (job s j).members.length (job s j).window ≤ rg s 3 0x80C * 4096)
    (at' : Bool) : doSave s j at' =
      let c := argCmd s .save at' (job s j).route
      let u := modJob (jobStore s j 3 at') j fun b => { b with ctxAddr := c.imageAddr, ctxSize := c.imageSize }
      if at' ∧ (job s j).route.tollgates ≠ 0 then modJob u j fun b => { b with queued := [c] }
      else beginDrain (modJob u j fun b => { b with active := some c }) j := by
  have hr' : rsvSet (jobStore s j 3 at') 3 0x804 = false := by rw [rsvSet_jobStore_ne _ _ _ (by decide), hr]
  have hn' : ¬rg (jobStore s j 3 at') 3 0x80C * 4096 < imageBytes (job s j).members.length (job s j).window := by
    rw [rg_jobStore_ne _ _ _ (by decide)]
    exact Nat.not_lt.2 hn
  simp only [doSave, h.opened, jobGateCheck_jobStore h, job_jobStore, hb, hq, ha, hr', hn', argCmd_save_jobStore,
    Bool.true_eq_false, if_false, ne_eq, not_true_eq_false, Option.isSome_none, Bool.false_eq_true, or_self]

/-- An accepted SAVE at once: the job and its bound Pods drain (R54). -/
theorem doSave_drains (h : Commands s) (hb : (job s j).st = .bound) (hq : (job s j).queued = [])
    (ha : (job s j).active = none) (hr : rsvSet s 3 0x804 = false)
    (hn : imageBytes (job s j).members.length (job s j).window ≤ rg s 3 0x80C * 4096) :
    let t := doSave s j false
    (job t j).st = .draining ∧ (job t j).ctxAddr = rg64 s 3 0x804 ∧ (job t j).ctxSize = rg s 3 0x80C ∧
      (job t j).active = some (argCmd s .save false (job s j).route) ∧
      (∀ p ∈ jobPods s j, (podAt s p).st = .bound → (podAt t p).st = .draining) := by
  intro t
  have ht : t = _ := doSave_bound h hb hq ha hr hn false
  clear_value t
  rw [if_neg (by simp)] at ht
  subst ht
  generalize hu : modJob (modJob (jobStore s j 3 false) j _) j _ = u
  have hju : job u j = { job s j with
      ctxAddr := rg64 s 3 0x804, ctxSize := rg s 3 0x80C, active := some (argCmd s .save false (job s j).route) } := by
    rw [← hu, job_modJob_self, job_modJob_self, job_jobStore]
    rfl
  have hpods : u.pods = s.pods := hu ▸ jobStore_pods (s := s) j 3 false
  have hIu : Inv u := hu ▸ (modJob_ok (modJob_ok ⟨jobStore_inv j 3 false h.inv, rfl⟩ j _) j _).inv
  obtain ⟨hj, hp⟩ := beginDrain_drains hIu j
  rw [hj, hju]
  refine ⟨rfl, rfl, rfl, rfl, fun p hpj hpb => hp p ?_ ?_⟩
  · rwa [jobPods_congr hpods]
  · rwa [podAt_congr hpods]

/-- An accepted SAVE with `AT_STAGE` waits in the job's queue (R54). -/
theorem doSave_waits (h : Commands s) (hb : (job s j).st = .bound) (hq : (job s j).queued = [])
    (ha : (job s j).active = none) (hr : rsvSet s 3 0x804 = false)
    (hn : imageBytes (job s j).members.length (job s j).window ≤ rg s 3 0x80C * 4096)
    (ht : (job s j).route.tollgates ≠ 0) :
    let t := doSave s j true
    (job t j).st = .bound ∧ (job t j).active = none ∧ (job t j).queued = [argCmd s .save true (job s j).route] ∧
      t.pods = s.pods ∧ t.gates = s.gates ∧ t.mps = s.mps ∧ t.marrow = s.marrow ∧ t.sqs = s.sqs := by
  intro t
  have he : t = _ := doSave_bound h hb hq ha hr hn true
  clear_value t
  rw [if_pos ⟨rfl, ht⟩] at he
  subst he
  simp only [job_modJob_self, job_jobStore]
  refine ⟨hb, ha, trivial, ?_⟩
  simp

/-! ## RESTORE -/

theorem argPods_jobStore (s : State) (j op : Nat) (at' : Bool) : argPods (jobStore s j op at') = argPods s := by
  refine List.filter_congr fun l hl => ?_
  have hl96 := List.mem_range.1 hl
  rw [rg_jobStore_ne j op at' (o := 0x818 + 4 * (l / 32))]
  unfold wa
  omega

theorem rsvSet_routeRead {r : HostRead} (h : r.kind = .okay) (s : State) (p o : Nat) :
    rsvSet (routeRead s r) p o = rsvSet s p o := by
  obtain ⟨live, mem, hu⟩ := hostRead_of_okay h s (rg64 s 3 0x810) (max 64 r.bytes.length) 0
  rw [routeRead, hu]
  rfl

/-- The registers and the image answer a RESTORE of the saved job `j` (R58, R59, Table 2-9). -/
structure Restorable (s : State) (j : Nat) (r : HostRead) : Prop where
  saved : (job s j).st = .saved
  queued : (job s j).queued = []
  active : (job s j).active = none
  okay : r.kind = .okay
  checks : setChecks (jobStore s j 4 false) (parseRoute r.bytes) = none
  rsv : rsvSet s 3 0x804 = false
  room : imageBytes (job s j).srcPods (rg s 3 0x824) ≤ rg s 3 0x80C * 4096
  pods : (argPods s).length = (job s j).srcPods ∨ (bitN (parseRoute r.bytes).flags 0 = true ∧ (job s j).resizable = true)

theorem doRestore_saved {r : HostRead} (h : Commands s) (hr : Restorable s j r) : doRestore s j r =
    wakePods (setJobSt (modJob (routeRead (jobStore s j 4 false) r) j fun b =>
        { b with active := some (argCmd (jobStore s j 4 false) .restore false (parseRoute r.bytes)) }) j .restoring)
      (argCmd (jobStore s j 4 false) .restore false (parseRoute r.bytes)).pods := by
  obtain ⟨hb, hq, ha, hk, hset, hrsv, hroom, hp⟩ := hr
  have hrsv' : rsvSet (jobStore s j 4 false) 3 0x804 = false := by rw [rsvSet_jobStore_ne _ _ _ (by decide), hrsv]
  have hroom' : ¬(argCmd (jobStore s j 4 false) .restore false (parseRoute r.bytes)).imageSize * 4096 <
      imageBytes (job s j).srcPods (argCmd (jobStore s j 4 false) .restore false (parseRoute r.bytes)).window := by
    simp only [argCmd]
    rw [rg_jobStore_ne _ _ _ (by decide), rg_jobStore_ne _ _ _ (by decide)]
    exact Nat.not_lt.2 hroom
  have hp' : ¬((argCmd (jobStore s j 4 false) .restore false (parseRoute r.bytes)).pods.length ≠ (job s j).srcPods ∧
      (bitN (parseRoute r.bytes).flags 0 = false ∨ True ∧ (job s j).resizable = false)) := by
    simp only [argCmd, or_true, if_true, argPods_jobStore]
    rintro ⟨hlen, hflag⟩
    obtain ⟨hbit, hres⟩ := hp.resolve_left hlen
    simp [hbit, hres] at hflag
  simp only [doRestore, h.opened, jobGateCheck_jobStore h, job_jobStore, hb, hq, ha, setChecks_routeRead hk,
    argCmd_routeRead hk, rsvSet_routeRead hk, hset, hrsv', Bool.true_eq_false, if_false, reduceCtorEq, decide_false, Bool.false_and,
    decide_true, List.isEmpty_nil, Option.isNone_none, Bool.and_self, Bool.not_true, Bool.not_false, Bool.false_eq_true,
    false_or, if_neg hroom']
  rw [if_neg hp']

/-- An accepted RESTORE of a saved job changes only its state, its command, and gated Pods (R59, Table 2-14). -/
theorem doRestore_restores {r : HostRead} (h : Commands s) (hr : Restorable s j r) :
    let t := doRestore s j r
    (job t j).st = .restoring ∧
      (job t j).active = some (argCmd (jobStore s j 4 false) .restore false (parseRoute r.bytes)) ∧
      (job t j).route = (job s j).route ∧ (∀ k, k ≠ j → job t k = job s k) ∧ t.marrow = s.marrow ∧ t.gates = s.gates ∧
      t.mps = s.mps := by
  intro t
  have he : t = _ := doRestore_saved h hr
  clear_value t
  subst he
  have hu := argKept_routeRead hr.okay s j 4 false
  generalize routeRead (jobStore s j 4 false) r = u at hu
  simp only [job_wakePods, job_setJobSt_self, job_modJob_self]
  refine ⟨trivial, trivial, by rw [job_congr hu.jobs], fun k hk => ?_, ?_⟩
  · rw [job_setJobSt_ne _ hk, job_modJob_ne hk, job_congr hu.jobs]
  · simp [hu.marrow, hu.gates, hu.mps]

/-- Settles O24: an accepted UNBIND ends the job's work, a SAVE drains its Pods or waits, a RESTORE begins, and without a job
UNBIND and SAVE are refused (R44, R54, R58, R61). -/
theorem jobCommandsAccepted : Obligations.JobCommandsAccepted := by
  intro s j hI ho hw he
  have h : Commands s := ⟨hI, ho, hw, he⟩
  refine ⟨fun hb c hc => ?_, fun hb hq ha => ⟨fun hp => ?_, fun hr hn => ⟨?_, fun ht => ?_⟩⟩,
    fun hb hq ha r hwf hk hset hr hn hp => ?_⟩
  · rcases hc with rfl | ⟨x, rfl⟩
    · exact ⟨_, rfl, doUnbind_refused h hb ▸ jobStore_refused h ..⟩
    · exact ⟨_, rfl, doSave_refused h hb x ▸ jobStore_refused h ..⟩
  · exact ⟨_, rfl, doUnbind_drains h hb hq ha hp⟩
  · rw [argCmd_save_jobStore]
    exact ⟨_, rfl, doSave_drains h hb hq ha hr hn⟩
  · rw [argCmd_save_jobStore]
    exact ⟨_, rfl, doSave_waits h hb hq ha hr hn ht⟩
  · have hexec : exec (.restore j r) s = .next (doRestore s j.toNat r) := by simp [exec, execRestore, hwf]
    exact ⟨_, hexec, doRestore_restores h ⟨hb, hq, ha, hk, hset, hr, hn, hp⟩⟩

end Sys2Proof.Machine
end

section
/-! JOB_COMMAND_START (spec/02 R46, R50, R57 to R60, spec/07 R248, spec/12 R311, R316). -/

namespace Sys2Proof.Machine

variable {s t u : State} {j k p : Nat}

/-! ## An image whose read was answered with a fault -/

/-- The state without a request for a block reset. -/
def dropRstReq (s : State) : State := { s with pins := { s.pins with rstReq := false } }

/-- What an event without a block reset may change of the state is blanked. -/
def alarmFrame (s : State) : State := dropRstReq (podFrame s)

theorem alarmFrame_of_podFrame (h : podFrame t = podFrame s) : alarmFrame t = alarmFrame s := congrArg dropRstReq h

theorem alarmFrame_react {mask : Nat} (h : bitN mask 2 = false) (r : Wayside) : alarmFrame (react s mask r) = alarmFrame s := by
  have hpin (u : State) : alarmFrame { u with pins := { u.pins with rstReq := true } } = alarmFrame u := rfl
  simp only [react, h, Bool.false_eq_true, if_false, apply_ite alarmFrame, hpin, ite_self]
  simp [alarmFrame, podFrame_modFlt, apply_ite podFrame]

theorem bitN_bits (v k hi lo : Nat) (h : lo + k ≤ hi) : bitN (bits v hi lo) k = bitN v (lo + k) := by
  rw [bitN, bits, Nat.testBit_mod_two_pow, Nat.testBit_shiftRight, decide_eq_true (by omega), Bool.true_and, bitN]

theorem alarmFrame_onSevere {src : Nat} (h2 : src ≠ 2) (h4 : src ≠ 4) (h18 : src ≠ 18) (i : Nat) :
    alarmFrame (onSevere s src i) = alarmFrame s := by
  simp only [onSevere, if_neg h2, if_neg h4, if_neg h18]
  exact alarmFrame_of_podFrame podFrame_dumpOnSevere

/-- An event of a source whose reactions hold no block reset leaves jobs, Pods and Marrow alone (Table 15-2). -/
theorem alarmFrame_raiseAs {src i : Nat} (hh : hears s src i = true) (h2 : src ≠ 2) (h4 : src ≠ 4) (h18 : src ≠ 18)
    (h21 : src ≠ 21) (hr : noReset s src) (info : Word) (ctx : EventCtx) (pod : Nat) (wire : Bool) (unit : Nat) :
    alarmFrame (raiseAs s src i info ctx pod wire unit) =
      alarmFrame (modFlt s fun c => { c with active := c.active ||| BitVec.ofNat 32 (2 ^ src) }) := by
  have hmask (b : Bool) : bitN (if b = true then bits (rg s 1 (0x400 + 4 * src)) 28 24
      else bits (rg s 1 (0x400 + 4 * src)) 20 16) 2 = false := by
    cases b
    · exact (bitN_bits _ 2 20 16 (by decide)).trans hr.1
    · exact (bitN_bits _ 2 28 24 (by decide)).trans hr.2
  simp only [raiseAs, hh, Bool.true_eq_false, if_false, if_neg h21, alarmFrame_react (hmask _), apply_ite alarmFrame,
    alarmFrame_onSevere h2 h4 h18, ite_self]
  simp only [alarmFrame, podFrame_recordEvent, apply_ite podFrame, podFrame_bump, ite_self]
  rfl

/-- What a block event without a block reset keeps, with its source active. -/
theorem raise_keeps_pods (h : s.blk.st ≠ .cold) {src : Nat} (h2 : src ≠ 2) (h4 : src ≠ 4) (h18 : src ≠ 18) (h21 : src ≠ 21)
    (hlt : src < 32) (hr : noReset s src) (info : Nat) :
    let t := raise s src 127 info
    t.jobs = s.jobs ∧ t.pods = s.pods ∧ t.gates = s.gates ∧ t.marrow = s.marrow ∧ t.flt.active.getLsbD src = true := by
  intro t
  have hh : hears (draw s) src 127 = true := hears_block (by simpa using h) src
  have ha : alarmFrame t = alarmFrame (modFlt (draw s) fun c => { c with active := c.active ||| BitVec.ofNat 32 (2 ^ src) }) :=
    alarmFrame_raiseAs hh h2 h4 h18 h21 hr ..
  have he : eventFrame t = eventFrame (modFlt (draw s) fun c => { c with active := c.active ||| BitVec.ofNat 32 (2 ^ src) }) :=
    eventFrame_raiseAs hh h2 h4 h18 ..
  have hactive : t.flt.active = s.flt.active ||| BitVec.ofNat 32 (2 ^ src) := congrArg (·.flt.active) he
  refine ⟨congrArg (·.jobs) ha, congrArg (·.pods) ha, congrArg (·.gates) he, congrArg (·.marrow) ha, ?_⟩
  rw [hactive, BitVec.getLsbD_or, BitVec.getLsbD_ofNat, Nat.testBit_two_pow_self]
  simp [hlt]

/-- What the read of an image that is answered with a fault keeps, with its source active (R283). -/
theorem hostRead_fault {i : HostRead} (hi : i.kind = .fault) (h : s.blk.st ≠ .cold) (hr : noReset s 11) (a n x : Nat) :
    let t := hostRead s a n x i
    t.jobs = s.jobs ∧ t.pods = s.pods ∧ t.gates = s.gates ∧ t.marrow = s.marrow ∧ t.flt.active.getLsbD 11 = true := by
  obtain ⟨live, hb⟩ := bump_live s 3 0 (if n = 0 then 0 else (a + n - 1) / 64 + 1 - a / 64)
  simp only [hostRead, hi, hb]
  exact raise_keeps_pods (s := modMem { s with regs := { s.regs with live := live } } _) h (by decide) (by decide) (by decide)
    (by decide) (by decide) hr _

/-! ## The Pods of a command that starts -/

/-- Pod `p` starts on logical ID `l` of the command `c` (Table 2-11, R46). -/
def podBegun (s : State) (j : Nat) (c : JobCmd) (l p : Nat) : State :=
  modJob (modPod (zeroise s p) p fun q =>
      { q with st := .restoring, job := j, bindValid := true, member := (c.pods.findIdx? (· = l)).getD 0 }) j
    fun b => { b with active := b.active.map fun c => { c with unstarted := ndel c.unstarted l } }

theorem startPod_eq (j : Nat) (c : JobCmd) (s : State) (l : Nat) : startPod j c s l = s ∨
    ∃ p, physOf s l = some p ∧ (podAt s p).st = .idle ∧ startPod j c s l = podBegun s j c l p := by
  simp only [startPod]
  split
  · exact .inl rfl
  · next p hp =>
    split
    · next h => exact .inr ⟨p, hp, h.1, rfl⟩
    · exact .inl rfl

theorem startPod_free {c : JobCmd} {l : Nat} (hp : physOf s l = some p) (hi : (podAt s p).st = .idle)
    (hg : (podAt s p).gated = false) (hc : (podAt s p).copyOk = true) : startPod j c s l = podBegun s j c l p := by
  simp only [startPod, hp]
  exact if_pos ⟨hi, hg, hc⟩

theorem physOf_congr (hr : ∀ p, (podAt t p).role = (podAt s p).role ∧ (podAt t p).logical = (podAt s p).logical) (l : Nat) :
    physOf t l = physOf s l := by
  unfold physOf inService
  simp only [hr]

theorem logical_of_physOf {l : Nat} (h : physOf s l = some p) : p < 100 ∧ (podAt s p).logical = l := by
  have hm := List.mem_of_find?_eq_some h
  have hp := List.find?_some h
  exact ⟨by simpa [allPods] using hm, by simpa using (Bool.and_eq_true_iff.1 hp).2⟩

theorem podAt_podBegun (s : State) (j : Nat) (c : JobCmd) (l p x : Nat) : podAt (podBegun s j c l p) x =
    if x = p ∧ p < s.pods.length then { podAt s p with
      st := .restoring, job := j, bindValid := true, member := (c.pods.findIdx? (· = l)).getD 0 } else podAt s x := by
  rw [podBegun, podAt_modJob, podAt_modPod, zeroise_pods, podAt_zeroise, podAt_zeroise]

/-- What the start of a command's Pods leaves: records of Pods, zeroised Marrow, and IDs left to start on. -/
structure StartStep (j : Nat) (c : JobCmd) (s t : State) : Prop where
  frame : ∃ m mps ps js, t = { s with marrow := m, mps := mps, pods := ps, jobs := js }
  left : ∃ us, (∀ x ∈ us, x ∈ c.unstarted) ∧ job t j = { job s j with active := some { c with unstarted := us } }
  others : ∀ k, k ≠ j → job t k = job s k
  roles : ∀ p, (podAt t p).role = (podAt s p).role ∧ (podAt t p).logical = (podAt s p).logical
  length : t.pods.length = s.pods.length

theorem podBegun_step {c : JobCmd} {l : Nat} (h : StartStep j c s t) (p : Nat) : StartStep j c s (podBegun t j c l p) where
  frame := by
    obtain ⟨m, mps, ps, js, rfl⟩ := h.frame
    rw [podBegun, zeroise_eq]
    exact ⟨_, _, _, _, rfl⟩
  left := by
    obtain ⟨us, hus, hj⟩ := h.left
    refine ⟨ndel us l, fun x hx => hus x (List.mem_of_mem_filter hx), ?_⟩
    rw [podBegun, job_modJob_self, job_congr (modPod_jobs ..), job_congr (zeroise_jobs _), hj]
    rfl
  others k hk := by
    rw [podBegun, job_modJob_ne hk, job_congr (modPod_jobs ..), job_congr (zeroise_jobs _), h.others k hk]
  roles x := by
    rw [podAt_podBegun]
    split
    · next hx => exact hx.1 ▸ h.roles x
    · exact h.roles x
  length := by
    rw [podBegun, modJob_pods, length_modPod, zeroise_pods, h.length]

/-- The Pods of a command after its start on the logical IDs `ls`. -/
def startedPods (s : State) (j : Nat) (c : JobCmd) (ls : List Nat) : State := ls.foldl (startPod j c) s

theorem StartStep.startPod {c : JobCmd} (h : StartStep j c s t) (l : Nat) : StartStep j c s (startPod j c t l) := by
  rcases startPod_eq j c t l with he | ⟨p, -, -, he⟩
  · rwa [he]
  · rw [he]
    exact podBegun_step h p

theorem StartStep.refl {c : JobCmd} (h : (job s j).active = some c) : StartStep j c s s where
  frame := ⟨s.marrow, s.mps, s.pods, s.jobs, rfl⟩
  left := ⟨c.unstarted, fun _ hx => hx, by rw [← h]⟩
  others _ _ := rfl
  roles _ := ⟨rfl, rfl⟩
  length := rfl

/-- Pod `p` has started on the logical ID `l` of the command `c`. -/
structure PodStarted (j : Nat) (c : JobCmd) (l p : Nat) (t : State) : Prop where
  st : (podAt t p).st = .restoring
  job : (podAt t p).job = j
  bind : (podAt t p).bindValid = true
  member : (podAt t p).member = (c.pods.findIdx? (· = l)).getD 0
  zero : ∀ k, k / 6291456 = p → sgetD t.marrow.bytes k 0 = 0

theorem PodStarted.congr {c : JobCmd} {l : Nat} (h : PodStarted j c l p s) (hp : t.pods = s.pods) (hm : t.marrow = s.marrow) :
    PodStarted j c l p t := by
  have hpod := podAt_congr hp p
  exact ⟨hpod ▸ h.st, hpod ▸ h.job, hpod ▸ h.bind, hpod ▸ h.member, fun k hk => hm ▸ h.zero k hk⟩

/-- The same, and the command no longer waits for it. -/
structure StartedOn (j : Nat) (c : JobCmd) (l p : Nat) (t : State) : Prop extends PodStarted j c l p t where
  left : ∀ d, (Machine.job t j).active = some d → l ∉ d.unstarted

theorem active_podBegun {c : JobCmd} {l : Nat} : (job (podBegun s j c l p) j).active =
    (job s j).active.map fun c => { c with unstarted := ndel c.unstarted l } := by
  rw [podBegun, job_modJob_self, job_congr (modPod_jobs ..), job_congr (zeroise_jobs _)]

theorem bytes_podBegun (s : State) (j : Nat) (c : JobCmd) (l p k : Nat) : sgetD (podBegun s j c l p).marrow.bytes k 0 =
    if k / 6291456 = p then 0 else sgetD s.marrow.bytes k 0 := by
  rw [podBegun, modJob_marrow, modPod_marrow, zeroise_marrow, bytes_zeroiseMarrow]

/-- A free Pod starts (Table 2-11, R46). -/
theorem startedOn_podBegun {c : JobCmd} (l : Nat) (hl : p < s.pods.length) : StartedOn j c l p (podBegun s j c l p) := by
  refine ⟨⟨?_, ?_, ?_, ?_, ?_⟩, ?_⟩
  iterate 4 rw [podAt_podBegun, if_pos ⟨rfl, hl⟩]
  · intro k hk
    rw [bytes_podBegun, if_pos hk]
  · intro d hd
    rw [active_podBegun] at hd
    obtain ⟨e, -, rfl⟩ := Option.map_eq_some_iff.1 hd
    simp [ndel]

/-- A Pod that has started is not free, and no later start touches it. -/
theorem StartedOn.startPod {c : JobCmd} {l : Nat} (h : StartedOn j c l p t) (x : Nat) :
    StartedOn j c l p (startPod j c t x) := by
  rcases startPod_eq j c t x with he | ⟨y, -, hy, he⟩
  · rwa [he]
  · have hne : p ≠ y := fun hp => by rw [← hp, h.st] at hy; cases hy
    have hpod : podAt (podBegun t j c x y) p = podAt t p := by rw [podAt_podBegun, if_neg fun hx => hne hx.1]
    rw [he]
    refine ⟨⟨hpod ▸ h.st, hpod ▸ h.job, hpod ▸ h.bind, hpod ▸ h.member, fun k hk => ?_⟩, fun d hd hx => ?_⟩
    · rw [bytes_podBegun, h.zero k hk, ite_self]
    · rw [active_podBegun] at hd
      obtain ⟨e, hde, rfl⟩ := Option.map_eq_some_iff.1 hd
      exact h.left e hde (List.mem_of_mem_filter hx)

theorem startedPods_step {c : JobCmd} (h : (job s j).active = some c) (ls : List Nat) : StartStep j c s (startedPods s j c ls) :=
  List.foldlRecOn ls _ (StartStep.refl h) fun _ ht l _ => ht.startPod l

/-- Every Pod that is free starts (R46). -/
theorem startedPods_started {c : JobCmd} {l : Nat} {ls : List Nat} (hI : Inv s) (ha : (job s j).active = some c) (hl : l ∈ ls)
    (hp : physOf s l = some p) (hi : (podAt s p).st = .idle) (hg : (podAt s p).gated = false)
    (hc : (podAt s p).copyOk = true) : StartedOn j c l p (startedPods s j c ls) := by
  obtain ⟨hp100, hlog⟩ := logical_of_physOf hp
  refine foldl_reaches (A := fun t => StartStep j c s t ∧ podAt t p = podAt s p) (fun t x hx ⟨ht, hpt⟩ => ?_)
    (fun t ⟨ht, hpt⟩ => ?_) (fun t x ht => ht.startPod x) hl ⟨.refl ha, rfl⟩
  · refine ⟨ht.startPod x, ?_⟩
    rcases startPod_eq j c t x with he | ⟨y, hy, -, he⟩
    · rwa [he]
    · have hne : p ≠ y := fun hpy => by
        have hlogt := (logical_of_physOf hy).2
        rw [← hpy, hpt, hlog] at hlogt
        exact hx hlogt.symm
      rw [he, podAt_podBegun, if_neg fun hx => hne hx.1, hpt]
  · rw [startPod_free ((physOf_congr ht.roles l).trans hp) (hpt ▸ hi) (hpt ▸ hg) (hpt ▸ hc)]
    exact startedOn_podBegun l (by rw [ht.length, hI.pods]; exact hp100)

/-- The state in which a command that has started on all its Pods begins. -/
def begun (s : State) (j : Nat) (c : JobCmd) : State :=
  modJob (startedPods s j c c.unstarted) j fun b => { b with active := b.active.map fun d => { d with gates := [] } }

/-- The conditions of a start on free Pods (R46, R50). -/
structure Startable (s : State) (j : Nat) (c : JobCmd) : Prop where
  inv : Inv s
  works : working s = true
  active : (job s j).active = some c
  waits : c.unstarted ≠ []
  gates : ∀ g ∈ c.gates, (gateAt s g).assigned = false
  pods : ∀ l ∈ c.unstarted, ∃ p, physOf s l = some p ∧ (podAt s p).st = .idle ∧ (podAt s p).gated = false ∧
    (podAt s p).copyOk = true

theorem Startable.started {c : JobCmd} (h : Startable s j c) {l : Nat} (hl : l ∈ c.unstarted) (hp : physOf s l = some p) :
    StartedOn j c l p (startedPods s j c c.unstarted) := by
  obtain ⟨q, hq, hi, hg, hc⟩ := h.pods l hl
  obtain rfl : p = q := Option.some.inj (hp.symm.trans hq)
  exact startedPods_started h.inv h.active hl hp hi hg hc

/-- No logical ID is left once every one has started. -/
theorem job_startedPods {c : JobCmd} (h : Startable s j c) :
    job (startedPods s j c c.unstarted) j = { job s j with active := some { c with unstarted := [] } } := by
  obtain ⟨us, hus, hj⟩ := (startedPods_step h.active c.unstarted).left
  suffices hnil : us = [] by rw [hj, hnil]
  refine List.eq_nil_iff_forall_not_mem.2 fun l hl => ?_
  obtain ⟨p, hp, -⟩ := h.pods l (hus l hl)
  exact (h.started (hus l hl) hp).left _ (by rw [hj]) hl

/-- What a start leaves: the Pods of the command begun, the job's own record but for its command, everything else. -/
structure BegunFrom (s : State) (j : Nat) (c : JobCmd) (t : State) : Prop where
  frame : ∃ m mps ps js, t = { s with marrow := m, mps := mps, pods := ps, jobs := js }
  job : job t j = { job s j with active := some { c with unstarted := [], gates := [] } }
  others : ∀ k, k ≠ j → Machine.job t k = Machine.job s k
  pods : ∀ l ∈ c.unstarted, ∀ p, physOf s l = some p → PodStarted j c l p t

theorem begun_from {c : JobCmd} (h : Startable s j c) : BegunFrom s j c (begun s j c) where
  frame := by
    obtain ⟨m, mps, ps, js, he⟩ := (startedPods_step h.active c.unstarted).frame
    exact ⟨m, mps, ps, _, by rw [begun, he]; rfl⟩
  job := by
    rw [begun, job_modJob_self, job_startedPods h]
    rfl
  others k hk := by rw [begun, job_modJob_ne hk, (startedPods_step h.active c.unstarted).others k hk]
  pods l hl p hp := (h.started hl hp).toPodStarted.congr rfl rfl

theorem Startable.proceeds {c : JobCmd} (h : Startable s j c) (hop : c.op = .bind ∨ c.op = .restore) :
    ¬(working s = false ∨ (c.op ≠ .bind ∧ c.op ≠ .restore) ∨ c.unstarted = [] ∨
      (c.gates.any fun g => (gateAt s g).assigned) = true) := by
  have hgates : (c.gates.any fun g => (gateAt s g).assigned) = false := by
    simpa using h.gates
  rcases hop with hop | hop <;> simp [h.works, h.waits, hgates, hop]

theorem doStart_begins {c : JobCmd} {img : HostRead} (h : Startable s j c) (hop : c.op = .bind ∨ c.op = .restore)
    (hk : ¬(c.op = .restore ∧ img.kind = .fault)) : doStart s j img =
      if c.op = .bind then beginBind (begun s j c) j c
      else beginRestore (imageRead (begun s j c) c img) j c img.bytes := by
  have hempty : (((job (startedPods s j c c.unstarted) j).active).any fun d => d.unstarted.isEmpty) = true := by
    rw [job_startedPods h]
    rfl
  simp only [doStart, h.active]
  rw [if_neg (h.proceeds hop), if_neg hk]
  exact if_pos hempty

theorem doStart_fault {c : JobCmd} {img : HostRead} (h : Startable s j c) (hop : c.op = .restore) (hk : img.kind = .fault) :
    doStart s j img = imageRead s c img := by
  simp only [doStart, h.active]
  rw [if_neg (h.proceeds (.inr hop)), if_pos ⟨hop, hk⟩]

/-! ## Gates -/

theorem gateAt_modGate_self (s : State) (g : Nat) (f : Gate → Gate) : gateAt (modGate s g f) g = f (gateAt s g) :=
  sgetD_supd_self ..

/-- What a chain of updates of gates leaves. -/
theorem modGates_frame (s : State) (l : List (Nat × Nat)) (f : State → Nat × Nat → Gate → Gate) :
    ∃ gs, l.foldl (fun s g => modGate s g.1 (f s g)) s = { s with gates := gs } := by
  refine List.foldlRecOn (motive := fun t : State => ∃ gs, t = { s with gates := gs }) l _ ⟨s.gates, rfl⟩ fun t ht g _ => ?_
  obtain ⟨gs, rfl⟩ := ht
  exact ⟨_, rfl⟩

/-- What every update of a chain keeps of a gate, the chain keeps. -/
theorem modGates_keep {P : Gate → Prop} {l : List (Nat × Nat)} {f : State → Nat × Nat → Gate → Gate} {b : Nat}
    (hf : ∀ g ∈ l, g.1 = b → ∀ u x, P x → P (f u g x)) (h : P (gateAt s b)) :
    P (gateAt (l.foldl (fun s g => modGate s g.1 (f s g)) s) b) := by
  refine List.foldlRecOn (motive := fun t => P (gateAt t b)) l _ h fun t ht g hg => ?_
  by_cases hb : g.1 = b
  · rw [← hb] at ht ⊢
    rw [gateAt_modGate_self]
    exact hf g hg hb _ _ ht
  · rwa [gateAt_modGate_ne (Ne.symm hb)]

/-- What an update of a chain establishes of its gate, and every other keeps, holds at the end. -/
theorem modGates_reach {P : Gate → Prop} {l : List (Nat × Nat)} {f : State → Nat × Nat → Gate → Gate} {b : Nat}
    (hf : ∀ g ∈ l, g.1 = b → ∀ u x, P (f u g x)) (hb : ∃ g ∈ l, g.1 = b) (s : State) :
    P (gateAt (l.foldl (fun s g => modGate s g.1 (f s g)) s) b) := by
  obtain ⟨g, hg, rfl⟩ := hb
  obtain ⟨l₁, l₂, rfl⟩ := List.append_of_mem hg
  rw [List.foldl_append, List.foldl_cons]
  refine modGates_keep (fun x hx hxb u y _ => hf x (by simp [hx]) hxb u y) ?_
  rw [gateAt_modGate_self]
  exact hf g hg rfl _ _

/-- The gates of a begun job: assigned to it, for all its Pods (R50, R311). -/
structure GateOf (j n : Nat) (g : Gate) : Prop where
  assigned : g.assigned = true
  job : g.job = j
  parts : g.parts = n

theorem assignGates_frame (s : State) (j n : Nat) (gs : List Nat) : ∃ l, assignGates s j n gs = { s with gates := l } :=
  modGates_frame s gs.zipIdx _

theorem exists_zipIdx {l : List Nat} {g : Nat} (h : g ∈ l) : ∃ x ∈ l.zipIdx, x.1 = g := by
  rw [← List.zipIdx_map_fst 0 l] at h
  exact List.mem_map.1 h

theorem gateAt_assignGates (s : State) (j n : Nat) {gs : List Nat} {g : Nat} (h : g ∈ gs) :
    GateOf j n (gateAt (assignGates s j n gs) g) ∧ (gateAt (assignGates s j n gs) g).ext = 0 :=
  modGates_reach (P := fun g => GateOf j n g ∧ g.ext = 0) (fun _ _ _ _ _ => ⟨⟨rfl, rfl, rfl⟩, rfl⟩) (exists_zipIdx h) s

/-! ## A job that begins -/

/-- A command has started: the job's record, its gates and its Pods (R46, R50). -/
structure Begins (s : State) (j : Nat) (c : JobCmd) (t : State) : Prop where
  active : (job t j).active = some { c with unstarted := [], gates := [] }
  st : (job t j).st = (job s j).st
  members : (job t j).members = c.pods
  route : (job t j).route = c.route
  window : (job t j).window = c.window
  gates : ∀ g ∈ c.gates, GateOf j c.pods.length (gateAt t g)
  pods : ∀ l ∈ c.unstarted, ∀ p, physOf s l = some p → PodStarted j c l p t
  others : ∀ k, k ≠ j → Machine.job t k = Machine.job s k
  sqs : t.sqs = s.sqs

/-- The record of a job whose `BIND` begins (R50, R248). -/
def boundRecord (c : JobCmd) (b : Job) : Job :=
  { b with
    members := c.pods, route := c.route, window := c.window, seed := c.seed, slotPos := slotStarts
    gates := sortBy c.gates (fun a b => decide (a ≤ b)) }

theorem beginBind_eq (s : State) (j : Nat) (c : JobCmd) : beginBind s j c =
    assignGates (modJob s j (boundRecord c)) j c.pods.length (sortBy c.gates fun a b => decide (a ≤ b)) := by
  have hg : (job (modJob s j (boundRecord c)) j).gates = sortBy c.gates fun a b => decide (a ≤ b) := by
    rw [job_modJob_self]
    rfl
  rw [← hg]
  rfl

/-- A `BIND` that begins: seed and slots as given, gates with `EXT` 0 (R50, R248, R311). -/
theorem beginBind_begins {c : JobCmd} (h : BegunFrom s j c u) :
    let t := beginBind u j c
    Begins s j c t ∧ (job t j).seed = c.seed ∧ (job t j).slotPos = slotStarts ∧ (∀ g ∈ c.gates, (gateAt t g).ext = 0) ∧
      t.entries = s.entries ∧ t.mem = s.mem := by
  intro t
  have ht : t = _ := beginBind_eq u j c
  clear_value t
  have hgates (g : Nat) (hg : g ∈ c.gates) : GateOf j c.pods.length (gateAt t g) ∧ (gateAt t g).ext = 0 :=
    ht ▸ gateAt_assignGates _ j _ (by simpa using hg)
  obtain ⟨l, hl⟩ := assignGates_frame (modJob u j (boundRecord c)) j c.pods.length (sortBy c.gates fun a b => decide (a ≤ b))
  rw [hl] at ht
  have hjob : job t j = boundRecord c (job u j) := by
    rw [ht]
    exact job_modJob_self u j _
  obtain ⟨m, mps, ps, js, hu⟩ := h.frame
  refine ⟨⟨?_, ?_, ?_, ?_, ?_, fun g hg => (hgates g hg).1, fun x hx p hp => ?_, fun k hk => ?_, ?_⟩, ?_, ?_,
    fun g hg => (hgates g hg).2, ?_, ?_⟩
  iterate 5 rw [hjob, boundRecord, h.job]
  · exact (h.pods x hx p hp).congr (by rw [ht]; rfl) (by rw [ht]; rfl)
  · rw [ht]
    exact (job_modJob_ne hk _).trans (h.others k hk)
  · rw [ht, hu]
    rfl
  iterate 2 rw [hjob, boundRecord]
  · rw [ht, hu]
    rfl
  · rw [ht, hu]
    rfl

/-! ## A restore -/

/-- A step of a restore: task records of the job may differ, and what entries and waiters have. -/
structure RestoreStep (j : Nat) (s t : State) : Prop where
  job : job t j = { job s j with nodes := (job t j).nodes, edges := (job t j).edges }
  others : ∀ k, k ≠ j → Machine.job t k = Machine.job s k
  pods : t.pods = s.pods
  marrow : t.marrow = s.marrow
  gates : t.gates = s.gates
  sqs : t.sqs = s.sqs

theorem RestoreStep.refl (j : Nat) (s : State) : RestoreStep j s s := ⟨rfl, fun _ _ => rfl, rfl, rfl, rfl, rfl⟩

theorem RestoreStep.trans (h : RestoreStep j s t) (h' : RestoreStep j t u) : RestoreStep j s u where
  job := by rw [h'.job, h.job]
  others k hk := (h'.others k hk).trans (h.others k hk)
  pods := h'.pods.trans h.pods
  marrow := h'.marrow.trans h.marrow
  gates := h'.gates.trans h.gates
  sqs := h'.sqs.trans h.sqs

theorem RestoreStep.foldl {α : Type} {f : State → α → State} (hf : ∀ s a, RestoreStep j s (f s a)) (l : List α) (s : State) :
    RestoreStep j s (l.foldl f s) :=
  List.foldlRecOn l f (.refl j s) fun t ht a _ => ht.trans (hf t a)

theorem RestoreStep.of_ringFrame (h : ringFrame t = ringFrame s) : RestoreStep j s t := by
  have hjobs : t.jobs = s.jobs := congrArg (·.jobs) h
  exact ⟨by rw [job_congr hjobs], fun k _ => job_congr hjobs k, congrArg (·.pods) h, congrArg (·.marrow) h,
    congrArg (·.gates) h, congrArg (·.sqs) h⟩

theorem restoreStep_modJob (s : State) (j : Nat) {f : Job → Job}
    (hf : ∀ b, f b = { b with nodes := (f b).nodes, edges := (f b).edges }) : RestoreStep j s (modJob s j f) where
  job := by
    rw [job_modJob_self]
    exact hf _
  others _ hk := job_modJob_ne hk f
  pods := rfl
  marrow := rfl
  gates := rfl
  sqs := rfl

theorem modNode_step (s : State) (j m n : Nat) (f : NodeSt → NodeSt) : RestoreStep j s (modNode s j m n f) :=
  restoreStep_modJob s j fun _ => rfl

theorem dealTasks_step (s : State) (j n : Nat) (rs : List TaskRec) : RestoreStep j s (dealTasks s j n rs) := by
  unfold dealTasks
  extract_lets _ _ _ _ dealt _ emptied
  have hdealt : RestoreStep j s dealt := ⟨rfl, fun _ _ => rfl, rfl, rfl, rfl, rfl⟩
  have hemptied : RestoreStep j dealt emptied := restoreStep_modJob dealt j fun _ => rfl
  refine hdealt.trans (hemptied.trans (RestoreStep.foldl (fun u x => ?_) _ _))
  exact (RestoreStep.foldl (fun _ _ => modNode_step ..) _ _).trans
    ((RestoreStep.foldl (fun _ _ => modNode_step ..) _ _).trans (.foldl (fun _ _ => modNode_step ..) _ _))

theorem setCursors_step (s : State) (j : Nat) (rs : List TaskRec) : RestoreStep j s (setCursors s j rs) :=
  restoreStep_modJob s j fun _ => rfl

theorem moveWaiters_step (s : State) (j : Nat) (old new : List Nat) : RestoreStep j s (moveWaiters s j old new) := by
  simp only [moveWaiters]
  refine (RestoreStep.of_ringFrame (ringFrame_modMps _)).trans (.foldl (fun u w => ?_) _ _)
  split
  · split
    · exact .of_ringFrame (ringFrame_finish ..)
    · exact .refl j u
  · exact .refl j u

/-- The record of a job whose `RESTORE` begins from image `h` (R57, R59). -/
def restoredRecord (c : JobCmd) (h : List Byte) (b : Job) : Job :=
  { b with
    members := c.pods, route := c.route, window := c.window, gates := sortBy c.gates (fun a b => decide (a ≤ b))
    seed := fieldLe (h.drop 128) 0 8, slotPos := (List.range 64).map fun k => fieldLe (h.drop 128) (0x40 + 8 * k) 8
    nextTask := fieldLe h 0x28 8, srcPods := fieldLe h 9 1, ctxAddr := c.imageAddr, ctxSize := c.imageSize
    nodes := b.nodes.filter fun e => !((c.route.nodes[e.1 % 1024]?).any fun x => x.kind = 8 && x.opcode = 1) }

/-- Task records and waiters of the image take their places (R57, R59). -/
def tasksRestored (s : State) (j : Nat) (c : JobCmd) (h : List Byte) : State :=
  let rs := imageTasks h (fieldLe h 9 1)
  moveWaiters (setCursors (if c.pods.length = fieldLe h 9 1 then s else dealTasks s j c.pods.length rs) j rs) j (job s j).members
    c.pods

/-- The gates of a restored job are assigned and take their words (R316). -/
def gatesRestored (s : State) (j : Nat) (c : JobCmd) (h : List Byte) : State :=
  loadGates (assignGates s j c.pods.length (job s j).gates) j c.pods.length h

/-- The shares of the members of a restored job begin (R57). -/
def sharesRestored (s : State) (j : Nat) (c : JobCmd) (src : Nat) : State :=
  (List.range c.pods.length).foldl (fun s m =>
    let t := if c.pods.length = src then preTiles m else preTiles m + 37
    if t < shareTiles c.window c.pods.length m then sendRestore (openShare s j m t) j m t else s) s

theorem beginRestore_eq {c : JobCmd} {h : List Byte} (hc : imageCheck c c.route h = none) : beginRestore s j c h =
    sharesRestored (gatesRestored (modJob (tasksRestored s j c h) j (restoredRecord c h)) j c h) j c (fieldLe h 9 1) := by
  simp only [beginRestore, hc]
  rfl

theorem tasksRestored_step (s : State) (j : Nat) (c : JobCmd) (h : List Byte) : RestoreStep j s (tasksRestored s j c h) := by
  simp only [tasksRestored]
  refine RestoreStep.trans ?_ ((setCursors_step ..).trans (moveWaiters_step ..))
  split
  · exact .refl j s
  · exact dealTasks_step ..

theorem portFrame_sharesRestored (s : State) (j : Nat) (c : JobCmd) (src : Nat) :
    portFrame (sharesRestored s j c src) = portFrame s := by
  have hshare (u : State) (m t : Nat) : portFrame (sendRestore (openShare u j m t) j m t) = portFrame u :=
    (foldl_keeps portFrame (fun _ _ _ => portFrame_sendReq _) _).trans rfl
  refine foldl_keeps portFrame (fun u m _ => ?_) s
  extract_lets t
  split
  · exact hshare u m t
  · rfl

/-- The word of gate `k` in image `h` (R316). -/
def wordOf (h : List Byte) (k : Nat) : Nat := fieldLe (h.drop 128) (0x240 + 4 * k) 4

/-- The gate carries the word `k` of image `h` (R316). -/
structure GateWord (h : List Byte) (k : Nat) (g : Gate) : Prop where
  gen : g.gen = bitN (wordOf h k) 0
  ext : g.ext = BitVec.ofNat 9 (bits (wordOf h k) 18 10)
  broken : g.broken = bitN (wordOf h k) 28

/-- Gate `g.1`, at place `g.2` among the gates of job `j` in `s`, takes its word of image `h` (R316). -/
def loadedGate (j n : Nat) (h : List Byte) (s : State) (g : Nat × Nat) (x : Gate) : Gate :=
  { x with
    gen := bitN (wordOf h g.2) 0
    ext := BitVec.ofNat 9 (bits (wordOf h g.2) 18 10)
    externals := (List.range 9).filter fun i => bitN (wordOf h g.2) (19 + i)
    broken := bitN (wordOf h g.2) 28
    count := (job s j).gateCounts.getD g.2 0
    members := if n = fieldLe h 9 1 then
        (List.range n).filter fun m => bitN (fieldLe h (4224 + 32 * m + g.2 / 8) 1) (g.2 % 8)
      else [] }

theorem loadGates_eq (s : State) (j n : Nat) (h : List Byte) : loadGates s j n h =
    (job s j).gates.zipIdx.foldl (fun s g => modGate s g.1 (loadedGate j n h s g)) s := rfl

theorem loadGates_frame (s : State) (j n : Nat) (h : List Byte) : ∃ l, loadGates s j n h = { s with gates := l } := by
  rw [loadGates_eq]
  exact modGates_frame ..

theorem gateAt_loadGates_gateOf {n i : Nat} {g : Nat} (hg : GateOf i n (gateAt s g)) (j m : Nat) (h : List Byte) :
    GateOf i n (gateAt (loadGates s j m h) g) := by
  rw [loadGates_eq]
  exact modGates_keep (fun _ _ _ _ _ hx => ⟨hx.assigned, hx.job, hx.parts⟩) hg

/-- A gate that is listed once takes its word (R316). -/
theorem gateAt_loadGates_word (hn : (job s j).gates.Nodup) {g : Nat} (hk : (job s j).gates[k]? = some g) (n : Nat)
    (h : List Byte) : GateWord h k (gateAt (loadGates s j n h) g) := by
  have hmem : (g, k) ∈ (job s j).gates.zipIdx := List.mk_mem_zipIdx_iff_getElem?.2 hk
  rw [loadGates_eq]
  refine modGates_reach (fun x hx hxg u y => ?_) ⟨(g, k), hmem, rfl⟩ s
  have hx2 : x.2 = k := by
    have hxk := List.mem_zipIdx_iff_getElem?.1 hx
    rw [hxg] at hxk
    obtain ⟨hlt, -⟩ := List.getElem?_eq_some_iff.1 hxk
    exact (List.getElem?_inj hlt hn).1 (hxk.trans hk.symm)
  rw [← hx2]
  exact ⟨rfl, rfl, rfl⟩

theorem nodup_putSorted {le : Nat → Nat → Bool} {x : Nat} {l : List Nat} (hx : x ∉ l) (hl : l.Nodup) :
    (putSorted le x l).Nodup := by
  induction l with
  | nil => simp [putSorted]
  | cons y l ih =>
    obtain ⟨hy, hl⟩ := List.nodup_cons.1 hl
    obtain ⟨hxy, hxl⟩ := not_or.1 (mt List.mem_cons.2 hx)
    simp only [putSorted]
    split
    · exact List.nodup_cons.2 ⟨hx, List.nodup_cons.2 ⟨hy, hl⟩⟩
    · refine List.nodup_cons.2 ⟨fun hm => ?_, ih hxl hl⟩
      rcases mem_putSorted.1 hm with rfl | hm
      · exact hxy rfl
      · exact hy hm

theorem nodup_sortBy (le : Nat → Nat → Bool) {l : List Nat} (hl : l.Nodup) : (sortBy l le).Nodup := by
  induction l with
  | nil => exact List.nodup_nil
  | cons x l ih =>
    obtain ⟨hx, hl⟩ := List.nodup_cons.1 hl
    exact nodup_putSorted (by simpa [sortBy] using mt mem_sortBy.1 hx) (ih hl)

/-- What a restore takes from its image, once it begins (R57, R59, R60, R316). -/
structure Restores (j : Nat) (c : JobCmd) (h : List Byte) (t : State) : Prop where
  seed : (job t j).seed = fieldLe (h.drop 128) 0 8
  slotPos : (job t j).slotPos = (List.range 64).map fun k => fieldLe (h.drop 128) (0x40 + 8 * k) 8
  nextTask : (job t j).nextTask = fieldLe h 0x28 8
  srcPods : (job t j).srcPods = fieldLe h 9 1
  ctxAddr : (job t j).ctxAddr = c.imageAddr
  ctxSize : (job t j).ctxSize = c.imageSize
  words : ∀ k g, (sortBy c.gates fun a b => decide (a ≤ b))[k]? = some g → GateWord h k (gateAt t g)

/-- The record of the job and its gates as a restore leaves them. -/
theorem gatesRestored_gates {c : JobCmd} {h : List Byte} (hg : (job s j).gates = sortBy c.gates fun a b => decide (a ≤ b))
    (hn : c.gates.Nodup) : (∃ l, gatesRestored s j c h = { s with gates := l }) ∧
      (∀ g ∈ c.gates, GateOf j c.pods.length (gateAt (gatesRestored s j c h) g)) ∧
      ∀ k g, (sortBy c.gates fun a b => decide (a ≤ b))[k]? = some g → GateWord h k (gateAt (gatesRestored s j c h) g) := by
  obtain ⟨l, hl⟩ := assignGates_frame s j c.pods.length (job s j).gates
  have hassigned (g : Nat) (hgc : g ∈ c.gates) := (gateAt_assignGates s j c.pods.length (gs := (job s j).gates) (g := g)
    (by rw [hg]; simpa using hgc)).1
  have hgates : (job (assignGates s j c.pods.length (job s j).gates) j).gates = sortBy c.gates fun a b => decide (a ≤ b) := by
    rw [hl, ← hg]
    rfl
  refine ⟨?_, fun g hgc => gateAt_loadGates_gateOf (hassigned g hgc) .., fun k g hk => ?_⟩
  · obtain ⟨l', hl'⟩ := loadGates_frame (assignGates s j c.pods.length (job s j).gates) j c.pods.length h
    exact ⟨l', by rw [gatesRestored, hl', hl]⟩
  · exact gateAt_loadGates_word (hgates ▸ nodup_sortBy _ hn) (hgates ▸ hk) _ _

/-- A `RESTORE` that begins on an image that passes its checks (R57, R59, R60, R316). -/
theorem beginRestore_begins {c : JobCmd} {h : List Byte} (hn : c.gates.Nodup) (hc : imageCheck c c.route h = none)
    (hj : job u j = { job s j with active := some { c with unstarted := [], gates := [] } })
    (ho : ∀ k, k ≠ j → job u k = job s k) (hs : u.sqs = s.sqs)
    (hp : ∀ l ∈ c.unstarted, ∀ p, physOf s l = some p → PodStarted j c l p u) :
    Begins s j c (beginRestore u j c h) ∧ Restores j c h (beginRestore u j c h) := by
  have htasks := tasksRestored_step u j c h
  rw [beginRestore_eq hc]
  generalize tasksRestored u j c h = r at htasks
  obtain ⟨⟨l, hl⟩, hgates, hwords⟩ := gatesRestored_gates (s := modJob r j (restoredRecord c h)) (h := h)
    (by rw [job_modJob_self]; rfl) hn
  have hport := portFrame_sharesRestored (gatesRestored (modJob r j (restoredRecord c h)) j c h) j c (fieldLe h 9 1)
  generalize sharesRestored _ j c (fieldLe h 9 1) = t at hport
  generalize gatesRestored _ j c h = g at hl hgates hwords hport
  have htg (b : Nat) : gateAt t b = gateAt g b := congrArg (sgetD · b Gate.empty) (congrArg (·.gates) hport)
  have hjobs : t.jobs = (modJob r j (restoredRecord c h)).jobs := (congrArg (·.jobs) hport).trans (congrArg (·.jobs) hl)
  have hpods : t.pods = u.pods := (congrArg (·.pods) hport).trans ((congrArg (·.pods) hl).trans htasks.pods)
  have hmarrow : t.marrow = u.marrow := (congrArg (·.marrow) hport).trans ((congrArg (·.marrow) hl).trans htasks.marrow)
  have hsqs : t.sqs = u.sqs := (congrArg (·.sqs) hport).trans ((congrArg (·.sqs) hl).trans htasks.sqs)
  obtain ⟨ns, es, hr⟩ : ∃ ns es, job r j = { job u j with nodes := ns, edges := es } := ⟨_, _, htasks.job⟩
  have ht : job t j = restoredRecord c h { job s j with
      active := some { c with unstarted := [], gates := [] }, nodes := ns, edges := es } := by
    rw [job_congr hjobs, job_modJob_self, hr, hj]
  refine ⟨⟨?_, ?_, ?_, ?_, ?_, fun b hb => htg b ▸ hgates b hb, fun l hl p hlp => (hp l hl p hlp).congr hpods hmarrow,
    fun k hk => ?_, hsqs.trans hs⟩, ⟨?_, ?_, ?_, ?_, ?_, ?_, fun k b hk => htg b ▸ hwords k b hk⟩⟩
  iterate 5 rw [ht, restoredRecord]
  · rw [job_congr hjobs, job_modJob_ne hk, htasks.others k hk, ho k hk]
  iterate 6 rw [ht, restoredRecord]

/-! ## An image that fails a check -/

/-- The work of job `j` ended, and its record marked as failed for `reason`. -/
def failedWork (s : State) (j reason : Nat) : State :=
  setJobSt (modJob (endWork s j stAborted) j fun b => { b with reason := reason }) j .failed

theorem failJob_restoring (hw : s.blk.st ≠ .halted) (hst : (job s j).st = .restoring) (reason : Nat) :
    failJob s j reason stAborted = settleGroups (failedWork s j reason) := by
  have hx : ¬((job s j).st = .none ∨ (job s j).st = .failed ∨ (job s j).st = .saved ∨ s.blk.st = .halted) := by
    simp [hst, hw]
  exact congrArg settleGroups (if_neg hx)

theorem failedWork_job (s : State) (j reason : Nat) :
    (job (failedWork s j reason) j).st = .failed ∧ (job (failedWork s j reason) j).reason = reason := by
  rw [failedWork, job_setJobSt_self, job_modJob_self]
  exact ⟨rfl, rfl⟩

theorem failedWork_rings {n : Nat} (hn : n ∈ jobRings s j) (reason : Nat) : ringEnded (failedWork s j reason) n :=
  ((modJob_cease _ j _).trans (setJobSt_cease _ j _)).rings n (endWork_rings_end s j stAborted [] hn)

/-- The job of an image that fails a check ends with the code of the check, and its rings drain (R60, R85). -/
theorem restoreFails (hI : Inv s) (hw : s.blk.st ≠ .halted) (hst : (job s j).st = .restoring) (code : Nat) :
    let t := pageErr (failJob s j code stAborted) 3 0
    (job t j).st = .failed ∧ (job t j).reason = code ∧ bitN (rg t 3 0x014) 0 = true ∧ ∀ n ∈ jobRings s j, ringEnded t n := by
  have hIf : Inv (failJob s j code stAborted) := (failJob_ok ⟨hI, rfl⟩ j code stAborted []).inv
  obtain ⟨hst', hreason⟩ := failedWork_job s j code
  have hs := settleGroups_spares (k := j) (.inl hst')
  have hrings (n : Nat) (hn : n ∈ jobRings s j) := hs.cease.rings n (failedWork_rings hn code)
  have hjob := hs.job
  rw [← failJob_restoring hw hst] at hrings hjob
  generalize failJob s j code stAborted = f at hIf hrings hjob
  intro t
  have htj : job t j = job f j := rfl
  refine ⟨by rw [htj, hjob, hst'], by rw [htj, hjob, hreason], ?_, hrings⟩
  have hbit : rg t 3 0x014 = (rg f 3 0x014 ||| 2 ^ 0) % 2 ^ 32 := rg_wrg_self hIf ..
  rw [hbit, bitN, Nat.testBit_mod_two_pow, Nat.testBit_or, Nat.testBit_two_pow_self]
  simp

/-! ## The start of a command -/

/-- The read of an image that is answered with data counts its lines and is on record (R271). -/
theorem imageRead_okay {i : HostRead} (h : i.kind = .okay) (s : State) (c : JobCmd) : ∃ live mem,
    imageRead s c i = { s with regs := { s.regs with live := live }, mem := mem } := hostRead_of_okay h ..

/-- The state in which a restore meets its image. -/
def imageMet (s : State) (j : Nat) (c : JobCmd) (i : HostRead) : State := imageRead (begun s j c) c i

theorem imageMet_frame {c : JobCmd} {i : HostRead} (h : Startable s j c) (hk : i.kind = .okay) :
    ∃ m mps ps js live mem, imageMet s j c i =
      { s with marrow := m, mps := mps, pods := ps, jobs := js, regs := { s.regs with live := live }, mem := mem } := by
  obtain ⟨m, mps, ps, js, he⟩ := (begun_from h).frame
  obtain ⟨live, mem, hu⟩ := imageRead_okay hk (begun s j c) c
  exact ⟨m, mps, ps, js, live, mem, by rw [imageMet, hu, he]⟩

theorem imageMet_inv {c : JobCmd} (hI : Inv s) (i : HostRead) : Inv (imageMet s j c i) := by
  have hstart : Ok s.pending (startedPods s j c c.unstarted) := Ok.foldl (fun _ _ h => startPod_ok h j c _) ⟨hI, rfl⟩
  exact (hostRead_ok (modJob_ok hstart j _) ..).inv

/-- What the read of the image keeps of a command that has begun (R271). -/
theorem imageMet_begun {c : JobCmd} {i : HostRead} (h : Startable s j c) (hk : i.kind = .okay) :
    job (imageMet s j c i) j = { job s j with active := some { c with unstarted := [], gates := [] } } ∧
      (∀ k, k ≠ j → job (imageMet s j c i) k = job s k) ∧
      (∀ l ∈ c.unstarted, ∀ p, physOf s l = some p → PodStarted j c l p (imageMet s j c i)) := by
  have hb := begun_from h
  obtain ⟨live, mem, hu⟩ := imageRead_okay hk (begun s j c) c
  rw [imageMet, hu]
  exact ⟨hb.job, hb.others, fun l hl p hp => (hb.pods l hl p hp).congr rfl rfl⟩

/-- Settles O25: a command starts on its free Pods; a `BIND` then begins, and a `RESTORE` begins, fails, or does not start,
as its image says (R46, R50, R57 to R60). -/
theorem bindStarts : Obligations.BindStarts := by
  intro s j img c hI hwf hw ha hu hg hp b started
  have h : Startable s j.toNat c := ⟨hI, hw, ha, hu, hg, hp⟩
  have hblk := (working_iff.1 hw).1
  have hexec : exec (.jobCommandStart j img) s = .next (doStart s j.toNat img) := by simp [exec, execJobCommandStart, hwf]
  have hstarted (t : State) (ht : Begins s j.toNat c t) : started t :=
    ⟨ht.active, ht.st, ht.members, ht.route, ht.window,
      fun g hg => ⟨(ht.gates g hg).assigned, (ht.gates g hg).job, (ht.gates g hg).parts⟩,
      fun l hl p hlp => ⟨(ht.pods l hl p hlp).st, (ht.pods l hl p hlp).job, (ht.pods l hl p hlp).bind,
        fun m hm => by rw [(ht.pods l hl p hlp).member, hm]; rfl, (ht.pods l hl p hlp).zero⟩,
      ht.others, ht.sqs⟩
  refine ⟨fun hop _ => ?_, fun hop hst hk => ?_, fun hop hk hr => ?_⟩
  · have he : doStart s j.toNat img = beginBind (begun s j.toNat c) j.toNat c := by
      rw [doStart_begins h (.inl hop) (by simp [hop]), if_pos hop]
    obtain ⟨hbegins, hrest⟩ := beginBind_begins (begun_from h)
    exact ⟨_, hexec, he ▸ ⟨hstarted _ hbegins, hrest⟩⟩
  · have he : doStart s j.toNat img = beginRestore (imageMet s j.toNat c img) j.toNat c img.bytes := by
      rw [doStart_begins h (.inr hop) (by simp [hk]), if_neg (by simp [hop]), imageMet]
    obtain ⟨m, mps, ps, js, live, mem, hf⟩ := imageMet_frame h hk
    obtain ⟨hj, ho, hpods⟩ := imageMet_begun h hk
    have hIm : Inv (imageMet s j.toNat c img) := imageMet_inv hI img
    refine ⟨fun hc hn => ?_, fun code hc => ?_⟩
    · obtain ⟨hbegins, hres⟩ := beginRestore_begins hn hc hj ho (by rw [hf]) hpods
      refine ⟨_, hexec, he ▸ ⟨hstarted _ hbegins, hres.seed, hres.slotPos, hres.nextTask, hres.srcPods, hres.ctxAddr,
        hres.ctxSize, fun k g hg => ?_⟩⟩
      obtain ⟨hgen, hext, hbroken⟩ := hres.words k g hg
      exact ⟨hgen, hext, hbroken⟩
    · have hrings : jobRings (imageMet s j.toNat c img) j.toNat = jobRings s j.toNat := by
        rw [hf]
        rfl
      have hnh : (imageMet s j.toNat c img).blk.st ≠ .halted := by
        rw [hf]
        rcases hblk with hb | hb <;> simp [hb]
      have hfails := restoreFails hIm hnh (by rw [hj]; exact hst) code
      rw [hrings] at hfails
      have hfail : doStart s j.toNat img = pageErr (failJob (imageMet s j.toNat c img) j.toNat code stAborted) 3 0 := by
        rw [he, beginRestore, hc]
      exact ⟨_, hexec, hfail ▸ hfails⟩
  · have hnc : s.blk.st ≠ .cold := by
      rcases hblk with hb | hb <;> simp [hb]
    exact ⟨_, hexec, doStart_fault h hop hk ▸ hostRead_fault hk hnc hr ..⟩

end Sys2Proof.Machine
end

section
/-! What a station issues (spec/02 R51), and what its reads and writes do in a Marrow that nothing marks: no line is poisoned,
provisional or in error (spec/11 R263 to R265). -/

namespace Sys2Proof.Machine

variable {s t u : State}

/-! ## The first operation that can issue -/

theorem tryAll_none {f : State → Cand → Option State} {l : List Cand} (h : ∀ c ∈ l, f s c = none) : tryAll s f l = s := by
  induction l with
  | nil => rfl
  | cons c l ih =>
    simp only [tryAll, h c List.mem_cons_self]
    exact ih fun x hx => h x (List.mem_cons_of_mem c hx)

theorem tryAll_first {f : State → Cand → Option State} {a b : List Cand} {c : Cand} (ha : ∀ x ∈ a, f s x = none)
    (hc : f s c = some u) : tryAll s f (a ++ c :: b) = u := by
  induction a with
  | nil => simp only [List.nil_append, tryAll, hc]
  | cons x a ih =>
    simp only [List.cons_append, tryAll, ha x List.mem_cons_self]
    exact ih fun y hy => ha y (List.mem_cons_of_mem x hy)

/-- A command of a station that runs the first operation of `l` that `f` can issue. -/
def firstIssues (s : State) (cmd : Instr) (l : List Cand) (f : State → Cand → Option State) : Prop :=
  ((∀ c ∈ l, f s c = none) → exec cmd s = .next s) ∧
  (∀ a c b u, l = a ++ c :: b → (∀ x ∈ a, f s x = none) → f s c = some u → exec cmd s = .next u)

theorem firstIssues_of_exec {cmd : Instr} {l : List Cand} {f : State → Cand → Option State}
    (h : exec cmd s = .next (tryAll s f l)) : firstIssues s cmd l f := by
  refine ⟨fun hn => by rw [h, tryAll_none hn], fun a c b u hl ha hc => ?_⟩
  rw [h, hl, tryAll_first ha hc]

/-! ## Words without errors -/

/-- The Marrow of `s` without a mark: no line is poisoned or provisional, no word in error, and its bytes listed in canonical
form. -/
structure Unmarked (s : State) : Prop where
  poison : s.marrow.poison = []
  prov : s.marrow.prov = []
  ecc : s.marrow.ecc = []
  bytes : canon s.marrow.bytes 0 = true

theorem popCount_zero (n : Nat) : popCount n 0 = 0 := by
  induction n with
  | zero => rfl
  | succ n ih => simp [popCount, ih]

theorem wordErr_of_ecc {m : Marrow} (h : m.ecc = []) (l w : Nat) : m.wordErr l w = 0 := by
  simp [Marrow.wordErr, h, sgetD, popCount_zero]

theorem checkWord_unmarked (h : s.marrow.ecc = []) (p n : Nat) (o : Option TileOp) (w : Nat) : checkWord o p n s w = s := by
  have hw : ¬s.marrow.wordErr (lkey p n) w = 1 := by
    rw [wordErr_of_ecc h]
    decide
  exact if_neg hw

theorem checkLine_unmarked (h : s.marrow.ecc = []) (p n : Nat) (o : Option TileOp) : checkLine s p n o = s := by
  have hfold : (List.range 8).foldl (checkWord o p n) s = s := List.foldl_fixed' (checkWord_unmarked h p n o) _
  have hfind : (List.range 8).find? (fun w => decide (2 ≤ s.marrow.wordErr (lkey p n) w)) = none :=
    List.find?_eq_none.2 fun w _ => by simp [wordErr_of_ecc h]
  unfold checkLine
  rw [hfold]
  extract_lets
  split
  · rfl
  · next w hw => cases hfind.symm.trans hw

/-! ## Reads -/

theorem lineByte_unmarked {m : Marrow} (h : m.ecc = []) (l i : Nat) : lineByte m l i = m.byte (l * 64 + i) := by
  simp [lineByte, h, sgetD]

theorem Rd.line_unmarked (h : Unmarked s) (o : Option TileOp) (p n : Nat) : (Rd.start s).line o p n = Rd.start s := by
  simp only [Rd.line, Rd.start, checkLine_unmarked h.ecc, h.poison, h.prov]
  rfl

/-- A read answers the bytes as they stand. -/
theorem Rd.bytes_unmarked (h : Unmarked s) (o : Option TileOp) (p a n : Nat) :
    (Rd.start s).bytes o p a n = (Rd.start s, (List.range n).map fun i => s.marrow.byte (mkey p (a + i))) := by
  have hlines : (linesOf a n).foldl (fun r l => r.line o p l) (Rd.start s) = Rd.start s :=
    List.foldl_fixed' (f := fun (r : Rd) l => r.line o p l) (Rd.line_unmarked h o p) _
  have hbyte (i : Nat) : lineByte s.marrow ((p * 6291456 + a + i) / 64) ((a + i) % 64) = s.marrow.byte (mkey p (a + i)) := by
    rw [lineByte_unmarked h.ecc, mkey]
    congr 1
    omega
  rw [Rd.bytes, hlines]
  exact Prod.ext rfl (List.map_congr_left fun i _ => hbyte i)

/-! ## Writes -/

/-- Byte `b` after the writes `ws` of its key `k`. -/
def mergedByte (ws : List WByte) (k : Nat) (b : Byte) : Byte :=
  ws.foldl (fun b w => if w.key = k then (b &&& ~~~ w.mask) ||| (w.val &&& w.mask) else b) b

theorem mergedByte_of_not_mem {ws : List WByte} {k : Nat} (h : ∀ w ∈ ws, w.key ≠ k) (b : Byte) : mergedByte ws k b = b :=
  List.foldlRecOn (motive := fun x => x = b) ws _ rfl fun x hx w hw => by rw [if_neg (h w hw), hx]

/-- A whole byte that no other write meets is stored. -/
theorem mergedByte_of_mem {ws : List WByte} {w : WByte} (hw : w ∈ ws) (hm : w.mask = 0xFF) (hu : ∀ v ∈ ws, v.key = w.key → v = w)
    (b : Byte) : mergedByte ws w.key b = w.val := by
  have hval (b : Byte) : (b &&& ~~~ w.mask) ||| (w.val &&& w.mask) = w.val := by
    rw [hm, show (0xFF : Byte) = BitVec.allOnes 8 from rfl, BitVec.not_allOnes, BitVec.and_zero, BitVec.zero_or,
      BitVec.and_allOnes]
  induction ws generalizing b with
  | nil => cases hw
  | cons v ws ih =>
    simp only [mergedByte, List.foldl_cons]
    by_cases hmem : w ∈ ws
    · exact ih hmem (fun x hx => hu x (List.mem_cons_of_mem v hx)) _
    · obtain rfl : w = v := (List.mem_cons.1 hw).resolve_right hmem
      rw [if_pos rfl, hval]
      exact mergedByte_of_not_mem (fun x hx hxk => hmem (hu x (List.mem_cons_of_mem w hx) hxk ▸ hx)) _

/-- Bytes `v 0` to `v (n - 1)` stored from key `a` on. -/
def setBytes (m : Marrow) (a : Nat) (v : Nat → Byte) (n : Nat) : Marrow :=
  (List.range n).foldl (fun m i => m.setByte (a + i) (v i)) m

theorem setBytes_succ (m : Marrow) (a : Nat) (v : Nat → Byte) (n : Nat) :
    setBytes m a v (n + 1) = (setBytes m a v n).setByte (a + n) (v n) := by
  rw [setBytes, List.range_succ, List.foldl_append]
  rfl

theorem setBytes_frame (m : Marrow) (a : Nat) (v : Nat → Byte) (n : Nat) :
    setBytes m a v n = { m with bytes := (setBytes m a v n).bytes } := by
  induction n with
  | zero => rfl
  | succ n ih => rw [setBytes_succ, ih]; rfl

theorem setBytes_canon {m : Marrow} (h : canon m.bytes 0 = true) (a : Nat) (v : Nat → Byte) (n : Nat) :
    canon (setBytes m a v n).bytes 0 = true := by
  induction n with
  | zero => exact h
  | succ n ih =>
    rw [setBytes_succ]
    exact canon_sset _ _ _ _ ih

theorem byte_setByte {m : Marrow} (h : canon m.bytes 0 = true) (a : Nat) (b : Byte) (k : Nat) :
    (m.setByte a b).byte k = if k = a then b else m.byte k := by
  split
  · next hk =>
    subst hk
    exact sgetD_sset_self _ _ _ _ ((canon_iff _ _).1 h).1
  · next hk => exact sgetD_sset_ne _ _ _ _ hk

theorem byte_setBytes {m : Marrow} (h : canon m.bytes 0 = true) (a : Nat) (v : Nat → Byte) (n k : Nat) :
    (setBytes m a v n).byte k = if a ≤ k ∧ k < a + n then v (k - a) else m.byte k := by
  induction n with
  | zero => rw [if_neg (by omega)]; rfl
  | succ n ih =>
    rw [setBytes_succ, byte_setByte (setBytes_canon h a v n), ih]
    by_cases hk : k = a + n
    · rw [if_pos hk, if_pos (by omega), hk, Nat.add_sub_cancel_left]
    · rw [if_neg hk]
      exact if_congr (by omega) rfl rfl

/-- The state with other bytes in its Marrow. -/
def withBytes (s : State) (bs : List (Nat × Byte)) : State := { s with marrow := { s.marrow with bytes := bs } }

theorem Unmarked.withBytes (h : Unmarked s) {bs : List (Nat × Byte)} (hb : canon bs 0 = true) : Unmarked (withBytes s bs) :=
  ⟨h.poison, h.prov, h.ecc, hb⟩

/-- Whether the writes `ws` cover line `l` with whole bytes. -/
def coversLine (ws : List WByte) (l : Nat) : Bool :=
  (List.range 64).all fun i => ws.any fun w => w.key = l * 64 + i ∧ w.mask = 0xFF

/-- The bytes of line `l` after the writes `ws` (R264). -/
def lineAfter (m : Marrow) (ws : List WByte) (l i : Nat) : Byte :=
  mergedByte ws (l * 64 + i) (if coversLine ws l then 0 else lineByte m l i)

/-- Line `l` with the bytes `v` and the poison `b`, its errors gone. -/
def storeLine (s : State) (l : Nat) (v : Nat → Byte) (b : Bool) : State :=
  modMarrow s fun m =>
    let m := setBytes m (l * 64) v 64
    { m with ecc := m.ecc.filter (fun e => decide (e.1 / 8 ≠ l)), poison := nset m.poison l b }

theorem writeLine_eq (s : State) (p n : Nat) (ws : List WByte) (pois : Bool) (o : Option TileOp) :
    writeLine s p n ws pois o =
      let u := if coversLine ws (lkey p n) then s else checkLine s p n o
      storeLine u (lkey p n) (lineAfter u.marrow ws (lkey p n))
        (pois || (!coversLine ws (lkey p n) && u.marrow.poison.contains (lkey p n))) := rfl

theorem storeLine_unmarked (h : Unmarked s) (l : Nat) (v : Nat → Byte) :
    storeLine s l v false = withBytes s (setBytes s.marrow (l * 64) v 64).bytes := by
  have hf := setBytes_frame s.marrow (l * 64) v 64
  simp only [storeLine, modMarrow]
  generalize setBytes s.marrow (l * 64) v 64 = m at hf ⊢
  rw [hf]
  simp [withBytes, h.ecc, h.poison, nset, ndel]

/-- A write of unpoisoned bytes stores them, and marks nothing (R264). -/
theorem writeLine_unmarked (h : Unmarked s) (p n : Nat) (ws : List WByte) (o : Option TileOp) : writeLine s p n ws false o =
    withBytes s (setBytes s.marrow (lkey p n * 64) (lineAfter s.marrow ws (lkey p n)) 64).bytes := by
  simp only [writeLine_eq, checkLine_unmarked h.ecc, ite_self, h.poison, List.contains_nil, Bool.and_false, Bool.or_false]
  exact storeLine_unmarked h _ _

theorem mergedByte_covered {ws : List WByte} {k : Nat} (h : ∃ w ∈ ws, w.key = k ∧ w.mask = 0xFF) (b b' : Byte) :
    mergedByte ws k b = mergedByte ws k b' := by
  induction ws generalizing b b' with
  | nil => obtain ⟨_, hw, _⟩ := h; cases hw
  | cons v ws ih =>
    obtain ⟨w, hw, hk, hm⟩ := h
    simp only [mergedByte, List.foldl_cons]
    rcases List.mem_cons.1 hw with rfl | hw
    · rw [if_pos hk, if_pos hk, hm, show (0xFF : Byte) = BitVec.allOnes 8 from rfl, BitVec.not_allOnes, BitVec.and_zero,
        BitVec.and_zero]
    · exact ih ⟨w, hw, hk, hm⟩ _ _

theorem mergedByte_filter (ws : List WByte) (l k : Nat) (b : Byte) :
    mergedByte (ws.filter fun w => w.key / 64 = l) k b = if k / 64 = l then mergedByte ws k b else b := by
  split
  · next hk =>
    induction ws generalizing b with
    | nil => rfl
    | cons v ws ih =>
      rw [List.filter_cons]
      split
      · simp only [mergedByte, List.foldl_cons]
        exact ih _
      · next hv =>
        have hne : v.key ≠ k := fun e => hv (by simpa [e] using hk)
        rw [ih]
        simp only [mergedByte, List.foldl_cons, if_neg hne]
  · next hk =>
    refine mergedByte_of_not_mem (fun w hw e => hk ?_) b
    obtain ⟨-, hl⟩ := List.mem_filter.1 hw
    rw [← e]
    exact of_decide_eq_true hl

theorem coversLine_mem {ws : List WByte} {l k : Nat} (h : coversLine ws l = true) (hk : k / 64 = l) :
    ∃ w ∈ ws, w.key = k ∧ w.mask = 0xFF := by
  have hw := List.all_eq_true.1 h (k % 64) (List.mem_range.2 (Nat.mod_lt k (by decide)))
  obtain ⟨w, hw, hwk⟩ := List.any_eq_true.1 hw
  obtain ⟨hkey, hmask⟩ := of_decide_eq_true hwk
  exact ⟨w, hw, by omega, hmask⟩

theorem lineAfter_eq {m : Marrow} (h : m.ecc = []) (ws : List WByte) (l i : Nat) (hi : i < 64) :
    lineAfter m ws l i = mergedByte ws (l * 64 + i) (m.byte (l * 64 + i)) := by
  unfold lineAfter
  split
  · next hc => exact mergedByte_covered (coversLine_mem hc (by omega)) _ _
  · rw [lineByte_unmarked h]

/-- One line's step of `writeAll`, with no data poisoned. -/
def writeLineOf (ws : List WByte) (o : Option TileOp) (s : State) (l : Nat) : State :=
  writeLine s (l / 98304) (l % 98304) (ws.filter fun w => w.key / 64 = l) false o

/-- A state as `s` but for Marrow bytes, each of a line of `ls` with the writes `ws` merged in. -/
structure Wrote (s t : State) (ws : List WByte) (P : Nat → Prop) : Prop where
  state : t = withBytes s t.marrow.bytes
  canon : canon t.marrow.bytes 0 = true
  inside : ∀ k, P (k / 64) → t.marrow.byte k = mergedByte ws k (s.marrow.byte k)
  outside : ∀ k, ¬P (k / 64) → t.marrow.byte k = s.marrow.byte k

theorem Wrote.unmarked {ws : List WByte} {P : Nat → Prop} (w : Wrote s t ws P) (h : Unmarked s) : Unmarked t := by
  rw [w.state]
  exact h.withBytes w.canon

theorem writeLineOf_wrote (h : Unmarked s) (ws : List WByte) (o : Option TileOp) (l : Nat) :
    Wrote s (writeLineOf ws o s l) ws (· = l) := by
  have hl : lkey (l / 98304) (l % 98304) = l := by unfold lkey; omega
  have hb (k : Nat) : (writeLineOf ws o s l).marrow.byte k =
      if l * 64 ≤ k ∧ k < l * 64 + 64 then mergedByte ws k (s.marrow.byte k) else s.marrow.byte k := by
    rw [writeLineOf, writeLine_unmarked h, hl]
    refine (byte_setBytes h.bytes _ _ _ _).trans ?_
    split
    · next hk =>
      rw [lineAfter_eq h.ecc _ _ _ (by omega), Nat.add_sub_cancel' hk.1, mergedByte_filter, if_pos (by omega)]
    · rfl
  refine ⟨?_, ?_, fun k hk => ?_, fun k hk => ?_⟩
  · rw [writeLineOf, writeLine_unmarked h]
    rfl
  · rw [writeLineOf, writeLine_unmarked h]
    exact setBytes_canon h.bytes _ _ _
  · rw [hb, if_pos (by omega)]
  · rw [hb, if_neg (by omega)]

theorem Wrote.line {ws : List WByte} {P : Nat → Prop} (w : Wrote s t ws P) (h : Unmarked s) (o : Option TileOp) {l : Nat} (hl : ¬P l) :
    Wrote s (writeLineOf ws o t l) ws (fun x => P x ∨ x = l) := by
  have w' := writeLineOf_wrote (w.unmarked h) ws o l
  refine ⟨?_, w'.canon, fun k hk => ?_, fun k hk => ?_⟩
  · rw [w'.state, w.state]
    rfl
  · by_cases hkl : k / 64 = l
    · rw [w'.inside k hkl, w.outside k (hkl ▸ hl)]
    · rw [w'.outside k hkl, w.inside k (hk.resolve_right hkl)]
  · rw [w'.outside k (fun e => hk (.inr e)), w.outside k (fun e => hk (.inl e))]

theorem foldl_wrote (h : Unmarked s) (ws : List WByte) (o : Option TileOp) (ls : List Nat) (hls : nrising ls = true)
    {P : Nat → Prop} (hP : ∀ l ∈ ls, ¬P l) (w : Wrote s t ws P) :
    Wrote s (ls.foldl (writeLineOf ws o) t) ws (fun x => P x ∨ x ∈ ls) := by
  induction ls generalizing t P with
  | nil => simpa using w
  | cons l ls ih =>
    obtain ⟨hlt, hls⟩ := nrising_cons.1 hls
    have := ih hls (P := fun x => P x ∨ x = l)
      (fun x hx hxl => hxl.elim (hP x (List.mem_cons_of_mem l hx)) fun e => absurd (hlt x hx) (by omega))
      (w.line h o (hP l List.mem_cons_self))
    simpa only [List.mem_cons, or_assoc, List.foldl_cons] using this

theorem mem_foldl_nins (ws : List WByte) (a : List Nat) (x : Nat) :
    x ∈ ws.foldl (fun a w => nins a (w.key / 64)) a ↔ x ∈ a ∨ ∃ w ∈ ws, w.key / 64 = x := by
  induction ws generalizing a with
  | nil => simp
  | cons w ws ih =>
    simp only [List.foldl_cons, ih, mem_nins, List.mem_cons, exists_eq_or_imp, eq_comm (a := x)]
    tauto

theorem mem_wLines {ws : List WByte} {x : Nat} : x ∈ wLines ws ↔ ∃ w ∈ ws, w.key / 64 = x := by
  simp [wLines, mem_foldl_nins]

theorem nrising_wLines (ws : List WByte) : nrising (wLines ws) = true :=
  List.foldlRecOn (motive := fun a => nrising a = true) ws _ rfl fun a ha _ _ => nrising_nins a _ ha

theorem writeAll_wrote (h : Unmarked s) (ws : List WByte) (o : Option TileOp) :
    Wrote s (writeAll s ws [] o) ws (· ∈ wLines ws) := by
  have w0 : Wrote s s ws (fun _ => False) := ⟨rfl, h.bytes, fun _ => False.elim, fun _ _ => rfl⟩
  have w := foldl_wrote h ws o (wLines ws) (nrising_wLines ws) (fun _ _ => id) w0
  simp only [false_or] at w
  exact w

/-- What `writeAll` of unpoisoned data leaves: the bytes of the writes, and everything else as before (R264). -/
theorem writeAll_unmarked (h : Unmarked s) (ws : List WByte) (o : Option TileOp) :
    ∃ bs, writeAll s ws [] o = withBytes s bs ∧ canon bs 0 = true ∧
      (∀ w ∈ ws, w.mask = 0xFF → (∀ v ∈ ws, v.key = w.key → v = w) → sgetD bs w.key 0 = w.val) ∧
      ∀ k, (∀ w ∈ ws, w.key ≠ k) → sgetD bs k 0 = s.marrow.byte k := by
  have w := writeAll_wrote h ws o
  refine ⟨_, w.state, w.canon, fun x hx hm hu => ?_, fun k hk => ?_⟩
  · exact (w.inside x.key (mem_wLines.2 ⟨x, hx, rfl⟩)).trans (mergedByte_of_mem hx hm hu _)
  · by_cases hl : k / 64 ∈ wLines ws
    · exact (w.inside k hl).trans (mergedByte_of_not_mem hk _)
    · exact w.outside k hl

end Sys2Proof.Machine
end

section
/-! What an operation that is issued leaves as it was, and where its work stands then (spec/02 R51, spec/12 R297). -/

namespace Sys2Proof.Machine

variable {s t u v : State}

/-! ## Steps on slots -/

/-- The state with everything blanked that taking and letting go of slots may change: counters, Mileposts, records of jobs and the
Causeway. -/
def slotFrame (s : State) : State := { s with regs := State.reset.regs, mps := State.reset.mps, jobs := [], cwy := [] }

/-- A step on slots: the edges of jobs may differ, and counters, Mileposts and the Causeway. -/
structure SlotStep (s t : State) : Prop where
  frame : slotFrame t = slotFrame s
  job : ∀ k, job t k = { job s k with edges := (job t k).edges }

theorem SlotStep.refl (s : State) : SlotStep s s := ⟨rfl, fun _ => rfl⟩

theorem SlotStep.trans (h : SlotStep s t) (h' : SlotStep t u) : SlotStep s u :=
  ⟨h'.frame.trans h.frame, fun k => by rw [h'.job, h.job]⟩

theorem SlotStep.foldl {α : Type} {f : State → α → State} {l : List α} (hf : ∀ s, ∀ a ∈ l, SlotStep s (f s a)) (s : State) :
    SlotStep s (l.foldl f s) :=
  List.foldlRecOn l f (.refl s) fun t ht a ha => ht.trans (hf t a ha)

theorem SlotStep.of_jobs (hf : slotFrame t = slotFrame s) (hj : t.jobs = s.jobs) : SlotStep s t :=
  ⟨hf, fun k => by rw [job_congr hj k]⟩

theorem bump_jobs_eq (s : State) (p k n : Nat) : (bump s p k n).jobs = s.jobs := by
  unfold bump
  split <;> rfl

theorem slotStep_bump (s : State) (p k n : Nat) : SlotStep s (bump s p k n) :=
  .of_jobs (by unfold bump; split <;> rfl) (bump_jobs_eq s p k n)

theorem slotStep_modEdge (s : State) (j m e : Nat) (f : EdgeSt → EdgeSt) : SlotStep s (modEdge s j m e f) where
  frame := rfl
  job k := by
    unfold modEdge
    rw [job_modJob]
    split
    · next hk => rw [hk]
    · rfl

theorem slotStep_mpTakeNow (s : State) (id : Nat) : SlotStep s (mpTakeNow s id) :=
  SlotStep.trans (t := putMp s id { mpAt s id with value := false, consumed := true }) (.of_jobs rfl rfl) (slotStep_bump ..)

theorem slotStep_takeEmpty (s : State) (j m e x : Nat) : SlotStep s (takeEmpty s j m e x) := by
  unfold takeEmpty
  split
  · exact slotStep_modEdge ..
  · exact slotStep_mpTakeNow ..

/-- A work that begins takes its output slots (R297). -/
theorem slotStep_beginWork (s : State) (c : Cand) : SlotStep s (beginWork s c) :=
  .foldl (fun u _ _ => (slotStep_takeEmpty u ..).trans (slotStep_modEdge ..)) s

theorem slotStep_forgetSent (s : State) (ls : List Nat) : SlotStep s (forgetSent s ls) := by
  refine .foldl (fun u x _ => ?_) s
  split
  · exact .of_jobs rfl rfl
  · exact .refl u

namespace SlotStep

variable (h : SlotStep s t)
include h

theorem pods : t.pods = s.pods := congrArg (·.pods) h.frame
theorem gates : t.gates = s.gates := congrArg (·.gates) h.frame
theorem marrow : t.marrow = s.marrow := congrArg (·.marrow) h.frame
theorem mem : t.mem = s.mem := congrArg (·.mem) h.frame
theorem ops : t.ops = s.ops := congrArg (·.ops) h.frame
theorem nextOp : t.nextOp = s.nextOp := congrArg (·.nextOp) h.frame
theorem itg : t.itg = s.itg := congrArg (·.itg) h.frame
theorem nodes (k : Nat) : (Machine.job t k).nodes = (Machine.job s k).nodes := by rw [h.job]

end SlotStep

/-! ## Steps on a task -/

/-- The state with everything blanked that an issue may change. -/
def taskFrame (s : State) : State := { slotFrame s with marrow := State.reset.marrow, ops := [], nextOp := 0 }

/-- A step on a task: the records of jobs' edges and nodes may differ, operations, Marrow, counters, Mileposts and the Causeway. -/
structure TaskStep (s t : State) : Prop where
  frame : taskFrame t = taskFrame s
  job : ∀ k, job t k = { job s k with nodes := (job t k).nodes, edges := (job t k).edges }

theorem TaskStep.trans (h : TaskStep s t) (h' : TaskStep t u) : TaskStep s u :=
  ⟨h'.frame.trans h.frame, fun k => by rw [h'.job, h.job]⟩

theorem SlotStep.task (h : SlotStep s t) : TaskStep s t where
  frame := congrArg (fun u : State => { u with marrow := State.reset.marrow, ops := [], nextOp := 0 }) h.frame
  job k := by rw [h.job]

theorem TaskStep.of_jobs (hf : taskFrame t = taskFrame s) (hj : t.jobs = s.jobs) : TaskStep s t :=
  ⟨hf, fun k => by rw [job_congr hj k]⟩

theorem taskStep_modNode (s : State) (j m n : Nat) (f : NodeSt → NodeSt) : TaskStep s (modNode s j m n f) where
  frame := rfl
  job k := by
    unfold modNode
    rw [job_modJob]
    split
    · next hk => rw [hk]
    · rfl

namespace TaskStep

variable (h : TaskStep s t)
include h

theorem pods : t.pods = s.pods := congrArg (·.pods) h.frame
theorem gates : t.gates = s.gates := congrArg (·.gates) h.frame
theorem mem : t.mem = s.mem := congrArg (·.mem) h.frame
theorem entries : t.entries = s.entries := congrArg (·.entries) h.frame
theorem decodes : t.decodes = s.decodes := congrArg (·.decodes) h.frame
theorem sqs : t.sqs = s.sqs := congrArg (·.sqs) h.frame
theorem route (k : Nat) : (Machine.job t k).route = (Machine.job s k).route := by rw [h.job]
theorem members (k : Nat) : (Machine.job t k).members = (Machine.job s k).members := by rw [h.job]
theorem edgeOf (j e : Nat) : Machine.edgeOf t j e = Machine.edgeOf s j e := by rw [Machine.edgeOf, h.route]; rfl

end TaskStep

/-! ## Works -/

theorem nodeAt_modNode (s : State) (j m n : Nat) (f : NodeSt → NodeSt) : nodeAt (modNode s j m n f) j m n = f (nodeAt s j m n) := by
  unfold nodeAt modNode
  rw [job_modJob_self]
  exact sgetD_supd_self ..

theorem nodeAt_of_nodes {j : Nat} (h : (job t j).nodes = (job s j).nodes) (m n : Nat) : nodeAt t j m n = nodeAt s j m n := by
  rw [nodeAt, h]
  rfl

theorem find?_of_unique {α : Type} {p : α → Bool} {l : List α} {x : α} (hx : x ∈ l) (hp : p x = true) (hu : ∀ y ∈ l, p y = true → y = x) :
    l.find? p = some x := by
  cases h : l.find? p with
  | none => exact absurd hp (List.find?_eq_none.1 h x hx)
  | some y => rw [hu y (List.mem_of_find?_eq_some h) (List.find?_some h)]

/-- The node of candidate `c` with its work past operation `c.tile` of `total` (R51). -/
def movedOn (c : Cand) (total : Nat) (t : NodeSt) : NodeSt :=
  let rest := t.works.filter fun w => w.rank ≠ c.rank
  { t with works := if decide (c.tile + 1 ≥ total) then rest else
      sortBy (rest ++ [(⟨c.rank, c.task, c.tile + 1, total, c.ins, c.outs⟩ : Work)]) fun (a b : Work) => decide (a.task ≤ b.task) }

theorem advanceWork_eq (s : State) (c : Cand) (total : Nat) :
    advanceWork s c total = modNode s c.j c.h c.n (movedOn c total) := rfl

theorem movedOn_find (c : Cand) (total : Nat) (t : NodeSt) :
    ((movedOn c total t).works.find? fun w => w.rank = c.rank).map (·.tile) =
      if c.tile + 1 < total then some (c.tile + 1) else none := by
  have hrest : ∀ w ∈ t.works.filter fun w => decide (w.rank ≠ c.rank), w.rank ≠ c.rank :=
    fun w hw => of_decide_eq_true (List.mem_filter.1 hw).2
  unfold movedOn
  by_cases hl : c.tile + 1 < total
  · simp only [ge_iff_le, Nat.not_le.2 hl, decide_false, Bool.false_eq_true, if_false, if_pos hl]
    rw [find?_of_unique (x := ⟨c.rank, c.task, c.tile + 1, total, c.ins, c.outs⟩)]
    · rfl
    · simp
    · simp
    · intro w hw hr
      rcases List.mem_append.1 (mem_sortBy.1 hw) with hw | hw
      · exact absurd (of_decide_eq_true hr) (hrest w hw)
      · exact List.mem_singleton.1 hw
  · simp only [ge_iff_le, Nat.not_lt.1 hl, decide_true, if_true, if_neg hl]
    rw [List.find?_eq_none.2 fun w hw => by simpa using hrest w hw]
    rfl

/-- A node whose works are those that `movedOn` leaves has its work moved on. -/
theorem workMoved_of_works {c : Cand} {total : Nat} {x : NodeSt}
    (h : (nodeAt t c.j c.h c.n).works = (movedOn c total x).works) : workMoved t c total := by
  unfold workMoved
  rw [h]
  exact movedOn_find c total x

/-! ## Issues -/

/-- `t` is `s` with operation `o` of the work of `c` issued, of `total`, and Marrow `m`. -/
structure Issues (s t : State) (c : Cand) (total : Nat) (o : TileOp) (m : Marrow) : Prop where
  step : TaskStep s t
  marrow : t.marrow = m
  ops : t.ops = s.ops ++ [o]
  nextOp : t.nextOp = s.nextOp + 1
  node : nodeAt t c.j c.h c.n = movedOn c total (nodeAt s c.j c.h c.n)

/-- Operation `o` joins the operations in flight. -/
def addOp (s : State) (o : TileOp) : State := { s with ops := s.ops ++ [o], nextOp := s.nextOp + 1 }

theorem issue_eq (h : s.itg.rollPhase ≠ 3) (c : Cand) (total : Nat) (f : TileOp → TileOp) :
    issue s c total f = addOp (advanceWork (if c.fresh then beginWork s c else s) c total)
      (f (candOp s c (decide (c.tile + 1 ≥ total)))) := by
  simp only [issue, addOp, if_neg fun hr : s.itg.rollPhase = 3 ∧ s.itg.rollPod = c.p => h hr.1]

theorem issue_issues (h : s.itg.rollPhase ≠ 3) (c : Cand) (total : Nat) (f : TileOp → TileOp) :
    Issues s (issue s c total f) c total (f (candOp s c (decide (c.tile + 1 ≥ total)))) s.marrow := by
  have hb : SlotStep s (if c.fresh then beginWork s c else s) := by
    split
    · exact slotStep_beginWork s c
    · exact .refl s
  rw [issue_eq h, advanceWork_eq]
  generalize (if c.fresh then beginWork s c else s) = u at hb ⊢
  refine ⟨(hb.task.trans (taskStep_modNode ..)).trans (.of_jobs rfl rfl), hb.marrow, ?_, ?_, ?_⟩
  · exact congrArg (· ++ [_]) hb.ops
  · exact congrArg (· + 1) hb.nextOp
  · exact (nodeAt_modNode ..).trans (congrArg _ (nodeAt_of_nodes (hb.nodes _) ..))

/-- Operation `f` of a candidate that writes `ws`. -/
def writingOp (ws : List WByte) (f : TileOp → TileOp) (o : TileOp) : TileOp := { f o with lines := wLines ws }

theorem issueWrites_eq (s : State) (c : Cand) (total : Nat) (ws : List WByte) (pois : List Nat) (f : TileOp → TileOp) :
    issueWrites s c total ws pois f = forgetSent (setProv (issue (writeAll s ws pois (some (candOp s c false))) c total (writingOp ws f))
      (wLines ws) true) (wLines ws) := rfl

/-- An operation whose outputs are written, its lines provisional (R265). -/
theorem issueWrites_issues (h : s.itg.rollPhase ≠ 3) {bs : List (Nat × Byte)} (c : Cand) (total : Nat) (ws : List WByte)
    (pois : List Nat) (hw : writeAll s ws pois (some (candOp s c false)) = withBytes s bs) (f : TileOp → TileOp) :
    Issues s (issueWrites s c total ws pois f) c total (writingOp ws f (candOp s c (decide (c.tile + 1 ≥ total))))
      { s.marrow with bytes := bs, prov := (wLines ws).foldl (fun a l => nset a l true) s.marrow.prov } := by
  rw [issueWrites_eq, hw]
  have hi := issue_issues (s := withBytes s bs) h c total (writingOp ws f)
  have hc (b : Bool) : candOp (withBytes s bs) c b = candOp s c b := rfl
  rw [hc] at hi
  generalize issue (withBytes s bs) c total _ = u at hi ⊢
  have hf := slotStep_forgetSent (setProv u (wLines ws) true) (wLines ws)
  have h0 : TaskStep s (withBytes s bs) := .of_jobs rfl rfl
  refine ⟨h0.trans (hi.step.trans (TaskStep.trans (t := setProv u (wLines ws) true) (.of_jobs rfl rfl) hf.task)), ?_, ?_, ?_, ?_⟩
  · rw [hf.marrow]
    simp only [setProv, modMarrow, hi.marrow]
    rfl
  · exact hf.ops.trans hi.ops
  · exact hf.nextOp.trans hi.nextOp
  · exact (nodeAt_of_nodes (hf.nodes _) ..).trans hi.node

end Sys2Proof.Machine
end

section
/-! Operations that write: what stands in Marrow and among the operations when one is issued (spec/02 R51, spec/11 R265). -/

namespace Sys2Proof.Machine

variable {s t u v : State} {c : Cand} {total num : Nat} {ws : List WByte} {o : TileOp}

/-- Nothing but its own rules keeps a tile operation from running, and the Marrow is in canonical form. -/
structure Quiet (s : State) : Prop where
  unmarked : Unmarked s
  roll : s.itg.rollPhase ≠ 3
  free : opAt s s.nextOp = none

theorem quiet_of_calm (hi : Inv s) (h : calm s) : Quiet s := by
  obtain ⟨hpois, hprov, hecc, -, hroll, hfree⟩ := h
  have hm := hi.marrow
  simp only [Marrow.wf, Bool.and_eq_true] at hm
  obtain ⟨⟨⟨⟨⟨hbytes, -⟩, -⟩, -⟩, -⟩, -⟩ := hm
  exact ⟨⟨hpois, hprov, hecc, hbytes⟩, hroll, hfree⟩

/-- What an issue builds on is as in `s`. -/
structure Agree (s u : State) : Prop where
  nextOp : u.nextOp = s.nextOp
  ops : u.ops = s.ops
  marrow : u.marrow = s.marrow
  pods : u.pods = s.pods
  gates : u.gates = s.gates
  itg : u.itg = s.itg

theorem Agree.refl (s : State) : Agree s s := ⟨rfl, rfl, rfl, rfl, rfl, rfl⟩

theorem Agree.trans (h : Agree s t) (h' : Agree t u) : Agree s u :=
  ⟨h'.nextOp.trans h.nextOp, h'.ops.trans h.ops, h'.marrow.trans h.marrow, h'.pods.trans h.pods, h'.gates.trans h.gates,
    h'.itg.trans h.itg⟩

theorem SlotStep.agree (h : SlotStep s t) : Agree s t := ⟨h.nextOp, h.ops, h.marrow, h.pods, h.gates, h.itg⟩

theorem Agree.quiet (ha : Agree s u) (h : Quiet s) : Quiet u where
  unmarked := ⟨ha.marrow ▸ h.unmarked.poison, ha.marrow ▸ h.unmarked.prov, ha.marrow ▸ h.unmarked.ecc, ha.marrow ▸ h.unmarked.bytes⟩
  roll := ha.itg ▸ h.roll
  free := by
    unfold opAt
    rw [ha.ops, ha.nextOp]
    exact h.free

/-- What a station gives an operation beyond its work leaves whose it is. -/
structure KeepsWork (f : TileOp → TileOp) : Prop where
  id : ∀ o, (f o).id = o.id
  pod : ∀ o, (f o).pod = o.pod
  job : ∀ o, (f o).job = o.job
  member : ∀ o, (f o).member = o.member
  node : ∀ o, (f o).node = o.node
  rank : ∀ o, (f o).rank = o.rank
  last : ∀ o, (f o).last = o.last

theorem opAt_append (hf : opAt s s.nextOp = none) (hops : t.ops = s.ops ++ [o]) (hid : o.id = s.nextOp) :
    opAt t s.nextOp = some o := by
  unfold opAt at hf ⊢
  rw [hops, List.find?_append, hf, Option.none_or, List.find?_singleton, if_pos (by simpa using hid)]

theorem mem_foldl_nset (ls a : List Nat) (x : Nat) : x ∈ ls.foldl (fun a l => nset a l true) a ↔ x ∈ a ∨ x ∈ ls := by
  induction ls generalizing a with
  | nil => simp
  | cons l ls ih =>
    rw [List.foldl_cons, ih, show nset a l true = nins a l from rfl, mem_nins, List.mem_cons]
    tauto

/-- An operation of `c` that writes `ws` has been issued on `u`, which `s` has come to. -/
structure WritesOut (s u t : State) (c : Cand) (num total : Nat) (ws : List WByte) (o : TileOp) : Prop where
  issued : issued s t c num total ws
  step : TaskStep u t
  op : opAt t s.nextOp = some o
  nextOp : t.nextOp = s.nextOp + 1
  node : nodeAt t c.j c.h c.n = movedOn c total (nodeAt u c.j c.h c.n)

theorem issueWrites_writesOut (h : Quiet s) (ha : Agree s u) (c : Cand) (total : Nat) (ws : List WByte) {f : TileOp → TileOp}
    (hf : KeepsWork f) :
    WritesOut s u (issueWrites u c total ws [] f) c (f (candOp u c (decide (c.tile + 1 ≥ total)))).tile total ws
      (writingOp ws f (candOp u c (decide (c.tile + 1 ≥ total)))) := by
  have hu := ha.quiet h
  obtain ⟨bs, hw, -, hin, hout⟩ := writeAll_unmarked hu.unmarked ws (some (candOp u c false))
  have hi := issueWrites_issues hu.roll c total ws [] hw f
  have hop := opAt_append hu.free hi.ops (hf.id _)
  generalize issueWrites u c total ws [] f = t at hi hop
  rw [ha.nextOp] at hop
  have hnext : t.nextOp = s.nextOp + 1 := by rw [hi.nextOp, ha.nextOp]
  refine ⟨⟨by omega, ?_, ?_, workMoved_of_works (congrArg (·.works) hi.node), ?_, ?_, ?_, ?_, ?_, ?_⟩, hi.step, hop, hnext, hi.node⟩
  · intro o ho
    rw [hi.ops, ha.ops]
    exact List.mem_append_left _ ho
  · exact ⟨_, hop, hf.pod _, hf.job _, hf.member _, hf.node _, hf.rank _, rfl, rfl, hf.last _⟩
  · intro l
    rw [hi.marrow, mem_foldl_nset, hu.unmarked.prov]
    simp
  · rw [hi.marrow]
    exact hu.unmarked.poison
  · intro w hw hm huniq
    rw [hi.marrow]
    exact hin w hw hm huniq
  · intro k hk
    rw [hi.marrow, ← ha.marrow]
    exact hout k hk
  · rw [hi.step.pods, ha.pods]
  · rw [hi.step.gates, ha.gates]

theorem keepsWork_id : KeepsWork id := ⟨fun _ => rfl, fun _ => rfl, fun _ => rfl, fun _ => rfl, fun _ => rfl, fun _ => rfl, fun _ => rfl⟩

theorem workMoved_congr (h : workMoved s c total) (hw : (nodeAt t c.j c.h c.n).works = (nodeAt s c.j c.h c.n).works) :
    workMoved t c total := by
  unfold workMoved at h ⊢
  rw [hw]
  exact h

/-- What leaves operations, Marrow, Pods, gates and the node's works as they are keeps an issue. -/
theorem issued_keep (h : issued s t c num total ws) (hn : t.nextOp ≤ v.nextOp) (ho : v.ops = t.ops) (hm : v.marrow = t.marrow)
    (hw : (nodeAt v c.j c.h c.n).works = (nodeAt t c.j c.h c.n).works) (hp : v.pods = t.pods) (hg : v.gates = t.gates) :
    issued s v c num total ws := by
  obtain ⟨hnext, hops, hop, hwork, hprov, hpois, hin, hout, hpods, hgates⟩ := h
  unfold issued
  rw [show opAt v s.nextOp = opAt t s.nextOp from congrArg (List.find? _) ho, ho, hm, hp, hg]
  exact ⟨hnext.trans_le hn, hops, hop, workMoved_congr hwork hw, hprov, hpois, hin, hout, hpods, hgates⟩

theorem issued_of_sameWork {c c' : Cand} (h : issued s t c num total ws) (hp : c'.p = c.p) (hj : c'.j = c.j) (hh : c'.h = c.h)
    (hn : c'.n = c.n) (hr : c'.rank = c.rank) (ht : c'.tile = c.tile) : issued s t c' num total ws := by
  unfold issued workMoved at h ⊢
  rw [hp, hj, hh, hn, hr, ht]
  exact h

end Sys2Proof.Machine
end

section
/-! A slot that a consumer lets go, and the picture records of the stations (spec/12 R297, spec/04 R105). -/

namespace Sys2Proof.Machine

variable {s t u v : State}

/-! ## Waiters that go on -/

/-- The state with everything blanked that Milepost operations and the waiters they end may change. -/
def markFrame (s : State) : State :=
  { slotFrame s with entries := [], cqs := [], arb := State.reset.arb, jobs := s.jobs }

/-- A waiter that goes on changes entries, completions, counters and the Causeway (R294, R325). -/
def waiterFrame (s : State) : State := { markFrame s with mps := s.mps }

theorem waiterFrame_bump (s : State) (p k n : Nat) : waiterFrame (bump s p k n) = waiterFrame s := by
  unfold bump
  split <;> rfl

theorem waiterFrame_finish (s : State) (e : Entry) (status : Nat) : waiterFrame (finish s e status) = waiterFrame s := by
  unfold finish addDue
  split
  · split_ifs
    · rfl
    · rfl
    · rw [arbSettle_eq]
      rfl
  · rfl

theorem waiterFrame_fedTook (s : State) (k c : Nat) : waiterFrame (fedTook s k c) = waiterFrame s := by
  change waiterFrame (bump (bump _ _ _ _) _ _ _) = waiterFrame s
  rw [waiterFrame_bump, waiterFrame_bump]
  rfl

theorem waiterFrame_resolveWaiter (s : State) (w : Waiter) : waiterFrame (resolveWaiter s w) = waiterFrame s := by
  unfold resolveWaiter
  split
  · split
    · exact waiterFrame_finish ..
    · rfl
  · exact waiterFrame_fedTook ..
  · rfl

theorem markFrame_of_waiterFrame (h : waiterFrame t = waiterFrame s) : markFrame t = markFrame s :=
  congrArg (fun u : State => { u with mps := State.reset.mps }) h

theorem markFrame_bump (s : State) (p k n : Nat) : markFrame (bump s p k n) = markFrame s :=
  markFrame_of_waiterFrame (waiterFrame_bump ..)

/-! ## Mileposts -/

theorem mpAt_congr (h : t.mps = s.mps) (k : Nat) : mpAt t k = mpAt s k := by rw [mpAt, h]; rfl

theorem mpAt_bump (s : State) (p k n i : Nat) : mpAt (bump s p k n) i = mpAt s i := mpAt_congr (by unfold bump; split <;> rfl) i

theorem mpAt_putMp_ne (s : State) {id k : Nat} (h : k ≠ id) (r : MpRec) : mpAt (putMp s id r) k = mpAt s k :=
  sgetD_sset_ne _ _ _ _ h

theorem mpAt_putMp_self (s : State) (id : Nat) {r : MpRec} (h : r ≠ MpRec.empty) : mpAt (putMp s id r) id = r := by
  have hput : sset s.mps.recs id r MpRec.empty = sput s.mps.recs id r := if_neg h
  exact (congrArg (sgetD · id MpRec.empty) hput).trans (sgetD_sput_self ..)

/-- A `SET` of a clear Milepost leaves every other Milepost (R294). -/
theorem mpSet_of_clear {id : Nat} (hv : (mpAt s id).value = false) (src : MpSource) :
    markFrame (mpSet s id src) = markFrame s ∧ ∀ k, k ≠ id → mpAt (mpSet s id src) k = mpAt s k := by
  unfold mpSet
  split
  · exact ⟨rfl, fun _ _ => rfl⟩
  · simp only [mpAt_bump, hv, Bool.false_eq_true, if_false]
    generalize List.head? _ = first
    generalize hgone : List.filter _ _ ++ first.toList = gone
    have hfold (u : State) : waiterFrame (gone.foldl resolveWaiter u) = waiterFrame u :=
      foldl_keeps waiterFrame (fun s w _ => waiterFrame_resolveWaiter s w) u
    have hmps (u : State) : (gone.foldl resolveWaiter u).mps = u.mps := congrArg (·.mps) (hfold u)
    refine ⟨(markFrame_of_waiterFrame (hfold _)).trans ?_, fun k hk => (mpAt_congr (hmps _) k).trans ?_⟩
    · split
      · exact (markFrame_bump ..).trans (markFrame_bump s 0x580 0 1)
      · exact markFrame_bump s 0x580 0 1
    · split
      · exact (mpAt_bump ..).trans ((mpAt_putMp_ne _ hk _).trans (mpAt_bump ..))
      · exact (mpAt_putMp_ne _ hk _).trans (mpAt_bump ..)

/-- A `CLEAR` of a set Milepost of a job (R293). -/
theorem mpClear_of_set {id : Nat} (ho : mpOwned s id = true) (hv : (mpAt s id).value = true) (src : MpSource) :
    markFrame (mpClear s id src) = markFrame s ∧ (mpAt (mpClear s id src) id).value = false ∧
      ∀ k, k ≠ id → mpAt (mpClear s id src) k = mpAt s k := by
  unfold mpClear
  rw [if_neg (by simp [ho])]
  simp only [mpAt_bump, hv, if_true]
  refine ⟨markFrame_bump s 0x580 1 1, ?_, fun k hk => (mpAt_putMp_ne _ hk _).trans (mpAt_bump ..)⟩
  rw [mpAt_putMp_self]
  intro h
  exact absurd (congrArg MpRec.lastOp h) (Nat.succ_ne_zero _)

/-! ## Slots -/

/-- What a consumer that lets a slot go changes besides Mileposts: the edges of jobs, entries and completions of waiters, counters
and the Causeway. -/
structure ReleaseStep (s t : State) : Prop where
  frame : markFrame { t with jobs := [] } = markFrame { s with jobs := [] }
  job : ∀ k, job t k = { job s k with edges := (job t k).edges }

theorem ReleaseStep.trans (h : ReleaseStep s t) (h' : ReleaseStep t u) : ReleaseStep s u :=
  ⟨h'.frame.trans h.frame, fun k => by rw [h'.job, h.job]⟩

theorem ReleaseStep.of_markFrame (h : markFrame t = markFrame s) : ReleaseStep s t :=
  ⟨congrArg (fun u : State => { u with jobs := [] }) h, fun k => by
    rw [job_congr (t := t) (s := s) (congrArg (fun u : State => u.jobs) h :) k]⟩

theorem SlotStep.release (h : SlotStep s t) : ReleaseStep s t :=
  ⟨congrArg (fun u : State => { u with entries := [], cqs := [], arb := State.reset.arb }) h.frame, h.job⟩

namespace ReleaseStep

variable (h : ReleaseStep s t)
include h

theorem agree : Agree s t where
  nextOp := congrArg (·.nextOp) h.frame
  ops := congrArg (·.ops) h.frame
  marrow := congrArg (·.marrow) h.frame
  pods := congrArg (·.pods) h.frame
  gates := congrArg (·.gates) h.frame
  itg := congrArg (·.itg) h.frame

theorem mem : t.mem = s.mem := congrArg (·.mem) h.frame
theorem decodes : t.decodes = s.decodes := congrArg (·.decodes) h.frame
theorem route (k : Nat) : (Machine.job t k).route = (Machine.job s k).route := by rw [h.job]
theorem members (k : Nat) : (Machine.job t k).members = (Machine.job s k).members := by rw [h.job]

theorem fullId (j m e x : Nat) : Machine.fullId t j m e x = Machine.fullId s j m e x := by
  unfold Machine.fullId mpId Machine.edgeOf
  rw [h.route, h.members]

theorem emptyId (j m e x : Nat) : Machine.emptyId t j m e x = Machine.emptyId s j m e x := by
  unfold Machine.emptyId mpId Machine.edgeOf
  rw [h.route, h.members]

theorem mpOwned (id : Nat) : Machine.mpOwned t id = Machine.mpOwned s id := by
  have hpod (p : Nat) : podAt t p = podAt s p := by rw [podAt, h.agree.pods]; rfl
  have hphys (l : Nat) : physOf t l = physOf s l := by simp only [physOf, inService, hpod]
  simp only [Machine.mpOwned, hphys, hpod, h.route]

end ReleaseStep

/-- A full slot that its consumer lets go is full no more (R297). -/
theorem releaseSlot_of_full {j m e x : Nat} (ho : mpOwned s (fullId s j m e x) = true) (hf : slotFull s j m e x = true)
    (he : (mpAt s (emptyId s j m e x)).value = false) (src : MpSource) :
    ReleaseStep s (releaseSlot s j m e x src) ∧ slotFull (releaseSlot s j m e x src) j m e x = false := by
  unfold releaseSlot
  have hedge := (slotStep_modEdge s j m e fun t => { t with fills := t.fills.filter (·.1 ≠ x) }).release
  have hmps (k : Nat) : mpAt (modEdge s j m e fun t => { t with fills := t.fills.filter (·.1 ≠ x) }) k = mpAt s k := rfl
  generalize modEdge s j m e _ = u at hedge hmps ⊢
  rw [← hedge.mpOwned, ← hedge.fullId] at ho
  unfold slotFull at hf ⊢
  rw [← hmps, ← hedge.fullId] at hf
  rw [← hmps, ← hedge.emptyId] at he
  have hne : fullId u j m e x ≠ emptyId u j m e x := fun h => by simp [h, he] at hf
  obtain ⟨hclear, hoff, hother⟩ := mpClear_of_set ho hf src
  have hclear := ReleaseStep.of_markFrame hclear
  rw [← hother _ hne.symm, ← hclear.emptyId] at he
  obtain ⟨hset, hkeep⟩ := mpSet_of_clear he src
  have hset := ReleaseStep.of_markFrame hset
  have hstep := hclear.trans hset
  simp only [hclear.emptyId] at hset hkeep hstep
  refine ⟨hedge.trans hstep, ?_⟩
  rw [hstep.fullId, hkeep _ hne, hoff]

theorem slotFull_modNode (s : State) (j m e x k l n : Nat) (f : NodeSt → NodeSt) :
    slotFull (modNode s k l n f) j m e x = slotFull s j m e x := by
  have hstep := taskStep_modNode s k l n f
  unfold slotFull fullId mpId
  rw [hstep.edgeOf, hstep.members]
  rfl

/-- A `TAKE` sets no Milepost. -/
theorem mpAt_mpTakeNow_clear {k : Nat} (h : (mpAt s k).value = false) (id : Nat) : (mpAt (mpTakeNow s id) k).value = false := by
  unfold mpTakeNow
  rw [mpAt_bump]
  by_cases hk : k = id
  · rw [hk, mpAt_putMp_self s id fun h => absurd (congrArg MpRec.consumed h) (by simp [MpRec.empty])]
  · rw [mpAt_putMp_ne s hk, h]

theorem mpAt_takeEmpty_clear {k : Nat} (h : (mpAt s k).value = false) (j m e x : Nat) :
    (mpAt (takeEmpty s j m e x) k).value = false := by
  unfold takeEmpty
  split
  · exact h
  · exact mpAt_mpTakeNow_clear h _

/-- A slot that is not full does not become full by taking slots to write. -/
theorem slotFull_beginWork {j m e x : Nat} (h : slotFull s j m e x = false) (c : Cand) : slotFull (beginWork s c) j m e x = false := by
  unfold slotFull at h ⊢
  rw [(slotStep_beginWork s c).release.fullId]
  exact List.foldlRecOn (motive := fun t => (mpAt t (fullId s j m e x)).value = false) c.outs _ h
    fun u hu o _ => mpAt_takeEmpty_clear hu ..

/-- A work on record without an operation (R51). -/
theorem holdWork_keeps (s : State) (c : Cand) :
    ∃ u, SlotStep s u ∧ TaskStep u (holdWork s c) ∧ Agree s (holdWork s c) ∧ ∀ j m e x, slotFull s j m e x = false →
      slotFull (holdWork s c) j m e x = false := by
  unfold holdWork
  have hb : SlotStep s (if c.fresh then beginWork s c else s) := by
    split
    · exact slotStep_beginWork s c
    · exact .refl s
  have hf (j m e x : Nat) (h : slotFull s j m e x = false) : slotFull (if c.fresh then beginWork s c else s) j m e x = false := by
    split
    · exact slotFull_beginWork h c
    · exact h
  generalize (if c.fresh then beginWork s c else s) = u at hb hf ⊢
  exact ⟨u, hb, taskStep_modNode .., hb.agree.trans ⟨rfl, rfl, rfl, rfl, rfl, rfl⟩,
    fun j m e x h => (slotFull_modNode ..).trans (hf j m e x h)⟩

/-! ## Picture records -/

/-- Whether a picture record is that of the candidate's entry at its node. -/
abbrev isPicture (c : Cand) (d : DecodeJob) : Prop := d.job = c.j ∧ d.member = c.h ∧ d.node = c.n ∧ d.rank = c.rank

theorem isPicture_of_pictureAt {c : Cand} {d : DecodeJob} (h : pictureAt s c = some d) : isPicture c d :=
  of_decide_eq_true (List.find?_some (p := fun d : DecodeJob => decide (d.job = c.j ∧ d.member = c.h ∧ d.node = c.n ∧ d.rank = c.rank)) h)

theorem isPicture_getD (s : State) (c : Cand) : isPicture c ((pictureAt s c).getD (collectJob c)) := by
  cases h : pictureAt s c with
  | none => exact ⟨rfl, rfl, rfl, rfl⟩
  | some d => exact isPicture_of_pictureAt h

theorem pictureAt_congr (h : t.decodes = s.decodes) (c : Cand) : pictureAt t c = pictureAt s c := congrArg (List.find? _) h

theorem find?_map_self {α : Type} {p : α → Prop} [DecidablePred p] {f : α → α} (hf : ∀ x, p x → p (f x)) (l : List α) :
    (l.map fun x => if p x then f x else x).find? (fun x => decide (p x)) = (l.find? fun x => decide (p x)).map f := by
  induction l with
  | nil => rfl
  | cons x l ih =>
    by_cases hx : p x
    · simp [hx, hf x hx]
    · simp only [List.map_cons, if_neg hx, List.find?_cons, decide_eq_false hx]
      exact ih

theorem pictureAt_modPicture (s : State) (c : Cand) {f : DecodeJob → DecodeJob} (hf : ∀ d, isPicture c d → isPicture c (f d)) :
    pictureAt (modPicture s c f) c = (pictureAt s c).map f := find?_map_self (p := isPicture c) hf s.decodes

theorem pictureAt_putPicture (s : State) {c : Cand} {d : DecodeJob} (hd : isPicture c d) :
    pictureAt (putPicture s c d) c = some d := by
  unfold putPicture
  split
  · next h =>
    obtain ⟨x, hx⟩ := Option.isSome_iff_exists.1 h
    rw [pictureAt_modPicture s c fun _ _ => hd, hx]
    rfl
  · next h =>
    have hn : pictureAt s c = none := Option.not_isSome_iff_eq_none.1 h
    unfold pictureAt at hn ⊢
    rw [List.find?_append, hn, Option.none_or, List.find?_singleton]
    exact if_pos (decide_eq_true hd)

/-- The state with other picture records. -/
theorem putPicture_eq (s : State) (c : Cand) (d : DecodeJob) :
    putPicture s c d = { s with decodes := (putPicture s c d).decodes } := by
  unfold putPicture
  split <;> rfl

theorem agree_putPicture (s : State) (c : Cand) (d : DecodeJob) : Agree s (putPicture s c d) := by
  rw [putPicture_eq]
  exact ⟨rfl, rfl, rfl, rfl, rfl, rfl⟩

end Sys2Proof.Machine
end

section
/-! Bands that a station takes in, and the buffer transfers that its operations start (spec/04 R105, R107, spec/11 R282). -/

namespace Sys2Proof.Machine

variable {s t u v : State}

/-! ## Bands -/

theorem Rd.bytes_fst (h : Unmarked s) (o : Option TileOp) (p a n : Nat) : ((Rd.start s).bytes o p a n).1 = Rd.start s := by
  rw [Rd.bytes_unmarked h]

theorem slotFull_of_bandFill {c : Cand} {i : Nat} {f : Nat × Fill} (h : bandFill s c i = some f) :
    slotFull s c.j c.h (c.node s).inFirst f.1 = true :=
  (of_decide_eq_true (List.find?_some (p := fun f : Nat × Fill => decide (f.2.rank = c.rank ∧ f.2.band = i ∧
    slotFull s c.j c.h (c.node s).inFirst f.1 = true)) h)).2.2

/-- A band taken in leaves the state, goes to the candidate's record and comes from a full slot. -/
theorem takeBand_unmarked (h : Unmarked s) {c : Cand} {d : DecodeJob} {r : Rd × DecodeJob × Nat} (hr : takeBand s c d = some r) :
    r.1 = Rd.start s ∧ (isPicture c d → isPicture c r.2.1) ∧ slotFull s c.j c.h (c.node s).inFirst r.2.2 = true := by
  obtain ⟨f, hf, rfl⟩ := Option.map_eq_some_iff.1 hr
  refine ⟨?_, fun hd => hd, slotFull_of_bandFill hf⟩
  simp only [Rd.bytes_fst h]

/-! ## Buffer transfers -/

theorem sendReq_moves (s : State) (r : MemReq) : (sendReq s r).mem.moves = s.mem.moves := by
  unfold sendReq
  extract_lets j
  generalize freeTag s j = tag
  cases tag with
  | some n =>
    change (countLines s r).mem.moves = s.mem.moves
    unfold countLines bump
    split_ifs <;> rfl
  | none => rfl

theorem holdReq_moves (s : State) (r : MemReq) : (holdReq s r).mem.moves = s.mem.moves := by
  have hput (u : State) (m : MemReq) (g : Mem → Mem) (hg : ∀ x, (g x).moves = x.moves) :
      (if wholeBlock m then sendReq u m else modMem u g).mem.moves = u.mem.moves := by
    split
    · exact sendReq_moves ..
    · exact hg _
  unfold holdReq
  split
  · refine (hput _ _ (fun x => { x with held := x.held ++ [_] }) fun _ => rfl).trans ?_
    change (bump s 3 3).mem.moves = s.mem.moves
    unfold bump
    split <;> rfl
  · exact hput _ _ (fun x => { x with held := x.held ++ [_] }) fun _ => rfl

/-- The buffer transfers under way, by number. -/
def moveIds (s : State) : List Nat := s.mem.moves.map (·.id)

theorem moveIds_putTile (s : State) (b : BufMove) (p n : Nat) : moveIds (putTile s b p n) = moveIds s := by
  refine (foldl_keeps moveIds (fun u r _ => congrArg (List.map _) (holdReq_moves u _)) _).trans ?_
  change (s.mem.moves.map fun x => if x.id = b.id then { x with num := some n, out := true } else x).map (·.id) = _
  rw [List.map_map]
  refine List.map_congr_left fun x _ => ?_
  simp only [Function.comp]
  split <;> rfl

theorem moveIds_sendMove (s : State) (b : BufMove) : moveIds (sendMove s b) = moveIds s := by
  simp only [sendMove]
  split
  · rfl
  · split
    · split
      · exact moveIds_putTile ..
      · rfl
    · split
      · exact moveIds_putTile ..
      · rfl

theorem moveIds_pumpMoves (s : State) : moveIds (pumpMoves s) = moveIds s := by
  refine foldl_keeps moveIds (fun u b _ => ?_) s
  split
  · exact moveIds_sendMove ..
  · rfl

theorem moveAt_isSome {i : Nat} (h : i ∈ moveIds s) : (moveAt s i).isSome = true := by
  obtain ⟨b, hb, rfl⟩ := List.mem_map.1 h
  exact List.find?_isSome.2 ⟨b, hb, by simp⟩

/-- A transfer that is started stands on the list of transfers. -/
theorem startMove_moveAt (s : State) (j m n r : Nat) {tiles : List (List MemReq)} (ht : tiles ≠ []) (ends : MoveEnd)
    (blocks : List BlockRead) : (moveAt (startMove s j m n r tiles ends blocks) s.nextOp).isSome = true := by
  unfold startMove
  rw [if_neg ht]
  apply moveAt_isSome
  rw [moveIds_pumpMoves]
  simp [moveIds]

/-- A transfer that is started takes a number, and changes counters and the memory ports. -/
theorem startMove_keeps (s : State) (j m n r : Nat) (tiles : List (List MemReq)) (ends : MoveEnd) (blocks : List BlockRead) :
    ∃ i, s.nextOp ≤ i ∧ portFrame (startMove s j m n r tiles ends blocks) = portFrame { s with nextOp := i } := by
  unfold startMove
  split
  · exact ⟨s.nextOp, le_rfl, rfl⟩
  · exact ⟨s.nextOp + 1, Nat.le_succ _, portFrame_pumpMoves _⟩

/-! ## Cut requests -/

theorem tileUp_ne_nil {l : List MemReq} (h : l ≠ []) : tileUp l ≠ [] := by
  obtain ⟨l, r, rfl⟩ := l.eq_nil_or_concat.resolve_left h
  rw [tileUp, List.concat_eq_append, List.foldl_append, List.foldl_cons, List.foldl_nil]
  split
  · split <;> simp
  · simp

theorem nins_ne_nil (m : List Nat) (k : Nat) : nins m k ≠ [] :=
  List.ne_nil_of_mem ((mem_nins m k k).2 (.inl rfl))

theorem coverReqs_ne_nil {ks : List Nat} (h : ks ≠ []) (xlat p x t i : Nat) : coverReqs ks xlat p x t i ≠ [] := by
  obtain ⟨l, k, rfl⟩ := ks.eq_nil_or_concat.resolve_left h
  rw [coverReqs, List.concat_eq_append, List.foldl_append]
  simpa using nins_ne_nil _ _

/-- Blocks to read make requests. -/
theorem blockReqs_ne_nil {bs : List BlockRead} (h : bs ≠ []) (p n : Nat) : blockReqs bs p n ≠ [] := by
  obtain ⟨b, hb⟩ := List.exists_mem_of_ne_nil bs h
  have hks : (bs.filter fun x => decide (x.xlat = b.xlat)).flatMap blockKeys ≠ [] :=
    List.ne_nil_of_mem (a := b.buf + b.block / 4)
      (List.mem_flatMap.2 ⟨b, List.mem_filter.2 ⟨hb, by simp⟩, List.mem_cons_self⟩)
  obtain ⟨r, hr⟩ := List.exists_mem_of_ne_nil _ (coverReqs_ne_nil hks b.xlat p 0 0 n)
  exact List.ne_nil_of_mem (List.mem_flatMap.2 ⟨b.xlat, List.mem_dedup.2 (List.mem_map.2 ⟨b, hb, rfl⟩), hr⟩)

end Sys2Proof.Machine
end

section
/-! What DECODE issues (spec/04 R105 to R110). -/

namespace Sys2Proof.Machine

variable {s t u v : State} {c : Cand} {e : Entry} {b : List Cand} {p : Fin 100}

/-- The first candidate of a station's ready set issues what its operation says. -/
theorem becomes_of_first {cmd : Instr} {l : List Cand} {f : State → Cand → Option State} (hl : l = c :: b)
    (hexec : exec cmd s = .next (tryAll s f l)) (hf : f s c = some t) {P : State → Prop} (hP : P t) : Becomes cmd s P := by
  refine ⟨t, ?_, hP⟩
  rw [hexec, hl]
  exact congrArg _ (tryAll_first (a := []) (fun _ hx => by cases hx) hf)

/-- What stays when a station takes bytes in (R25, R105). -/
def taskKept (s t : State) : Prop :=
  t.marrow = s.marrow ∧ t.nextOp = s.nextOp ∧ t.ops = s.ops ∧ t.mem = s.mem ∧ t.pods = s.pods

theorem Agree.taskKept (h : Agree s t) (hm : t.mem = s.mem) : taskKept s t := ⟨h.marrow, h.nextOp, h.ops, hm, h.pods⟩

/-- The record of a candidate with piece `bs` of the source appended (R25). -/
def withSource (d : DecodeJob) (bs : List Byte) : DecodeJob :=
  { d with src := d.src ++ (bs.zipIdx d.src.length).map fun b => (b.2, b.1) }

theorem withSource_map (d : DecodeJob) (n : Nat) (f : Nat → Byte) :
    (withSource d ((List.range n).map f)).src = d.src ++ (List.range n).map fun i => (d.src.length + i, f i) := by
  refine congrArg (d.src ++ ·) (List.ext_getElem (by simp) fun i _ _ => ?_)
  simp

/-- Takes piece `bs` of the source of `c` in, and lets its slot `k` of edge `x` go. -/
def pieceTaken (s : State) (c : Cand) (x k : Nat) (bs : List Byte) : State :=
  let u := putPicture s c (withSource ((pictureAt s c).getD (collectJob c)) bs)
  advanceWork (releaseSlot u c.j c.h x k (.pod (podAt u c.p).logical 1)) c (c.tile + 2)

theorem takeSource_eq (h : Unmarked s) {x k : Nat} (hx : (liveIns s c.j c.h e.path (c.node s)).head? = some x)
    (hp : sourceEdge (c.route s) x = true) (hk : fullSlot s c.j c.h x c.rank c.tile = some k) :
    takeSource s c e = some (pieceTaken s c x k ((List.range
      ((sourcePieces s { c with n := (edgeOf s c.j x).producer } e).getD c.tile (0, 0)).2).map fun i =>
        s.marrow.byte (mkey (c.home s) (slotAddr (edgeOf s c.j x) k + i)))) := by
  unfold takeSource
  simp only [hx, hp, if_true, hk, Rd.bytes_unmarked h]
  generalize (List.range _).map _ = bs
  exact (if_neg Bool.false_ne_true).trans (if_neg Bool.false_ne_true)

/-- A record put on its list, and the slot that its bytes came from let go. -/
theorem letGo_of_full {x k : Nat} (hf : slotFull s c.j c.h x k = true) (ho : mpOwned s (fullId s c.j c.h x k) = true)
    (he : (mpAt s (emptyId s c.j c.h x k)).value = false) {d : DecodeJob} (hd : isPicture c d) (src : State → MpSource) :
    let u := putPicture s c d
    let t := releaseSlot u c.j c.h x k (src u)
    Agree s t ∧ t.mem = s.mem ∧ pictureAt t c = some d ∧ slotFull t c.j c.h x k = false := by
  intro u
  have hpic : pictureAt u c = some d := pictureAt_putPicture s hd
  have hu : u = { s with decodes := u.decodes } := putPicture_eq s c d
  clear_value u
  generalize u.decodes = ds at hu
  subst hu
  obtain ⟨hrel, hclear⟩ := releaseSlot_of_full (s := { s with decodes := ds }) ho hf he (src { s with decodes := ds })
  have hagree : Agree s { s with decodes := ds } := ⟨rfl, rfl, rfl, rfl, rfl, rfl⟩
  exact ⟨hagree.trans hrel.agree, hrel.mem, (pictureAt_congr hrel.decodes c).trans hpic, hclear⟩

theorem pieceTaken_spec {x k : Nat} {bs : List Byte} (hf : slotFull s c.j c.h x k = true) (ho : mpOwned s (fullId s c.j c.h x k) = true)
    (he : (mpAt s (emptyId s c.j c.h x k)).value = false) :
    taskKept s (pieceTaken s c x k bs) ∧
    pictureAt (pieceTaken s c x k bs) c = some (withSource ((pictureAt s c).getD (collectJob c)) bs) ∧
    slotFull (pieceTaken s c x k bs) c.j c.h x k = false ∧ workMoved (pieceTaken s c x k bs) c (c.tile + 2) := by
  have hd : isPicture c (withSource ((pictureAt s c).getD (collectJob c)) bs) := isPicture_getD s c
  unfold pieceTaken
  generalize withSource ((pictureAt s c).getD (collectJob c)) bs = d at hd ⊢
  obtain ⟨hagree, hmem, hpic, hclear⟩ := letGo_of_full hf ho he hd fun u => .pod (podAt u c.p).logical 1
  simp only
  generalize releaseSlot (putPicture s c d) c.j c.h x k _ = u at hclear hagree hmem hpic ⊢
  rw [advanceWork_eq]
  exact ⟨(hagree.trans ⟨rfl, rfl, rfl, rfl, rfl, rfl⟩).taskKept hmem, hpic, (slotFull_modNode ..).trans hclear,
    workMoved_of_works (congrArg (·.works) (nodeAt_modNode ..))⟩

/-- The operation of span member 0 that takes a source in (R25, R129). -/
theorem decodeOp_takeSource (he : c.entry s = some e) (hlead : (podAt s c.p).member = c.h)
    (hnew : pictureAt s c = none → enabled s 8 = true ∧ e.srcPoison = false)
    (hworks : ((pictureAt s c).getD (collectJob c)).works = [])
    (hsrc : sourceHere s c e ((pictureAt s c).getD (collectJob c)) = false ∨ pictureAt s c = none) :
    decodeOp s c = takeSource s c e := by
  unfold decodeOp
  rw [he]
  cases hd : pictureAt s c with
  | none =>
    obtain ⟨hon, hpois⟩ := hnew hd
    simp [hlead, hon, hpois]
  | some d =>
    rw [hd] at hworks hsrc
    have hhere : sourceHere s c e d = false := hsrc.resolve_right (Option.some_ne_none d)
    simp only [Option.getD_some] at hworks
    simp [hlead, hworks, hhere]

/-- DECODE takes the next piece of a source in (R25). -/
theorem decode_takesPiece (h : Quiet s) (hc : candidates s p 1 = c :: b) (he : c.entry s = some e) (hlead : (podAt s c.p).member = c.h)
    (hnew : pictureAt s c = none → enabled s 8 = true ∧ e.srcPoison = false)
    (hworks : ((pictureAt s c).getD (collectJob c)).works = [])
    (hsrc : sourceHere s c e ((pictureAt s c).getD (collectJob c)) = false ∨ pictureAt s c = none) {x k : Nat}
    (hx : (liveIns s c.j c.h e.path (c.node s)).head? = some x) (hp : sourceEdge (c.route s) x = true)
    (hk : fullSlot s c.j c.h x c.rank c.tile = some k) (ho : mpOwned s (fullId s c.j c.h x k) = true)
    (hempty : (mpAt s (emptyId s c.j c.h x k)).value = false) :
    let d := (pictureAt s c).getD (collectJob c)
    let g := edgeOf s c.j x
    let n := ((sourcePieces s { c with n := g.producer } e).getD c.tile (0, 0)).2
    Becomes (.decodeTileOp p) s (fun t => taskKept s t ∧
      (pictureAt t c).map (·.src) = some (d.src ++ (List.range n).map fun i =>
        (d.src.length + i, s.marrow.byte (mkey (c.home s) (slotAddr g k + i)))) ∧
      slotFull t c.j c.h x k = false ∧ workMoved t c (c.tile + 2)) := by
  intro d g n
  refine becomes_of_first hc rfl ((decodeOp_takeSource he hlead hnew hworks hsrc).trans (takeSource_eq h.unmarked hx hp hk)) ?_
  obtain ⟨hkept, hpic, hclear, hmoved⟩ := pieceTaken_spec (bs := (List.range n).map fun i =>
    s.marrow.byte (mkey (c.home s) (slotAddr g k + i))) (slotFull_of_fullSlot hk) ho hempty
  refine ⟨hkept, ?_, hclear, hmoved⟩
  rw [hpic, Option.map_some, withSource_map]

/-! ## Bands -/

/-- A step of the memory ports, after which more numbers may be taken. -/
structure MoveStep (s t : State) : Prop where
  nextOp : s.nextOp ≤ t.nextOp
  frame : portFrame { t with nextOp := 0 } = portFrame { s with nextOp := 0 }

theorem startMove_step (s : State) (j m n r : Nat) (tiles : List (List MemReq)) (ends : MoveEnd) (blocks : List BlockRead) :
    MoveStep s (startMove s j m n r tiles ends blocks) := by
  obtain ⟨i, hi, hf⟩ := startMove_keeps s j m n r tiles ends blocks
  have hn : (startMove s j m n r tiles ends blocks).nextOp = i := congrArg (·.nextOp) hf
  exact ⟨hn ▸ hi, congrArg (fun u : State => { u with nextOp := 0 }) hf⟩

namespace MoveStep

variable (h : MoveStep s t)
include h

theorem ops : t.ops = s.ops := congrArg (·.ops) h.frame
theorem jobs : t.jobs = s.jobs := congrArg (·.jobs) h.frame
theorem entries : t.entries = s.entries := congrArg (·.entries) h.frame
theorem decodes : t.decodes = s.decodes := congrArg (·.decodes) h.frame

end MoveStep

theorem MoveStep.issued {num total : Nat} {ws : List WByte} (h : MoveStep t v) (hi : Machine.issued s t c num total ws) :
    Machine.issued s v c num total ws :=
  issued_keep hi h.nextOp h.ops (congrArg (·.marrow) h.frame)
    (congrArg NodeSt.works (nodeAt_of_nodes (congrArg Job.nodes (job_congr h.jobs _)) ..)) (congrArg (·.pods) h.frame)
    (congrArg (·.gates) h.frame)

/-- What an operation that writes and starts a buffer transfer leaves: it is in flight, its transfer has the next number. -/
structure MovesOut (s u t : State) (c : Cand) (num total : Nat) (ws : List WByte) (o : TileOp) (tiles : List (List MemReq)) : Prop where
  issued : issued s t c num total ws
  entries : t.entries = u.entries
  decodes : t.decodes = u.decodes
  op : opAt t s.nextOp = some o
  move : tiles ≠ [] → (moveAt t (s.nextOp + 1)).isSome = true

theorem startMove_movesOut {num total : Nat} {ws : List WByte} {o : TileOp} {c : Cand} (h : WritesOut s u t c num total ws o) (j m n r : Nat)
    (tiles : List (List MemReq)) (ends : MoveEnd) (blocks : List BlockRead) :
    MovesOut s u (startMove t j m n r tiles ends blocks) c num total ws o tiles := by
  have hm := startMove_step t j m n r tiles ends blocks
  have hmove (ht : tiles ≠ []) := startMove_moveAt t j m n r ht ends blocks
  rw [h.nextOp] at hmove
  exact ⟨hm.issued h.issued, hm.entries.trans h.step.entries, hm.decodes.trans h.step.decodes,
    (congrArg (List.find? _) hm.ops).trans h.op, hmove⟩

/-- The bytes that an operation which hands out slots `slots` of bands of `x` writes (R107). -/
def bandBytesOut (s : State) (c : Cand) (d : DecodeJob) (x : PlanOp) (w : PicWork) (slots : List (List (Nat × Nat))) : List WByte :=
  slots.zipIdx.flatMap fun o => bandWrites s c w.pic (handedOut d + o.2) ((w.bands[x.ends.getD o.2 0]?).getD ⟨0, 0, 0, 0, 0⟩) o.1

theorem agree_modPicture (s : State) (c : Cand) (f : DecodeJob → DecodeJob) : Agree s (modPicture s c f) :=
  ⟨rfl, rfl, rfl, rfl, rfl, rfl⟩

/-- What DECODE issues of a picture under way (R107, R110). -/
theorem bandOp_issues (h : Quiet s) {d : DecodeJob} {i : Nat} {x : PlanOp} {w : PicWork} (hd : pictureAt s c = some d)
    (hpois : d.poisoned = false) {slots : List (List (Nat × Nat))}
    (hslots : (if some x.pic = d.shown then bandSlots s c x.ends.length else some []) = some slots) :
    ∃ t, bandOp s c d i x w = some t ∧
      issued s t { c with tile := d.plan.length - d.left.length } i d.plan.length (bandBytesOut s c d x w slots) ∧
      t.entries = s.entries ∧ (pictureAt t c).map (·.left) = some (ndel d.left i) ∧
      ∃ o, opAt t s.nextOp = some o ∧ o.outs = slots.flatten ∧ (o.awaiting = 0 ∨ (moveAt t (s.nextOp + 1)).isSome = true) := by
  unfold bandOp
  extract_lets shown handed total ends lastHere n reads after s₁
  have hsel : (if shown = true then bandSlots s c x.ends.length else some []) = some slots := by
    simpa only [shown, decide_eq_true_eq] using hslots
  simp -zeta only [hsel, hpois, Bool.false_eq_true, if_false]
  extract_lets parts ws outs f s₂
  refine ⟨_, rfl, ?_⟩
  have hf : KeepsWork f := ⟨fun _ => rfl, fun _ => rfl, fun _ => rfl, fun _ => rfl, fun _ => rfl, fun _ => rfl, fun _ => rfl⟩
  have ha : Agree s (beginWork s₁ { c with outs := outs }) := (agree_modPicture ..).trans (slotStep_beginWork ..).agree
  have hpic : pictureAt s₁ c = some { d with left := ndel d.left i } :=
    (pictureAt_modPicture s c (f := fun d => { d with left := ndel d.left i }) fun _ hd => hd).trans (by rw [hd]; rfl)
  have hws : ws = bandBytesOut s c d x w slots := List.flatMap_map ..
  obtain ⟨hissued, hentries, hdecodes, hop, hmove⟩ := startMove_movesOut
    (issueWrites_writesOut h ha { c with tile := d.plan.length - d.left.length, fresh := false } d.plan.length ws hf) c.j (podAt s₂ c.p).member
    c.n c.rank (tileUp (blockReqs reads c.p n)) (.fetch n) reads
  have hb := (slotStep_beginWork s₁ { c with outs := outs }).task
  rw [← hws]
  refine ⟨issued_of_sameWork hissued rfl rfl rfl rfl rfl rfl, hentries.trans hb.entries, ?_, _, hop, rfl, ?_⟩
  · rw [pictureAt_congr (hdecodes.trans hb.decodes), hpic]
    rfl
  · by_cases hr : reads = []
    · exact .inl (by simp [writingOp, f, hr, b2n])
    · exact .inr (hmove (tileUp_ne_nil (blockReqs_ne_nil hr c.p n)))

/-- The next operation of a picture under way whose partition falls to the candidate's Pod (R109, R110). -/
theorem decodeOp_nextBand (he : c.entry s = some e) {d : DecodeJob} (hd : pictureAt s c = some d) (hw : d.works ≠ []) {i : Nat}
    (hi : d.left.find? (fun i => (d.plan[i]?).any fun x => x.part % min (max 1 (jobP s c.j)) (spanWidth (c.node s)) =
      ((podAt s c.p).member + max 1 (jobP s c.j) - c.h) % max 1 (jobP s c.j)) = some i) {x : PlanOp} (hx : d.plan[i]? = some x)
    {w : PicWork} (hwork : d.works[x.pic]? = some w) (hready : planReady s c d x = true) : decodeOp s c = bandOp s c d i x w := by
  unfold decodeOp
  simp only [he, hd, if_pos hw, nextBand, hi, hx, hwork, hready, if_true]

end Sys2Proof.Machine
end

section
/-! What MOTION and SHAPE issue (spec/05 R141, R144, spec/06 R147, R165, R166). -/

namespace Sys2Proof.Machine

variable {s t u v : State} {c : Cand} {e : Entry} {b : List Cand} {p : Fin 100}

/-! ## MOTION -/

/-- What an operation of a field leaves: its vectors written, and its record with them (R141). -/
def fieldIssued (s : State) (c : Cand) (k : FieldOp) (t : State) : Prop :=
  issued s t c k.num (if fieldLast s c k then c.tile + 1 else c.tile + 2) (fieldWrites s c k) ∧ t.entries = s.entries ∧
    (pictureAt t c).map (·.field) = some (fieldGot s c k).1

theorem putPicture_entries (s : State) (c : Cand) (d : DecodeJob) : (putPicture s c d).entries = s.entries := by
  rw [putPicture_eq]

theorem fieldOp_issues (h : Quiet s) {k : FieldOp} (hk : isPicture c k.d) : fieldIssued s c k (fieldOp s c k) := by
  unfold fieldOp
  extract_lets ends next n xl after reads tiles ws _ s₁ s₂
  have hpic : pictureAt s₁ c = some _ := pictureAt_putPicture s hk
  have hw : WritesOut s s₁ s₂ c k.num (if fieldLast s c k then c.tile + 1 else c.tile + 2) ws _ :=
    issueWrites_writesOut h (agree_putPicture ..) c _ ws
      ⟨fun _ => rfl, fun _ => rfl, fun _ => rfl, fun _ => rfl, fun _ => rfl, fun _ => rfl, fun _ => rfl⟩
  obtain ⟨hissued, hentries, hdecodes, -, -⟩ :=
    startMove_movesOut hw c.j (podAt s c.p).member c.n c.rank tiles (.fetch n) reads.1
  have hs₁ : s₁.entries = s.entries := putPicture_entries ..
  refine ⟨hissued, hentries.trans hs₁, ?_⟩
  rw [pictureAt_congr hdecodes, hpic]
  rfl

/-- The station that the operations of part `i` of a picture fall to, partition i mod S on span member i mod S (R109, R144). -/
def ofMember (s : State) (c : Cand) (i : Nat) : Prop :=
  i % min (max 1 (jobP s c.j)) (spanWidth (c.node s)) =
    ((podAt s c.p).member + max 1 (jobP s c.j) - c.h) % max 1 (jobP s c.j)

/-- An operation that a save put back (R144). -/
theorem motionOp_again (he : c.entry s = some e) {i : Nat} (hi : ((pictureAt s c).getD (collectJob c)).left.head? = some i) {x : PlanOp}
    (hx : ((pictureAt s c).getD (collectJob c)).plan[i]? = some x) (hm : ofMember s c x.pic) :
    motionOp s c = some (fieldOp s c ⟨e, (pictureAt s c).getD (collectJob c), i, x.pic, x.starts.headD 0, x.part⟩) := by
  unfold motionOp
  simp only [he, hi, hx, Option.bind_some, Option.map_some]
  exact if_pos (decide_eq_true hm.symm)

/-- The next operation of the band under way (R144). -/
theorem motionOp_next (he : c.entry s = some e) (hleft : ((pictureAt s c).getD (collectJob c)).left = [])
    (hlen : ((pictureAt s c).getD (collectJob c)).plan.length <
      (((pictureAt s c).getD (collectJob c)).bands.map (bandTiles (c.block s) e)).sum) {x : PlanOp}
    (hx : ((pictureAt s c).getD (collectJob c)).plan.getLast? = some x) (hm : ofMember s c x.pic) :
    motionOp s c = some (fieldOp s c ⟨e, (pictureAt s c).getD (collectJob c), ((pictureAt s c).getD (collectJob c)).plan.length, x.pic,
      x.starts.headD 0, x.part + 1⟩) := by
  unfold motionOp
  simp only [he, hleft, List.head?_nil, Option.bind_none, if_pos hlen, hx]
  exact if_pos (decide_eq_true hm.symm)

/-- The first operation of the next band (R134, R144). -/
theorem motionOp_band (h : Unmarked s) (he : c.entry s = some e) (hleft : ((pictureAt s c).getD (collectJob c)).left = [])
    (hlen : (((pictureAt s c).getD (collectJob c)).bands.map (bandTiles (c.block s) e)).sum ≤
      ((pictureAt s c).getD (collectJob c)).plan.length)
    (hm : ofMember s c ((pictureAt s c).getD (collectJob c)).bands.length) (hbefore : c.fresh = true → fieldsBefore s c e = true)
    {r : Rd × DecodeJob × Nat} (hr : takeBand s c ((pictureAt s c).getD (collectJob c)) = some r)
    (hneeds : c.fresh = true → needsMref s e r.2.1.pic = false) :
    motionOp s c = some (fieldOp s c ⟨e, if c.fresh then { r.2.1 with ref := searchRef (fieldStream s e) r.2.1.pic } else r.2.1,
      ((pictureAt s c).getD (collectJob c)).plan.length, ((pictureAt s c).getD (collectJob c)).bands.length, r.2.2, 0⟩) := by
  obtain ⟨rd, d', k⟩ := r
  obtain ⟨hrd, -, -⟩ := takeBand_unmarked h hr
  simp only at hrd hneeds ⊢
  subst hrd
  unfold motionOp
  simp only [he, hleft, List.head?_nil, Option.bind_none, if_neg (Nat.not_lt.2 hlen)]
  have hgo : ¬(decide (((podAt s c.p).member + max 1 (jobP s c.j) - c.h) % max 1 (jobP s c.j) =
      ((pictureAt s c).getD (collectJob c)).bands.length % min (max 1 (jobP s c.j)) (spanWidth (c.node s))) = false ∨
      c.fresh = true ∧ fieldsBefore s c e = false) := by
    rintro (hn | ⟨hf, hn⟩)
    · exact of_decide_eq_false hn hm.symm
    · simp [hbefore hf] at hn
  rw [if_neg hgo]
  simp only [hr]
  have hneed : ¬(c.fresh = true ∧ needsMref s e d'.pic = true) := fun ⟨hf, hn⟩ => by simp [hneeds hf] at hn
  exact (if_neg Bool.false_ne_true).trans ((if_neg Bool.false_ne_true).trans (if_neg hneed))

/-! ## SHAPE -/

theorem slotStep_shapeCounts (s : State) (q : List Byte) (r : ShapeRec) (g : Nat) : SlotStep s (shapeCounts s q r g) := by
  have hdraws (u : State) : SlotStep u (if fieldLe q 3 1 = 2 ∨ fieldLe q 3 1 = 3 then
      bump (bump u 9 2 (drawCount q g)) 0x00B 0 (drawCount q g) else u) := by
    split
    · exact (slotStep_bump ..).trans (slotStep_bump ..)
    · exact .refl u
  simp only [shapeCounts]
  split
  · exact (slotStep_bump ..).trans ((hdraws _).trans (slotStep_bump ..))
  · exact (slotStep_bump ..).trans (hdraws _)

/-- What an operation of a picture that is taken in writes (R147, R165). -/
theorem shapeTile_computes (h : Quiet s) (d : DecodeJob) (r : ShapeRec) (g : Nat) {cut : Nat × Nat}
    (hcut : (shapeCuts d.pic r (decide (1 < spanWidth (c.node s))))[c.tile]? = some cut)
    (hm : ofMember s c (cut.1 / max 1 (64 * r.outW))) : ∃ t, shapeTile s c e d r g = some t ∧
      computed s t c (shapeCuts d.pic r (decide (1 < spanWidth (c.node s)))).length (shapeWrites s c e d r g cut) := by
  unfold shapeTile
  simp only [hcut]
  rw [if_neg (not_not.2 hm.symm)]
  refine ⟨_, rfl, ?_⟩
  generalize (shapeCuts d.pic r (decide (1 < spanWidth (c.node s)))).length = total
  have hu : SlotStep s (if c.tile + 1 < total then s else shapeCounts s (c.block s) r g) := by
    split
    · exact .refl s
    · exact slotStep_shapeCounts ..
  generalize (if c.tile + 1 < total then s else shapeCounts s (c.block s) r g) = u at hu ⊢
  have hw := issueWrites_writesOut h hu.agree c total (shapeWrites s c e d r g cut) keepsWork_id
  exact ⟨hw.issued, hw.step.mem.trans hu.mem, hw.step.entries.trans hu.task.entries⟩

/-- A band that span member 0 takes in (log 66). -/
theorem shapeOp_band (h : Unmarked s) (he : c.entry s = some e) (hwhole : ((pictureAt s c).getD (collectJob c)).whole = false)
    (hlead : (podAt s c.p).member = c.h) (hon : c.fresh = true → enabled s 9 = true) {r : Rd × DecodeJob × Nat}
    (hr : takeBand s c ((pictureAt s c).getD (collectJob c)) = some r) {q : ShapeRec × Nat} (hq : resolveShape s c e r.2.1.pic = .ok q) :
    shapeOp s c = some (holdWork (releaseSlot (putPicture s c r.2.1) c.j c.h (c.node s).inFirst r.2.2
      (.pod (podAt s c.p).logical 3)) c) := by
  obtain ⟨rd, d', k⟩ := r
  obtain ⟨hrd, -, -⟩ := takeBand_unmarked h hr
  simp only at hrd hq ⊢
  subst hrd
  unfold shapeOp
  have hen : ¬(c.fresh = true ∧ enabled s 9 = false) := fun ⟨hf, hn⟩ => by simp [hon hf] at hn
  simp only [he, hwhole, Bool.false_eq_true, if_false, if_neg hen, hr, if_neg (not_not.2 hlead)]
  refine (if_neg Bool.false_ne_true).trans ((if_neg Bool.false_ne_true).trans ?_)
  have hq' : resolveShape (Rd.start s).st c e d'.pic = .ok q := hq
  rw [hq']
  rfl

theorem holdWork_takesBand {k : Nat} {d : DecodeJob} (hd : isPicture c d) (hf : slotFull s c.j c.h (c.node s).inFirst k = true)
    (ho : mpOwned s (fullId s c.j c.h (c.node s).inFirst k) = true) (he : (mpAt s (emptyId s c.j c.h (c.node s).inFirst k)).value = false)
    (src : MpSource) :
    let t := holdWork (releaseSlot (putPicture s c d) c.j c.h (c.node s).inFirst k src) c
    taskKept s t ∧ pictureAt t c = some d ∧ slotFull t c.j c.h (c.node s).inFirst k = false := by
  obtain ⟨hagree, hmem, hpic, hclear⟩ := letGo_of_full hf ho he hd fun _ => src
  generalize releaseSlot (putPicture s c d) c.j c.h (c.node s).inFirst k src = u at hagree hmem hpic hclear ⊢
  obtain ⟨v, hv, ht, hut, hslot⟩ := holdWork_keeps u c
  exact ⟨(hagree.trans hut).taskKept ((ht.mem.trans hv.mem).trans hmem),
    (pictureAt_congr (ht.decodes.trans hv.task.decodes) c).trans hpic, hslot _ _ _ _ hclear⟩

end Sys2Proof.Machine
end

section
/-! What TOKENISE and PACK issue, and the batches of a ring meanwhile (spec/08 R198 to R206, R210). -/

namespace Sys2Proof.Machine

variable {s t u v : State} {c : Cand} {e : Entry} {b : List Cand} {p : Fin 100}

/-! ## Steps on batches -/

/-- The state with everything blanked that closing batches and reporting stops may change. -/
def batchFrame (s : State) : State :=
  { s with regs := State.reset.regs, mem := State.reset.mem, sqs := [], cqs := [], arb := State.reset.arb }

/-- The assembly of ring record `b` has the slot, the units placed and removed, and the batches of `a`. -/
structure AssemblyKept (a b : Sq) : Prop where
  slot : b.asm.slot = a.asm.slot
  placed : b.asm.placed = a.asm.placed
  removed : b.asm.removed = a.asm.removed
  batches : ∀ x ∈ a.asm.openB :: a.asm.closed, ∃ y ∈ b.asm.openB :: b.asm.closed, y.number = x.number ∧ y.units = x.units

theorem AssemblyKept.of_eq {a b : Sq} (h : b.asm = a.asm) : AssemblyKept a b :=
  ⟨by rw [h], by rw [h], by rw [h], fun x hx => ⟨x, h ▸ hx, rfl, rfl⟩⟩

theorem AssemblyKept.trans {a b d : Sq} (h : AssemblyKept a b) (h' : AssemblyKept b d) : AssemblyKept a d where
  slot := h'.slot.trans h.slot
  placed := h'.placed.trans h.placed
  removed := h'.removed.trans h.removed
  batches x hx := by
    obtain ⟨y, hy, hnum, hunits⟩ := h.batches x hx
    obtain ⟨z, hz, hnum', hunits'⟩ := h'.batches y hy
    exact ⟨z, hz, hnum'.trans hnum, hunits'.trans hunits⟩

/-- A step on batches: they may close and stops may be reported, but no unit is lost (R206, R211). -/
structure BatchStep (s t : State) : Prop where
  frame : batchFrame t = batchFrame s
  rings : ∀ n, AssemblyKept (sqAt s n) (sqAt t n)

theorem BatchStep.trans (h : BatchStep s t) (h' : BatchStep t u) : BatchStep s u :=
  ⟨h'.frame.trans h.frame, fun n => (h.rings n).trans (h'.rings n)⟩

theorem BatchStep.of_sqs (hf : batchFrame t = batchFrame s) (h : t.sqs = s.sqs) : BatchStep s t :=
  ⟨hf, fun n => .of_eq (by rw [sqAt, h]; rfl)⟩

theorem BatchStep.refl (s : State) : BatchStep s s := .of_sqs rfl rfl

theorem BatchStep.agree (h : BatchStep s t) : Agree s t where
  nextOp := congrArg (·.nextOp) h.frame
  ops := congrArg (·.ops) h.frame
  marrow := congrArg (·.marrow) h.frame
  pods := congrArg (·.pods) h.frame
  gates := congrArg (·.gates) h.frame
  itg := congrArg (·.itg) h.frame

theorem BatchStep.jobs (h : BatchStep s t) : t.jobs = s.jobs := congrArg (·.jobs) h.frame

theorem batchStep_modSq (s : State) (n : Nat) {f : Sq → Sq} (hf : AssemblyKept (sqAt s n) (f (sqAt s n))) :
    BatchStep s (modSq s n f) where
  frame := rfl
  rings m := by
    rw [sqAt_modSq]
    split
    · next hm => rw [hm]; exact hf
    · exact .of_eq rfl

theorem batchStep_latchRange (s : State) (p lo hi : Nat) : BatchStep s (latchRange s p lo hi) := .of_sqs rfl rfl

theorem batchStep_latchPage (s : State) (p : Nat) : BatchStep s (latchPage s p) := batchStep_latchRange ..

theorem batchStep_askPool (s : State) (k : Nat) (x : PoolUser) : BatchStep s (askPool s k x) := .of_sqs rfl rfl

theorem batchStep_batchBoundary (s : State) (n : Nat) : BatchStep s (batchBoundary s n) := by
  have hlatch (u : State) (k : Nat) (a : Prop) [Decidable a] : BatchStep u (if a then latchPage u k else u) := by
    split
    · exact batchStep_latchPage ..
    · exact .refl u
  exact ((hlatch s ..).trans ((hlatch _ ..).trans (hlatch _ ..))).trans (batchStep_latchRange ..)

/-- A batch that closes keeps its number and units (R206). -/
theorem batchStep_closeBatch (s : State) (n code : Nat) : BatchStep s (closeBatch s n code) := by
  simp only [closeBatch]
  split
  · exact .refl s
  · refine (batchStep_modSq s n ⟨rfl, rfl, rfl, fun x hx => ?_⟩).trans ((batchStep_batchBoundary ..).trans (batchStep_askPool ..))
    rcases List.mem_cons.1 hx with rfl | hx
    · exact ⟨_, List.mem_cons_of_mem _ (List.mem_append_right _ List.mem_cons_self), rfl, rfl⟩
    · exact ⟨x, List.mem_cons_of_mem _ (List.mem_append_left _ hx), rfl, rfl⟩

theorem batchStep_arbSettle (s : State) : BatchStep s (arbSettle s) := by
  rw [arbSettle_eq]
  exact .of_sqs rfl rfl

theorem batchStep_addDue (s : State) (d : Due) : BatchStep s (addDue s d) := by
  unfold addDue
  split
  · exact .of_sqs rfl rfl
  · exact BatchStep.trans (t := modCq s (sqCq s d.sq) fun q => { q with due := q.due ++ [d] }) (.of_sqs rfl rfl)
      (batchStep_arbSettle _)

theorem batchStep_bump32 (s : State) (p o n : Nat) : BatchStep s (bump32 s p o n) := by
  unfold bump32
  split
  · exact .refl s
  · exact .of_sqs rfl rfl

theorem batchStep_stopSettle (s : State) (n : Nat) : BatchStep s (stopSettle s n) := by
  unfold stopSettle
  split
  · exact .refl s
  · split
    · exact .refl s
    · exact (batchStep_addDue ..).trans ((batchStep_modSq _ n (.of_eq rfl)).trans ((batchStep_arbSettle _).trans
        (batchStep_bump32 ..)))

theorem batchStep_fenceClose (s : State) (n : Nat) : BatchStep s (fenceClose s n) := by
  unfold fenceClose
  split
  · split
    · exact batchStep_stopSettle ..
    · exact (batchStep_closeBatch ..).trans (batchStep_stopSettle ..)
  · exact batchStep_stopSettle ..

end Sys2Proof.Machine
end

section
/-! What TOKENISE issues (spec/08 R198 to R202). -/

namespace Sys2Proof.Machine

variable {s t u v : State} {c : Cand} {e : Entry} {b : List Cand} {p : Fin 100}

/-- Whether the records `rs` have one size and output type (R199). -/
def sameShape (rs : List (List Byte)) : Prop :=
  ∀ r ∈ rs, (shapedInfo r).w = (shapedInfo (rs.headD [])).w ∧ (shapedInfo r).h = (shapedInfo (rs.headD [])).h ∧
    (shapedInfo r).otype = (shapedInfo (rs.headD [])).otype

/-- What an operation on a complete group of records `rs` leaves (R201, R202). -/
def groupIssued (s : State) (c : Cand) (last : Entry) (rs : List (List Byte)) (again : Bool) (outs : List (Nat × Nat)) (t : State) : Prop :=
  issued s t { c with outs := outs } c.tile
    (tokenTiles (tokenCount (c.block s) (shapedInfo (rs.headD []))) (tokenElems (c.block s) (shapedInfo (rs.headD []))))
    (tokenWrites s c outs last [c.j, c.rank] rs again) ∧ t.mem = s.mem

theorem releaseGroup_agree (s : State) (c : Cand) (ranks : List Nat) :
    Agree s (releaseGroup s c ranks) ∧ (releaseGroup s c ranks).mem = s.mem := by
  refine List.foldlRecOn (motive := fun t => Agree s t ∧ t.mem = s.mem) ranks _ ⟨.refl s, rfl⟩ fun t ht r _ => ?_
  split
  · exact ⟨ht.1.trans ⟨rfl, rfl, rfl, rfl, rfl, rfl⟩, ht.2⟩
  · exact ht

/-- The next operation on a complete group (R201, R202). -/
theorem groupOp_issues (h : Quiet s) {last : Entry} (ranks : List Nat) {rs : List (List Byte)} (again : Bool) (hsame : sameShape rs)
    {outs : List (Nat × Nat)} (houts : (if c.tile = 0 then nextSlots s c else some c.outs) = some outs) :
    ∃ t, groupOp s c last ranks rs again = some t ∧ groupIssued s c last rs again outs t := by
  have hdiffer : (rs.any fun r => decide ((shapedInfo r).w ≠ (shapedInfo (rs.headD [])).w) ||
      decide ((shapedInfo r).h ≠ (shapedInfo (rs.headD [])).h) || decide ((shapedInfo r).otype ≠ (shapedInfo (rs.headD [])).otype)) = false :=
    List.any_eq_false.2 fun r hr => by simp [hsame r hr]
  unfold groupOp
  extract_lets q i differ all total slots s₁ released s₂
  have hdiffer : differ = false := hdiffer
  have houts : slots = some outs := houts
  simp -zeta only [hdiffer, houts, Bool.false_eq_true, if_false]
  extract_lets c' ws
  refine ⟨_, rfl, ?_⟩
  have h₁ : Agree s s₁ ∧ s₁.mem = s.mem := by
    simp only [s₁]
    split
    · exact ⟨⟨rfl, rfl, rfl, rfl, rfl, rfl⟩, rfl⟩
    · exact ⟨.refl s, rfl⟩
  have h₂ : Agree s₁ s₂ ∧ s₂.mem = s₁.mem := by
    simp only [s₂]
    split
    · exact ⟨.refl _, rfl⟩
    · obtain ⟨hg, hmem⟩ := releaseGroup_agree s₁ c (ranks.filter (· ≠ c.rank))
      exact ⟨hg.trans ⟨rfl, rfl, rfl, rfl, rfl, rfl⟩, hmem⟩
  have hw := issueWrites_writesOut h (h₁.1.trans h₂.1) c' total ws keepsWork_id
  exact ⟨hw.issued, hw.step.mem.trans (h₂.2.trans h₁.2)⟩

/-- The record that a TOKENISE operation reads: the bytes of its input slot (R198). -/
def shapedRecord (s : State) (c : Cand) : List Byte :=
  let x := edgeOf s c.j (c.node s).inFirst
  (List.range (slotBytes x)).map fun i => s.marrow.byte (mkey (c.home s) (slotAddr x (slotIn c (c.node s).inFirst) + i))

/-- What a TOKENISE operation does with a shaped picture whose size its tubelets divide (R198, R199). -/
theorem tokeniseOp_picture (h : Unmarked s) (htok : (c.node s).isTokenise = true) (he : c.entry s = some e)
    (hon : c.fresh = true → enabled s 0x00A = true) (hop : e.opcode = 1 ∨ e.opcode = 2) (hopen : earlierOpen s c e = false)
    (hw : (shapedInfo (shapedRecord s c)).w % max 1 (fieldLe (c.block s) 0 1) = 0)
    (hh : (shapedInfo (shapedRecord s c)).h % max 1 (fieldLe (c.block s) 0 1) = 0) :
    tokeniseOp s c = if e.opcode = 1 then
        groupOp s c e [] (List.replicate (max 1 (fieldLe (c.block s) 1 1)) (shapedRecord s c)) false
      else if (groupOf s c e.body.stream.toNat).length + 1 < max 1 (fieldLe (c.block s) 1 1) then
        some (joinGroup s c e (shapedRecord s c))
      else groupOp s c e (groupOf s c e.body.stream.toNat)
        (groupRecords s c (groupOf s c e.body.stream.toNat) ++ [shapedRecord s c]) false := by
  have hend : ¬e.opcode = 3 := by omega
  have hen : ¬(c.fresh = true ∧ enabled s 0x00A = false) := fun ⟨hf, hn⟩ => by simp [hon hf] at hn
  unfold tokeniseOp
  rw [if_neg (by simp [htok]), he]
  simp only [if_neg hend]
  unfold tokenisePicture
  rw [if_neg hen, if_neg (by simp [hopen])]
  simp only [Rd.bytes_unmarked h]
  exact (if_neg Bool.false_ne_true).trans ((if_neg Bool.false_ne_true).trans (if_neg fun hn => hn.elim (· hw) (· hh)))

/-- What a TOKENISE operation does when `END_STREAM` completes a group (R199). -/
theorem tokeniseOp_end (htok : (c.node s).isTokenise = true) (he : c.entry s = some e) (hon : c.fresh = true → enabled s 0x00A = true)
    (hop : e.opcode = 3) {r : Nat} (hr : (groupOf s c e.body.stream.toNat).getLast? = some r) {y : Entry}
    (hy : entryRank s c.j r = some y) :
    tokeniseOp s c = groupOp s c y (groupOf s c e.body.stream.toNat) (groupRecords s c (groupOf s c e.body.stream.toNat) ++
      List.replicate (max 1 (fieldLe (c.block s) 1 1) - (groupOf s c e.body.stream.toNat).length)
        ((groupRecords s c (groupOf s c e.body.stream.toNat)).getLastD [])) true := by
  have hen : ¬(c.fresh = true ∧ enabled s 0x00A = false) := fun ⟨hf, hn⟩ => by simp [hon hf] at hn
  have hlen : (groupRecords s c (groupOf s c e.body.stream.toNat)).length = (groupOf s c e.body.stream.toNat).length :=
    List.length_map ..
  unfold tokeniseOp
  rw [if_neg (by simp [htok]), he]
  simp only [if_pos hop]
  unfold tokeniseEnd
  simp only [if_neg hen, hr, Option.bind_some, hy, hlen]

theorem rank_of_entry (he : c.entry s = some e) : e.rank = c.rank :=
  (of_decide_eq_true (List.find?_some (p := fun e : Entry => decide (e.job = c.j ∧ e.rank = c.rank)) he)).2

theorem putPicture_jobs (s : State) (c : Cand) (d : DecodeJob) : (putPicture s c d).jobs = s.jobs := by
  rw [putPicture_eq]

/-- A picture that joins its group: an operation without output, which its verdict retires (R199, R205). -/
theorem joinGroup_issues (h : Quiet s) (he : c.entry s = some e) (bs : List Byte) :
    let t := joinGroup s c e bs
    (nodeAt t c.j c.h c.n).group = (nodeAt s c.j c.h c.n).group ++ [c.rank] ∧ c.rank ∈ (sqAt t e.sq).asm.removed ∧
      (∃ o, opAt t s.nextOp = some o ∧ o.pod = c.p ∧ o.rank = c.rank ∧ o.lines = [] ∧ o.last = true) ∧
      t.marrow = s.marrow ∧ t.pods = s.pods := by
  unfold joinGroup
  extract_lets _ _ s₁ s₂ t
  have h₁ : Agree s s₁ := agree_putPicture ..
  have h₂ : Agree s s₂ := h₁.trans ⟨rfl, rfl, rfl, rfl, rfl, rfl⟩
  have hnode : nodeAt s₁ c.j c.h c.n = nodeAt s c.j c.h c.n :=
    nodeAt_of_nodes (congrArg Job.nodes (job_congr (putPicture_jobs ..) _)) ..
  have hgroup : (nodeAt s₂ c.j c.h c.n).group = (nodeAt s c.j c.h c.n).group ++ [c.rank] := by
    rw [← hnode]
    exact congrArg NodeSt.group (nodeAt_modNode s₁ c.j c.h c.n fun t => { t with group := t.group ++ [c.rank] })
  have hremoved : c.rank ∈ (sqAt s₂ e.sq).asm.removed := by
    rw [show sqAt s₂ e.sq = _ from (sqAt_modSq ..).trans (if_pos rfl), ← rank_of_entry he]
    exact (mem_nins ..).2 (.inl rfl)
  have hi := issue_issues (h₂.quiet h).roll c 1 id
  have hb : BatchStep (issue s₂ c 1 id) t := batchStep_fenceClose ..
  clear_value t
  have hop := opAt_append (h₂.quiet h).free hi.ops rfl
  generalize issue s₂ c 1 id = v at hi hb hop
  have hlast : decide (c.tile + 1 ≥ 1) = true := decide_eq_true (Nat.le_add_left 1 c.tile)
  refine ⟨?_, ?_, ⟨candOp s₂ c (decide (c.tile + 1 ≥ 1)), ?_, rfl, rfl, rfl, hlast⟩, ?_, ?_⟩
  · rw [nodeAt_of_nodes (congrArg Job.nodes (job_congr hb.jobs _)), hi.node]
    exact hgroup
  · rw [(hb.rings e.sq).removed, show sqAt v e.sq = sqAt s₂ e.sq by rw [sqAt, hi.step.sqs]; rfl]
    exact hremoved
  · rw [← h₂.nextOp]
    exact (congrArg (List.find? _) hb.agree.ops).trans hop
  · rw [hb.agree.marrow, hi.marrow, h₂.marrow]
  · rw [hb.agree.pods, hi.step.pods, h₂.pods]

end Sys2Proof.Machine
end

section
/-! What PACK issues (spec/08 R203 to R206, R210). -/

namespace Sys2Proof.Machine

variable {s t u v : State} {c : Cand} {e : Entry} {b : List Cand} {p : Fin 100}

theorem packSource_fst (h : Unmarked s) (c : Cand) : (packSource s c).1 = Rd.start s := by
  simp only [packSource]
  split
  · simp only [Rd.bytes_fst h]
  · simp only [Rd.bytes_fst h]

theorem works_modNode (s : State) (j m n n' : Nat) {f : NodeSt → NodeSt} (hf : ∀ x, (f x).works = x.works) :
    (nodeAt (modNode s j m n f) j m n').works = (nodeAt s j m n').works := by
  unfold nodeAt modNode
  rw [job_modJob_self]
  by_cases hk : m * 1024 + n' = m * 1024 + n
  · rw [hk]
    exact (congrArg NodeSt.works (sgetD_supd_self ..)).trans (hf _)
  · exact congrArg NodeSt.works (sgetD_supd_ne _ _ _ _ hk)

theorem issued_of_agree {num total : Nat} {ws : List WByte} (h : issued s t c num total ws) (ha : Agree t v)
    (hw : (nodeAt v c.j c.h c.n).works = (nodeAt t c.j c.h c.n).works) : issued s v c num total ws :=
  issued_keep h ha.nextOp.ge ha.ops ha.marrow hw ha.pods ha.gates

theorem works_of_jobs (h : t.jobs = s.jobs) (j m n : Nat) : (nodeAt t j m n).works = (nodeAt s j m n).works :=
  congrArg NodeSt.works (nodeAt_of_nodes (congrArg Job.nodes (job_congr h j)) m n)

/-! ## Placing a unit -/

/-- Whether a batch of ring record `q` has number `k` and units `us`. -/
def hasBatch (q : Sq) (k : Nat) (us : List BatchUnit) : Prop :=
  ∃ x ∈ q.asm.openB :: q.asm.closed, x.number = k ∧ x.units = us

theorem AssemblyKept.hasBatch {a b : Sq} (h : AssemblyKept a b) {k : Nat} {us : List BatchUnit} (hb : hasBatch a k us) :
    Machine.hasBatch b k us := by
  obtain ⟨x, hx, hnum, hunits⟩ := hb
  obtain ⟨y, hy, hnum', hunits'⟩ := h.batches x hx
  exact ⟨y, hy, hnum'.trans hnum, hunits'.trans hunits⟩

/-- The unit joins the units of the open batch, which may close (R206). -/
theorem placeUnit_places (s : State) (n : Nat) (q : List Byte) (x : BatchUnit) :
    Agree s (placeUnit s n q x) ∧ (placeUnit s n q x).jobs = s.jobs ∧
      (sqAt (placeUnit s n q x) n).asm.slot = (sqAt s n).asm.slot ∧
      hasBatch (sqAt (placeUnit s n q x) n) (sqAt s n).asm.openB.number ((sqAt s n).asm.openB.units ++ [x]) := by
  unfold placeUnit
  extract_lets s'
  have hsq : sqAt s' n = _ := (sqAt_modSq ..).trans (if_pos rfl)
  have ha : Agree s s' := ⟨rfl, rfl, rfl, rfl, rfl, rfl⟩
  have hj : s'.jobs = s.jobs := rfl
  clear_value s'
  have hb : BatchStep s' (if (sqAt s' n).asm.openB.units.length = fieldLe q 4 2 then closeBatch s' n 1 else s') := by
    split
    · exact batchStep_closeBatch ..
    · exact .refl s'
  refine ⟨ha.trans hb.agree, hb.jobs.trans hj, ?_, (hb.rings n).hasBatch ⟨_, List.mem_cons_self, ?_, ?_⟩⟩
  · rw [(hb.rings n).slot, hsq]
  · rw [hsq]
  · rw [hsq]

/-- The end of a unit's last operation: it is placed, and node `feed` keeps no group for it any more (R205, R206). -/
def unitPlaced (s : State) (c : Cand) (n : Nat) (q : List Byte) (x : BatchUnit) (ranks : List Nat) (feed : Nat) : State :=
  let s₁ := placeUnit s n q x
  let s₂ := modSq s₁ n fun y => { y with asm := { y.asm with placed := (c.rank :: ranks).foldl nins y.asm.placed } }
  let s₃ := modNode s₂ c.j c.h feed fun t => { t with units := sdel t.units c.rank }
  fenceClose s₃ n

theorem unitPlaced_spec (s : State) (c : Cand) (n : Nat) (q : List Byte) (x : BatchUnit) (ranks : List Nat) (feed : Nat) :
    let t := unitPlaced s c n q x ranks feed
    Agree s t ∧ (nodeAt t c.j c.h c.n).works = (nodeAt s c.j c.h c.n).works ∧ (sqAt t n).asm.slot = (sqAt s n).asm.slot ∧
      c.rank ∈ (sqAt t n).asm.placed ∧ hasBatch (sqAt t n) (sqAt s n).asm.openB.number ((sqAt s n).asm.openB.units ++ [x]) := by
  unfold unitPlaced
  obtain ⟨ha, hj, hslot, hbatch⟩ := placeUnit_places s n q x
  generalize placeUnit s n q x = s₁ at ha hj hslot hbatch
  extract_lets _ s₂ s₃ t
  have hsq : sqAt s₂ n = _ := (sqAt_modSq s₁ n n _).trans (if_pos rfl)
  have hsq : sqAt s₃ n = _ := hsq
  have hworks : (nodeAt s₃ c.j c.h c.n).works = (nodeAt s₂ c.j c.h c.n).works := 
    works_modNode s₂ c.j c.h feed c.n (f := fun t => { t with units := sdel t.units c.rank }) fun _ => rfl
  have h₃ : Agree s s₃ := ha.trans ⟨rfl, rfl, rfl, rfl, rfl, rfl⟩
  have hworks : (nodeAt s₃ c.j c.h c.n).works = (nodeAt s c.j c.h c.n).works := hworks.trans (works_of_jobs hj ..)
  have hb : BatchStep s₃ t := batchStep_fenceClose ..
  clear_value t
  clear_value s₃
  refine ⟨h₃.trans hb.agree, (works_of_jobs hb.jobs ..).trans hworks, ?_, ?_, (hb.rings n).hasBatch ?_⟩
  · rw [(hb.rings n).slot, hsq]
    exact hslot
  · rw [(hb.rings n).placed, hsq]
    exact (mem_foldl_nset (c.rank :: ranks) _ c.rank).2 (.inr List.mem_cons_self)
  · rw [hsq]
    exact hbatch

/-! ## PACK -/

/-- A PACK operation that copies its segments (R204, R210). -/
def unitCopied (s : State) (c : Cand) (n total : Nat) (x : BatchUnit) (toks : List Byte) : State :=
  let v := modSq s n fun y => { y with asm := { y.asm with slot := packSlot s c n } }
  draw (issueWrites v c total (packWrites v c n x toks (decide (c.tile + 1 ≥ total))) [])

theorem packOp_eq (h : Unmarked s) (he : c.entry s = some e) (hon : c.fresh = true → enabled s 0x00A = true)
    (hmay : packMay s c e = true) (hfits : fieldLe (packSource s c).2.1 0x3C 4 ≤ fieldLe (c.block s) 0 2)
    (hplace : (unitPlace s e.sq (c.block s) (fieldLe (packSource s c).2.1 0x3C 4)).2.2 = true → c.tile ≠ 0) :
    let total := tokenTiles (fieldLe (packSource s c).2.1 0x3C 4) (packElems (c.route s) (c.node s)).1
    let x := packUnit s c e.sq (packSource s c).2.1
    let t := unitCopied s c e.sq total x (packTokens s c (packSource s c).2.1 (packSource s c).2.2)
    packOp s c = some (if decide (c.tile + 1 ≥ total) = true then
      unitPlaced t c e.sq (c.block s) x (packRanks s c) ((packFeed s c.j).getD 0) else t) := by
  have hsrc := packSource_fst h c
  have hen : ¬(c.fresh = true ∧ enabled s 0x00A = false) := fun ⟨hf, hn⟩ => by simp [hon hf] at hn
  have hfull : ¬((unitPlace s e.sq (c.block s) (fieldLe (packSource s c).2.1 0x3C 4)).2.2 = true ∧ c.tile = 0) :=
    fun ⟨hf, hz⟩ => hplace hf hz
  have hst : (packSource s c).1.st = s := by rw [hsrc]; rfl
  have hhit : (packSource s c).1.hit = false := by rw [hsrc]; rfl
  have hpois : (packSource s c).1.pois = false := by rw [hsrc]; rfl
  intro total x t
  unfold packOp
  simp only [he, hst]
  rw [if_neg hen, if_neg (by simp [hmay]), if_neg (by simp [hhit]), if_neg (by simp [hpois]), if_neg (Nat.not_lt.2 hfits), if_neg hfull]
  exact (apply_ite some _ _ _).symm

theorem unitCopied_issues (h : Quiet s) (c : Cand) (n total : Nat) (x : BatchUnit) (toks : List Byte) :
    let v := modSq s n fun y => { y with asm := { y.asm with slot := packSlot s c n } }
    issued s (unitCopied s c n total x toks) c c.tile total (packWrites v c n x toks (decide (c.tile + 1 ≥ total))) ∧
      sqAt (unitCopied s c n total x toks) n = sqAt v n := by
  intro v
  have hw := issueWrites_writesOut h (u := v) ⟨rfl, rfl, rfl, rfl, rfl, rfl⟩ c total (packWrites v c n x toks (decide (c.tile + 1 ≥ total)))
    keepsWork_id
  refine ⟨issued_of_agree hw.issued ⟨rfl, rfl, rfl, rfl, rfl, rfl⟩ rfl, ?_⟩
  have hsqs : (unitCopied s c n total x toks).sqs = v.sqs := hw.step.sqs
  rw [sqAt, hsqs]
  rfl

/-- What an operation on a unit leaves: its segments copied, and with the last of them the unit in its batch (R204, R206, R210). -/
structure UnitIssued (s : State) (c : Cand) (n total : Nat) (x : BatchUnit) (toks : List Byte) (t : State) : Prop where
  issued : issued s t c c.tile total (packWrites (modSq s n fun y => { y with asm := { y.asm with slot := packSlot s c n } }) c n x toks
    (decide (c.tile + 1 ≥ total)))
  slot : (sqAt t n).asm.slot = packSlot s c n
  last : total ≤ c.tile + 1 → c.rank ∈ (sqAt t n).asm.placed ∧
    hasBatch (sqAt t n) (sqAt s n).asm.openB.number ((sqAt s n).asm.openB.units ++ [x])

theorem packStep_issues (h : Quiet s) (c : Cand) (n total : Nat) (x : BatchUnit) (toks : List Byte) (q : List Byte) (ranks : List Nat)
    (feed : Nat) : UnitIssued s c n total x toks (if decide (c.tile + 1 ≥ total) = true then
      unitPlaced (unitCopied s c n total x toks) c n q x ranks feed else unitCopied s c n total x toks) := by
  obtain ⟨hissued, hsq⟩ := unitCopied_issues h c n total x toks
  have hsq : sqAt (unitCopied s c n total x toks) n = _ := hsq.trans ((sqAt_modSq ..).trans (if_pos rfl))
  generalize unitCopied s c n total x toks = t at hissued hsq ⊢
  split
  · obtain ⟨ha, hworks, hslot, hplaced, hbatch⟩ := unitPlaced_spec t c n q x ranks feed
    rw [hsq] at hslot hbatch
    exact ⟨issued_of_agree hissued ha hworks, hslot, fun _ => ⟨hplaced, hbatch⟩⟩
  · next hmore => exact ⟨hissued, by rw [hsq], fun hl => absurd (decide_eq_true hl) hmore⟩

end Sys2Proof.Machine
end

section
/-! Every station issues the first operation that can issue (spec/02 R51). -/

namespace Sys2Proof.Machine

variable {s t u v : State} {c : Cand} {e : Entry} {b : List Cand} {p : Fin 100}

theorem doTransfer_eq (h : refetch s p.val = none) : exec (.transferTileOp p) s = .next (tryAll s transferOp (candidates s p 9)) := by
  change Host.Outcome.next (doTransfer s p.val) = _
  unfold doTransfer
  rw [h]
  rfl

/-- Every station runs the first operation of its ready set that can issue (R51). -/
theorem stations_firstIssue (s : State) (p : Fin 100) (cmd : Instr) (l : List Cand) (f : State → Cand → Option State)
    (h : (cmd, l, f) ∈ ([(.ingestTileOp p, candidates s p 0, ingestOp), (.decodeTileOp p, candidates s p 1, decodeOp),
      (.motionTileOp p, candidates s p 2, motionOp), (.shapeTileOp p, candidates s p 3, shapeOp),
      (.layoutTileOp p, candidates s p 4, layoutOp),
      (.tokeniseTileOp p, sortBy (candidates s p 4 ++ endCands s p) candBefore, tokeniseOp),
      (.packTileOp p, packCands s p, packOp), (.matrixTileOp p, candidates s p 5, matrixOp),
      (.vectorTileOp p, candidates s p 6, vectorOp), (.sampleTileOp p, candidates s p 7, sampleOp),
      (.digestTileOp p, furlongCands s p ++ (candidates s p 8).filter (fun c => (c.node s).opcode = 2), digestOp),
      (.emitTileOp p, candidates s p 10, emitOp)] : List (Instr × List Cand × (State → Cand → Option State))) ∨
      (refetch s p = none ∧ cmd = .transferTileOp p ∧ l = candidates s p 9 ∧ f = transferOp)) : firstIssues s cmd l f := by
  apply firstIssues_of_exec
  rcases h with h | ⟨hr, rfl, rfl, rfl⟩
  · simp only [List.mem_cons, Prod.mk.injEq, List.not_mem_nil, or_false] at h
    rcases h with ⟨rfl, rfl, rfl⟩ | ⟨rfl, rfl, rfl⟩ | ⟨rfl, rfl, rfl⟩ | ⟨rfl, rfl, rfl⟩ | ⟨rfl, rfl, rfl⟩ | ⟨rfl, rfl, rfl⟩ |
      ⟨rfl, rfl, rfl⟩ | ⟨rfl, rfl, rfl⟩ | ⟨rfl, rfl, rfl⟩ | ⟨rfl, rfl, rfl⟩ | ⟨rfl, rfl, rfl⟩ | ⟨rfl, rfl, rfl⟩ <;> rfl
  · exact doTransfer_eq hr

/-! ## One station at a time -/

/-- DECODE issues the next operation of a picture under way whose partition falls to the Pod (R107, R109, R110). -/
theorem decode_issuesBand (h : Quiet s) (hc : candidates s p 1 = c :: b) (he : c.entry s = some e) {d : DecodeJob}
    (hd : pictureAt s c = some d) (hworks : d.works ≠ []) {i : Nat}
    (hi : d.left.find? (fun i => (d.plan[i]?).any fun x => x.part % min (max 1 (jobP s c.j)) (spanWidth (c.node s)) =
      ((podAt s c.p).member + max 1 (jobP s c.j) - c.h) % max 1 (jobP s c.j)) = some i) {x : PlanOp} (hx : d.plan[i]? = some x)
    {w : PicWork} (hw : d.works[x.pic]? = some w) (hready : planReady s c d x = true) (hpois : d.poisoned = false)
    {slots : List (List (Nat × Nat))} (hslots : (if some x.pic = d.shown then bandSlots s c x.ends.length else some []) = some slots) :
    Becomes (.decodeTileOp p) s (fun t =>
      issued s t { c with tile := d.plan.length - d.left.length } i d.plan.length (bandBytesOut s c d x w slots) ∧
      t.entries = s.entries ∧ (pictureAt t c).map (·.left) = some (ndel d.left i) ∧
      ∃ o, opAt t s.nextOp = some o ∧ o.outs = slots.flatten ∧ (o.awaiting = 0 ∨ (moveAt t (s.nextOp + 1)).isSome = true)) := by
  obtain ⟨t, ht, hP⟩ := bandOp_issues h (i := i) (w := w) hd hpois hslots
  exact becomes_of_first hc rfl ((decodeOp_nextBand he hd hworks hi hx hw hready).trans ht) hP

theorem motion_issues (h : Quiet s) (hc : candidates s p 2 = c :: b) {k : FieldOp} (hk : isPicture c k.d)
    (hop : motionOp s c = some (fieldOp s c k)) : Becomes (.motionTileOp p) s (fieldIssued s c k) :=
  becomes_of_first hc rfl hop (fieldOp_issues h hk)

/-- MOTION issues the first operation of the band that it takes in (R144). -/
theorem motion_issuesBand (h : Quiet s) (hc : candidates s p 2 = c :: b) (he : c.entry s = some e)
    (hleft : ((pictureAt s c).getD (collectJob c)).left = [])
    (hlen : (((pictureAt s c).getD (collectJob c)).bands.map (bandTiles (c.block s) e)).sum ≤
      ((pictureAt s c).getD (collectJob c)).plan.length)
    (hm : ofMember s c ((pictureAt s c).getD (collectJob c)).bands.length) (hbefore : c.fresh = true → fieldsBefore s c e = true)
    {r : Rd × DecodeJob × Nat} (hr : takeBand s c ((pictureAt s c).getD (collectJob c)) = some r)
    (hneeds : c.fresh = true → needsMref s e r.2.1.pic = false) :
    Becomes (.motionTileOp p) s (fieldIssued s c
      ⟨e, if c.fresh then { r.2.1 with ref := searchRef (fieldStream s e) r.2.1.pic } else r.2.1,
        ((pictureAt s c).getD (collectJob c)).plan.length, ((pictureAt s c).getD (collectJob c)).bands.length, r.2.2, 0⟩) := by
  obtain ⟨-, hpic, -⟩ := takeBand_unmarked h.unmarked hr
  have hd := hpic (isPicture_getD s c)
  refine motion_issues h hc ?_ (motionOp_band h.unmarked he hleft hlen hm hbefore hr hneeds)
  simp only
  split
  · exact hd
  · exact hd

/-- SHAPE issues the next operation of a picture that is taken in (R147, R165). -/
theorem shape_computes (h : Quiet s) (hc : candidates s p 3 = c :: b) (he : c.entry s = some e)
    (hwhole : ((pictureAt s c).getD (collectJob c)).whole = true) {r : ShapeRec × Nat}
    (hr : resolveShape s c e ((pictureAt s c).getD (collectJob c)).pic = .ok r) {cut : Nat × Nat}
    (hcut : (shapeCuts ((pictureAt s c).getD (collectJob c)).pic r.1 (decide (1 < spanWidth (c.node s))))[c.tile]? = some cut)
    (hm : ofMember s c (cut.1 / max 1 (64 * r.1.outW))) :
    Becomes (.shapeTileOp p) s (computed s · c
      (shapeCuts ((pictureAt s c).getD (collectJob c)).pic r.1 (decide (1 < spanWidth (c.node s)))).length
      (shapeWrites s c e ((pictureAt s c).getD (collectJob c)) r.1 r.2 cut)) := by
  obtain ⟨t, ht, hP⟩ := shapeTile_computes (e := e) h ((pictureAt s c).getD (collectJob c)) r.1 r.2 hcut hm
  refine becomes_of_first hc rfl ?_ hP
  unfold shapeOp
  simp only [he, hwhole, if_true, hr, ht]

/-- SHAPE takes the next band of a picture in on span member 0, and lets its slot go (R147). -/
theorem shape_takesBand (h : Quiet s) (hc : candidates s p 3 = c :: b) (he : c.entry s = some e)
    (hwhole : ((pictureAt s c).getD (collectJob c)).whole = false) (hlead : (podAt s c.p).member = c.h)
    (hon : c.fresh = true → enabled s 9 = true) {r : Rd × DecodeJob × Nat}
    (hr : takeBand s c ((pictureAt s c).getD (collectJob c)) = some r) {q : ShapeRec × Nat} (hq : resolveShape s c e r.2.1.pic = .ok q)
    (ho : mpOwned s (fullId s c.j c.h (c.node s).inFirst r.2.2) = true)
    (hempty : (mpAt s (emptyId s c.j c.h (c.node s).inFirst r.2.2)).value = false) :
    Becomes (.shapeTileOp p) s (fun t =>
      taskKept s t ∧ pictureAt t c = some r.2.1 ∧ slotFull t c.j c.h (c.node s).inFirst r.2.2 = false) := by
  obtain ⟨-, hpic, hfull⟩ := takeBand_unmarked h.unmarked hr
  exact becomes_of_first hc rfl (shapeOp_band h.unmarked he hwhole hlead hon hr hq)
    (holdWork_takesBand (hpic (isPicture_getD s c)) hfull ho hempty _)

/-- TOKENISE issues the next operation of a complete group (R199, R201, R202). -/
theorem tokenise_issues (h : Quiet s) (hc : sortBy (candidates s p 4 ++ endCands s p) candBefore = c :: b) {last : Entry}
    {ranks : List Nat} {rs : List (List Byte)} {again : Bool} (hop : tokeniseOp s c = groupOp s c last ranks rs again) (hsame : sameShape rs)
    {outs : List (Nat × Nat)} (houts : (if c.tile = 0 then nextSlots s c else some c.outs) = some outs) :
    Becomes (.tokeniseTileOp p) s (groupIssued s c last rs again outs) := by
  obtain ⟨t, ht, hP⟩ := groupOp_issues h (last := last) ranks again hsame houts
  exact becomes_of_first hc rfl (hop.trans ht) hP

/-- PACK issues the next operation of a unit that may be placed (R204, R206, R210). -/
theorem pack_issues (h : Quiet s) (hc : packCands s p = c :: b) (he : c.entry s = some e) (hon : c.fresh = true → enabled s 0x00A = true)
    (hmay : packMay s c e = true) (hfits : fieldLe (packSource s c).2.1 0x3C 4 ≤ fieldLe (c.block s) 0 2)
    (hplace : (unitPlace s e.sq (c.block s) (fieldLe (packSource s c).2.1 0x3C 4)).2.2 = true → c.tile ≠ 0) :
    Becomes (.packTileOp p) s (UnitIssued s c e.sq
      (tokenTiles (fieldLe (packSource s c).2.1 0x3C 4) (packElems (c.route s) (c.node s)).1)
      (packUnit s c e.sq (packSource s c).2.1) (packTokens s c (packSource s c).2.1 (packSource s c).2.2)) :=
  becomes_of_first hc rfl (packOp_eq h.unmarked he hon hmay hfits hplace) (packStep_issues h ..)

/-- Settles O34: a station tries its ready set in order, and what each of its operations leaves follows from what an issue, a write
of Marrow without marks and the release of a slot do. -/
theorem stationsIssueFirst : Obligations.StationsIssueFirst := by
  unfold Obligations.StationsIssueFirst
  refine ⟨stations_firstIssue, fun s p hi hcalm => ?_⟩
  have h := quiet_of_calm hi hcalm
  intro kept free at' width
  refine ⟨fun c b hc e he => ⟨?_, ?_⟩, fun c b hc e he => ⟨?_, ?_, ?_⟩, fun c b hc e he => ⟨?_, ?_⟩, ?_, ?_⟩
  case refine_1 =>
    intro hlead hnew d hworks hsrc x hx hp k hk hfree
    exact decode_takesPiece h hc he hlead hnew hworks hsrc hx hp hk hfree.1 hfree.2
  case refine_2 =>
    intro d hd hworks i hi x hx w hw hready hpois slots hslots
    exact decode_issuesBand h hc he hd hworks hi hx hw hready hpois hslots
  case refine_3 =>
    intro i hi x hx hm
    exact motion_issues h hc (isPicture_getD s c) (motionOp_again he hi hx hm)
  case refine_4 =>
    intro hleft hlen x hx hm
    exact motion_issues h hc (isPicture_getD s c) (motionOp_next he hleft hlen hx hm)
  case refine_5 =>
    intro hleft hlen hm hbefore r hr hneeds
    exact motion_issuesBand h hc he hleft hlen hm hbefore hr hneeds
  case refine_6 =>
    intro hwhole r hr cuts cut hcut hm
    exact shape_computes h hc he hwhole hr hcut hm
  case refine_7 =>
    intro hwhole hlead hon r hr q hq hfree
    exact shape_takesBand h hc he hwhole hlead hon hr hq hfree.1 hfree.2
  case refine_8 =>
    intro c b hc htok e he hon q t0 x rec' i ranks writes
    refine ⟨fun hop hopen hw hh => ?_, fun hop r hr y hy hsame outs houts => ?_⟩
    · have hpicture := tokeniseOp_picture h.unmarked htok he hon hop hopen hw hh
      refine ⟨fun h1 hsame outs houts => ?_, fun h2 hfull hsame outs houts => ?_, fun h2 hpart => ?_⟩
      · exact tokenise_issues h hc (hpicture.trans (if_pos h1)) hsame houts
      · exact tokenise_issues h hc (hpicture.trans ((if_neg (by omega)).trans (if_neg (Nat.not_lt.2 hfull)))) hsame houts
      · exact becomes_of_first hc rfl (hpicture.trans ((if_neg (by omega)).trans (if_pos hpart))) (joinGroup_issues h he _)
    · exact tokenise_issues h hc (tokeniseOp_end htok he hon hop hr hy) hsame houts
  case refine_9 =>
    intro c b hc e he hon hmay n r count total hfits hplace u v
    obtain ⟨t, ht, hissued, hslot, hlast⟩ := pack_issues h hc he hon hmay hfits hplace
    exact ⟨t, ht, hissued, hslot, hlast⟩

end Sys2Proof.Machine
end

section

/-! # Counterexamples to statements about the work rings

Three statements about rings, stop entries and paused transfers (spec/03 R78, R82, R90, spec/11 R284) fail. Each gets a state that
meets `Inv` and the hypotheses, and an evaluation of the model on it. -/

namespace Sys2Proof.Machine

/-- What a successful command leaves. -/
def leaves (c : Instr) (s : State) : Option State :=
  match exec c s with
  | .next t => some t
  | _ => none

theorem leaves_next {c : Instr} {s t : State} (h : exec c s = .next t) : leaves c s = some t := by simp [leaves, h]

/-- A block that runs, in which nothing is bound, open or under way. -/
def runningBlock : State :=
  { State.reset with blk := { State.reset.blk with st := .running, resetBy := .none } }

/-! ## Completion ring heads -/

/-- `runningBlock` with bit 17 of the stored head word of completion ring 1 set, a bit that no register format lets a write reach. -/
def strayHead : State := wrg runningBlock 0x200 0x024 0x20000

theorem strayHead_inv : Inv strayHead := ⟨by decide, rfl, rfl, rfl⟩

/-- Writing 0 to that word keeps the stray bit. -/
theorem strayHead_keeps : (leaves (.cqHeadWrite 1 0) strayHead).map (rg · (cqPage 1) 0x024) = some 0x20000 := by decide +kernel

/-- Refutes O18: a head that is stored replaces only the writable bits of its word, so a state of `Inv` whose word already holds bit
17 keeps it, and the word is not the written one cut to 17 bits. -/
theorem not_ringControls : ¬ Obligations.RingControls := by
  unfold Obligations.RingControls
  intro h
  obtain ⟨-, -, -, -, hhead⟩ := h strayHead strayHead_inv (by decide)
  obtain ⟨t, ht, hstored, -⟩ := hhead 1 0
  have hword : rg t (cqPage 1) 0x024 = 0 := hstored (.inl (by decide))
  have hkept := strayHead_keeps
  rw [leaves_next ht, Option.map_some, hword] at hkept
  exact absurd hkept (by decide)

/-! ## Stop entries -/

/-- A `SAMPLE` entry of job 0 that has stopped, in slot 0 of ring 0. -/
def stopPoint : Entry :=
  ⟨0, 0, 0, 1, ⟨1, 0, 0, 7, 4096, 64, 0, 0, 0, 0, 0, 0, 0, 0, 0⟩, 0, 0, 0, 0, .stopped, [], [], false, 0, 0, 0, [], 0, 0, 0⟩

/-- Ring 0 is stopped, and behind the stop entry stands one that was refused when it was fetched; job 0, a single `INGEST`, is at a
stage whose `TOLLGATE` counts no arrival yet. -/
def heldBack : State := { runningBlock with
  jobs := [(0, { Job.empty with
    st := .bound, members := [0], gates := [0], stage := 1,
    route := { emptyRoute with nodes := [⟨0, 1, 0, 0, 0, 0, 0, 0, 0, 0, 0xFFFF, 0, 0, 0, 0⟩], nodeCount := 1 } })]
  gates := [(0, { Gate.empty with assigned := true, parts := 1 })]
  sqs := [(0, { Sq.opened with st := .stopped })]
  entries := [stopPoint, { stopPoint with slot := 1, rank := 1, st := .suspended, refusal := 0x0312 }] }

theorem heldBack_inv : Inv heldBack := ⟨rfl, rfl, rfl, rfl⟩

theorem heldBack_meets : entryAt heldBack 0 (sqAt heldBack 0).stopSlot = some stopPoint ∧
    (∀ x ∈ heldBack.entries, x.sq = 0 → x.st = .stopped → x = stopPoint) ∧
    entryDone heldBack { stopPoint with sinks := [] } = false := by decide +kernel

/-- Ending the refused entry lets its member arrive at the gate. -/
theorem heldBack_arrives : (leaves (.retry 0) heldBack).map (·.gates) ≠ some heldBack.gates := by decide +kernel

/-- Refutes O21: a suspended entry that R67 refused ends when its ring goes on, and the arrival that this allows changes a gate,
while the statement keeps every gate over a `RETRY`. -/
theorem not_resumeActions : ¬ Obligations.ResumeActions := by
  unfold Obligations.ResumeActions
  intro h
  obtain ⟨hentry, honly, hdone⟩ := heldBack_meets
  obtain ⟨hstopped, -⟩ := h heldBack 0 stopPoint heldBack_inv (by decide)
  obtain ⟨hretry, -⟩ := hstopped (by decide) hentry rfl (by decide) honly
  obtain ⟨t, ht, -, -, -, -, -, -, -, hgates⟩ := hretry hdone (by decide)
  exact heldBack_arrives (by rw [leaves_next ht, Option.map_some, hgates])

/-! ## Paused transfers -/

/-- An operation of transfer 1 that sent `rs`. -/
def pausedOp (rs : List MemReq) : TileOp :=
  { candOp runningBlock ⟨0, 0, 0, 0, 0, 0, 0, true, [], []⟩ true with xfer := some 1, sent := rs }

/-- Transfer 1 is paused, and two of its operations have one number but sent different requests. -/
def twinOps : State := { runningBlock with
  ops := [pausedOp [], pausedOp [readReq 4096 64 0 0 0 (.transfer 1 0 0 0)]]
  mem := { runningBlock.mem with xfers := [⟨1, 2, 0, 0, 0, 0, 0, 4096, true, none⟩] } }

theorem twinOps_inv : Inv twinOps := ⟨rfl, rfl, rfl, rfl⟩

/-- The restart of the second operation gives the first its request. -/
theorem twinOps_mixed : ((leaves (.xferResume 1) twinOps).bind (opAt · 0)).map (·.sent.length) = some 1 := by decide +kernel

/-- Refutes O44: `Inv` allows two operations with one number, and the restart of a transfer gives both of them the requests of the
last one, so the first does not keep what it sent. -/
theorem not_faultRecovery : ¬ Obligations.FaultRecovery := by
  unfold Obligations.FaultRecovery
  intro h
  obtain ⟨-, hresume⟩ := h twinOps twinOps_inv
  obtain ⟨hpaused, -⟩ := hresume 1 (by decide)
  obtain ⟨-, hrestart, -⟩ := hpaused _ rfl rfl
  obtain ⟨hnoMove, -⟩ := hrestart (by decide) (by decide)
  obtain ⟨t, ht, -, -, -, hsent, -⟩ := hnoMove rfl
  have hop : opAt t 0 = some { pausedOp [] with awaiting := 0, got := [], gotPois := [] } :=
    hsent (pausedOp []) (List.mem_cons_self ..) rfl (Nat.zero_le _) rfl
  have hmixed := twinOps_mixed
  rw [leaves_next ht, Option.bind_some, hop, Option.map_some] at hmixed
  exact absurd hmixed (by decide)

end Sys2Proof.Machine
end

section
/-! The statements about turning scans on and draining rings (spec/03 R71, R84, R442, R459). -/

namespace Sys2Proof.Machine

variable {s t u : State} {n : Nat}

/-! ## Scans -/

/-- Settles O19: both commands change one ring's record and nothing else, and the doorbell of a ring that fetches nothing more
changes nothing. -/
theorem doorbellAndRescan : Obligations.DoorbellAndRescan := by
  unfold Obligations.DoorbellAndRescan
  intro s n w
  have hothers (f : Sq → Sq) (m : Nat) (hm : m ≠ n.toNat) : sqAt (modSq s n.toNat f) m = sqAt s m := by rw [sqAt_modSq, if_neg hm]
  refine ⟨fun hlive hshut hside hst => ?_, fun hwork hst hoff => ?_, fun hst => ?_⟩
  · have hclosed : ¬ (portLive s = false ∨ s.blk.shut ∨ s.blk.st = .roadside) := by simp [hlive, hshut, hside]
    refine ⟨_, rfl, ?_⟩
    rw [doDoorbell, if_neg hclosed]
    rcases hst with hst | hst
    · rw [hst]
      exact ⟨by rw [sqAt_modSq, if_pos rfl], hothers _, rfl, rfl, rfl, rfl, rfl⟩
    · rw [hst]
      exact ⟨by rw [sqAt_modSq, if_pos rfl], hothers _, rfl, rfl, rfl, rfl, rfl⟩
  · refine ⟨_, rfl, ?_⟩
    rw [doRescan, if_pos (by simp [hwork, hst, hoff])]
    exact ⟨by rw [sqAt_modSq, if_pos rfl], hothers _, rfl, rfl, rfl⟩
  · change Host.Outcome.next (doDoorbell s n.toNat) = .next s
    unfold doDoorbell
    split
    · rfl
    · rcases hst with hst | hst <;> rw [hst]

/-! ## The control of a ring -/

/-- A ring's record without its batches. -/
def Sq.control (q : Sq) : Sq := { q with asm := Sq.empty.asm }

/-- Every ring of `t` has the control of `s`: at most batches differ. -/
structure RingsKept (s t : State) : Prop where
  control : ∀ m, (sqAt t m).control = (sqAt s m).control

theorem RingsKept.refl (s : State) : RingsKept s s := ⟨fun _ => rfl⟩
theorem RingsKept.trans (h : RingsKept s t) (h' : RingsKept t u) : RingsKept s u := ⟨fun m => (h'.control m).trans (h.control m)⟩
theorem RingsKept.of_sqs (h : t.sqs = s.sqs) : RingsKept s t := ⟨fun m => by rw [sqAt, h]; rfl⟩
theorem RingsKept.of_ringFrame (h : ringFrame t = ringFrame s) : RingsKept s t := .of_sqs (congrArg (·.sqs) h)
theorem RingsKept.st (h : RingsKept s t) (m : Nat) : (sqAt t m).st = (sqAt s m).st := congrArg (·.st) (h.control m)

theorem ringsKept_modSq (s : State) (n : Nat) {f : Sq → Sq} (hf : ∀ q, (f q).control = q.control) : RingsKept s (modSq s n f) := by
  refine ⟨fun m => ?_⟩
  rw [sqAt_modSq]
  split
  · next hm => rw [hf, hm]
  · rfl

theorem ringsKept_dropBatches (s : State) (n : Nat) : RingsKept s (dropBatches s n) := by
  simp only [dropBatches]
  refine RingsKept.trans (.of_ringFrame ?_) (ringsKept_modSq _ n fun q => rfl)
  simp only [ringFrame_modMem, ringFrame_forgetAsks]
  refine foldl_keeps ringFrame (fun s b _ => ?_) _
  split <;> rfl

/-- A ring that has begun to drain is marked, and no other changes but in its batches (R84). -/
theorem ringsKept_drainRing (hst : (sqAt s n).st ≠ .disabled) (hst' : (sqAt s n).st ≠ .draining) (status : Nat) (cause : List Nat) :
    RingsKept (modSq s n (drained status)) (drainRing s n status cause) := by
  unfold drainRing
  split
  · next h => exact absurd h hst
  · next h => exact absurd h hst'
  · extract_lets marked _ waits
    have hentries : RingsKept marked (endRingEntries waits n status cause) :=
      .of_ringFrame ((ringFrame_endRingEntries ..).trans rfl)
    exact hentries.trans ((ringsKept_dropBatches _ n).trans (.of_ringFrame (by simp)))

/-! ## Purging -/

/-- The state with everything blanked that purging discards: operations, decodes, requests, Mileposts, edges and nodes (R84). -/
def purgeFrame (s : State) : State :=
  { s with ops := [], decodes := [], mps := State.reset.mps, jobs := [], mem := State.reset.mem }

/-- A step of a purge: of jobs, only records of their nodes and edges differ. -/
structure PurgeStep (s t : State) : Prop where
  frame : purgeFrame t = purgeFrame s
  job : ∀ k, job t k = { job s k with nodes := (job t k).nodes, edges := (job t k).edges }

theorem PurgeStep.refl (s : State) : PurgeStep s s := ⟨rfl, fun _ => rfl⟩

theorem PurgeStep.trans (h : PurgeStep s t) (h' : PurgeStep t u) : PurgeStep s u :=
  ⟨h'.frame.trans h.frame, fun k => by rw [h'.job, h.job]⟩

theorem PurgeStep.foldl {α : Type} {f : State → α → State} {l : List α} (hf : ∀ s, ∀ a ∈ l, PurgeStep s (f s a)) (s : State) :
    PurgeStep s (l.foldl f s) :=
  List.foldlRecOn l f (.refl s) fun t ht a ha => ht.trans (hf t a ha)

theorem PurgeStep.of_jobs (hf : purgeFrame t = purgeFrame s) (hj : t.jobs = s.jobs) : PurgeStep s t :=
  ⟨hf, fun k => by rw [job_congr hj k]⟩

theorem purgeStep_modNode (s : State) (j m n : Nat) (f : NodeSt → NodeSt) : PurgeStep s (modNode s j m n f) where
  frame := rfl
  job := (taskStep_modNode s j m n f).job

theorem purgeStep_modEdge (s : State) (j m e : Nat) (f : EdgeSt → EdgeSt) : PurgeStep s (modEdge s j m e f) where
  frame := rfl
  job := (slotStep_modEdge s j m e f).task.job

theorem purgeStep_discardSlot (s : State) (j m e x : Nat) : PurgeStep s (discardSlot s j m e x) := by
  unfold discardSlot
  extract_lets u
  exact PurgeStep.trans (t := u) (purgeStep_modEdge ..) (.of_jobs rfl rfl)

theorem purgeStep_dropWork (s : State) (j m n : Nat) (w : Work) : PurgeStep s (dropWork s j m n w) := by
  unfold dropWork
  extract_lets u mine
  have hu : PurgeStep s u := purgeStep_modNode ..
  refine hu.trans ?_
  split
  · exact .of_jobs rfl rfl
  · exact .foldl (fun v o _ => purgeStep_discardSlot ..) _

theorem purgeStep_purgeWhere (s : State) (j : Nat) (f : Nat → Bool) : PurgeStep s (purgeWhere s j f) := by
  unfold purgeWhere
  extract_lets _ cut nodes held
  have hcut : PurgeStep s cut := .of_jobs rfl rfl
  have hnodes : PurgeStep cut nodes :=
    .foldl (fun v x _ => PurgeStep.trans (.foldl (fun v w _ => purgeStep_dropWork ..) v) (purgeStep_modNode ..)) cut
  exact hcut.trans (hnodes.trans (.foldl (fun v x _ => .foldl (fun v g _ => purgeStep_discardSlot ..) v) nodes))

theorem purgeStep_purge (s : State) (j : Nat) : PurgeStep s (purge s j) := purgeStep_purgeWhere ..

theorem PurgeStep.sqs (h : PurgeStep s t) : t.sqs = s.sqs := congrArg (·.sqs) h.frame

/-- Starting a drain marks the ring, and no other changes but in its batches (R84). -/
theorem ringsKept_startDrain (hst : (sqAt s n).st ≠ .disabled) (hst' : (sqAt s n).st ≠ .draining) :
    RingsKept (modSq s n (drained stAborted)) (startDrain s n) :=
  RingsKept.trans (ringsKept_drainRing hst hst' ..) (.of_sqs (purgeStep_purge ..).sqs)

/-- A ring that already drains has nothing marked again (R84). -/
theorem ringsKept_startDrain_of_draining (hst : (sqAt s n).st = .draining) : RingsKept s (startDrain s n) := by
  have hsame : drainRing s n stAborted = s := by simp only [drainRing, hst]
  rw [startDrain, hsame]
  exact .of_sqs (purgeStep_purge ..).sqs

/-! ## Draining a page -/

/-- Starting the drain of a ring that is not `DISABLED` leaves it `DRAINING`, and the state of every other ring (R84). -/
theorem st_startDrain (hst : (sqAt s n).st ≠ .disabled) (m : Nat) :
    (sqAt (startDrain s n) m).st = if m = n then .draining else (sqAt s m).st := by
  by_cases hst' : (sqAt s n).st = .draining
  · rw [(ringsKept_startDrain_of_draining hst').st]
    split
    · next h => rw [h, hst']
    · rfl
  · rw [(ringsKept_startDrain hst hst').st, sqAt_modSq]
    split <;> rfl

/-- The state that a drain of its page leaves a ring of the page in. -/
def RingState.drainedOf (x : RingState) : RingState := if x = .disabled then .disabled else .draining

theorem st_drainStep (s : State) (n m : Nat) : (sqAt (if (sqAt s n).st = .disabled then s else startDrain s n) m).st =
    if m = n then (sqAt s n).st.drainedOf else (sqAt s m).st := by
  split
  · next h =>
    split
    · next hm => rw [hm, h]; rfl
    · rfl
  · next h =>
    have hdrained : (sqAt s n).st.drainedOf = .draining := if_neg h
    rw [st_startDrain h, hdrained]

/-- Draining the rings `l` in turn drains each that is not `DISABLED` and leaves the state of the others (R442). -/
theorem st_drainEach (l : List Nat) (s : State) (m : Nat) :
    (sqAt (l.foldl (fun s n => if (sqAt s n).st = .disabled then s else startDrain s n) s) m).st =
      if m ∈ l then (sqAt s m).st.drainedOf else (sqAt s m).st := by
  induction l generalizing s with
  | nil => simp
  | cons n l ih =>
    rw [List.foldl_cons, ih, st_drainStep]
    by_cases hm : m = n
    · subst hm
      cases (sqAt s m).st <;> simp [RingState.drainedOf]
    · simp [hm]

theorem st_drainPage (s : State) (p m : Nat) : (sqAt (drainPage s p) m).st =
    if m ∈ (List.range 16).map (fun i => (p - 0x100) * 16 + i) then (sqAt s m).st.drainedOf else (sqAt s m).st := by
  rw [← st_drainEach, List.foldl_map]
  rfl

theorem ringsKept_pageDrained (s : State) (p : Nat) : RingsKept s (pageDrained s p) := by
  unfold pageDrained
  split
  · exact .of_sqs rfl
  · exact .refl s

theorem sq_on_page {p i : Nat} (hi : i < 16) :
    (p - 0x100) * 16 + i ∈ (List.range 16).map fun i => (p - 0x100) * 16 + i :=
  List.mem_map.2 ⟨i, List.mem_range.2 hi, rfl⟩

/-- What `DRAIN` of an enabled submission ring page does (R442). -/
theorem doPageDrain_eq {p : Nat} (hopen : ctrlOpen s p = true) (hlo : 0x100 ≤ p) (hhi : p ≤ 0x1FF) (hon : enabled s p = true) :
    doPageDrain s p = pageDrained (drainPage (wrg s p 0x008 (rg s p 0x008 ||| 2)) p) p := by
  have hkind : pageKind p = some 0x10 := by
    unfold pageKind
    rw [if_neg (by omega), if_neg (by omega), if_neg (by omega), if_neg (by omega), if_neg (by omega), if_pos ⟨hlo, hhi⟩]
  have hcaps : pageCaps p = 0xB := by simp only [pageCaps, hkind]
  have hkept : enablePage s p = s := by rw [enablePage, if_pos hon]
  simp only [doPageDrain, doPageCtrl, if_pos hopen, pageCtrl, hkind, hcaps, hon]
  rw [if_neg (by decide), if_pos (by decide), if_neg (by decide), if_pos (by decide), hkept]

/-- `DRAIN` of a page without that capability is refused (R442). -/
theorem doPageDrain_refused {p k : Nat} (hopen : ctrlOpen s p = true) (hkind : pageKind p = some k) (hcaps : bitN (pageCaps p) 1 = false) :
    doPageDrain s p = refuse s p (k * 2 ^ 8 + 0xFF) 0x008 := by
  have hbit : bitN (2 + b2n (enabled s p)) 1 = true := by cases enabled s p <;> decide
  simp only [doPageDrain, doPageCtrl, if_pos hopen, pageCtrl, hkind]
  rw [if_pos (.inr ⟨hbit, hcaps⟩)]

theorem pageKind_code_lt {p k : Nat} (h : pageKind p = some k) : k < 256 := by
  unfold pageKind at h
  split_ifs at h <;> simp only [Option.some.injEq] at h <;> omega

/-- Settles O17: the page's rings are drained in turn, and the drain of one leaves the state of the others. -/
theorem pageDrainDrainsRings : Obligations.PageDrainDrainsRings := by
  unfold Obligations.PageDrainDrainsRings
  intro s p hinv hopen
  refine ⟨fun hlo hhi hon => ⟨_, rfl, fun i hi => ?_⟩, fun k hkind hcaps => ⟨_, rfl, ?_⟩⟩
  · rw [doPageDrain_eq hopen hlo hhi hon, (ringsKept_pageDrained ..).st, st_drainPage, if_pos (sq_on_page hi)]
    rfl
  · have hk := pageKind_code_lt hkind
    rw [doPageDrain_refused hopen hkind hcaps]
    refine ⟨refused_refuse hinv.rising_words _ (by omega) (by decide), ?_⟩
    obtain ⟨ov, -, h⟩ := refuse_eq s p.toNat (k * 2 ^ 8 + 0xFF) 0x008
    rw [h]
    exact ⟨wrg_sqs .., wrg_cqs .., wrg_jobs .., wrg_pods .., wrg_mem ..⟩

end Sys2Proof.Machine
end

section
/-! Ends of entries and completions that become due (spec/03 R68, R75, R76), and what a drain does to its ring (R84). -/

namespace Sys2Proof.Machine

variable {s t u : State} {n : Nat}

/-! ## Completion rings -/

theorem cqAt_modCq (s : State) (c k : Nat) (f : Cq → Cq) : cqAt (modCq s c f) k = if k = c then f (cqAt s c) else cqAt s k := by
  by_cases h : k = c
  · subst h
    rw [if_pos rfl]
    exact sgetD_supd_self ..
  · rw [if_neg h]
    exact sgetD_supd_ne _ _ _ _ h

/-- A completion that becomes due is the last of its ring, and nothing but the arbiter changes with it (R76). -/
theorem addDue_eq (s : State) (d : Due) : addDue s d =
    { modCq s (sqCq s d.sq) (fun q => { q with due := q.due ++ [d] }) with arb := (addDue s d).arb } := by
  unfold addDue
  split
  · rfl
  · exact arbSettle_eq _

/-- A completion ring that owes `d` as well. -/
def Cq.owing (d : Due) (q : Cq) : Cq := { q with due := q.due ++ [d] }

theorem cqAt_addDue (s : State) (d : Due) (k : Nat) :
    cqAt (addDue s d) k = if k = sqCq s d.sq then (cqAt s k).owing d else cqAt s k := by
  rw [addDue_eq]
  refine (cqAt_modCq s (sqCq s d.sq) k (Cq.owing d)).trans ?_
  split
  · next h => rw [h]
  · rfl

/-! ## Entries -/

theorem entryAt_congr (h : t.entries = s.entries) (n k : Nat) : entryAt t n k = entryAt s n k := by rw [entryAt, h]; rfl

/-- A change of one slot's entry shows in that slot. -/
theorem entryAt_modEntry {f : Entry → Entry} (hsq : ∀ e, (f e).sq = e.sq) (hslot : ∀ e, (f e).slot = e.slot) (s : State) (n k m i : Nat) :
    entryAt (modEntry s n k f) m i = (entryAt s m i).map fun e => if e.sq = n ∧ e.slot = k then f e else e := by
  unfold entryAt modEntry
  rw [List.find?_map]
  congr 2
  funext e
  simp only [Function.comp_apply]
  split <;> simp [hsq, hslot]

theorem entryAt_some {e : Entry} {k : Nat} (h : entryAt s n k = some e) : e.sq = n ∧ e.slot = k := by
  have h' := List.find?_some h
  exact of_decide_eq_true h'

/-- An entry with its end marked. -/
def Entry.ended (e : Entry) : Entry := { e with st := .done }

/-- The end of a fetched entry: its completion becomes due and it is marked (R75). -/
theorem finish_eq {e x : Entry} (hx : entryAt s e.sq e.slot = some x) (hst : x.st ≠ .done) (status detail count info : Nat) :
    finish s e status detail count info =
      addDue (modEntry s e.sq e.slot Entry.ended) (finalDue x status detail count info) := by
  simp only [finish, hx, if_neg hst]
  rfl

/-- The end of an entry leaves its slot's entry `done`, if there is one, and every other entry alone. -/
theorem entryAt_finish (s : State) (e : Entry) (status detail count info m i : Nat) :
    entryAt (finish s e status detail count info) m i =
      (entryAt s m i).map fun x => if x.sq = e.sq ∧ x.slot = e.slot then x.ended else x := by
  have hsame (h : ∀ x, entryAt s e.sq e.slot = some x → x.st = .done) : entryAt s m i =
      (entryAt s m i).map fun x => if x.sq = e.sq ∧ x.slot = e.slot then x.ended else x := by
    cases hx : entryAt s m i with
    | none => rfl
    | some x =>
      rw [Option.map_some]
      split
      · next hat =>
        obtain ⟨rfl, rfl⟩ := entryAt_some hx
        have hdone := h x (hat.1 ▸ hat.2 ▸ hx)
        rw [Entry.ended, ← hdone]
      · rfl
  cases hx : entryAt s e.sq e.slot with
  | none =>
    simp only [finish, hx]
    exact hsame fun x h => by rw [hx] at h; cases h
  | some x =>
    by_cases hst : x.st = .done
    · simp only [finish, hx, if_pos hst]
      exact hsame fun y h => by rw [hx] at h; cases h; exact hst
    · rw [finish_eq hx hst, addDue_eq]
      exact entryAt_modEntry (f := Entry.ended) (fun _ => rfl) (fun _ => rfl) ..

/-! ## Reads of slots -/

/-- The state with everything blanked that a read of host memory answered with data may change: line counts and its record. -/
def readFrame (s : State) : State := { s with regs := { s.regs with live := [] }, mem := { s.mem with direct := none } }

theorem readFrame_hostRead {i : HostRead} (h : i.kind = .okay ∨ i.kind = .poison) (s : State) (a n x : Nat) :
    readFrame (hostRead s a n x i) = readFrame s := by
  obtain ⟨live, hb⟩ := bump_live s 3 0 (if n = 0 then 0 else (a + n - 1) / 64 + 1 - a / 64)
  rcases h with h | h
  · simp only [hostRead, h, modMem]
    rw [hb]
    rfl
  · simp only [hostRead, h, modMem]
    rw [hb]
    rfl

theorem readFrame_slotFetch {k : RspKind} (h : k = .okay ∨ k = .poison) (s : State) (n : Nat) :
    readFrame (slotFetch s n k) = readFrame s := readFrame_hostRead h ..

/-! ## Registers of rings -/

/-- The registers from offset 0x400 on hold the same words, those of the rings among them (Tables 3-9, 3-10). -/
def OwnWords (s t : State) : Prop := ∀ p o, 0x400 ≤ o → o < 0x1000 → rgw t p o = rgw s p o

theorem OwnWords.of_words (h : t.regs.words = s.regs.words) : OwnWords s t := fun p o _ _ => by rw [rgw, h]; rfl
theorem OwnWords.refl (s : State) : OwnWords s s := fun _ _ _ _ => rfl
theorem OwnWords.trans (h : OwnWords s t) (h' : OwnWords t u) : OwnWords s u := fun p o hlo hhi => (h' p o hlo hhi).trans (h p o hlo hhi)

/-- The common header of a page lies below. -/
theorem ownWords_wrg {o : Nat} (h : o < 0x400) (s : State) (p v : Nat) : OwnWords s (wrg s p o v) :=
  fun p' o' _ _ => rgw_wrg_ne (by simp only [wa]; omega)

theorem OwnWords.sqr (h : OwnWords s t) (n : Nat) {r : Nat} (hr : r < 0x40) : sqr t n r = sqr s n r := by
  rw [Machine.sqr, rg, h _ _ (by simp only [ringOfs]; omega) (by simp only [ringOfs]; omega)]
  rfl

theorem OwnWords.sqCq (h : OwnWords s t) (n : Nat) : sqCq t n = sqCq s n := by
  rw [Machine.sqCq, h.sqr n (by decide)]
  rfl

theorem OwnWords.sqSize (h : OwnWords s t) (n : Nat) : sqSize t n = sqSize s n := by
  rw [Machine.sqSize, h.sqr n (by decide)]
  rfl

/-! ## Records of rings -/

theorem sqAt_congr (h : t.sqs = s.sqs) (n : Nat) : sqAt t n = sqAt s n := by rw [sqAt, h]; rfl
theorem cqAt_congr (h : t.cqs = s.cqs) (c : Nat) : cqAt t c = cqAt s c := by rw [cqAt, h]; rfl

/-! ## The entries of a ring that drains -/

theorem entries_endRingEntries_step (s : State) (e : Entry) (status m i : Nat) :
    entryAt (endXfers (finish s e status) e.job e.rank) m i =
      (entryAt s m i).map fun x => if x.sq = e.sq ∧ x.slot = e.slot then x.ended else x := entryAt_finish ..

/-- Ending the entries `l` in turn leaves every slot `done` that was or that one of them is in. -/
theorem done_of_endEach (f : Entry → Nat) {l : List Entry} (hl : ∀ e ∈ l, e.sq = n) (s : State)
    (h : ∀ k e, entryAt s n k = some e → e.st = .done ∨ ∃ x ∈ l, x.slot = k) (k : Nat) {e : Entry}
    (he : entryAt (l.foldl (fun s e => endXfers (finish s e (f e)) e.job e.rank) s) n k = some e) : e.st = .done := by
  induction l generalizing s with
  | nil => exact (h k e he).resolve_right (by simp)
  | cons x l ih =>
    refine ih (fun y hy => hl y (List.mem_cons_of_mem _ hy)) _ (fun i y hy => ?_) he
    rw [entries_endRingEntries_step, Option.map_eq_some_iff] at hy
    obtain ⟨z, hz, rfl⟩ := hy
    split
    · exact .inl rfl
    · next hne =>
      refine (h i z hz).imp_right fun ⟨w, hw, hslot⟩ => ?_
      rcases List.mem_cons.1 hw with rfl | hw
      · obtain ⟨hzsq, hzslot⟩ := entryAt_some hz
        exact absurd ⟨hzsq.trans (hl w List.mem_cons_self).symm, hzslot.trans hslot.symm⟩ hne
      · exact ⟨w, hw, hslot⟩

/-- No entry of a ring whose entries have ended lacks its final completion (R84). -/
theorem done_endRingEntries (s : State) (n status : Nat) (cause : List Nat) (k : Nat) {e : Entry}
    (he : entryAt (endRingEntries s n status cause) n k = some e) : e.st = .done := by
  refine done_of_endEach _ (fun e h => (of_decide_eq_true (List.mem_filter.1 h).2).1) s (fun i y hy => ?_) k he
  obtain ⟨hsq, hslot⟩ := entryAt_some hy
  by_cases hst : y.st = .done
  · exact .inl hst
  · exact .inr ⟨y, List.mem_filter.2 ⟨List.mem_of_find?_eq_some hy, decide_eq_true ⟨hsq, hst⟩⟩, hslot⟩

end Sys2Proof.Machine
end

section
/-! Draining a submission ring (spec/03 R84). -/

namespace Sys2Proof.Machine

variable {s t u : State} {n : Nat} {l : List EntryBody}

/-! ## What a drain leaves alone -/

/-- The state with everything blanked that closing streams and dropping batches may change: requests, line counts, streams, rings
and the arbiter. -/
def streamFrame (s : State) : State := { portFrame s with streams := [], sqs := [], arb := State.reset.arb }

theorem streamFrame_of_portFrame (h : portFrame t = portFrame s) : streamFrame t = streamFrame s :=
  congrArg (fun u : State => { u with streams := [], sqs := [], arb := State.reset.arb }) h

theorem streamFrame_arbSettle (s : State) : streamFrame (arbSettle s) = streamFrame s := by
  rw [arbSettle_eq]
  rfl

theorem streamFrame_freePoolOf (s : State) (c a : Nat) : streamFrame (freePoolOf s c a) = streamFrame s := rfl
theorem streamFrame_modMem (s : State) (f : Mem → Mem) : streamFrame (modMem s f) = streamFrame s := rfl
theorem streamFrame_modSq (s : State) (n : Nat) (f : Sq → Sq) : streamFrame (modSq s n f) = streamFrame s := rfl

theorem streamFrame_forgetAsks (s : State) (c : Nat) (f : PoolUser → Bool) : streamFrame (forgetAsks s c f) = streamFrame s := by
  simp only [forgetAsks, streamFrame_modMem]
  exact foldl_keeps streamFrame (fun _ _ _ => streamFrame_freePoolOf ..) s

theorem streamFrame_writeStream (s : State) (k : Nat) (x : Stream) (r : Nat) : streamFrame (writeStream s k x r) = streamFrame s := by
  unfold writeStream
  split
  · rfl
  · exact streamFrame_of_portFrame ((portFrame_memWrite ..).trans (portFrame_memWrite ..))

theorem streamFrame_closeSome (s : State) (f : Nat × Stream → Bool) (cs : Nat) : streamFrame (closeSome s f cs) = streamFrame s := by
  simp only [closeSome]
  change streamFrame (List.foldl _ s _) = streamFrame s
  refine foldl_keeps streamFrame (fun u e _ => ?_) s
  have hbufs : streamFrame ((heldBufs e.2.dpb).foldl (fun s a => freePoolOf s e.2.pool a) u) = streamFrame u :=
    foldl_keeps streamFrame (fun _ _ _ => streamFrame_freePoolOf ..) u
  rw [streamFrame_writeStream, streamFrame_forgetAsks, streamFrame_forgetAsks]
  split
  · exact hbufs
  · exact hbufs

theorem streamFrame_dropBatches (s : State) (n : Nat) : streamFrame (dropBatches s n) = streamFrame s := by
  simp only [dropBatches, streamFrame_modSq, streamFrame_modMem, streamFrame_forgetAsks]
  refine foldl_keeps streamFrame (fun u b _ => ?_) s
  split <;> rfl

/-- Ring `n` is marked as draining, and none of its waits goes on (R84). -/
def markDrain (s : State) (n status : Nat) : State :=
  modMps (modSq s n (drained status)) fun b => { b with waiters := b.waiters.filter fun w => match w.src with
    | .ring m _ => m ≠ n
    | _ => true }

theorem drainRing_eq (hst : (sqAt s n).st ≠ .disabled) (hst' : (sqAt s n).st ≠ .draining) (status : Nat) (cause : List Nat) :
    drainRing s n status cause = arbSettle (closeSome (dropBatches (endRingEntries (markDrain s n status) n status cause) n)
      fun e => e.2.sq = n) := by
  unfold drainRing
  split
  · next h => exact absurd h hst
  · next h => exact absurd h hst'
  · rfl

/-- After its entries have ended, a drain leaves everything but streams, batches and requests. -/
theorem streamFrame_drainRing (hst : (sqAt s n).st ≠ .disabled) (hst' : (sqAt s n).st ≠ .draining) (status : Nat) (cause : List Nat) :
    streamFrame (drainRing s n status cause) = streamFrame (endRingEntries (markDrain s n status) n status cause) := by
  rw [drainRing_eq hst hst', streamFrame_arbSettle, streamFrame_closeSome, streamFrame_dropBatches]

/-- A drain gives every fetched entry of its ring its final completion (R84). -/
theorem done_drainRing (hst : (sqAt s n).st ≠ .disabled) (hst' : (sqAt s n).st ≠ .draining) (status : Nat) (cause : List Nat)
    (k : Nat) {e : Entry} (he : entryAt (drainRing s n status cause) n k = some e) : e.st = .done := by
  have hentries : (drainRing s n status cause).entries = (endRingEntries (markDrain s n status) n status cause).entries :=
    congrArg (·.entries) (streamFrame_drainRing hst hst' status cause)
  exact done_endRingEntries _ n status cause k ((entryAt_congr hentries n k).symm.trans he)

/-- A drain leaves the gates. -/
theorem gates_drainRing (hst : (sqAt s n).st ≠ .disabled) (hst' : (sqAt s n).st ≠ .draining) (status : Nat) (cause : List Nat) :
    (drainRing s n status cause).gates = s.gates :=
  (congrArg (·.gates) (streamFrame_drainRing hst hst' status cause)).trans
    (congrArg (·.gates) (ringFrame_endRingEntries (s := markDrain s n status) ..))

/-! ## The command -/

/-- What RING_DRAIN does to a ring that is not `DISABLED` (Table 3-11). -/
theorem sqCtrl_drain (hlive : portLive s = true) (hst : (sqAt s n).st ≠ .disabled) :
    sqCtrl s n 2 = startDrain (storeReg s (sqPage n) (ringOfs n 0) 2) n := by
  have hsq : (sqAt (storeReg s (sqPage n) (ringOfs n 0) 2) n).st ≠ .disabled := by
    rw [sqAt_congr (congrArg (·.sqs) (storeReg_frame ..))]
    exact hst
  have haction : bits 2 6 4 = 0 := by decide
  have hdrain : bitN 2 1 = true := by decide
  simp only [sqCtrl, hlive, Bool.true_eq_false, if_false, haction, if_true, hdrain, Bool.true_and]
  rw [if_pos (decide_eq_true hsq)]

/-- A started drain (R84): the ring is marked, its entries have ended, Pods and gates are left alone. -/
theorem startDrain_drains (hst : (sqAt s n).st = .active ∨ (sqAt s n).st = .stopped) :
    (sqAt (startDrain s n) n).control = (drained stAborted (sqAt s n)).control ∧
    (∀ k e, entryAt (startDrain s n) n k = some e → e.st = .done) ∧
    (startDrain s n).pods = s.pods ∧ (startDrain s n).gates = s.gates := by
  have hd : (sqAt s n).st ≠ .disabled := by rcases hst with h | h <;> simp [h]
  have hd' : (sqAt s n).st ≠ .draining := by rcases hst with h | h <;> simp [h]
  have hp := (purgeStep_purge (drainRing s n stAborted) (sqJob s n)).frame
  refine ⟨?_, fun k e he => ?_, ?_, ?_⟩
  · rw [(ringsKept_startDrain hd hd').control, sqAt_modSq, if_pos rfl]
  · exact done_drainRing hd hd' stAborted [] k ((entryAt_congr (congrArg (·.entries) hp) n k).symm.trans he)
  · exact (congrArg (·.pods) hp).trans (congrArg (·.pods) (podFrame_drainRing ..))
  · exact (congrArg (·.gates) hp).trans (gates_drainRing hd hd' ..)

/-! ## The walk -/

/-- The state with everything blanked that the walk of a drain may change: line counts, the record of the last read, rings,
completions and the arbiter. -/
def walkFrame (s : State) : State := { readFrame s with sqs := [], cqs := [], arb := State.reset.arb }

/-- The completion that the walk owes for entry `e` in slot `k` of ring `n` (R84). -/
def walkDue (s : State) (n k : Nat) (e : EntryBody) : Due :=
  { sq := n, slot := k, tag := e.tag.toNat, status := (sqAt s n).drainStatus, final := true, detail := 0, count := 0, info := 0,
    reserved := false, irqNow := bitN e.eflags.toNat 1, xfer := none }

/-- The walk of the drain of ring `n` has read the entries `l` between `s` and `t` (R84). -/
structure Walked (s t : State) (n : Nat) (l : List EntryBody) : Prop where
  frame : walkFrame t = walkFrame s
  ring : sqAt t n = { sqAt s n with fetch := ((sqAt s n).fetch + l.length) % sqSize s n, phase := (sqAt t n).phase }
  due : ∀ i e, l[i]? = some e → walkDue s n (((sqAt s n).fetch + i) % sqSize s n) e ∈ (cqAt t (sqCq s n)).due

theorem OwnWords.of_walkFrame (h : walkFrame t = walkFrame s) : OwnWords s t := .of_words (congrArg (·.regs.words) h)

theorem Walked.words (h : Walked s t n l) : OwnWords s t := .of_walkFrame h.frame

theorem walked_nil (hfetch : (sqAt s n).fetch < sqSize s n) : Walked s s n [] where
  frame := rfl
  ring := by rw [List.length_nil, Nat.add_zero, Nat.mod_eq_of_lt hfetch]
  due i e h := by simp at h

theorem next_slot {a size : Nat} (h : a < size) : (if a + 1 ≥ size then 0 else a + 1) = (a + 1) % size := by
  split
  · next h' => rw [show a + 1 = size by omega, Nat.mod_self]
  · rw [Nat.mod_eq_of_lt (by omega)]

theorem walkFrame_addDue (s : State) (d : Due) : walkFrame (addDue s d) = walkFrame s := by
  rw [addDue_eq]
  rfl

/-- A read of a slot during the walk. -/
theorem slotFetch_keeps {k : RspKind} (h : k = .okay ∨ k = .poison) (s : State) (n : Nat) :
    walkFrame (slotFetch s n k) = walkFrame s ∧ (slotFetch s n k).sqs = s.sqs ∧ (slotFetch s n k).cqs = s.cqs := by
  have hread := readFrame_slotFetch h s n
  exact ⟨congrArg (fun u : State => { u with sqs := [], cqs := [], arb := State.reset.arb }) hread,
    congrArg (·.sqs) hread, congrArg (·.cqs) hread⟩

/-- A ring whose fetch index has moved on, to slot 0 and the other phase where `wrap` (R68). -/
def Sq.advance (wrap : Bool) (q : Sq) : Sq :=
  { q with fetch := if wrap then 0 else q.fetch + 1, phase := xor q.phase wrap }

theorem walkOne_eq (s : State) (n : Nat) (e : EntryBody) :
    walkOne n s e = modSq (addDue (slotFetch s n .okay) (walkDue s n (sqAt s n).fetch e)) n
      (Sq.advance (decide ((sqAt s n).fetch + 1 ≥
        sqSize (addDue (slotFetch s n .okay) (walkDue s n (sqAt s n).fetch e)) n))) := rfl

/-- One device-owned entry of the walk: what it leaves of its ring, and the completion it owes (R84). -/
theorem walkOne_step (s : State) (n : Nat) (e : EntryBody) : walkFrame (walkOne n s e) = walkFrame s ∧
    sqAt (walkOne n s e) n = (sqAt s n).advance (decide ((sqAt s n).fetch + 1 ≥ sqSize s n)) ∧
    cqAt (walkOne n s e) (sqCq s n) = (cqAt s (sqCq s n)).owing (walkDue s n (sqAt s n).fetch e) := by
  obtain ⟨hframe, hsqs, hcqs⟩ := slotFetch_keeps (.inl rfl) s n
  rw [walkOne_eq]
  generalize slotFetch s n .okay = v at *
  generalize hd : walkDue s n (sqAt s n).fetch e = d
  have hdn : d.sq = n := by rw [← hd]; rfl
  have hdue : walkFrame (addDue v d) = walkFrame s := (walkFrame_addDue v d).trans hframe
  have hring : sqAt (addDue v d) n = sqAt s n := (sqAt_congr (by rw [addDue_eq]; rfl) n).trans (sqAt_congr hsqs n)
  have hcq : sqCq v n = sqCq s n := (OwnWords.of_walkFrame hframe).sqCq n
  refine ⟨hdue, ?_, ?_⟩
  · rw [sqAt_modSq, if_pos rfl, hring, (OwnWords.of_walkFrame hdue).sqSize n]
  · refine (cqAt_addDue v d _).trans ?_
    rw [hdn, if_pos hcq.symm, cqAt_congr hcqs]

theorem Walked.snoc (hfetch : (sqAt s n).fetch < sqSize s n) (h : Walked s t n l) (e : EntryBody) : Walked s (walkOne n t e) n (l ++ [e]) := by
  obtain ⟨hframe, hring, hdue⟩ := walkOne_step t n e
  have hring' := h.ring
  have hsize := h.words.sqSize n
  have hcq := h.words.sqCq n
  have hpos : ((sqAt s n).fetch + l.length) % sqSize s n < sqSize s n := Nat.mod_lt _ (by omega)
  refine ⟨hframe.trans h.frame, ?_, fun i x hi => ?_⟩
  · rw [hring, hring', hsize, Sq.advance]
    simp only [decide_eq_true_eq, next_slot hpos, Nat.mod_add_mod, List.length_append, List.length_singleton, Nat.add_assoc]
  · rw [← hcq, hdue, Cq.owing]
    by_cases hlt : i < l.length
    · rw [List.getElem?_append_left hlt] at hi
      exact List.mem_append_left _ (hcq ▸ h.due i x hi)
    · rw [List.getElem?_append_right (Nat.not_lt.1 hlt), List.getElem?_singleton] at hi
      obtain ⟨hi0, rfl⟩ : i - l.length = 0 ∧ e = x := by simpa using hi
      refine List.mem_append_right _ (List.mem_singleton.2 ?_)
      rw [walkDue, walkDue, hring', show i = l.length by omega]

/-- The walk over the entries `l` (R84). -/
theorem walked_foldl (hfetch : (sqAt s n).fetch < sqSize s n) (l : List EntryBody) : Walked s (l.foldl (walkOne n) s) n l := by
  induction l using List.reverseRecOn with
  | nil => exact walked_nil hfetch
  | append_singleton l e ih =>
    rw [List.foldl_append]
    exact ih.snoc hfetch e

/-- The end of a walk: the slot after the entries is read, and ring `n` is known to be walked (R84). -/
def endWalk (s : State) (n : Nat) (last : RspKind) : State := modSq (slotFetch s n last) n fun q => { q with walked := true }

theorem doDrainWalk_eq {last : RspKind} {walk : List EntryBody} (hlive : portLive s = true) (hst : (sqAt s n).st = .draining)
    (hwalked : (sqAt s n).walked = false) (hlen : walk.length < sqSize s n)
    (hsize : sqSize (walk.foldl (walkOne n) s) n = sqSize s n) :
    doDrainWalk s n walk last = drainSettle (endWalk (walk.foldl (walkOne n) s) n last) n := by
  simp only [doDrainWalk, hlive, hst, hwalked]
  rw [if_neg (by simp), List.take_of_length_le hlen.le, hsize, if_pos hlen]
  rfl

theorem endWalk_step {last : RspKind} (hlast : last = .okay ∨ last = .poison) (s : State) (n : Nat) :
    walkFrame (endWalk s n last) = walkFrame s ∧ sqAt (endWalk s n last) n = { sqAt s n with walked := true } ∧
    (endWalk s n last).cqs = s.cqs := by
  obtain ⟨hframe, hsqs, hcqs⟩ := slotFetch_keeps hlast s n
  refine ⟨hframe, ?_, hcqs⟩
  rw [endWalk, sqAt_modSq, if_pos rfl, sqAt_congr hsqs]

theorem pageDrained_eq (s : State) (p : Nat) : ∃ r, pageDrained s p = { s with regs := r } := by
  unfold pageDrained
  split
  · exact ⟨_, rfl⟩
  · exact ⟨s.regs, rfl⟩

/-- A drain with nothing left to write ends: only registers and the ring change (R84, R442). -/
theorem drainSettle_ends (hst : (sqAt s n).st = .draining) (hout : drainedOut s n = true) :
    ∃ r q, drainSettle s n = { s with regs := r, sqs := q } ∧ (sqAt (drainSettle s n) n).st = .disabled := by
  rw [drainSettle, if_pos ⟨hst, hout⟩]
  obtain ⟨r, hr⟩ := pageDrained_eq (modSq s n fun q => { q with st := .disabled }) (sqPage n)
  refine ⟨r, _, hr, ?_⟩
  rw [(ringsKept_pageDrained ..).st, sqAt_modSq, if_pos rfl]

/-- A ring that owes a completion goes on draining (R84). -/
theorem drainSettle_waits {d : Due} (hd : d ∈ (cqAt s (sqCq s n)).due) (hsq : d.sq = n) : drainSettle s n = s := by
  have hany : ((cqAt s (sqCq s n)).due.any fun d => d.sq = n) = true := List.any_eq_true.2 ⟨d, hd, decide_eq_true hsq⟩
  rw [drainSettle, if_neg]
  rintro ⟨-, hout⟩
  simp [drainedOut, hany] at hout

/-- A walk that finds no entry, on a ring that owes none, ends the drain (R84). -/
theorem drainWalk_empty {last : RspKind} (hlast : last = .okay ∨ last = .poison) (hlive : portLive s = true)
    (hst : (sqAt s n).st = .draining) (hwalked : (sqAt s n).walked = false) (hentries : s.entries.all (fun e => e.sq ≠ n) = true)
    (hdue : (cqAt s (sqCq s n)).due.all (fun d => d.sq ≠ n) = true) :
    (sqAt (doDrainWalk s n [] last) n).st = .disabled ∧ walkFrame (doDrainWalk s n [] last) = { walkFrame s with
      regs := (walkFrame (doDrainWalk s n [] last)).regs } ∧ (doDrainWalk s n [] last).cqs = s.cqs := by
  rw [doDrainWalk_eq hlive hst hwalked (Nat.two_pow_pos _) rfl, List.foldl_nil]
  obtain ⟨hframe, hring, hcqs⟩ := endWalk_step hlast s n
  generalize endWalk s n last = v at *
  have hsame : v.entries = s.entries := congrArg (·.entries) hframe
  have hout : drainedOut v n = true := by
    rw [drainedOut, hring, hsame, cqAt_congr hcqs, (OwnWords.of_walkFrame hframe).sqCq]
    simpa using ⟨fun x hx => by simpa using List.all_eq_true.1 hentries x hx, fun x hx => by simpa using List.all_eq_true.1 hdue x hx⟩
  obtain ⟨r, q, heq, hend⟩ := drainSettle_ends (by rw [hring]; exact hst) hout
  refine ⟨hend, ?_, by rw [heq]; exact hcqs⟩
  rw [heq]
  exact congrArg (fun u : State => { u with regs := { r with live := [] } }) hframe

/-- A walk that finds entries leaves the ring draining, its entries owed (R84). -/
theorem doDrainWalk_owes {last : RspKind} {walk : List EntryBody} (hlast : last = .okay ∨ last = .poison) (hlive : portLive s = true)
    (hst : (sqAt s n).st = .draining) (hwalked : (sqAt s n).walked = false) (hne : walk ≠ []) (hlen : walk.length < sqSize s n)
    (hfetch : (sqAt s n).fetch < sqSize s n) : doDrainWalk s n walk last = endWalk (walk.foldl (walkOne n) s) n last := by
  have hw := walked_foldl hfetch walk
  rw [doDrainWalk_eq hlive hst hwalked hlen (hw.words.sqSize n)]
  obtain ⟨hframe, -, hcqs⟩ := endWalk_step hlast (walk.foldl (walkOne n) s) n
  obtain ⟨e, l, rfl⟩ := List.exists_cons_of_ne_nil hne
  refine drainSettle_waits (d := walkDue s n (((sqAt s n).fetch + 0) % sqSize s n) e) ?_ rfl
  rw [(OwnWords.of_walkFrame hframe).sqCq, hw.words.sqCq, cqAt_congr hcqs]
  exact hw.due 0 e rfl

/-- What the control of a drained ring says (R84). -/
theorem Sq.control_drained {q p : Sq} {status : Nat} (h : q.control = (drained status p).control) : q.st = .draining ∧
    q.scan = false ∧ q.rescan = false ∧ q.fence = none ∧ q.walked = false ∧ q.drainStatus = status :=
  ⟨congrArg Sq.st h, congrArg Sq.scan h, congrArg Sq.rescan h, congrArg Sq.fence h, congrArg Sq.walked h,
    congrArg Sq.drainStatus h⟩

/-- Settles O20: a started drain marks its ring and ends its entries, and the walk keeps `Walked` until the ring settles. -/
theorem ringDrains : Obligations.RingDrains := by
  unfold Obligations.RingDrains
  intro s n _ hlive
  refine ⟨fun hst => ⟨_, rfl, ?_⟩, fun last hlast hst hwalked hentries hdue => ⟨_, rfl, ?_⟩,
    fun walk last hlast hst hwalked hne hlen hfetch => ⟨_, rfl, ?_⟩⟩
  case refine_1 =>
    have hf := storeReg_frame s (sqPage n.toNat) (ringOfs n.toNat 0) 2
    have hring : sqAt (storeReg s (sqPage n.toNat) (ringOfs n.toNat 0) 2) n.toNat = sqAt s n.toNat :=
      sqAt_congr (congrArg (·.sqs) hf) _
    rw [sqCtrl_drain hlive (by rcases hst with h | h <;> simp [h])]
    obtain ⟨hcontrol, hdone, hpods, hgates⟩ := startDrain_drains (hring ▸ hst)
    obtain ⟨hdraining, hscan, hrescan, hfence, hwalk, hstatus⟩ := Sq.control_drained hcontrol
    exact ⟨hdraining, hscan, hrescan, hfence, hwalk, hstatus, hdone, hpods.trans (congrArg (·.pods) hf),
      hgates.trans (congrArg (·.gates) hf)⟩
  case refine_2 =>
    obtain ⟨hend, hframe, hcqs⟩ := drainWalk_empty hlast hlive hst hwalked hentries hdue
    exact ⟨hend, hcqs, congrArg (·.entries) hframe, congrArg (·.jobs) hframe, congrArg (·.marrow) hframe⟩
  case refine_3 =>
    have hw := walked_foldl hfetch walk
    rw [doDrainWalk_owes hlast hlive hst hwalked hne hlen hfetch]
    obtain ⟨hframe, hring, hcqs⟩ := endWalk_step hlast (walk.foldl (walkOne n.toNat) s) n.toNat
    have hall := hframe.trans hw.frame
    beta_reduce
    rw [hring, hw.ring, cqAt_congr hcqs]
    exact ⟨hst, rfl, rfl, fun i e hi => ⟨_, hw.due i e hi, rfl, rfl, rfl, rfl, rfl, rfl⟩, congrArg (·.entries) hall,
      congrArg (·.jobs) hall, congrArg (·.marrow) hall, congrArg (·.pods) hall⟩

end Sys2Proof.Machine
end

section
/-! What the work on fetched entries leaves alone: ends of entries, arrivals, batches and purges (spec/03 R66 to R84, spec/12 R310,
spec/08 R206). -/

namespace Sys2Proof.Machine

variable {s t u : State} {n : Nat}

/-! ## Steps of work -/

/-- Where a ring stands: what it fetches next, and the fence that holds it. -/
def Sq.place (q : Sq) : Nat × Bool × Option Nat := (q.fetch, q.phase, q.fence)

/-- The state with everything blanked that work may change without touching rings, completions, entries or jobs. -/
def workFrame (s : State) : State :=
  { s with regs := { s.regs with live := [] }, mem := State.reset.mem, stw := State.reset.stw, arb := State.reset.arb,
           mps := State.reset.mps, gates := [], ops := [], decodes := [] }

/-- A step of the work on entries: entries may end, completions become due, batches close and members arrive, while every ring
stands where it stood and each job keeps its counters. -/
structure WorkStep (s t : State) : Prop where
  pods : t.pods = s.pods
  marrow : t.marrow = s.marrow
  streams : t.streams = s.streams
  words : OwnWords s t
  rings : ∀ m, (sqAt t m).place = (sqAt s m).place
  reserved : ∀ c, (cqAt t c).reserved = (cqAt s c).reserved
  due : ∀ c, ∀ d ∈ (cqAt s c).due, d ∈ (cqAt t c).due
  entries : ∀ m k e, entryAt s m k = some e → ∃ x, entryAt t m k = some x ∧ x = { e with st := x.st }
  jobs : ∀ k, job t k = { job s k with nodes := (job t k).nodes, edges := (job t k).edges }

theorem WorkStep.refl (s : State) : WorkStep s s :=
  ⟨rfl, rfl, rfl, .refl s, fun _ => rfl, fun _ => rfl, fun _ _ h => h, fun _ _ e h => ⟨e, h, rfl⟩, fun _ => rfl⟩

theorem WorkStep.trans (h : WorkStep s t) (h' : WorkStep t u) : WorkStep s u where
  pods := h'.pods.trans h.pods
  marrow := h'.marrow.trans h.marrow
  streams := h'.streams.trans h.streams
  words := h.words.trans h'.words
  rings m := (h'.rings m).trans (h.rings m)
  reserved c := (h'.reserved c).trans (h.reserved c)
  due c d hd := h'.due c d (h.due c d hd)
  entries m k e he := by
    obtain ⟨x, hx, hxe⟩ := h.entries m k e he
    obtain ⟨y, hy, hyx⟩ := h'.entries m k x hx
    exact ⟨y, hy, hyx.trans (by rw [hxe])⟩
  jobs k := by rw [h'.jobs, h.jobs]

theorem WorkStep.foldl {α : Type} {f : State → α → State} {l : List α} (hf : ∀ s, ∀ a ∈ l, WorkStep s (f s a)) (s : State) :
    WorkStep s (l.foldl f s) :=
  List.foldlRecOn l f (.refl s) fun t ht a ha => ht.trans (hf t a ha)

/-- A step that keeps the lists of rings, completions and entries. -/
theorem WorkStep.of_lists (hpods : t.pods = s.pods) (hmarrow : t.marrow = s.marrow) (hstreams : t.streams = s.streams)
    (hwords : OwnWords s t) (hsqs : t.sqs = s.sqs) (hcqs : t.cqs = s.cqs) (hentries : t.entries = s.entries)
    (hjobs : ∀ k, job t k = { job s k with nodes := (job t k).nodes, edges := (job t k).edges }) : WorkStep s t where
  pods := hpods
  marrow := hmarrow
  streams := hstreams
  words := hwords
  rings m := by rw [sqAt_congr hsqs]
  reserved c := by rw [cqAt_congr hcqs]
  due c d hd := by rwa [cqAt_congr hcqs]
  entries m k e he := ⟨e, (entryAt_congr hentries m k).trans he, rfl⟩
  jobs := hjobs

theorem WorkStep.of_frame (h : workFrame t = workFrame s) : WorkStep s t :=
  have hjobs : t.jobs = s.jobs := congrArg (·.jobs) h
  .of_lists (congrArg (·.pods) h) (congrArg (·.marrow) h) (congrArg (·.streams) h) (.of_words (congrArg (·.regs.words) h))
    (congrArg (·.sqs) h) (congrArg (·.cqs) h) (congrArg (·.entries) h) fun k => by rw [job_congr hjobs k]

theorem workFrame_of_portFrame (h : portFrame t = portFrame s) : workFrame t = workFrame s :=
  congrArg (fun u : State => { u with arb := State.reset.arb, mps := State.reset.mps, gates := [], ops := [], decodes := [] }) h

theorem WorkStep.of_portFrame (h : portFrame t = portFrame s) : WorkStep s t := .of_frame (workFrame_of_portFrame h)

theorem workStep_modMem (s : State) (f : Mem → Mem) : WorkStep s (modMem s f) := .of_frame rfl

theorem workStep_arbSettle (s : State) : WorkStep s (arbSettle s) := by
  rw [arbSettle_eq]
  exact .of_frame rfl

theorem workStep_addDue (s : State) (d : Due) : WorkStep s (addDue s d) where
  pods := by rw [addDue_eq]; rfl
  marrow := by rw [addDue_eq]; rfl
  streams := by rw [addDue_eq]; rfl
  words := .of_words (by rw [addDue_eq]; rfl)
  rings m := by rw [addDue_eq]; rfl
  reserved c := by
    rw [cqAt_addDue]
    split <;> rfl
  due c x hx := by
    rw [cqAt_addDue]
    split
    · exact List.mem_append_left _ hx
    · exact hx
  entries m k e he := ⟨e, by rw [addDue_eq]; exact he, rfl⟩
  jobs k := by rw [addDue_eq]; rfl

theorem workStep_finish (s : State) (e : Entry) (status detail count info : Nat) :
    WorkStep s (finish s e status detail count info) := by
  cases hx : entryAt s e.sq e.slot with
  | none =>
    simp only [finish, hx]
    exact .refl s
  | some x =>
    by_cases hst : x.st = .done
    · simp only [finish, hx, if_pos hst]
      exact .refl s
    · rw [finish_eq hx hst]
      refine WorkStep.trans (t := modEntry s e.sq e.slot Entry.ended) ?_ (workStep_addDue ..)
      exact ⟨rfl, rfl, rfl, .refl s, fun _ => rfl, fun _ => rfl, fun _ _ h => h, fun m k y hy => by
        rw [entryAt_modEntry (f := Entry.ended) (fun _ => rfl) (fun _ => rfl), hy, Option.map_some]
        split <;> exact ⟨_, rfl, rfl⟩, fun _ => rfl⟩

/-- The completion of an entry that ends is due (R75). -/
theorem due_finish {e x : Entry} (hx : entryAt s e.sq e.slot = some x) (hst : x.st ≠ .done) (status detail count info : Nat) :
    finalDue x status detail count info ∈ (cqAt (finish s e status detail count info) (sqCq s e.sq)).due := by
  have hsq : x.sq = e.sq := (entryAt_some hx).1
  have hcq : sqCq (modEntry s e.sq e.slot Entry.ended) x.sq = sqCq s e.sq := by rw [hsq]; rfl
  rw [finish_eq hx hst, cqAt_addDue, if_pos (by rw [finalDue, hcq])]
  exact List.mem_append_right _ (List.mem_singleton_self _)

theorem PurgeStep.work (h : PurgeStep s t) : WorkStep s t :=
  .of_lists (congrArg (·.pods) h.frame) (congrArg (·.marrow) h.frame) (congrArg (·.streams) h.frame)
    (.of_words (congrArg (·.regs.words) h.frame)) h.sqs (congrArg (·.cqs) h.frame) (congrArg (·.entries) h.frame) h.job

theorem workStep_modSq (s : State) (n : Nat) {f : Sq → Sq} (hf : ∀ q, (f q).place = q.place) : WorkStep s (modSq s n f) :=
  ⟨rfl, rfl, rfl, .refl s, fun m => by
    rw [sqAt_modSq]
    split
    · next h => rw [hf, h]
    · rfl, fun _ => rfl, fun _ _ h => h, fun _ _ e h => ⟨e, h, rfl⟩, fun _ => rfl⟩

/-- A period boundary changes counters and `PAGE_SEQ` (R451). -/
theorem workStep_latchRange (s : State) (p lo hi : Nat) : WorkStep s (latchRange s p lo hi) :=
  .of_lists rfl rfl rfl (ownWords_wrg (o := 0x01C) (by decide) _ _ _) rfl rfl rfl fun _ => rfl

theorem workStep_latchPage (s : State) (p : Nat) : WorkStep s (latchPage s p) := workStep_latchRange ..

theorem workStep_batchBoundary (s : State) (n : Nat) : WorkStep s (batchBoundary s n) := by
  have hlatch (u : State) (k : Nat) (a : Prop) [Decidable a] : WorkStep u (if a then latchPage u k else u) := by
    split
    · exact workStep_latchPage ..
    · exact .refl u
  unfold batchBoundary
  extract_lets a b c
  have ha : WorkStep s a := hlatch s 3 _
  have hb : WorkStep a b := hlatch a 9 _
  have hc : WorkStep b c := hlatch b 0x00A _
  exact ha.trans (hb.trans (hc.trans (workStep_latchRange ..)))

theorem workStep_askPool (s : State) (c : Nat) (u : PoolUser) : WorkStep s (askPool s c u) := workStep_modMem ..

theorem workStep_closeBatch (s : State) (n code : Nat) : WorkStep s (closeBatch s n code) := by
  unfold closeBatch
  extract_lets a b _ closed cls
  split
  · exact .refl s
  · have hclosed : WorkStep s closed := workStep_modSq s n fun _ => rfl
    exact hclosed.trans ((workStep_batchBoundary closed n).trans (workStep_askPool ..))

theorem workStep_bump32 (s : State) (p o n : Nat) : WorkStep s (bump32 s p o n) := by
  unfold bump32
  split
  · exact .refl s
  · exact .of_frame rfl

theorem workStep_stopSettle (s : State) (n : Nat) : WorkStep s (stopSettle s n) := by
  unfold stopSettle
  split
  · exact .refl s
  · next e _ =>
    split
    · exact .refl s
    · extract_lets b owed
      have howed : WorkStep s owed := workStep_addDue ..
      have hring : WorkStep owed (modSq owed n fun q => { q with st := .stopped, stopSlot := e.slot }) :=
        workStep_modSq owed n fun _ => rfl
      exact howed.trans (hring.trans ((workStep_arbSettle _).trans (workStep_bump32 ..)))

theorem workStep_fenceClose (s : State) (n : Nat) : WorkStep s (fenceClose s n) := by
  unfold fenceClose
  split
  · split
    · exact workStep_stopSettle ..
    · exact (workStep_closeBatch ..).trans (workStep_stopSettle ..)
  · exact workStep_stopSettle ..

theorem workStep_endStreams (s : State) (j : Nat) : WorkStep s (endStreams s j) :=
  .foldl (fun _ _ _ => workStep_finish ..) s

theorem workFrame_bump (s : State) (p k n : Nat) : workFrame (bump s p k n) = workFrame s :=
  workFrame_of_portFrame (portFrame_bump ..)

/-- Members that arrive change gates and counters only (R312). -/
theorem workFrame_arrivals (s : State) (j : Nat) : workFrame (arrivals s j) = workFrame s := by
  simp only [arrivals]
  split
  · refine foldl_keeps workFrame (fun u g _ => foldl_keeps workFrame (fun v m _ => ?_) u) s
    split
    · next h =>
      rw [Bool.and_eq_true, Bool.not_eq_true'] at h
      simp only [gateArriveMember, h.1, Bool.false_eq_true, if_false, countArrival, workFrame_bump]
      rfl
    · rfl
  · rfl

theorem workStep_arrivals (s : State) (j : Nat) : WorkStep s (arrivals s j) := .of_frame (workFrame_arrivals s j)

theorem workStep_removeUnit (s : State) (n r : Nat) : WorkStep s (removeUnit s n r) := workStep_modSq s n fun _ => rfl

theorem workStep_ringHolds (s : State) (n : Nat) : WorkStep s (ringHolds s n) :=
  WorkStep.trans (workStep_modMem ..) (.foldl (fun _ _ _ => .of_portFrame (portFrame_sendReq _)) _)

/-- A refusal that no stop holds (R67). -/
theorem refuseEntry_of_free {e : Entry} (h : heldByStop s e = false) (code : Nat) : refuseEntry s e code =
    arrivals (endStreams (fenceClose (purge (removeUnit (finish s e stRefused code) e.sq e.rank) e.job) e.sq) e.job) e.job := by
  simp only [refuseEntry, h, Bool.false_eq_true, if_false]

/-- What follows the end of a refused entry (R67, R211). -/
theorem workStep_refuseEntry_rest (s : State) (e : Entry) :
    WorkStep s (arrivals (endStreams (fenceClose (purge (removeUnit s e.sq e.rank) e.job) e.sq) e.job) e.job) :=
  (workStep_removeUnit ..).trans ((purgeStep_purge ..).work.trans ((workStep_fenceClose ..).trans
    ((workStep_endStreams ..).trans (workStep_arrivals ..))))

end Sys2Proof.Machine
end

section
/-! What an event of the fault collector leaves alone when none of its reactions is a block reset: records, messages, a dump and the
fault page's own registers are all that it writes (spec/15 R370 to R377, Table 15-2, spec/12 R309, spec/16 R391). -/

namespace Sys2Proof.Machine

variable {s t u : State} {src : Nat}

/-! ## Registers of other pages -/

theorem filter_sput {α : Type} (p : Nat → Bool) {k : Nat} (hk : p k = false) (m : List (Nat × α)) (v : α) :
    (sput m k v).filter (fun e => p e.1) = m.filter fun e => p e.1 := by
  induction m with
  | nil => simp [sput, hk]
  | cons e m ih =>
    obtain ⟨j, w⟩ := e
    simp only [sput]
    split
    · simp [hk]
    · split
      · next h => subst h; simp [hk]
      · simp only [List.filter_cons, ih]

theorem filter_sdel {α : Type} (p : Nat → Bool) {k : Nat} (hk : p k = false) (m : List (Nat × α)) :
    (sdel m k).filter (fun e => p e.1) = m.filter fun e => p e.1 := by
  induction m with
  | nil => rfl
  | cons e m ih =>
    obtain ⟨j, w⟩ := e
    simp only [sdel]
    split
    · next h => subst h; simp [hk]
    · simp only [List.filter_cons, ih]

theorem filter_sset {α : Type} [DecidableEq α] (p : Nat → Bool) {k : Nat} (hk : p k = false) (m : List (Nat × α)) (v d : α) :
    (sset m k v d).filter (fun e => p e.1) = m.filter fun e => p e.1 := by
  unfold sset
  split
  · exact filter_sdel p hk m
  · exact filter_sput p hk m v

theorem sgetD_filter {α : Type} (p : Nat → Bool) {k : Nat} (hk : p k = true) (m : List (Nat × α)) (d : α) :
    sgetD (m.filter fun e => p e.1) k d = sgetD m k d := by
  unfold sgetD
  congr 1
  induction m with
  | nil => rfl
  | cons e m ih =>
    obtain ⟨j, w⟩ := e
    by_cases hj : j = k
    · subst hj
      simp [sget?, hk]
    · cases hp : p j <;> simp [sget?, hj, hp, ih]

/-- Whether a word address lies outside the fault page. -/
def offFltPage (k : Nat) : Bool := decide (k / 1024 ≠ 1)

theorem offFltPage_wa {p o : Nat} (hp : p ≠ 1) (ho : o < 0x1000) : offFltPage (wa p o) = true := by
  have h : wa p o / 1024 ≠ 1 := by rw [wa]; omega
  exact decide_eq_true h

/-! ## The frame of an event -/

/-- The state with everything blanked that an event without a block reset may change. -/
def alertFrame (s : State) : State :=
  { s with
    pins := { s.pins with rstReq := false }
    flt := { State.reset.flt with active := s.flt.active }
    blk := { s.blk with blockCnt := 0 }
    regs := { s.regs with words := s.regs.words.filter (fun e => offFltPage e.1), live := [], latched := [] }
    mps := { s.mps with dumpState := 0, dumpSevere := false, dumpSkipped := false, dumpUnit := 0, dumpT0 := 0, dumpT1 := 0 }
    mem := { s.mem with reqs := [], held := [], retry := [] }
    stw := State.reset.stw, free := 0 }

theorem alertFrame_modMem {f : Mem → Mem} (hf : { f s.mem with reqs := [], held := [], retry := [] } =
    { s.mem with reqs := [], held := [], retry := [] }) : alertFrame (modMem s f) = alertFrame s :=
  congrArg (fun m => { alertFrame s with mem := m }) hf

theorem alertFrame_wrg (s : State) {o : Nat} (ho : o < 0x1000) (v : Nat) : alertFrame (wrg s 1 o v) = alertFrame s := by
  have hpage : wa 1 o / 1024 = 1 := by rw [wa]; omega
  have hoff : offFltPage (wa 1 o) = false := decide_eq_false (not_not.2 hpage)
  exact congrArg (fun w => { alertFrame s with regs := { (alertFrame s).regs with words := w } }) (filter_sset offFltPage hoff ..)

theorem alertFrame_bump (s : State) (p k n : Nat) : alertFrame (bump s p k n) = alertFrame s := by
  obtain ⟨live, h⟩ := bump_live s p k n
  rw [h]
  rfl

theorem alertFrame_sendReq (s : State) (r : MemReq) : alertFrame (sendReq s r) = alertFrame s := by
  unfold sendReq
  extract_lets j
  generalize freeTag s j = tag
  cases tag with
  | some k => exact (alertFrame_modMem rfl).trans (alertFrame_bump ..)
  | none => exact alertFrame_modMem rfl

theorem alertFrame_memWrite (s : State) (a : Nat) (d : List Byte) (x c p : Nat) (pu : Purpose) :
    alertFrame (memWrite s a d x c p pu) = alertFrame s := by
  unfold memWrite sendWrite
  split
  · exact alertFrame_modMem rfl
  · exact alertFrame_sendReq ..

theorem alertFrame_modStw (s : State) (f : Steward → Steward) : alertFrame (modStw s f) = alertFrame s := rfl

theorem alertFrame_stwInterrupt (s : State) : alertFrame (stwInterrupt s) = alertFrame s := by
  unfold stwInterrupt
  split
  · exact alertFrame_memWrite ..
  · rfl

theorem alertFrame_mbxNotice (s : State) (k : Nat) (ws : List Word) : alertFrame (mbxNotice s k ws) = alertFrame s := by
  have hpush (u : State) (m : List Word) : alertFrame (mbxPush u m) = alertFrame u := by
    simp only [mbxPush]
    split
    · exact alertFrame_stwInterrupt _
    · rfl
  unfold mbxNotice
  split
  · rfl
  · rw [hpush]
    split <;> rfl

theorem alertFrame_logWrite (s : State) (r : LogRec) : alertFrame (logWrite s r) = alertFrame s := alertFrame_memWrite ..

theorem alertFrame_logFlush (s : State) : alertFrame (logFlush s) = alertFrame s := by
  have hlatch : alertFrame (latchPage s 1) = alertFrame s :=
    (alertFrame_wrg { s with regs := { s.regs with live := _, latched := _ } } (o := 0x01C) (by decide) _).trans rfl
  simp only [logFlush, alertFrame_modStw]
  refine (foldl_keeps alertFrame (fun u r _ => alertFrame_logWrite ..) _).trans ?_
  refine (foldl_keeps alertFrame (fun u r _ => alertFrame_sendReq ..) _).trans ?_
  exact (alertFrame_modMem rfl).trans hlatch

/-! ## Records and reactions -/

theorem alertFrame_modFlt {g : Collector → Collector} (hg : (g s.flt).active = s.flt.active) :
    alertFrame (modFlt s g) = alertFrame s :=
  congrArg (fun a => { alertFrame s with flt := { State.reset.flt with active := a } }) hg

theorem alertFrame_logPut (s : State) (r : Wayside) : alertFrame (logPut s r) = alertFrame s :=
  (alertFrame_bump ..).trans (alertFrame_modFlt rfl)

theorem alertFrame_recordNew (s : State) (r : Wayside) : alertFrame (recordNew s r) = alertFrame s := by
  unfold recordNew
  split
  · split
    · exact (alertFrame_bump ..).trans ((alertFrame_wrg _ (by decide) _).trans (alertFrame_modFlt rfl))
    · exact alertFrame_modFlt rfl
  · exact alertFrame_logPut ..

theorem alertFrame_recordEvent (s : State) (r : Wayside) (x : Inst) (severe wire : Bool) (fired : Nat) :
    alertFrame (recordEvent s r x severe wire fired) = alertFrame s := by
  have hnew (w : Wayside) : alertFrame (recordNew (logLater s (.wayside r.source)) w) = alertFrame s := alertFrame_recordNew ..
  simp only [recordEvent]
  split
  · exact hnew _
  · split
    · split
      · split
        · exact (alertFrame_modFlt rfl).trans (alertFrame_bump ..)
        · exact (alertFrame_modFlt rfl).trans (alertFrame_bump ..)
      · exact hnew _
    · exact hnew _

theorem alertFrame_dumpOnSevere (s : State) : alertFrame (dumpOnSevere s) = alertFrame s := by
  have hstart : alertFrame (dumpStart s true) = alertFrame s := by
    unfold dumpStart dumpUnit
    refine (foldl_keeps alertFrame (fun u k _ => alertFrame_memWrite ..) _).trans ?_
    rw [alertFrame_bump]
    rfl
  unfold dumpOnSevere
  split
  · split
    · rfl
    · exact hstart
  · rfl

theorem alertFrame_onSevere (s : State) (h2 : src ≠ 2) (h4 : src ≠ 4) (h18 : src ≠ 18) (i : Nat) :
    alertFrame (onSevere s src i) = alertFrame s := by
  simp only [onSevere, if_neg h2, if_neg h4, if_neg h18]
  exact alertFrame_dumpOnSevere s

theorem alertFrame_fltInterrupt (s : State) : alertFrame (fltInterrupt s) = alertFrame s := by
  unfold fltInterrupt
  extract_lets u
  split
  · exact (alertFrame_memWrite ..).trans (alertFrame_bump ..)
  · exact alertFrame_bump ..

/-- A block reset asked for in `HALTED` is only counted (Table 15-2). -/
theorem alertFrame_startBlockReset (h : s.blk.st = .halted) : alertFrame (startBlockReset s) = alertFrame s := by
  have hst : (modBlk s fun b => { b with blockCnt := min 65535 (b.blockCnt + 1) }).blk.st = .halted := h
  unfold startBlockReset
  split
  · simp only [hst]
    rfl
  · rfl

/-- The reactions leave the frame, but for a block reset that their mask holds (Table 15-2). -/
theorem react_eq (s : State) (mask : Nat) (r : Wayside) : ∃ u, alertFrame u = alertFrame s ∧
    (react s mask r = u ∨ bitN mask 2 = true ∧ react s mask r = startBlockReset u) := by
  unfold react
  extract_lets latched told noted _ asked
  have h1 : alertFrame latched = alertFrame s := by
    unfold latched
    split
    · exact alertFrame_modFlt rfl
    · rfl
  have h2 : alertFrame told = alertFrame latched := by
    unfold told
    split
    · split
      · rfl
      · exact (alertFrame_fltInterrupt _).trans (alertFrame_modFlt rfl)
    · rfl
  have h3 : alertFrame noted = alertFrame told := by
    unfold noted
    split
    · exact (alertFrame_logFlush _).trans (alertFrame_mbxNotice ..)
    · rfl
  have h4 : alertFrame asked = alertFrame noted := by
    unfold asked
    split <;> rfl
  refine ⟨asked, h4.trans (h3.trans (h2.trans h1)), ?_⟩
  split
  · next hbit => exact .inr ⟨hbit, rfl⟩
  · exact .inl rfl

/-- The reactions of source `src` start no block reset: they hold none, or the block is halted. -/
def startsNoReset (s : State) (src : Nat) : Prop := noReset s src ∨ s.blk.st = .halted

/-- A source marked as active. -/
def withActive (s : State) (src : Nat) : State := modFlt s fun c => { c with active := c.active ||| BitVec.ofNat 32 (2 ^ src) }

/-- An event that the collector hears leaves the frame, but for a block reset that its reactions hold. -/
theorem raiseAs_eq {i : Nat} (hh : hears s src i = true) (h2 : src ≠ 2) (h4 : src ≠ 4) (h18 : src ≠ 18) (h21 : src ≠ 21)
    (info : Word) (ctx : EventCtx) (pod : Nat) (wire : Bool) (unit : Nat) :
    ∃ u, alertFrame u = alertFrame (withActive s src) ∧ (raiseAs s src i info ctx pod wire unit = u ∨
      ¬ noReset s src ∧ raiseAs s src i info ctx pod wire unit = startBlockReset u) := by
  unfold raiseAs
  rw [if_neg (by simp [hh])]
  extract_lets cfg old w restart x nowSevere becomes x' mask0 mask uf rd bit counted b1 b2 b3 b4
  have hcounted : alertFrame counted = alertFrame (withActive s src) := rfl
  have h1 : alertFrame b1 = alertFrame counted := alertFrame_bump ..
  have hb2 : alertFrame b2 = alertFrame b1 := by
    unfold b2
    split
    · exact alertFrame_bump ..
    · rfl
  have h3 : alertFrame b3 = alertFrame b2 := alertFrame_recordEvent ..
  have hb4 : alertFrame b4 = alertFrame b3 := by
    unfold b4
    split
    · exact alertFrame_onSevere _ h2 h4 h18 i
    · rfl
  obtain ⟨u, hu, hreact⟩ := react_eq b4 mask { rd with rflags := rd.rflags ||| (8 * mask) }
  refine ⟨u, hu.trans (hb4.trans (h3.trans (hb2.trans (h1.trans hcounted)))), hreact.imp_right fun ⟨hbit, heq⟩ => ⟨fun hno => ?_, heq⟩⟩
  have hmask : mask = mask0 := if_neg h21
  have hnone : bitN mask0 2 = false := by
    unfold mask0
    split
    · exact (bitN_bits _ 2 28 24 (by decide)).trans hno.2
    · exact (bitN_bits _ 2 20 16 (by decide)).trans hno.1
  rw [hmask, hnone] at hbit
  cases hbit

/-- What an event leaves that the collector hears and that starts no block reset. -/
theorem alertFrame_raise {i : Nat} (hh : hears s src i = true) (h2 : src ≠ 2) (h4 : src ≠ 4) (h18 : src ≠ 18) (h21 : src ≠ 21)
    (hr : startsNoReset s src) (info pod : Nat) : alertFrame (raise s src i info pod) = alertFrame (withActive s src) := by
  obtain ⟨u, hu, heq⟩ := raiseAs_eq (s := draw s) hh h2 h4 h18 h21 (BitVec.ofNat 32 info) (noCtx s) pod false src
  rcases heq with heq | ⟨hreset, heq⟩
  · rw [raise, heq, hu]
    rfl
  · have hst : u.blk.st = .halted := (congrArg (·.blk.st) hu).trans (hr.resolve_left hreset)
    rw [raise, heq, alertFrame_startBlockReset hst, hu]
    rfl

/-- An event that the collector does not hear only draws its free values. -/
theorem raise_of_deaf {i : Nat} (hh : hears s src i = false) (info pod : Nat) : raise s src i info pod = draw s := by
  have hdeaf : hears (draw s) src i = false := hh
  rw [raise, raiseAs, if_pos hdeaf]

/-- The frame without what a block reset that an event starts changes: block and Pod states, requests, pins and power (R410). -/
def resetFrame (s : State) : State :=
  { alertFrame s with
    pins := State.reset.pins, pwr := State.reset.pwr, pods := [], blk := State.reset.blk, mem := State.reset.mem, flt := State.reset.flt }

theorem resetFrame_startBlockReset (s : State) : resetFrame (startBlockReset s) = resetFrame s := by
  have hlast (u : State) (f : Block → Block) : resetFrame (modBlk (bump (quiesce u) 1 7) f) = resetFrame u := by
    obtain ⟨live, h⟩ := bump_live (quiesce u) 1 7 1
    rw [h]
    rfl
  unfold startBlockReset
  split
  · extract_lets u v
    split
    · rfl
    · rfl
    · rfl
    · rfl
    · exact hlast _ _
  · rfl

/-- What any event of such a source leaves, heard or not, a block reset started or not. -/
theorem resetFrame_raise (h2 : src ≠ 2) (h4 : src ≠ 4) (h18 : src ≠ 18) (h21 : src ≠ 21) (s : State) (i info pod : Nat) :
    resetFrame (raise s src i info pod) = resetFrame s := by
  cases hh : hears s src i with
  | false =>
    rw [raise_of_deaf hh]
    rfl
  | true =>
    obtain ⟨u, hu, heq⟩ := raiseAs_eq (s := draw s) hh h2 h4 h18 h21 (BitVec.ofNat 32 info) (noCtx s) pod false src
    have hreset : resetFrame u = resetFrame s := congrArg (fun v : State => { v with
      pins := State.reset.pins, pwr := State.reset.pwr, pods := [], blk := State.reset.blk, mem := State.reset.mem,
      flt := State.reset.flt }) hu
    rcases heq with heq | ⟨-, heq⟩
    · rw [raise, heq, hreset]
    · rw [raise, heq, resetFrame_startBlockReset, hreset]

/-- The stored words of other pages stay in such a frame. -/
theorem rgw_of_words (h : t.regs.words.filter (fun e => offFltPage e.1) = s.regs.words.filter fun e => offFltPage e.1) {p o : Nat}
    (hp : p ≠ 1) (ho : o < 0x1000) : rgw t p o = rgw s p o := by
  rw [rgw, rgw, ← sgetD_filter offFltPage (offFltPage_wa hp ho), h, sgetD_filter offFltPage (offFltPage_wa hp ho)]

theorem sqCq_of_words (h : t.regs.words.filter (fun e => offFltPage e.1) = s.regs.words.filter fun e => offFltPage e.1) (n : Nat) :
    sqCq t n = sqCq s n := by
  rw [sqCq, sqr, rg, rgw_of_words h (by rw [sqPage]; omega) (by rw [ringOfs]; omega)]
  rfl

end Sys2Proof.Machine
end

section
/-! The fetch of an entry: the slot that is taken, the record that the entry gets, and the halt on a malformed one (spec/03 R68 to R73,
R86, R87, spec/10 R249). -/

namespace Sys2Proof.Machine

variable {s t u : State} {n op : Nat} {b : EntryBody}

/-! ## The slot -/

/-- The slot at the fetch index of ring `n` has been taken between `s` and `t`: the ring moved on and a completion is reserved. -/
structure Taken (s t : State) (n : Nat) : Prop where
  frame : walkFrame t = walkFrame s
  ring : sqAt t n = { (sqAt s n).advance (decide ((sqAt s n).fetch + 1 ≥ sqSize s n)) with backoff := false }
  cq : cqAt t (sqCq s n) = { cqAt s (sqCq s n) with reserved := (cqAt s (sqCq s n)).reserved + 1 }
  mem : memKept s t

theorem Taken.words (h : Taken s t n) : OwnWords s t := .of_walkFrame h.frame

theorem walkFrame_restRound (s : State) : walkFrame (restRound s) = walkFrame s := by
  unfold restRound
  split <;> rfl

theorem walkFrame_bump (s : State) (p k m : Nat) : walkFrame (bump s p k m) = walkFrame s := by
  obtain ⟨live, h⟩ := bump_live s p k m
  rw [h]
  rfl

theorem restRound_sqs (s : State) : (restRound s).sqs = s.sqs := by
  unfold restRound
  split <;> rfl

theorem restRound_cqs (s : State) : (restRound s).cqs = s.cqs := by
  unfold restRound
  split <;> rfl

theorem memKept_of_walkFrame (h : walkFrame t = walkFrame s) : memKept s t := by
  have hmem : (walkFrame t).mem = (walkFrame s).mem := by rw [h]
  exact congrArg (fun m : Mem => { m with direct := t.mem.direct }) hmem

/-- A ring whose slot is fetched (R68). -/
def Sq.fetchNext (wrap : Bool) (q : Sq) : Sq := { q.advance wrap with backoff := false }

theorem takeSlot_eq (s : State) (n : Nat) (fresh : Bool) : takeSlot s n fresh =
    restRound (bump (modCq (modSq (takeTurn s n fresh) n (Sq.fetchNext (decide ((sqAt s n).fetch + 1 ≥ sqSize s n)))) (sqCq s n)
      fun c => { c with reserved := c.reserved + 1 }) (sqPage n) (2 * (n % 16))) := rfl

theorem takeSlot_taken (s : State) (n : Nat) (fresh : Bool) : Taken s (takeSlot s n fresh) n := by
  have hframe : walkFrame (takeSlot s n fresh) = walkFrame s := by
    rw [takeSlot_eq, walkFrame_restRound, walkFrame_bump]
    rfl
  refine ⟨hframe, ?_, ?_, memKept_of_walkFrame hframe⟩
  · rw [takeSlot_eq, sqAt_congr (restRound_sqs _), sqAt_congr (bump_sqs ..)]
    exact (sqAt_modSq (takeTurn s n fresh) n n _).trans (if_pos rfl)
  · rw [takeSlot_eq, cqAt_congr (restRound_cqs _), cqAt_congr (bump_cqs ..)]
    exact (cqAt_modCq _ (sqCq s n) (sqCq s n) _).trans (if_pos rfl)

/-- A read slot is taken (R68, R70). -/
theorem taken_of_fetch (s : State) (n : Nat) (fresh : Bool) : Taken s (takeSlot (slotFetch s n .okay) n fresh) n := by
  obtain ⟨hframe, hsqs, hcqs⟩ := slotFetch_keeps (.inl rfl) s n
  have h := takeSlot_taken (slotFetch s n .okay) n fresh
  have hw : OwnWords s (slotFetch s n .okay) := .of_walkFrame hframe
  refine ⟨h.frame.trans hframe, ?_, ?_, memKept_of_walkFrame (h.frame.trans hframe)⟩
  · rw [h.ring, sqAt_congr hsqs, hw.sqSize]
  · rw [← hw.sqCq, h.cq, cqAt_congr hcqs]

theorem Taken.jobs (h : Taken s t n) : t.jobs = s.jobs := congrArg (·.jobs) h.frame
theorem Taken.streams (h : Taken s t n) : t.streams = s.streams := congrArg (·.streams) h.frame
theorem Taken.entries (h : Taken s t n) : t.entries = s.entries := congrArg (·.entries) h.frame

theorem Taken.fetched (h : Taken s t n) : fetchedOne s t n :=
  ⟨by rw [h.ring]; rfl, by rw [h.ring]; rfl, by rw [h.cq]⟩

/-- The checks of Table 3-8 read jobs and registers only. -/
theorem entryCheck_taken (h : Taken s t n) (op : Nat) (b : EntryBody) : entryCheck t n op b = entryCheck s n op b := by
  have hframe : entryCheck (walkFrame t) n op b = entryCheck (walkFrame s) n op b := by rw [h.frame]
  exact hframe

/-! ## A malformed entry -/

/-- What a fetched slot leads to, whether its entry is well formed or not. -/
theorem fetchEntry_eq (h : fetches s n b) (op : Nat) (aug : HostRead) : ∃ t, Taken s t n ∧ fetchEntry s n op b aug =
    match entryCheck s n op b with
    | some c => haltBlock t n (sqAt s n).fetch op b c
    | none => arbSettle (runEntry (enterEntry (reserveSlots t b.job.toNat op).1
        (newEntry (reserveSlots t b.job.toNat op).1 n (sqAt s n).fetch op b (reserveSlots t b.job.toNat op).2))
        (newEntry (reserveSlots t b.job.toNat op).1 n (sqAt s n).fetch op b (reserveSlots t b.job.toNat op).2) aug) := by
  obtain ⟨⟨fresh, hnext⟩, hphase, -⟩ := h
  have ht := taken_of_fetch s n fresh
  refine ⟨_, ht, ?_⟩
  rw [← entryCheck_taken ht]
  unfold fetchEntry
  rw [hnext]
  exact if_neg (by rw [hphase]; simp)

theorem abandonSwap_eq (s : State) : ∃ m mps itg, abandonSwap s = { s with marrow := m, mps := mps, itg := itg } := by
  unfold abandonSwap
  split
  · rw [zeroise_eq]
    exact ⟨_, _, _, rfl⟩
  · exact ⟨_, _, _, rfl⟩

/-- A state without what the abort of a copy and the halt itself change (R87, R353). -/
def haltBlank (s : State) : State :=
  { s with marrow := State.reset.marrow, mps := State.reset.mps, itg := State.reset.itg, blk := State.reset.blk, flt := State.reset.flt }

/-- The block state of a halt on entry `b`, malformed as `x` says (R87). -/
def haltedBlk (s : State) (n slot op : Nat) (b : EntryBody) (x : Nat × Nat) : Block :=
  { s.blk with
    st := .halted, haltWhere := BitVec.ofNat 32 (n + 2 ^ 16 * slot), haltWhy := BitVec.ofNat 32 (x.1 + 2 ^ 16 * x.2 + 2 ^ 31)
    haltTime := s.time, haltEntry := (toWords 16 (entryBytes op b)).map (BitVec.ofNat 32) }

theorem haltBlock_eq (s : State) (n slot op : Nat) (b : EntryBody) (x : Nat × Nat) : ∃ u, haltBlank u = haltBlank s ∧
    u.blk = haltedBlk s n slot op b x ∧ haltBlock s n slot op b x = raise u 1 127 (n + 2 ^ 16 * slot) := by
  unfold haltBlock
  split
  · obtain ⟨m, mps, itg, h⟩ := abandonSwap_eq s
    rw [h]
    exact ⟨{ s with marrow := m, mps := mps, itg := itg, blk := haltedBlk s n slot op b x }, rfl, rfl, rfl⟩
  · exact ⟨{ s with blk := haltedBlk s n slot op b x }, rfl, rfl, rfl⟩

/-- A halt records where and why, and otherwise an aborted copy and an event are all that changes (R87). -/
theorem haltBlock_step (s : State) (n slot op : Nat) (b : EntryBody) (x : Nat × Nat) :
    haltBlank (alertFrame (haltBlock s n slot op b x)) = haltBlank (alertFrame s) ∧
    ({ (haltBlock s n slot op b x).blk with blockCnt := 0 } : Block) = { haltedBlk s n slot op b x with blockCnt := 0 } := by
  obtain ⟨u, hsame, hblk, h⟩ := haltBlock_eq s n slot op b x
  have hst : u.blk.st = .halted := by rw [hblk]; rfl
  have hheard : hears u 1 127 = true := hears_block (by rw [hst]; decide) 1
  have hraise := alertFrame_raise hheard (by decide) (by decide) (by decide) (by decide) (.inr hst) (n + 2 ^ 16 * slot) 127
  have hblank : haltBlank (alertFrame (haltBlank u)) = haltBlank (alertFrame (haltBlank s)) := by rw [hsame]
  rw [h]
  refine ⟨(congrArg haltBlank hraise).trans hblank, ?_⟩
  rw [← hblk]
  exact congrArg (·.blk) hraise

/-- What a malformed entry leaves (R86, R87). -/
theorem fetchEntry_halts (h : fetches s n b) {x : Nat × Nat} (hx : entryCheck s n op b = some x) (aug : HostRead) :
    let t := fetchEntry s n op b aug
    t.blk.st = .halted ∧ t.blk.haltWhere = BitVec.ofNat 32 (n + 2 ^ 16 * (sqAt s n).fetch) ∧
    t.blk.haltWhy = BitVec.ofNat 32 (x.1 + 2 ^ 16 * x.2 + 2 ^ 31) ∧ t.blk.haltTime = s.time ∧
    t.blk.haltEntry = (toWords 16 (entryBytes op b)).map (BitVec.ofNat 32) ∧ t.entries = s.entries ∧ t.jobs = s.jobs ∧
    (cqAt t (sqCq s n)).due = (cqAt s (sqCq s n)).due ∧ t.pods = s.pods ∧ t.streams = s.streams := by
  obtain ⟨v, hv, heq⟩ := fetchEntry_eq h op aug
  rw [hx] at heq
  obtain ⟨hframe, hblk⟩ := haltBlock_step v n (sqAt s n).fetch op b x
  intro t
  have ht : t = haltBlock v n (sqAt s n).fetch op b x := heq
  rw [← ht] at hframe hblk
  have hcqs : t.cqs = v.cqs := congrArg (·.cqs) hframe
  have htime : v.time = s.time := congrArg (·.time) hv.frame
  have hpods : v.pods = s.pods := congrArg (·.pods) hv.frame
  refine ⟨congrArg (·.st) hblk, congrArg (·.haltWhere) hblk, congrArg (·.haltWhy) hblk, (congrArg (·.haltTime) hblk).trans htime,
    congrArg (·.haltEntry) hblk, (congrArg (·.entries) hframe).trans hv.entries, (congrArg (·.jobs) hframe).trans hv.jobs, ?_,
    (congrArg (·.pods) hframe).trans hpods, (congrArg (·.streams) hframe).trans hv.streams⟩
  rw [cqAt_congr hcqs, hv.cq]

/-- Settles O32: the check answers before anything but the slot is taken, and the halt touches neither entries nor completions. -/
theorem malformedEntryHalts : Obligations.MalformedEntryHalts := by
  unfold Obligations.MalformedEntryHalts
  intro s n e x hf c op hc hx
  rcases hc with ⟨rfl, rfl⟩ | ⟨rfl, rfl⟩ | ⟨rfl, rfl⟩ | ⟨rfl, rfl⟩ | ⟨aug, haug, rfl, rfl⟩
  · exact ⟨_, rfl, fetchEntry_halts hf hx noAug⟩
  · exact ⟨_, rfl, fetchEntry_halts hf hx noAug⟩
  · exact ⟨_, rfl, fetchEntry_halts hf hx noAug⟩
  · exact ⟨_, rfl, fetchEntry_halts hf hx noAug⟩
  · exact ⟨_, if_pos haug, fetchEntry_halts hf hx aug⟩

end Sys2Proof.Machine
end

section
/-! A well-formed entry: its rank, task number and generator slots, and what runs it (spec/03 R67, spec/10 R248, R249). -/

namespace Sys2Proof.Machine

variable {s t u v : State} {n op : Nat} {b : EntryBody} {e : Entry}

/-! ## Generator slots -/

/-- Slot positions `l` after the uses `us` (R248). -/
def slotsAfter (us : List (Nat × Nat)) (l : List Nat) : List Nat :=
  us.foldl (fun l u => l.set u.1 (slotAdvance (l.getD u.1 0) u.2)) l

/-- Slots of job `j` were reserved between `s` and `t`, which counts wraps on page 0x00B (R249, R250). -/
structure Reserves (j : Nat) (us : List (Nat × Nat)) (s t : State) : Prop where
  frame : { t with regs := s.regs, jobs := s.jobs } = s
  words : OwnWords s t
  job : job t j = { job s j with slotPos := slotsAfter us (job s j).slotPos }
  others : ∀ k, k ≠ j → Machine.job t k = Machine.job s k

theorem reserves_one (j : Nat) (s : State) (x : Nat × Nat) : Reserves j [x] s (reserveOne j s x) := by
  unfold reserveOne
  extract_lets p counted
  have hc : { counted with regs := s.regs } = s ∧ OwnWords s counted := by
    unfold counted
    split
    · obtain ⟨live, hb⟩ := bump_live (pageErr s 0x00B 0) 0x00B 3 1
      rw [hb]
      exact ⟨rfl, ownWords_wrg (o := 0x014) (by decide) s _ _⟩
    · exact ⟨rfl, .refl s⟩
  obtain ⟨hframe, hwords⟩ := hc
  have hjob (k : Nat) : Machine.job counted k = Machine.job s k := job_congr (congrArg (·.jobs) hframe) k
  refine ⟨congrArg (fun u : State => { u with jobs := s.jobs }) hframe, hwords, ?_, fun k hk => ?_⟩
  · rw [job_modJob_self, hjob]
    rfl
  · rw [job_modJob_ne hk, hjob]

theorem Reserves.trans {j : Nat} {us vs : List (Nat × Nat)} (h : Reserves j us s t) (h' : Reserves j vs t u) :
    Reserves j (us ++ vs) s u where
  frame := (congrArg (fun w : State => { w with regs := s.regs, jobs := s.jobs }) h'.frame).trans h.frame
  words := h.words.trans h'.words
  job := by
    rw [h'.job, h.job, slotsAfter, slotsAfter, slotsAfter, List.foldl_append]
  others k hk := (h'.others k hk).trans (h.others k hk)

theorem reserves_foldl (j : Nat) (us : List (Nat × Nat)) (s : State) : Reserves j us s (us.foldl (reserveOne j) s) := by
  induction us using List.reverseRecOn with
  | nil => exact ⟨rfl, .refl s, rfl, fun _ _ => rfl⟩
  | append_singleton us x ih =>
    rw [List.foldl_append]
    exact ih.trans (reserves_one j _ x)

/-- The uses of generator slots by an entry of opcode `op` (R249). -/
def entryUses (r : Route) (op : Nat) : List (Nat × Nat) := if op = 1 ∨ op = 2 ∨ op = 4 then slotUses r else []

theorem reserveSlots_reserves (s : State) (j op : Nat) : Reserves j (entryUses (job s j).route op) s (reserveSlots s j op).1 := by
  unfold reserveSlots entryUses
  split
  · exact reserves_foldl ..
  · exact ⟨rfl, .refl s, rfl, fun _ _ => rfl⟩

/-! ## The entered entry -/

/-- Whether an entry starts a task (R67). -/
def startsTask (op : Nat) (b : EntryBody) : Bool := op = 1 || op = 4 || (op = 2 && b.arg.getLsbD 0)

/-- The state with everything blanked that the entry of a fetched slot changes. -/
def enterFrame (s : State) : State := { walkFrame s with regs := State.reset.regs, jobs := [], entries := [] }

/-- The entry `e` of body `b` has been fetched from ring `n` between `s` and `t`, and stands last in the list. -/
structure Entered (s t : State) (n op : Nat) (b : EntryBody) (e : Entry) : Prop where
  frame : enterFrame t = enterFrame s
  mem : memKept s t
  words : OwnWords s t
  fetched : fetchedOne s t n
  entries : t.entries = s.entries ++ [e]
  record : ∃ bases, e = newEntry s n (sqAt s n).fetch op b bases
  job : job t b.job.toNat = { job s b.job.toNat with
    slotPos := slotsAfter (entryUses (job s b.job.toNat).route op) (job s b.job.toNat).slotPos
    nextRank := (job s b.job.toNat).nextRank + 1
    nextTask := (job s b.job.toNat).nextTask + b2n (startsTask op b) }
  others : ∀ k, k ≠ b.job.toNat → Machine.job t k = Machine.job s k

/-- The record of an entry reads its job's counters and members, and its stream. -/
theorem newEntry_congr (hstreams : t.streams = s.streams)
    (hjob : job t b.job.toNat = { job s b.job.toNat with slotPos := (job t b.job.toNat).slotPos }) (slot : Nat) (bases : List (Nat × Nat)) :
    newEntry t n slot op b bases = newEntry s n slot op b bases := by
  have hown : ownStream t n b = ownStream s n b := by rw [ownStream, hstreams]; rfl
  simp only [newEntry, hown]
  rw [hjob]

/-- A job that another entry has entered, one that starts a task or not (R67). -/
def Job.entered (starts : Bool) (x : Job) : Job := { x with nextRank := x.nextRank + 1, nextTask := x.nextTask + b2n starts }

theorem job_enterEntry (s : State) (e : Entry) (k : Nat) : job (enterEntry s e) k =
    if k = e.job then (job s e.job).entered (startsTask e.opcode e.body) else job s k :=
  job_modJob s e.job k (Job.entered (startsTask e.opcode e.body))

/-- A fetched entry that is well formed is entered once its slot is taken and its generator slots are reserved. -/
theorem entered_of_taken (ht : Taken s t n) (hr : Reserves b.job.toNat (entryUses (job t b.job.toNat).route op) t u)
    (bases : List (Nat × Nat)) : Entered s (enterEntry u (newEntry u n (sqAt s n).fetch op b bases)) n op b
      (newEntry u n (sqAt s n).fetch op b bases) := by
  have hjobs (k : Nat) : job t k = job s k := job_congr ht.jobs k
  have hsqs : u.sqs = t.sqs := congrArg (·.sqs) hr.frame
  have hcqs : u.cqs = t.cqs := congrArg (·.cqs) hr.frame
  have hmem : u.mem = t.mem := congrArg (·.mem) hr.frame
  have hstreams : u.streams = t.streams := congrArg (·.streams) hr.frame
  have hentries : u.entries = t.entries := congrArg (·.entries) hr.frame
  have hframe : enterFrame u = enterFrame t := by
    have h := congrArg enterFrame hr.frame
    exact h
  have htaken : enterFrame t = enterFrame s :=
    congrArg (fun w : State => { w with regs := State.reset.regs, jobs := [], entries := [] }) ht.frame
  have hjob := hr.job
  rw [hjobs] at hjob
  refine ⟨hframe.trans htaken, ?_, ht.words.trans hr.words, ?_, ?_, ⟨bases, newEntry_congr (hstreams.trans ht.streams) ?_ ..⟩, ?_,
    fun k hk => ?_⟩
  · change u.mem = { s.mem with direct := u.mem.direct }
    rw [hmem]
    exact ht.mem
  · have hf := ht.fetched
    rw [fetchedOne, ← sqAt_congr hsqs, ← cqAt_congr hcqs] at hf
    exact hf
  · rw [← ht.entries, ← hentries]
    rfl
  · rw [hjob]
  · refine (job_enterEntry ..).trans ((if_pos rfl).trans ?_)
    change (job u b.job.toNat).entered (startsTask op b) = _
    rw [hjob]
    rfl
  · exact (job_enterEntry ..).trans ((if_neg hk).trans ((hr.others k hk).trans (hjobs k)))

/-- What a well-formed entry leads to (R67). -/
theorem fetchEntry_enters (h : fetches s n b) (hok : entryCheck s n op b = none) (aug : HostRead) :
    ∃ v e, Entered s v n op b e ∧ fetchEntry s n op b aug = arbSettle (runEntry v e aug) := by
  obtain ⟨t, ht, heq⟩ := fetchEntry_eq h op aug
  rw [hok] at heq
  exact ⟨_, _, entered_of_taken ht (reserveSlots_reserves ..) _, heq⟩

/-! ## What is known of an entered entry -/

namespace Entered

variable (h : Entered s v n op b e)
include h

theorem sq : e.sq = n := by obtain ⟨bases, rfl⟩ := h.record; rfl
theorem slot : e.slot = (sqAt s n).fetch := by obtain ⟨bases, rfl⟩ := h.record; rfl
theorem opcode : e.opcode = op := by obtain ⟨bases, rfl⟩ := h.record; rfl
theorem body : e.body = b := by obtain ⟨bases, rfl⟩ := h.record; rfl
theorem ofJob : e.job = b.job.toNat := by obtain ⟨bases, rfl⟩ := h.record; rfl
theorem rank : e.rank = (Machine.job s b.job.toNat).nextRank := by obtain ⟨bases, rfl⟩ := h.record; rfl
theorem stage : e.stage = (Machine.job s b.job.toNat).stage := by obtain ⟨bases, rfl⟩ := h.record; rfl
theorem waits : e.st = .waiting := by obtain ⟨bases, rfl⟩ := h.record; rfl
theorem unrefused : e.refusal = 0 := by obtain ⟨bases, rfl⟩ := h.record; rfl
theorem pods : v.pods = s.pods := congrArg (·.pods) h.frame
theorem marrow : v.marrow = s.marrow := congrArg (·.marrow) h.frame
theorem gates : v.gates = s.gates := congrArg (·.gates) h.frame
theorem mps : v.mps = s.mps := congrArg (·.mps) h.frame
theorem streams : v.streams = s.streams := congrArg (·.streams) h.frame
theorem cqOf : sqCq v n = sqCq s n := h.words.sqCq n

/-- The slot was free, so its entry is the entered one (R68). -/
theorem inSlot (hfree : entryAt s n (sqAt s n).fetch = none) : entryAt v n (sqAt s n).fetch = some e := by
  unfold entryAt at hfree ⊢
  rw [h.entries, List.find?_append, hfree, List.find?_singleton]
  simp [h.sq, h.slot]

/-- A stop ahead of the entry is one that stands in the list it joins (R81). -/
theorem held : heldByStop v e = stopAhead s n (Machine.job s b.job.toNat).nextRank := by
  simp [heldByStop, stopAhead, h.entries, h.sq, h.rank, h.waits]

end Entered

/-- The fetch is not undone by work on entries. -/
theorem fetchedOne.work (h : fetchedOne s t n) (hw : WorkStep t u) : fetchedOne s u n := by
  obtain ⟨hfetch, hphase, hreserved⟩ := h
  have hplace := hw.rings n
  exact ⟨(congrArg (·.1) hplace).trans hfetch, (congrArg (·.2.1) hplace).trans hphase, (hw.reserved _).trans hreserved⟩

/-- A completion that was due stays due, on the same ring (R75). -/
theorem dueFinal.work {status detail : Nat} (h : dueFinal s t n b status detail) (hw : WorkStep t u) : dueFinal s u n b status detail := by
  obtain ⟨d, hd, hrest⟩ := h
  exact ⟨d, hw.due _ d hd, hrest⟩

/-- An entered entry that ends owes its completion (R75). -/
theorem Entered.due (h : Entered s v n op b e) (hfree : entryAt s n (sqAt s n).fetch = none) (status detail : Nat) :
    dueFinal s (finish v e status detail) n b status detail := by
  have hx : entryAt v e.sq e.slot = some e := by
    rw [h.sq, h.slot]
    exact h.inSlot hfree
  have hdue := due_finish hx (by rw [h.waits]; decide) status detail 0 (plainInfo status)
  rw [h.sq, h.cqOf] at hdue
  exact ⟨_, hdue, h.sq, h.slot, by rw [← h.body]; rfl, rfl, rfl, rfl⟩

/-- A change of the entered entry shows in its slot. -/
theorem Entered.changed (h : Entered s v n op b e) (hfree : entryAt s n (sqAt s n).fetch = none) {f : Entry → Entry}
    (hsq : ∀ y, (f y).sq = y.sq) (hslot : ∀ y, (f y).slot = y.slot) :
    entryAt (modEntry v e.sq e.slot f) n (sqAt s n).fetch = some (f e) := by
  rw [entryAt_modEntry hsq hslot, h.inSlot hfree, Option.map_some, if_pos ⟨rfl, rfl⟩]

end Sys2Proof.Machine
end

section
/-! FENCE and NOP entries (spec/03 R66, Table 3-2, spec/12 R310). -/

namespace Sys2Proof.Machine

variable {s t u v : State} {n op : Nat} {b : EntryBody} {e : Entry}

/-! ## Stages that close -/

/-- A job with one more stage closed (R310). -/
def Job.stageClosed (x : Job) : Job := { x with stage := x.stage + 1 }

/-- After its stage is counted, what closing a stage does is work on entries (R310). -/
theorem workStep_closeStage (s : State) (j : Nat) : WorkStep (modJob s j Job.stageClosed) (closeStage s j) :=
  (workStep_arrivals (modJob s j Job.stageClosed) j).trans (workStep_endStreams _ j)

/-! ## A ring behind a fence -/

theorem nextRing_eligible {fresh : Bool} (h : nextRing s = some (n, fresh)) : eligible s n = true := by
  have hmem {m : Nat} (hm : m ∈ eligibleRings s) : eligible s m = true := by
    obtain ⟨x, hx, rfl⟩ := List.mem_map.1 hm
    exact (List.mem_filter.1 hx).2
  have hrich {m : Nat} (hm : m ∈ (eligibleRings s).filter fun n => decide (0 < credit s n)) : eligible s m = true :=
    hmem (List.mem_of_mem_filter hm)
  have hhead {f : Bool} (hf : ((eligibleRings s).head?.map fun n => (n, f)) = some (n, fresh)) : eligible s n = true := by
    obtain ⟨m, hm, heq⟩ := Option.map_eq_some_iff.1 hf
    cases heq
    exact hmem (List.mem_of_mem_head? hm)
  simp only [nextRing] at h
  split at h
  · exact hhead h
  · split at h
    · next hcur =>
      cases h
      exact hrich (List.contains_iff_mem.1 hcur.2)
    · split at h
      · next hfind =>
        cases h
        exact hrich (List.mem_of_find?_eq_some hfind)
      · split at h
        · next hfirst =>
          cases h
          exact hrich (List.mem_of_mem_head? hfirst)
        · exact hhead h

/-- A ring with a fence is not served (R66, R72). -/
theorem nextRing_ne_of_fence {k : Nat} (h : (sqAt s n).fence = some k) (fresh : Bool) : nextRing s ≠ some (n, fresh) := by
  intro hnext
  have he := nextRing_eligible hnext
  simp [eligible, h] at he

/-! ## FENCE -/

/-- A ring held by the fence in slot `k` (R66). -/
def Sq.fenced (k : Nat) (q : Sq) : Sq := { q with fence := some k }

theorem runEntry_fence (h : e.opcode = 5) (v : State) (aug : HostRead) : runEntry v e aug =
    fenceClose (closeStage (modSq (ringHolds v e.sq) e.sq (Sq.fenced e.slot)) e.job) e.sq := by
  simp only [runEntry, h]
  rfl

/-- What a FENCE leaves (R66, R310). -/
theorem fence_leaves (h : Entered s v n 5 b e) (hfree : entryAt s n (sqAt s n).fetch = none) (aug : HostRead) :
    let t := arbSettle (runEntry v e aug)
    fetchedOne s t n ∧ (sqAt t n).fence = some (sqAt s n).fetch ∧
    (∃ x, entryAt t n (sqAt s n).fetch = some x ∧ x.body = b ∧ x.opcode = 5 ∧ x.stage = (job s b.job.toNat).stage) ∧
    (job t b.job.toNat).stage = (job s b.job.toNat).stage + 1 ∧ t.marrow = s.marrow ∧ t.pods = s.pods ∧ t.streams = s.streams := by
  intro t
  have hholds : WorkStep v (ringHolds v n) := workStep_ringHolds v n
  have hrun := runEntry_fence h.opcode v aug
  rw [h.sq, h.slot, h.ofJob] at hrun
  generalize hw : modSq (ringHolds v n) n (Sq.fenced (sqAt s n).fetch) = w at hrun
  have hring : sqAt w n = (sqAt (ringHolds v n) n).fenced (sqAt s n).fetch := by rw [← hw, sqAt_modSq, if_pos rfl]
  have hafter : WorkStep (modJob w b.job.toNat Job.stageClosed) t := by
    change WorkStep _ (arbSettle (runEntry v e aug))
    rw [hrun]
    exact (workStep_closeStage w b.job.toNat).trans ((workStep_fenceClose ..).trans (workStep_arbSettle _))
  have hfetched : fetchedOne s (modJob w b.job.toNat Job.stageClosed) n := by
    obtain ⟨hfetch, hphase, hreserved⟩ := h.fetched.work hholds
    exact ⟨(congrArg Sq.fetch hring).trans hfetch, (congrArg Sq.phase hring).trans hphase, by rw [← hw]; exact hreserved⟩
  obtain ⟨x, hx, hxe⟩ := hholds.entries _ _ _ (h.inSlot hfree)
  obtain ⟨y, hy, hyx⟩ := hafter.entries n (sqAt s n).fetch x (by rw [← hw]; exact hx)
  have hfence : (sqAt w n).fence = some (sqAt s n).fetch := by rw [hring]; rfl
  have hstage : (job w b.job.toNat).stage = (job s b.job.toNat).stage := by
    have hjw : job w b.job.toNat = job (ringHolds v n) b.job.toNat := by rw [← hw]; rfl
    rw [hjw, hholds.jobs, h.job]
  refine ⟨hfetched.work hafter, (congrArg (·.2.2) (hafter.rings n)).trans hfence, ⟨y, hy, ?_, ?_, ?_⟩, ?_, ?_, ?_, ?_⟩
  · rw [hyx, hxe]
    exact h.body
  · rw [hyx, hxe]
    exact h.opcode
  · rw [hyx, hxe]
    exact h.stage
  · rw [hafter.jobs, job_modJob_self]
    exact congrArg (· + 1) hstage
  · exact hafter.marrow.trans ((congrArg (·.marrow) hw.symm).trans (hholds.marrow.trans h.marrow))
  · exact hafter.pods.trans ((congrArg (·.pods) hw.symm).trans (hholds.pods.trans h.pods))
  · exact hafter.streams.trans ((congrArg (·.streams) hw.symm).trans (hholds.streams.trans h.streams))

/-! ## NOP -/

/-- The state with everything blanked that the end of an entry may change (R75). -/
def endFrame (s : State) : State := { s with entries := [], cqs := [], arb := State.reset.arb }

theorem endFrame_finish (s : State) (e : Entry) (status detail count info : Nat) :
    endFrame (finish s e status detail count info) = endFrame s := by
  unfold finish
  split
  · split
    · rfl
    · rw [addDue_eq]
      rfl
  · rfl

theorem endFrame_arbSettle (s : State) : endFrame (arbSettle s) = endFrame s := by
  rw [arbSettle_eq]
  rfl

theorem entryAt_arbSettle (s : State) (n k : Nat) : entryAt (arbSettle s) n k = entryAt s n k := by
  rw [arbSettle_eq]
  rfl

theorem workStep_modEntry_st (s : State) (n k : Nat) (x : EntryState) : WorkStep s (modEntry s n k fun y => { y with st := x }) :=
  ⟨rfl, rfl, rfl, .refl s, fun _ => rfl, fun _ => rfl, fun _ _ h => h, fun m i y hy => by
    rw [entryAt_modEntry (f := fun y => { y with st := x }) (fun _ => rfl) (fun _ => rfl), hy, Option.map_some]
    split <;> exact ⟨_, rfl, rfl⟩, fun _ => rfl⟩

theorem runEntry_nop (h : e.opcode = 7) (v : State) (aug : HostRead) :
    runEntry v e aug = if heldByStop v e then suspendEntry v e else finish v e stOk := by
  simp only [runEntry, h]

/-- What a NOP leaves: it ends at once, or after the stop that holds it (R81, Table 3-2). -/
theorem nop_leaves (h : Entered s v n 7 b e) (hfree : entryAt s n (sqAt s n).fetch = none) (aug : HostRead) :
    let t := arbSettle (runEntry v e aug)
    WorkStep v t ∧ endFrame t = endFrame v ∧
    (if stopAhead s n (job s b.job.toNat).nextRank then suspendedIn s t n b 0 else dueFinal s t n b stOk 0) := by
  rw [runEntry_nop h.opcode, h.held]
  cases stopAhead s n (job s b.job.toNat).nextRank with
  | true =>
    refine ⟨(workStep_modEntry_st ..).trans (workStep_arbSettle _), (endFrame_arbSettle _).trans rfl, ?_⟩
    exact ⟨_, (entryAt_arbSettle ..).trans (h.changed hfree (fun _ => rfl) fun _ => rfl), h.body, rfl, h.unrefused⟩
  | false =>
    refine ⟨(workStep_finish ..).trans (workStep_arbSettle _), (endFrame_arbSettle _).trans (endFrame_finish ..), ?_⟩
    exact (h.due hfree stOk 0).work (workStep_arbSettle _)

/-- Settles O30: both entries are fetched alike; a FENCE then closes its stage and holds its ring, a NOP ends. -/
theorem fenceAndNop : Obligations.FenceAndNop := by
  unfold Obligations.FenceAndNop
  intro s n e hf
  refine ⟨fun hok => ?_, fun hok => ?_⟩
  · obtain ⟨v, x, hx, heq⟩ := fetchEntry_enters hf hok noAug
    obtain ⟨hfetched, hfence, hentry, hstage, hmarrow, hpods, hstreams⟩ := fence_leaves hx hf.2.2 noAug
    rw [← heq] at hfetched hfence hentry hstage hmarrow hpods hstreams
    exact ⟨_, rfl, hfetched, hfence, hentry, hstage, fun _ => nextRing_ne_of_fence hfence _, hmarrow, hpods, hstreams⟩
  · obtain ⟨v, x, hx, heq⟩ := fetchEntry_enters hf hok noAug
    obtain ⟨hwork, hend, hcase⟩ := nop_leaves hx hf.2.2 noAug
    rw [← heq] at hwork hend hcase
    have hmem : (fetchEntry s n.toNat 7 e noAug).mem = v.mem := congrArg (·.mem) hend
    refine ⟨_, rfl, hx.fetched.work hwork, hcase, ?_, (congrArg (·.marrow) hend).trans hx.marrow,
      (congrArg (·.pods) hend).trans hx.pods, (congrArg (·.gates) hend).trans hx.gates, (congrArg (·.mps) hend).trans hx.mps, ?_,
      (congrArg (·.streams) hend).trans hx.streams⟩
    · rw [hwork.jobs, hx.job]
      rfl
    · rw [memKept, hmem]
      exact hx.mem

end Sys2Proof.Machine
end

section
/-! SAMPLE and TENSOR entries, and the start of a task (spec/03 R67, R81, spec/07 R193, spec/10 R248, R249). -/

namespace Sys2Proof.Machine

variable {s t u v : State} {n op : Nat} {b : EntryBody} {e : Entry} {aug : HostRead}

/-! ## Fills that take ranks -/

/-- Fills of edges of job `j` may have taken ranks between `s` and `t` (spec/07 R187). -/
structure FeedStep (j : Nat) (s t : State) : Prop where
  frame : { t with jobs := s.jobs } = s
  job : job t j = { job s j with edges := (job t j).edges }
  others : ∀ k, k ≠ j → Machine.job t k = Machine.job s k

theorem FeedStep.refl (j : Nat) (s : State) : FeedStep j s s := ⟨rfl, rfl, fun _ _ => rfl⟩

theorem FeedStep.trans {j : Nat} (h : FeedStep j s t) (h' : FeedStep j t u) : FeedStep j s u where
  frame := (congrArg (fun w : State => { w with jobs := s.jobs }) h'.frame).trans h.frame
  job := by rw [h'.job, h.job]
  others k hk := (h'.others k hk).trans (h.others k hk)

theorem FeedStep.foldl {α : Type} {j : Nat} {f : State → α → State} {l : List α} (hf : ∀ s, ∀ a ∈ l, FeedStep j s (f s a)) (s : State) :
    FeedStep j s (l.foldl f s) :=
  List.foldlRecOn l f (.refl j s) fun t ht a ha => ht.trans (hf t a ha)

theorem feedStep_modEdge (s : State) (j m k : Nat) (f : EdgeSt → EdgeSt) : FeedStep j s (modEdge s j m k f) where
  frame := rfl
  job := by
    unfold modEdge
    rw [job_modJob_self]
  others i hi := job_modJob_ne hi _

theorem feedStep_feedMember (s : State) (j m : Nat) : FeedStep j s (feedMember s j m) := by
  refine .foldl (fun u x _ => ?_) s
  split
  · refine .foldl (fun w f _ => ?_) u
    simp only
    split
    · exact .refl j w
    · split
      · exact .refl j w
      · exact feedStep_modEdge ..
  · exact .refl j u

/-! ## Tasks that start -/

/-- The work of a task that R193 accepts: its augmentation record is read, and its entry runs or is suspended (R67, R81, R150). -/
def beginTask (s : State) (e : Entry) (aug : HostRead) : State :=
  let want := wantsAug (job s e.job).route e.opcode e.body
  let s := if want then hostRead s e.body.augAddr.toNat 32 (sqXlat s e.sq) aug else s
  let s := modEntry s e.sq e.slot fun y => { y with
    st := if heldByStop s e then .suspended else .running, aug := if want then aug.bytes else [], srcPoison := want && aug.kind ≠ .okay }
  feedMember s e.job e.member

theorem startTask_accepted (hnew : ¬ (e.opcode = 2 ∧ e.body.arg.getLsbD 0)) (hok : refusal193 s e.opcode e.body = none) (aug : HostRead) :
    startTask s e aug = beginTask s e aug := by
  simp only [startTask, if_neg hnew, hok]
  rfl

theorem startTask_opens (hnew : e.opcode = 2 ∧ e.body.arg.getLsbD 0) (hok : refusal193 (openStream s e) e.opcode e.body = none)
    (aug : HostRead) : startTask s e aug = beginTask (openStream s e) e aug := by
  simp only [startTask, if_pos hnew, hok]
  rfl

/-- The state with everything blanked that the start of a task may change. -/
def beginFrame (s : State) : State := { readFrame s with jobs := [], entries := [], arb := State.reset.arb }

/-- An entry that runs, or that a stop suspends. -/
def Entry.begun (held : Bool) (aug : List Byte) (poison : Bool) (y : Entry) : Entry :=
  { y with st := if held then .suspended else .running, aug := aug, srcPoison := poison }

/-- What the start of a task leaves of its state, its job and its entry. -/
theorem beginTask_step (haug : aug.kind = .okay ∨ e.body.augAddr = 0) (s : State) : ∃ u bytes poison,
    FeedStep e.job u (beginTask s e aug) ∧ beginFrame u = beginFrame s ∧ u.jobs = s.jobs ∧
    u.entries = (modEntry s e.sq e.slot (Entry.begun (heldByStop s e) bytes poison)).entries := by
  unfold beginTask
  extract_lets want read begun
  have hread : readFrame read = readFrame s := by
    unfold read
    split
    · next hw =>
      refine readFrame_hostRead (haug.imp_right fun h0 => ?_) ..
      simp [want, wantsAug, h0] at hw
    · rfl
  have hentries : read.entries = s.entries := congrArg (·.entries) hread
  have hheld : heldByStop read e = heldByStop s e := by rw [heldByStop, hentries]; rfl
  refine ⟨begun, if want then aug.bytes else [], want && aug.kind ≠ .okay, feedStep_feedMember .., ?_, congrArg (·.jobs) hread, ?_⟩
  · exact congrArg (fun w : State => { w with jobs := [], entries := [], arb := State.reset.arb }) hread
  · rw [← hheld]
    exact congrArg (fun l : List Entry => l.map _) hentries

/-- What an accepted entry leaves once it has entered and, if it opens one, its stream is open (R67, R81). -/
structure Begun (s t : State) (e : Entry) : Prop where
  frame : beginFrame t = beginFrame s
  job : job t e.job = { job s e.job with edges := (job t e.job).edges }
  others : ∀ k, k ≠ e.job → Machine.job t k = Machine.job s k
  entry : entryAt s e.sq e.slot = some e → ∃ bytes poison, entryAt t e.sq e.slot = some (e.begun (heldByStop s e) bytes poison)

theorem beginTask_begun (haug : aug.kind = .okay ∨ e.body.augAddr = 0) (s : State) : Begun s (arbSettle (beginTask s e aug)) e := by
  obtain ⟨u, bytes, poison, hfeed, hframe, hjobs, hentries⟩ := beginTask_step haug s
  have hjob (k : Nat) : Machine.job u k = Machine.job s k := job_congr hjobs k
  have hsettled (k : Nat) : Machine.job (arbSettle (beginTask s e aug)) k = Machine.job (beginTask s e aug) k := by
    rw [arbSettle_eq]
    rfl
  have hfed : beginFrame (beginTask s e aug) = beginFrame u := by
    have h := congrArg beginFrame hfeed.frame
    exact h
  have hlast : (beginTask s e aug).entries = u.entries := congrArg (·.entries) hfeed.frame
  refine ⟨?_, ?_, fun k hk => ?_, fun he => ⟨bytes, poison, ?_⟩⟩
  · rw [arbSettle_eq]
    exact hfed.trans hframe
  · rw [hsettled, hfeed.job, hjob]
  · rw [hsettled, hfeed.others k hk, hjob]
  · rw [entryAt_arbSettle, entryAt_congr hlast, entryAt_congr hentries,
      entryAt_modEntry (f := Entry.begun (heldByStop s e) bytes poison) (fun _ => rfl) (fun _ => rfl), he, Option.map_some,
      if_pos ⟨rfl, rfl⟩]

/-! ## The checks of R67 and R193 -/

theorem refusal67_congr (hstreams : t.streams = s.streams) (hroute : (job t b.job.toNat).route = (job s b.job.toNat).route) (n op : Nat) :
    refusal67 t n op b = refusal67 s n op b := by
  have hown : ownStream t n b = ownStream s n b := by rw [ownStream, hstreams]; rfl
  simp only [refusal67, hown, hstreams, hroute]

theorem refusal193_congr (hroute : (job t b.job.toNat).route = (job s b.job.toNat).route) (op : Nat) :
    refusal193 t op b = refusal193 s op b := by
  simp only [refusal193, hroute]

theorem Entered.route (h : Entered s v n op b e) : (Machine.job v b.job.toNat).route = (Machine.job s b.job.toNat).route := by
  rw [h.job]

/-- What runs an entry that is neither a FENCE, a MILEPOST nor a NOP (Table 3-2). -/
theorem runEntry_work (h5 : e.opcode ≠ 5) (h6 : e.opcode ≠ 6) (h7 : e.opcode ≠ 7) (v : State) (aug : HostRead) :
    runEntry v e aug = match refusal67 v e.sq e.opcode e.body with
      | some c => if e.opcode = 3 then closeStage (refuseEntry v e c) e.job else refuseEntry v e c
      | none => if e.opcode = 3 then fenceClose (closeStage (if heldByStop v e then suspendEntry v e else v) e.job) e.sq
          else startTask v e aug := by
  unfold runEntry
  split
  · next h => exact absurd h h5
  · next h => exact absurd h h6
  · next h => exact absurd h h7
  · rfl

theorem Entered.refusal67 (h : Entered s v n op b e) : refusal67 v e.sq e.opcode e.body = Machine.refusal67 s n op b := by
  rw [h.sq, h.opcode, h.body, refusal67_congr h.streams h.route]

theorem Entered.refusal193 (h : Entered s v n op b e) : refusal193 v e.opcode e.body = Machine.refusal193 s op b := by
  rw [h.opcode, h.body, refusal193_congr h.route]

/-- An entry with work that R67 does not refuse begins its task (R67). -/
theorem runEntry_starts (h : Entered s v n op b e) (hop : op = 1 ∨ op = 2 ∨ op = 4) (hok : Machine.refusal67 s n op b = none)
    (aug : HostRead) : runEntry v e aug = startTask v e aug := by
  have hcode := h.opcode
  rw [runEntry_work (by omega) (by omega) (by omega), h.refusal67, hok]
  exact if_neg (by omega)

/-- An entry with work that R67 refuses is refused (R67). -/
theorem runEntry_refuses (h : Entered s v n op b e) (hop : op = 1 ∨ op = 2 ∨ op = 4) {code : Nat}
    (hcode : Machine.refusal67 s n op b = some code) (aug : HostRead) : runEntry v e aug = refuseEntry v e code := by
  have hopcode := h.opcode
  rw [runEntry_work (by omega) (by omega) (by omega), h.refusal67, hcode]
  exact if_neg (by omega)

/-! ## Accepted and refused tasks -/

/-- A refused entry ends with its code, or waits for the stop that holds it (R67, R81). -/
theorem refused_leaves (h : Entered s v n op b e) (hfree : entryAt s n (sqAt s n).fetch = none) (code : Nat) :
    let t := arbSettle (refuseEntry v e code)
    let held := stopAhead s n (job s b.job.toNat).nextRank
    fetchedOne s t n ∧ (held = false → dueFinal s t n b stRefused code) ∧ (held = true → suspendedIn s t n b code) ∧
      t.marrow = s.marrow ∧ t.pods = s.pods ∧ t.streams = s.streams := by
  intro t held
  have hheld : heldByStop v e = held := h.held
  clear_value held
  cases held with
  | true =>
    have hsusp : refuseEntry v e code = modEntry v e.sq e.slot fun y => { y with st := .suspended, refusal := code } := by
      rw [refuseEntry, if_pos hheld]
    have ht : t = arbSettle (modEntry v e.sq e.slot fun y => { y with st := .suspended, refusal := code }) := congrArg arbSettle hsusp
    have hend : endFrame t = endFrame v := by rw [ht, endFrame_arbSettle]; rfl
    have hcqs : t.cqs = v.cqs := by rw [ht, arbSettle_eq]; rfl
    refine ⟨?_, nofun, fun _ => ?_, (congrArg (·.marrow) hend).trans h.marrow, (congrArg (·.pods) hend).trans h.pods,
      (congrArg (·.streams) hend).trans h.streams⟩
    · obtain ⟨hfetch, hphase, hreserved⟩ := h.fetched
      have hsq : sqAt t n = sqAt v n := sqAt_congr (congrArg (·.sqs) hend) n
      exact ⟨hsq ▸ hfetch, hsq ▸ hphase, by rw [cqAt_congr hcqs]; exact hreserved⟩
    · rw [ht]
      exact ⟨_, (entryAt_arbSettle ..).trans (h.changed hfree (fun _ => rfl) fun _ => rfl), h.body, rfl, rfl⟩
  | false =>
    have hrest := (workStep_refuseEntry_rest (finish v e stRefused code) e).trans (workStep_arbSettle _)
    rw [← refuseEntry_of_free hheld code] at hrest
    have hall := (workStep_finish v e stRefused code 0 (plainInfo stRefused)).trans hrest
    exact ⟨h.fetched.work hall, fun _ => (h.due hfree stRefused code).work hrest, nofun, hall.marrow.trans h.marrow,
      hall.pods.trans h.pods, hall.streams.trans h.streams⟩

theorem Begun.fetched (h : Begun t u e) (hf : fetchedOne s t n) : fetchedOne s u n := by
  obtain ⟨hfetch, hphase, hreserved⟩ := hf
  have hsqs : u.sqs = t.sqs := congrArg (·.sqs) h.frame
  have hcqs : u.cqs = t.cqs := congrArg (·.cqs) h.frame
  exact ⟨by rw [sqAt_congr hsqs]; exact hfetch, by rw [sqAt_congr hsqs]; exact hphase, by rw [cqAt_congr hcqs]; exact hreserved⟩

theorem Begun.mem (h : Begun t u e) (hm : memKept s t) : memKept s u := by
  have hmem : ({ u.mem with direct := none } : Mem) = { t.mem with direct := none } := congrArg (·.mem) h.frame
  have hu : u.mem = { t.mem with direct := u.mem.direct } := congrArg (fun m : Mem => { m with direct := u.mem.direct }) hmem
  rw [memKept, hu, hm]

/-- An accepted SAMPLE or TENSOR entry starts its task (R67, R248, R249). -/
theorem task_starts (h : Entered s v n op b e) (hop : op = 1 ∨ op = 4)
    (haug : aug.kind = .okay ∨ b.augAddr = 0) (h67 : refusal67 s n op b = none) (h193 : refusal193 s op b = none) :
    Begun v (arbSettle (runEntry v e aug)) e := by
  have hcode := h.opcode
  rw [runEntry_starts h (by omega) h67, startTask_accepted (by omega) (h.refusal193.trans h193)]
  exact beginTask_begun (by rw [h.body]; exact haug) v

/-- An entry that does not join a task gets the next task number of its job (R67). -/
theorem Entered.task (h : Entered s v n op b e) (hnew : (op = 3 || (op = 2 && !b.arg.getLsbD 0)) = false) :
    e.task = (Machine.job s b.job.toNat).nextTask := by
  obtain ⟨bases, rfl⟩ := h.record
  simp only [newEntry, hnew]
  rfl

/-- A task runs on member task mod P (R36). -/
theorem Entered.member (h : Entered s v n op b e) : e.member = e.task % max 1 (Machine.job s b.job.toNat).members.length := by
  obtain ⟨bases, rfl⟩ := h.record
  rfl

/-- Settles O28: what R67 accepts begins its task in the record that the fetch has entered; what it refuses ends there. -/
theorem taskEntries : Obligations.TaskEntries := by
  unfold Obligations.TaskEntries
  intro s n e aug c op hc hf hok j held
  obtain ⟨a, hexec, haug, hop⟩ : ∃ a, exec c s = .next (fetchEntry s n.toNat op e a) ∧ (a.kind = .okay ∨ e.augAddr = 0) ∧
      (op = 1 ∨ op = 4) := by
    rcases hc with ⟨rfl, hwf, haug, rfl⟩ | ⟨rfl, rfl⟩
    · exact ⟨aug, if_pos hwf, haug, .inl rfl⟩
    · exact ⟨noAug, rfl, .inl rfl, .inr rfl⟩
  obtain ⟨v, x, hx, heq⟩ := fetchEntry_enters hf hok a
  have hfree := hf.2.2
  refine ⟨fun h67 h193 => ⟨_, hexec, ?_⟩, fun code hcode => ⟨_, hexec, ?_⟩⟩
  · have hb := task_starts hx hop haug h67 h193
    rw [← heq] at hb
    have hstarts : startsTask op e = true := by rcases hop with rfl | rfl <;> rfl
    have huses : entryUses (job s j).route op = slotUses (job s j).route := by rcases hop with rfl | rfl <;> rfl
    have hjoins : (op = 3 || (op = 2 && !e.arg.getLsbD 0)) = false := by rcases hop with rfl | rfl <;> rfl
    have hjob := hb.job
    rw [hx.ofJob, hx.job, hstarts, huses] at hjob
    obtain ⟨bytes, poison, hentry⟩ := hb.entry (by rw [hx.sq, hx.slot]; exact hx.inSlot hfree)
    rw [hx.sq, hx.slot] at hentry
    have htask := hx.task hjoins
    refine ⟨hb.fetched hx.fetched, congrArg Job.nextTask hjob, congrArg Job.nextRank hjob, congrArg Job.slotPos hjob,
      ⟨_, hentry, hx.body, hx.opcode, hx.ofJob, htask, hx.rank, hx.stage, hx.member.trans (by rw [htask]), ?_⟩, fun k hk => ?_,
      (congrArg (·.marrow) hb.frame).trans hx.marrow, (congrArg (·.pods) hb.frame).trans hx.pods,
      (congrArg (·.gates) hb.frame).trans hx.gates, (congrArg (·.mps) hb.frame).trans hx.mps, hb.mem hx.mem,
      (congrArg (·.streams) hb.frame).trans hx.streams⟩
    · change (if heldByStop v x then EntryState.suspended else .running) = _
      rw [hx.held]
    · rw [hb.others k (by rw [hx.ofJob]; exact hk), hx.others k hk]
  · have hleaves := refused_leaves hx hfree code
    rw [← runEntry_refuses hx (by omega) hcode a, ← heq] at hleaves
    obtain ⟨hfetched, hfree', hheld, hmarrow, hpods, hstreams⟩ := hleaves
    exact ⟨hfetched, hfree', hheld, congrArg (·.bytes) hmarrow, hpods, hstreams⟩

end Sys2Proof.Machine
end

section
/-! FRAME and END_STREAM entries (spec/03 R67, Table 3-2, spec/04 R100, spec/12 R310). -/

namespace Sys2Proof.Machine

variable {s t u v : State} {n op : Nat} {b : EntryBody} {e : Entry} {aug : HostRead}

/-! ## Streams that open -/

theorem portFrame_writeStream (s : State) (k : Nat) (x : Stream) (r : Nat) : portFrame (writeStream s k x r) = portFrame s := by
  unfold writeStream
  split
  · rfl
  · exact (portFrame_memWrite ..).trans (portFrame_memWrite ..)

/-- The state without its streams and what requests change. -/
def unstreamed (s : State) : State := { portFrame s with streams := [] }

theorem unstreamed_openStream (s : State) (e : Entry) : unstreamed (openStream s e) = unstreamed s :=
  congrArg (fun u : State => { u with streams := [] }) (portFrame_writeStream ..)

/-- The context that a `NEW_STREAM` entry opens is its stream's, of its ring, job and task (R100). -/
theorem openStream_streams (s : State) (e : Entry) : ∃ k, (openStream s e).streams = sput s.streams e.body.stream.toNat k ∧
    k.cstate = 1 ∧ k.job = e.job ∧ k.sq = e.sq ∧ k.task = e.task ∧ k.frameNo = 0 ∧ k.concealed = 0 :=
  ⟨_, congrArg (·.streams) (portFrame_writeStream ..), rfl, rfl, rfl, rfl, rfl, rfl⟩

/-- An accepted `NEW_STREAM` frame begins its task with its stream open (R67, R100). -/
theorem frame_opens (h : Entered s v n 2 b e) (harg : b.arg = 1) (haug : aug.kind = .okay ∨ b.augAddr = 0)
    (h67 : refusal67 s n 2 b = none) (h193 : refusal193 s 2 b = none) :
    Begun (openStream v e) (arbSettle (runEntry v e aug)) e := by
  have hjobs : (openStream v e).jobs = v.jobs := congrArg (·.jobs) (unstreamed_openStream v e)
  have hnew : e.opcode = 2 ∧ e.body.arg.getLsbD 0 := ⟨h.opcode, by rw [h.body, harg]; rfl⟩
  have hroute : (job (openStream v e) b.job.toNat).route = (job s b.job.toNat).route := by rw [job_congr hjobs, h.route]
  rw [runEntry_starts h (by omega) h67, startTask_opens hnew (by rw [h.body, h.opcode, refusal193_congr hroute, h193])]
  exact beginTask_begun (by rw [h.body]; exact haug) _

/-- An accepted frame that opens no stream begins its task (R67). -/
theorem frame_joins (h : Entered s v n 2 b e) (harg : b.arg = 0) (haug : aug.kind = .okay ∨ b.augAddr = 0)
    (h67 : refusal67 s n 2 b = none) (h193 : refusal193 s 2 b = none) : Begun v (arbSettle (runEntry v e aug)) e := by
  have hold : ¬ (e.opcode = 2 ∧ e.body.arg.getLsbD 0) := by
    rintro ⟨-, hbit⟩
    rw [h.body, harg] at hbit
    cases hbit
  rw [runEntry_starts h (by omega) h67, startTask_accepted hold (h.refusal193.trans h193)]
  exact beginTask_begun (by rw [h.body]; exact haug) v

/-- A later frame that R67 does not refuse has an open stream, and joins its task (R67, R100). -/
theorem Entered.joins (h : Entered s v n 2 b e) (harg : b.arg = 0) (h67 : Machine.refusal67 s n 2 b = none) :
    ∃ k, ownStream s n b = some k ∧ e.task = k.task := by
  have hbit : b.arg[0] = false := by rw [harg]; rfl
  obtain ⟨bases, rfl⟩ := h.record
  cases hown : ownStream s n b with
  | none => simp [Machine.refusal67, hbit, hown] at h67
  | some k => exact ⟨k, rfl, by simp [newEntry, hbit, hown]⟩

/-! ## The end of a stream -/

/-- A slot all of whose entries are suspended keeps its entry when streams end (Table 3-2). -/
theorem entryAt_endStreams {k : Nat} (hheld : ∀ x ∈ s.entries, x.sq = n → x.slot = k → x.st = .suspended) (j : Nat) :
    entryAt (endStreams s j) n k = entryAt s n k := by
  refine foldl_keeps (fun u => entryAt u n k) (fun u e he => ?_) s
  rw [List.mem_filter, decide_eq_true_eq] at he
  obtain ⟨hmem, -, -, hwaits, -⟩ := he
  have hother : ¬ (e.sq = n ∧ e.slot = k) := fun ⟨hsq, hslot⟩ => by
    have hst := hheld e hmem hsq hslot
    rw [hwaits] at hst
    cases hst
  change entryAt (finish u e stOk) n k = entryAt u n k
  rw [entryAt_finish]
  cases hx : entryAt u n k with
  | none => rfl
  | some x =>
    obtain ⟨hsq, hslot⟩ := entryAt_some hx
    rw [Option.map_some, if_neg fun hsame => hother ⟨hsame.1.symm.trans hsq, hsame.2.symm.trans hslot⟩]

theorem entries_arrivals (s : State) (j : Nat) : (arrivals s j).entries = s.entries := congrArg (·.entries) (workFrame_arrivals s j)

theorem entries_fenceClose (s : State) (n : Nat) : (fenceClose s n).entries = s.entries :=
  congrArg (·.entries) (batchStep_fenceClose s n).frame

theorem closeStage_eq (s : State) (j : Nat) : closeStage s j = endStreams (arrivals (modJob s j Job.stageClosed) j) j := rfl

/-- Every entry of the slot of a suspended entry is suspended. -/
theorem suspended_of_suspendEntry {x : Entry} (hx : x ∈ (suspendEntry s e).entries) (hsq : x.sq = e.sq) (hslot : x.slot = e.slot) :
    x.st = .suspended := by
  obtain ⟨y, -, rfl⟩ := List.mem_map.1 hx
  by_cases hy : y.sq = e.sq ∧ y.slot = e.slot
  · rw [if_pos hy]
  · rw [if_neg hy] at hsq hslot
    exact absurd ⟨hsq, hslot⟩ hy

/-- Closing a stage and a batch leaves a suspended entry as it is (R81). -/
theorem entryAt_closed {k : Nat} (hheld : ∀ x ∈ s.entries, x.sq = n → x.slot = k → x.st = .suspended) (j : Nat) :
    entryAt (arbSettle (fenceClose (closeStage s j) n)) n k = entryAt s n k := by
  have harr : (arrivals (modJob s j Job.stageClosed) j).entries = s.entries := entries_arrivals ..
  rw [entryAt_arbSettle, entryAt_congr (entries_fenceClose ..), closeStage_eq]
  exact (entryAt_endStreams (by rw [harr]; exact hheld) j).trans (entryAt_congr harr n k)

/-- The state of an entered END_STREAM that a stop may hold. -/
def heldEnd (v : State) (e : Entry) : State := if heldByStop v e then suspendEntry v e else v

theorem runEntry_endStream (h : Entered s v n 3 b e) (h67 : refusal67 s n 3 b = none) (aug : HostRead) :
    runEntry v e aug = fenceClose (closeStage (heldEnd v e) b.job.toNat) n := by
  have hcode := h.opcode
  rw [runEntry_work (by omega) (by omega) (by omega), h.refusal67, h67, ← h.ofJob, ← h.sq]
  exact if_pos hcode

/-- What an accepted END_STREAM leaves (R310, Table 3-2). -/
theorem endStream_leaves (h : Entered s v n 3 b e) (hfree : entryAt s n (sqAt s n).fetch = none) (h67 : refusal67 s n 3 b = none)
    (aug : HostRead) :
    let t := arbSettle (runEntry v e aug)
    WorkStep (modJob (heldEnd v e) b.job.toNat Job.stageClosed) t ∧ WorkStep v (heldEnd v e) ∧
    (stopAhead s n (job s b.job.toNat).nextRank = true →
      entryAt t n (sqAt s n).fetch = some { e with st := .suspended }) := by
  rw [runEntry_endStream h h67]
  refine ⟨?_, ?_, fun hstop => ?_⟩
  · exact (workStep_closeStage ..).trans ((workStep_fenceClose ..).trans (workStep_arbSettle _))
  · unfold heldEnd
    split
    · exact workStep_modEntry_st ..
    · exact .refl v
  · rw [heldEnd, if_pos (h.held.trans hstop), entryAt_closed]
    · exact h.changed hfree (fun _ => rfl) fun _ => rfl
    · intro x hx hsq hslot
      exact suspended_of_suspendEntry hx (hsq.trans h.sq.symm) (hslot.trans h.slot.symm)

/-! ## The three kinds of entries -/

/-- What a `NEW_STREAM` frame leaves (R67, R100). -/
theorem newStream_leaves (hf : fetches s n b) (haug : aug.kind = .okay ∨ b.augAddr = 0) (hok : entryCheck s n 2 b = none)
    (h67 : refusal67 s n 2 b = none) (h193 : refusal193 s 2 b = none) (harg : b.arg = 1) :
    let t := fetchEntry s n 2 b aug
    let j := b.job.toNat
    fetchedOne s t n ∧ (job t j).nextTask = (job s j).nextTask + 1 ∧
    (∃ x, entryAt t n (sqAt s n).fetch = some x ∧ x.task = (job s j).nextTask ∧ x.opcode = 2) ∧
    (∃ k, sget? t.streams b.stream.toNat = some k ∧ k.cstate = 1 ∧ k.job = j ∧ k.sq = n ∧ k.task = (job s j).nextTask ∧
      k.frameNo = 0 ∧ k.concealed = 0) ∧
    (∀ k, k ≠ b.stream.toNat → sget? t.streams k = sget? s.streams k) ∧ t.marrow = s.marrow ∧ t.pods = s.pods := by
  intro t j
  obtain ⟨v, e, he, heq⟩ := fetchEntry_enters hf hok aug
  have hb := frame_opens he harg haug h67 h193
  rw [← heq] at hb
  have hopen := unstreamed_openStream v e
  obtain ⟨k, hstreams, hstate, hjob, hsq, htask, hfirst, hconcealed⟩ := openStream_streams v e
  have htaskNo : e.task = (job s j).nextTask := he.task (by rw [harg]; rfl)
  have hstarts : startsTask 2 b = true := by rw [startsTask, harg]; rfl
  have hentries : (openStream v e).entries = v.entries := congrArg (·.entries) hopen
  have hjobs : (openStream v e).jobs = v.jobs := congrArg (·.jobs) hopen
  have hnow : t.streams = sput s.streams b.stream.toNat k := by
    rw [← he.streams, ← he.body, ← hstreams]
    exact congrArg (·.streams) hb.frame
  obtain ⟨bytes, poison, hentry⟩ := hb.entry (by rw [entryAt_congr hentries, he.sq, he.slot]; exact he.inSlot hf.2.2)
  rw [he.sq, he.slot] at hentry
  have hjobT := hb.job
  rw [job_congr hjobs, he.ofJob, he.job, hstarts] at hjobT
  have hfetched : fetchedOne s (openStream v e) n := by
    have hsqs : (openStream v e).sqs = v.sqs := congrArg (·.sqs) hopen
    have hcqs : (openStream v e).cqs = v.cqs := congrArg (·.cqs) hopen
    have hv := he.fetched
    rwa [fetchedOne, ← sqAt_congr hsqs, ← cqAt_congr hcqs] at hv
  refine ⟨hb.fetched hfetched, congrArg Job.nextTask hjobT, ⟨_, hentry, htaskNo, he.opcode⟩,
    ⟨k, ?_, hstate, hjob.trans he.ofJob, hsq.trans he.sq, htask.trans htaskNo, hfirst, hconcealed⟩, fun i hi => ?_,
    (congrArg (·.marrow) hb.frame).trans ((congrArg (·.marrow) hopen).trans he.marrow),
    (congrArg (·.pods) hb.frame).trans ((congrArg (·.pods) hopen).trans he.pods)⟩
  · rw [hnow, sget?_sput_self]
  · rw [hnow, sget?_sput_ne _ _ hi]

/-- What a later frame of a stream leaves (R67, R100). -/
theorem laterFrame_leaves (hf : fetches s n b) (haug : aug.kind = .okay ∨ b.augAddr = 0) (hok : entryCheck s n 2 b = none)
    (h67 : refusal67 s n 2 b = none) (h193 : refusal193 s 2 b = none) (harg : b.arg = 0) :
    let t := fetchEntry s n 2 b aug
    let j := b.job.toNat
    fetchedOne s t n ∧ (job t j).nextTask = (job s j).nextTask ∧ t.streams = s.streams ∧
    (∃ x k, entryAt t n (sqAt s n).fetch = some x ∧ ownStream s n b = some k ∧ x.task = k.task ∧ x.opcode = 2) ∧
    t.marrow = s.marrow ∧ t.pods = s.pods := by
  intro t j
  obtain ⟨v, e, he, heq⟩ := fetchEntry_enters hf hok aug
  have hb := frame_joins he harg haug h67 h193
  rw [← heq] at hb
  obtain ⟨k, hown, htask⟩ := he.joins harg h67
  have hstarts : startsTask 2 b = false := by rw [startsTask, harg]; rfl
  obtain ⟨bytes, poison, hentry⟩ := hb.entry (by rw [he.sq, he.slot]; exact he.inSlot hf.2.2)
  rw [he.sq, he.slot] at hentry
  have hjob := hb.job
  rw [he.ofJob, he.job, hstarts] at hjob
  have hnext : (job t j).nextTask = (job s j).nextTask := by
    have h := congrArg Job.nextTask hjob
    exact h
  exact ⟨hb.fetched he.fetched, hnext, (congrArg (·.streams) hb.frame).trans he.streams,
    ⟨_, k, hentry, hown, htask, he.opcode⟩, (congrArg (·.marrow) hb.frame).trans he.marrow,
    (congrArg (·.pods) hb.frame).trans he.pods⟩

/-- What an accepted END_STREAM leaves of the fetch, its job and its slot (R67, R310). -/
theorem endStream_closes (hf : fetches s n b) (hok : entryCheck s n 3 b = none) (h67 : refusal67 s n 3 b = none) (aug : HostRead) :
    let t := fetchEntry s n 3 b aug
    let j := b.job.toNat
    fetchedOne s t n ∧ (job t j).stage = (job s j).stage + 1 ∧ (job t j).nextTask = (job s j).nextTask ∧
    (∃ x, entryAt t n (sqAt s n).fetch = some x ∧ x.opcode = 3 ∧ x.stage = (job s j).stage ∧
      x.st = (if stopAhead s n (job s j).nextRank then .suspended else x.st)) ∧
    t.streams = s.streams ∧ t.marrow = s.marrow ∧ t.pods = s.pods := by
  intro t j
  obtain ⟨v, e, he, heq⟩ := fetchEntry_enters hf hok aug
  obtain ⟨hclosed, hheld, hstop⟩ := endStream_leaves he hf.2.2 h67 aug
  rw [← heq] at hclosed hstop
  have hjob := hclosed.jobs j
  rw [job_modJob_self, hheld.jobs, he.job] at hjob
  obtain ⟨x, hx, hxe⟩ := hheld.entries _ _ _ (he.inSlot hf.2.2)
  obtain ⟨y, hy, hyx⟩ := hclosed.entries n (sqAt s n).fetch x hx
  have hye : y = { e with st := y.st } := by rw [hyx, hxe]
  have hfetched : fetchedOne s (modJob (heldEnd v e) j Job.stageClosed) n := by
    have h := he.fetched.work hheld
    exact h
  have hnext : (job t j).nextTask = (job s j).nextTask := by
    have h := congrArg Job.nextTask hjob
    exact h
  refine ⟨hfetched.work hclosed, congrArg Job.stage hjob, hnext, ⟨y, hy, ?_, ?_, ?_⟩,
    hclosed.streams.trans (hheld.streams.trans he.streams), hclosed.marrow.trans (hheld.marrow.trans he.marrow),
    hclosed.pods.trans (hheld.pods.trans he.pods)⟩
  · rw [hye]
    exact he.opcode
  · rw [hye]
    exact he.stage
  · split
    · next hs =>
      rw [hstop hs] at hy
      cases hy
      rfl
    · rfl

/-- Settles O29: a frame begins its task after its stream has opened, or in the task of its stream; an END_STREAM closes its stage
and stands where it was entered. -/
theorem streamEntries : Obligations.StreamEntries := by
  unfold Obligations.StreamEntries
  intro s n e aug hf j slot
  refine ⟨fun hwf haug hok h67 h193 => ⟨fun harg => ?_, fun harg => ?_⟩, fun hok h67 => ?_⟩
  · exact ⟨_, if_pos hwf, newStream_leaves hf haug hok h67 h193 harg⟩
  · exact ⟨_, if_pos hwf, laterFrame_leaves hf haug hok h67 h193 harg⟩
  · exact ⟨_, rfl, endStream_closes hf hok h67 noAug⟩

end Sys2Proof.Machine
end

section
/-! Proofs of 03_work_rings.md: completion writes, coalescing timers, fences and timed-out waits (R66, R75 to R78, R296). A
request that stands on a port, waits or is kept stays there through every later write, so the write of a completion is found in
the state after the step. -/

namespace Sys2Proof.Machine

variable {s t u : State}

/-! ## Requests that stand -/

/-- The requests on the ports, held and kept. -/
def standing (s : State) : List MemReq := s.mem.reqs ++ s.mem.held ++ s.mem.retry

theorem mem_standing {q : MemReq} : q ∈ standing s ↔ q ∈ s.mem.reqs ∨ q ∈ s.mem.held ∨ q ∈ s.mem.retry := by
  simp only [standing, List.mem_append, or_assoc]

/-- No standing request leaves. -/
structure Stands (s t : State) : Prop where
  stays : ∀ q ∈ standing s, q ∈ standing t

theorem Stands.of_mem (h : t.mem = s.mem) : Stands s t := ⟨fun q hq => by rwa [standing, h]⟩

theorem Stands.trans (h : Stands s t) (h' : Stands t u) : Stands s u := ⟨fun q hq => h'.stays q (h.stays q hq)⟩

theorem Stands.foldl {α : Type} {f : State → α → State} {l : List α} (hf : ∀ s, ∀ a ∈ l, Stands s (f s a)) (s : State) :
    Stands s (l.foldl f s) :=
  List.foldlRecOn l f (.of_mem rfl) fun _ ht a ha => ht.trans (hf _ a ha)

theorem stands_sendReq (s : State) (r : MemReq) : Stands s (sendReq s r) := by
  refine ⟨fun q hq => ?_⟩
  rw [mem_standing] at hq ⊢
  unfold sendReq
  extract_lets j
  split
  · have hmem : (countLines s r).mem = s.mem := bump_mem ..
    simp only [modMem, hmem, List.mem_append]
    exact hq.imp_left .inl
  · simp only [modMem, List.mem_append]
    exact hq.imp_right (.imp_left .inl)

theorem stands_sendWrite (s : State) (r : MemReq) : Stands s (sendWrite s r) := by
  unfold sendWrite
  split
  · refine ⟨fun q hq => ?_⟩
    rw [mem_standing] at hq ⊢
    simp only [modMem, List.mem_append]
    exact hq.imp_right (.imp_right .inl)
  · exact stands_sendReq s r

theorem stands_memWrite (s : State) (a : Nat) (d : List Byte) (x c p : Nat) (pu : Purpose) : Stands s (memWrite s a d x c p pu) :=
  stands_sendWrite ..

/-- A request that is sent stands with its address, data and purpose. -/
theorem standing_sendReq (s : State) (r : MemReq) : ∃ q ∈ standing (sendReq s r), q.write = r.write ∧ q.purpose = r.purpose ∧
    q.addr = r.addr ∧ q.data = r.data ∧ q.mask = r.mask ∧ q.xlat = r.xlat := by
  unfold sendReq
  extract_lets j
  split
  · next tag _ =>
    exact ⟨{ r with port := j, tag := tag, beats := 0, worst := 0, got := [], gotPois := 0 },
      mem_standing.2 (.inl (List.mem_append_right _ (List.mem_singleton.2 rfl))), rfl, rfl, rfl, rfl, rfl, rfl⟩
  · exact ⟨{ r with port := j, tag := tagWait },
      mem_standing.2 (.inr (.inl (List.mem_append_right _ (List.mem_singleton.2 rfl)))), rfl, rfl, rfl, rfl, rfl, rfl⟩

theorem writes_memWrite (s : State) (a : Nat) (data : List Byte) (xlat cls pod : Nat) (pu : Purpose) :
    writes (memWrite s a data xlat cls pod pu) a data xlat cls pod pu := by
  unfold memWrite sendWrite
  split
  · exact ⟨_, mem_standing.2 (.inr (.inr (List.mem_append_right _ (List.mem_singleton.2 rfl)))), rfl, rfl, rfl, rfl, rfl, rfl⟩
  · exact standing_sendReq s (writeReq a data xlat cls pod 0 pu)

theorem Stands.writes {a : Nat} {data : List Byte} {xlat cls pod : Nat} {pu : Purpose} (h : Stands s t)
    (hw : writes s a data xlat cls pod pu) : writes t a data xlat cls pod pu :=
  hw.imp fun q hq => hq.imp_left (h.stays q)

/-! ## What a written completion leaves -/

/-- A step that leaves completion rings, entries, jobs and Marrow, and every standing request. -/
structure PortStep (s t : State) : Prop where
  cqs : t.cqs = s.cqs
  jobs : t.jobs = s.jobs
  marrow : t.marrow = s.marrow
  entries : t.entries = s.entries
  stands : Stands s t

theorem PortStep.trans (h : PortStep s t) (h' : PortStep t u) : PortStep s u :=
  ⟨h'.cqs.trans h.cqs, h'.jobs.trans h.jobs, h'.marrow.trans h.marrow, h'.entries.trans h.entries, h.stands.trans h'.stands⟩

theorem PortStep.refl (s : State) : PortStep s s := ⟨rfl, rfl, rfl, rfl, .of_mem rfl⟩

theorem PortStep.of_streamFrame (h : streamFrame t = streamFrame s) (hs : Stands s t) : PortStep s t :=
  ⟨congrArg (·.cqs) h, congrArg (·.jobs) h, congrArg (·.marrow) h, congrArg (·.entries) h, hs⟩

theorem portStep_bump32 (s : State) (p o n : Nat) : PortStep s (bump32 s p o n) := by
  unfold bump32
  split
  · exact .refl s
  · exact ⟨rfl, rfl, rfl, rfl, .of_mem rfl⟩

theorem portStep_latchRange (s : State) (p lo hi : Nat) : PortStep s (latchRange s p lo hi) := ⟨rfl, rfl, rfl, rfl, .of_mem rfl⟩

theorem portStep_batchBoundary (s : State) (n : Nat) : PortStep s (batchBoundary s n) := by
  have hlatch (u : State) (k : Nat) (a : Prop) [Decidable a] : PortStep u (if a then latchPage u k else u) := by
    split
    · exact portStep_latchRange ..
    · exact .refl u
  unfold batchBoundary
  exact (hlatch _ _ _).trans ((hlatch _ _ _).trans ((hlatch _ _ _).trans (portStep_latchRange ..)))

theorem stands_writeStream (s : State) (k : Nat) (x : Stream) (r : Nat) : Stands s (writeStream s k x r) := by
  unfold writeStream
  split
  · exact .of_mem rfl
  · exact (stands_memWrite ..).trans (stands_memWrite ..)

theorem stands_freePoolOf (s : State) (c a : Nat) : Stands s (freePoolOf s c a) := ⟨fun _ h => h⟩

theorem stands_forgetAsks (s : State) (c : Nat) (f : PoolUser → Bool) : Stands s (forgetAsks s c f) := by
  have hfold := Stands.foldl (f := fun s (e : PoolUser × Nat) => freePoolOf s c e.2)
    (l := s.mem.poolGot.filter fun e => f e.1) (fun _ _ _ => stands_freePoolOf ..) s
  exact ⟨fun q hq => hfold.stays q hq⟩

theorem stands_closeSome (s : State) (f : Nat × Stream → Bool) (cs : Nat) : Stands s (closeSome s f cs) := by
  unfold closeSome
  extract_lets gone closed
  have hclosed : Stands s closed := by
    refine Stands.foldl (fun u e _ => ?_) s
    extract_lets u1 u2 u3 u4
    have h1 : Stands u u1 := .foldl (fun _ _ _ => stands_freePoolOf ..) u
    have h2 : Stands u1 u2 := by
      unfold u2
      split
      · exact stands_freePoolOf ..
      · exact .of_mem rfl
    exact h1.trans (h2.trans ((stands_forgetAsks ..).trans ((stands_forgetAsks ..).trans (stands_writeStream ..))))
  exact ⟨fun q hq => hclosed.stays q hq⟩

theorem portStep_finalStream (s : State) (e : Entry) (status : Nat) : PortStep s (finalStream s e status) := by
  unfold finalStream
  extract_lets k u g
  have hu : PortStep s u := by
    unfold u
    split
    · exact portStep_latchRange ..
    · exact .refl s
  refine hu.trans ?_
  split
  · exact .refl u
  · split
    · next x _ =>
      split
      · exact .refl u
      · split
        · exact .of_streamFrame (streamFrame_closeSome ..) (stands_closeSome ..)
        · have hs : PortStep u { u with streams := smod u.streams k g } := ⟨rfl, rfl, rfl, rfl, .of_mem rfl⟩
          exact hs.trans (.of_streamFrame (streamFrame_writeStream ..) (stands_writeStream ..))
    · exact .refl u

theorem portStep_drainSettle (s : State) (n : Nat) : PortStep s (drainSettle s n) := by
  unfold drainSettle
  split
  · unfold pageDrained
    split <;> exact ⟨rfl, rfl, rfl, rfl, .of_mem rfl⟩
  · exact .refl s

theorem portStep_modSq (s : State) (n : Nat) (f : Sq → Sq) : PortStep s (modSq s n f) := ⟨rfl, rfl, rfl, rfl, .of_mem rfl⟩

/-- The slot of an entry whose final completion is written belongs to the host again (R68). -/
def slotGiven (s : State) (n k : Nat) : State := { s with entries := s.entries.filter fun x => !(x.sq = n && x.slot = k) }

/-- The count of a concealed entry (Table 19-9). -/
def concealCounted (s : State) (d : Due) : State :=
  if d.status = stConcealed then bump32 s (sqPage d.sq) (0x20C + 16 * (d.sq % 16)) else s

/-- The period boundary of a written flush entry (Table 19-9). -/
def flushBoundary (s : State) (e : Entry) (n : Nat) : State :=
  if e.opcode = 5 ∧ (jobPack s e.job).isNone then batchBoundary s n else s

/-- A ring without the place of a unit. -/
def Sq.unplace (r : Nat) (q : Sq) : Sq := { q with asm := { q.asm with placed := ndel q.asm.placed r, removed := ndel q.asm.removed r } }

theorem portStep_concealCounted (s : State) (d : Due) : PortStep s (concealCounted s d) := by
  unfold concealCounted
  split
  · exact portStep_bump32 ..
  · exact .refl s

theorem portStep_flushBoundary (s : State) (e : Entry) (n : Nat) : PortStep s (flushBoundary s e n) := by
  unfold flushBoundary
  split
  · exact portStep_batchBoundary ..
  · exact .refl s

theorem finalWritten_eq {d : Due} {e : Entry} (hd : d.reserved = true) (he : entryAt s d.sq d.slot = some e) :
    finalWritten s d = drainSettle (flushBoundary (finalStream (modSq (slotGiven (concealCounted s d) d.sq d.slot) d.sq
      (Sq.unplace e.rank)) e d.status) e d.sq) d.sq := by
  have hcounted : entryAt (concealCounted s d) d.sq d.slot = some e :=
    (entryAt_congr (portStep_concealCounted s d).entries ..).trans he
  unfold concealCounted at hcounted
  simp only [finalWritten, hcounted, hd, if_true]
  rfl

theorem portStep_finalWritten {d : Due} {e : Entry} (hd : d.reserved = true) (he : entryAt s d.sq d.slot = some e) :
    PortStep (slotGiven s d.sq d.slot) (finalWritten s d) := by
  obtain ⟨hcqs, hjobs, hmarrow, hentries, ⟨hstays⟩⟩ := portStep_concealCounted s d
  have hgiven : PortStep (slotGiven s d.sq d.slot) (slotGiven (concealCounted s d) d.sq d.slot) :=
    ⟨hcqs, hjobs, hmarrow, by rw [slotGiven, slotGiven, hentries], ⟨hstays⟩⟩
  rw [finalWritten_eq hd he]
  exact hgiven.trans ((portStep_modSq ..).trans ((portStep_finalStream ..).trans ((portStep_flushBoundary ..).trans
    (portStep_drainSettle ..))))

/-! ## Signals -/

/-- A completion ring that has signalled (R78). -/
def Cq.signalled (q : Cq) : Cq := { q with irqPend := true, since := 0, timing := false }

/-- A completion ring without the state of its signal. -/
def Cq.slots (q : Cq) : Cq := { q with irqPend := false, since := 0, timing := false }

theorem cqInterrupt_step (s : State) (c : Nat) : portFrame (cqInterrupt s c) = portFrame s ∧ Stands s (cqInterrupt s c) := by
  unfold cqInterrupt
  split
  · unfold cqMessage
    extract_lets a r
    split
    · next h =>
      rw [sendWrite, if_pos h]
      exact ⟨rfl, by simpa only [sendWrite, if_pos h] using stands_sendWrite s r⟩
    · split
      · exact ⟨rfl, ⟨fun q hq => mem_standing.2 ((mem_standing.1 hq).imp_right (.imp_left (List.mem_append_left _)))⟩⟩
      · exact ⟨portFrame_sendReq r, stands_sendReq s r⟩
  · exact ⟨rfl, .of_mem rfl⟩

theorem cqSignal_step (s : State) (c : Nat) :
    portFrame (cqSignal s c) = portFrame (modCq s c Cq.signalled) ∧ Stands s (cqSignal s c) := by
  have hinterrupt := cqInterrupt_step (modCq s c Cq.signalled) c
  simp only [cqSignal]
  split
  · exact ⟨rfl, .of_mem rfl⟩
  · exact hinterrupt.imp_right fun h => ⟨fun q hq => h.stays q hq⟩

/-- Ring `c` after the completion `d`: it signals when it has to (R78). -/
def signalStep (s : State) (c : Nat) (d : Due) : State := if signals s c d then cqSignal s c else s

/-- A signal leaves the slots of every ring, and all but the ring itself. -/
structure SignalStep (s t : State) (c : Nat) : Prop where
  slots : (cqAt t c).slots = (cqAt s c).slots
  others : ∀ k, k ≠ c → cqAt t k = cqAt s k
  sqs : t.sqs = s.sqs
  jobs : t.jobs = s.jobs
  marrow : t.marrow = s.marrow
  entries : t.entries = s.entries
  stands : Stands s t

theorem signalStep_step (s : State) (c : Nat) (d : Due) : SignalStep s (signalStep s c d) c := by
  unfold signalStep
  split
  · obtain ⟨hframe, hstands⟩ := cqSignal_step s c
    have hcqs : (cqSignal s c).cqs = (modCq s c Cq.signalled).cqs := congrArg (·.cqs) hframe
    refine ⟨?_, fun k hk => ?_, congrArg (·.sqs) hframe, congrArg (·.jobs) hframe, congrArg (·.marrow) hframe,
      congrArg (·.entries) hframe, hstands⟩
    · rw [cqAt_congr hcqs, cqAt_modCq, if_pos rfl]
      rfl
    · rw [cqAt_congr hcqs, cqAt_modCq, if_neg hk]
  · exact ⟨rfl, fun _ _ => rfl, rfl, rfl, rfl, rfl, .of_mem rfl⟩

/-! ## The write of a completion -/

/-- A completion ring whose due completion `d` was written at its tail (R75 to R77). -/
def Cq.wrote (d : Due) (wrap : Bool) (q : Cq) : Cq :=
  { q with
    due := q.due.erase d, tail := if wrap then 0 else q.tail + 1, phase := xor q.phase wrap
    reserved := if d.reserved then q.reserved - 1 else q.reserved, since := q.since + 1, timing := true }

theorem writeDue_eq (s : State) (c : Nat) (d : Due) : writeDue s c d =
    modCq (memWrite s (cqr s c 0x08 + 2 ^ 32 * cqr s c 0x0C + 32 * (cqAt s c).tail) (completionBytes d (cqAt s c).phase s.time)
      (cqr s c 0x20) 1 127 (.completion c d.sq d.slot d.xfer)) c (Cq.wrote d (decide ((cqAt s c).tail + 1 ≥ cqSize s c))) := by
  unfold writeDue
  extract_lets q a u wrap
  have hsize : cqSize (portFrame u) c = cqSize (portFrame s) c := by rw [portFrame_memWrite]
  have hsize : cqSize u c = cqSize s c := hsize
  simp only [wrap, hsize]
  rfl

/-- COMPLETION_WRITE: the completion leaves for the tail of its ring, and the ring moves on (R75 to R77). -/
structure Completed (s t : State) (c : Nat) (d : Due) : Prop where
  sent : writes t (cqr s c 0x08 + 2 ^ 32 * cqr s c 0x0C + 32 * (cqAt s c).tail) (completionBytes d (cqAt s c).phase s.time)
    (cqr s c 0x20) 1 127 (.completion c d.sq d.slot d.xfer)
  slots : (cqAt t c).slots = ((cqAt s c).wrote d (decide ((cqAt s c).tail + 1 ≥ cqSize s c))).slots
  others : ∀ k, k ≠ c → cqAt t k = cqAt s k
  jobs : t.jobs = s.jobs
  marrow : t.marrow = s.marrow

/-- What follows the write leaves it, the rings, jobs and Marrow. -/
theorem completed_signalStep {v : State} {c : Nat} {d : Due} (hcqs : v.cqs = (writeDue s c d).cqs)
    (hjobs : v.jobs = (writeDue s c d).jobs) (hmarrow : v.marrow = (writeDue s c d).marrow) (hstands : Stands (writeDue s c d) v) :
    Completed s (signalStep v c d) c d := by
  rw [writeDue_eq] at hcqs hjobs hmarrow hstands
  have hframe (a : Nat) (data : List Byte) (x : Nat) (pu : Purpose) := portFrame_memWrite (s := s) a data x 1 127 pu
  have hrings (a : Nat) (data : List Byte) (x : Nat) (pu : Purpose) (k : Nat) : cqAt (memWrite s a data x 1 127 pu) k = cqAt s k :=
    cqAt_congr (congrArg (·.cqs) (hframe a data x pu)) k
  have hstep := signalStep_step v c d
  refine ⟨?_, ?_, fun k hk => ?_, ?_, ?_⟩
  · refine Stands.writes (Stands.trans ⟨fun q hq => hstands.stays q hq⟩ hstep.stands) (writes_memWrite ..)
  · rw [hstep.slots, cqAt_congr hcqs, cqAt_modCq, if_pos rfl, hrings]
  · rw [hstep.others k hk, cqAt_congr hcqs, cqAt_modCq, if_neg hk, hrings]
  · exact hstep.jobs.trans (hjobs.trans (congrArg (·.jobs) (hframe ..)))
  · exact hstep.marrow.trans (hmarrow.trans (congrArg (·.marrow) (hframe ..)))

theorem doCompletion_eq {c : Nat} {d : Due} (hlive : portLive s = true) (hon : (cqAt s c).on = true)
    (hfree : behind s (some (0, c)) = false) (hdue : nextDue s c = some d) :
    doCompletion s c = signalStep (if d.final then finalWritten (writeDue s c d) d else writeDue s c d) c d := by
  unfold doCompletion
  rw [if_neg (by simp [hlive, hon, hfree]), hdue]
  rfl

/-- The fields of the ring that the statement names. -/
theorem Completed.fields {c : Nat} {d : Due} (h : Completed s t c d) :
    (cqAt t c).due = (cqAt s c).due.erase d ∧
    (cqAt t c).tail = (if (cqAt s c).tail + 1 ≥ cqSize s c then 0 else (cqAt s c).tail + 1) ∧
    (cqAt t c).phase = xor (cqAt s c).phase (decide ((cqAt s c).tail + 1 ≥ cqSize s c)) ∧
    (cqAt t c).reserved = (if d.reserved then (cqAt s c).reserved - 1 else (cqAt s c).reserved) := by
  refine ⟨congrArg (·.due) h.slots, (congrArg (·.tail) h.slots).trans ?_, congrArg (·.phase) h.slots, congrArg (·.reserved) h.slots⟩
  simp only [Cq.wrote, Cq.slots, decide_eq_true_eq]

theorem sqs_writeDue (s : State) (c : Nat) (d : Due) : (writeDue s c d).sqs = s.sqs := by
  rw [writeDue_eq]
  exact congrArg (·.sqs) (portFrame_memWrite (s := s) ..)

theorem entries_writeDue (s : State) (c : Nat) (d : Due) : (writeDue s c d).entries = s.entries := by
  rw [writeDue_eq]
  exact congrArg (·.entries) (portFrame_memWrite (s := s) ..)

/-! ## Fences and timed-out waits -/

/-- A ring whose fence has been released. -/
def Sq.released (q : Sq) : Sq := { q with fence := none }

theorem doFenceRelease_eq {n k : Nat} {f : Entry} (hlive : portLive s = true) (hfence : (sqAt s n).fence = some k)
    (hf : entryAt s n k = some f) (hfirst : s.entries.any (fun e => e.sq = n && decide (e.rank < f.rank)) = false) :
    doFenceRelease s n = modSq (finish s f stOk) n Sq.released := by
  simp only [doFenceRelease, hfence, Option.bind_some, hf, hlive, hfirst, Bool.not_false, Bool.and_true, if_true]
  rfl

theorem misTake_ne {r : MpRec} (h : r.misTake ≠ 0) : r ≠ MpRec.empty := fun heq => h (congrArg (·.misTake) heq)

/-- A Milepost that counts a timed-out `TAKE` (R307). -/
def MpRec.takeMissed (r : MpRec) : MpRec := { r with misTake := min 255 (r.misTake + 1) }

/-- A take misuse, before the fault it raises. -/
def takeMisuse (s : State) (id : Nat) : State := bump (pageErr (putMp s id (mpAt s id).takeMissed) 0x580 0) 0x580 4

theorem mpMisuse_take (s : State) (id : Nat) : mpMisuse s id 2 = match physOf (takeMisuse s id) (id / 2048) with
    | some p => raise (takeMisuse s id) 13 p (id + 2 ^ 18 * 2) p
    | none => takeMisuse s id := rfl

theorem resetFrame_mpMisuse (s : State) (id : Nat) : resetFrame (mpMisuse s id 2) = resetFrame (takeMisuse s id) := by
  rw [mpMisuse_take]
  split
  · exact resetFrame_raise (by decide) (by decide) (by decide) (by decide) ..
  · rfl

/-- A waiter leaves the bank; a timed-out wait is counted (R296). -/
def waitGone (s : State) (w : Waiter) : State :=
  bump (modMps s fun b => { b with waiters := b.waiters.filter fun v => v ≠ w }) 0x580 3

/-- What the end of a wait does before its entry ends. -/
def waitMissed (s : State) (w : Waiter) : State := if w.take then mpMisuse (waitGone s w) w.id 2 else waitGone s w

theorem doMpTimeout_eq {n k : Nat} {w : Waiter} (hlive : portLive s = true)
    (hw : s.mps.waiters.find? (fun v => v.src = .ring n k) = some w) :
    doMpTimeout s n k = match entryAt (waitMissed s w) n k with
      | some e => finish (waitMissed s w) e stTimeout
      | none => waitMissed s w := by
  simp only [doMpTimeout, hw]
  rw [if_neg (by simp [hlive])]
  rfl

theorem waiters_waitGone (s : State) (w : Waiter) : (waitGone s w).mps.waiters = s.mps.waiters.filter fun v => v ≠ w := by
  rw [waitGone, bump_mps]
  rfl

/-- The end of a wait takes its waiter, and changes the Milepost of a `TAKE` only. -/
structure WaitEnd (s t : State) (w : Waiter) : Prop where
  waiters : t.mps.waiters = s.mps.waiters.filter fun v => v ≠ w
  recs : w.take = false → t.mps.recs = s.mps.recs
  missed : w.take = true → mpAt t w.id = (mpAt s w.id).takeMissed
  others : w.take = true → ∀ k, k ≠ w.id → mpAt t k = mpAt s k
  cqOf : ∀ n, sqCq t n = sqCq s n
  jobs : t.jobs = s.jobs
  sqs : t.sqs = s.sqs
  entries : t.entries = s.entries

theorem ownWords_bump (s : State) (p k n : Nat) : OwnWords s (bump s p k n) := by
  obtain ⟨live, h⟩ := bump_live s p k n
  rw [h]
  exact .of_words rfl

theorem ownWords_waitGone (s : State) (w : Waiter) : OwnWords s (waitGone s w) :=
  OwnWords.trans (t := modMps s _) (.of_words rfl) (ownWords_bump _ _ _ _)

theorem mpAt_waitGone (s : State) (w : Waiter) (k : Nat) : mpAt (waitGone s w) k = mpAt s k := mpAt_bump ..

theorem waitEnd_waitGone {w : Waiter} (h : w.take = false) : WaitEnd s (waitGone s w) w where
  waiters := waiters_waitGone s w
  recs := fun _ => by rw [waitGone, bump_mps]; rfl
  missed := fun htake => absurd (h.symm.trans htake) nofun
  others := fun htake => absurd (h.symm.trans htake) nofun
  cqOf := (ownWords_waitGone s w).sqCq
  jobs := bump_jobs ..
  sqs := bump_sqs ..
  entries := bump_entries ..

theorem mpAt_takeMisuse (s : State) (id k : Nat) :
    mpAt (takeMisuse s id) k = if k = id then (mpAt s id).takeMissed else mpAt s k := by
  rw [takeMisuse, mpAt_bump]
  split
  · next h =>
    rw [h]
    exact mpAt_putMp_self s id (misTake_ne (by simp [MpRec.takeMissed]))
  · next h => exact mpAt_putMp_ne s h _

theorem ownWords_takeMisuse (s : State) (id : Nat) : OwnWords s (takeMisuse s id) :=
  OwnWords.trans (t := pageErr (putMp s id _) 0x580 0) (ownWords_wrg (o := 0x014) (by decide) _ _ _) (ownWords_bump _ _ _ _)

theorem mpAt_mpMisuse (s : State) (id k : Nat) : mpAt (mpMisuse s id 2) k = mpAt (takeMisuse s id) k := by
  have h : mpAt (resetFrame (mpMisuse s id 2)) k = mpAt (resetFrame (takeMisuse s id)) k := by rw [resetFrame_mpMisuse]
  exact h

theorem waitEnd_misuse {w : Waiter} (h : w.take = true) : WaitEnd s (mpMisuse (waitGone s w) w.id 2) w := by
  have hframe := resetFrame_mpMisuse (waitGone s w) w.id
  refine ⟨?_, fun hno => absurd (h.symm.trans hno) nofun, fun _ => ?_, fun _ k hk => ?_, fun n => ?_, ?_, ?_, ?_⟩
  · refine (congrArg (·.mps.waiters) hframe).trans (Eq.trans ?_ (waiters_waitGone s w))
    exact congrArg (·.waiters) (bump_mps ..)
  · rw [mpAt_mpMisuse, mpAt_takeMisuse, if_pos rfl, mpAt_waitGone]
  · rw [mpAt_mpMisuse, mpAt_takeMisuse, if_neg hk, mpAt_waitGone]
  · have hwords : sqCq (mpMisuse (waitGone s w) w.id 2) n = sqCq (takeMisuse (waitGone s w) w.id) n :=
      sqCq_of_words (congrArg (·.regs.words) hframe) n
    rw [hwords, OwnWords.sqCq (ownWords_takeMisuse (waitGone s w) w.id), (ownWords_waitGone s w).sqCq]
  · exact (congrArg (·.jobs) hframe).trans (Eq.trans (b := (waitGone s w).jobs) (bump_jobs ..) (bump_jobs ..))
  · exact (congrArg (·.sqs) hframe).trans (Eq.trans (b := (waitGone s w).sqs) (bump_sqs ..) (bump_sqs ..))
  · exact (congrArg (·.entries) hframe).trans (Eq.trans (b := (waitGone s w).entries) (bump_entries ..) (bump_entries ..))

theorem waitEnd_waitMissed (s : State) (w : Waiter) : WaitEnd s (waitMissed s w) w := by
  unfold waitMissed
  split
  · next h => exact waitEnd_misuse h
  · next h => exact waitEnd_waitGone (Bool.not_eq_true _ ▸ h)

/-! ## O22 -/

theorem completionWritten {c : Nat} {d : Due} (hlive : portLive s = true) (hon : (cqAt s c).on = true)
    (hfree : behind s (some (0, c)) = false) (hdue : nextDue s c = some d) :
    (d.final = false → Completed s (doCompletion s c) c d ∧ (doCompletion s c).sqs = s.sqs ∧ (doCompletion s c).entries = s.entries) ∧
    (d.final = true → d.reserved = true → (entryAt s d.sq d.slot).isSome = true →
      Completed s (doCompletion s c) c d ∧
      (doCompletion s c).entries = s.entries.filter fun x => !(x.sq = d.sq && x.slot = d.slot)) := by
  rw [doCompletion_eq hlive hon hfree hdue]
  refine ⟨fun hfinal => ?_, fun hfinal hres hsome => ?_⟩
  · have hstep := signalStep_step (writeDue s c d) c d
    rw [hfinal, if_neg (by decide)]
    exact ⟨completed_signalStep rfl rfl rfl (.of_mem rfl), hstep.sqs.trans (sqs_writeDue ..), hstep.entries.trans (entries_writeDue ..)⟩
  · obtain ⟨e, he⟩ := Option.isSome_iff_exists.1 hsome
    have hport := portStep_finalWritten hres ((entryAt_congr (entries_writeDue s c d) ..).trans he)
    rw [hfinal, if_pos rfl]
    refine ⟨completed_signalStep hport.cqs hport.jobs hport.marrow ⟨hport.stands.stays⟩, ?_⟩
    rw [(signalStep_step ..).entries, hport.entries, slotGiven, entries_writeDue]

theorem coalSignal {c : Nat} (hlive : portLive s = true) (hon : (cqAt s c).on = true) (htiming : (cqAt s c).timing = true)
    (htime : bits (cqr s c 0x10) 31 16 ≠ 0) : cqAt (doCoal s c) c = (cqAt s c).signalled ∧ (∀ k, k ≠ c → cqAt (doCoal s c) k = cqAt s k) ∧
    (doCoal s c).sqs = s.sqs ∧ (doCoal s c).entries = s.entries := by
  have hframe := (cqSignal_step s c).1
  have hcqs : (cqSignal s c).cqs = (modCq s c Cq.signalled).cqs := congrArg (·.cqs) hframe
  rw [doCoal, if_pos (by simp [hlive, hon, htiming, htime])]
  refine ⟨?_, fun k hk => ?_, congrArg (·.sqs) hframe, congrArg (·.entries) hframe⟩
  · rw [cqAt_congr hcqs, cqAt_modCq, if_pos rfl]
  · rw [cqAt_congr hcqs, cqAt_modCq, if_neg hk]

theorem fenceReleased {n k : Nat} {f : Entry} (hlive : portLive s = true) (hfence : (sqAt s n).fence = some k)
    (hf : entryAt s n k = some f) (hst : f.st ≠ .done) (hfirst : s.entries.any (fun e => e.sq = n && decide (e.rank < f.rank)) = false) :
    (sqAt (doFenceRelease s n) n).fence = none ∧ finalDue f stOk 0 0 (plainInfo stOk) ∈ (cqAt (doFenceRelease s n) (sqCq s n)).due ∧
    (doFenceRelease s n).marrow = s.marrow ∧ (doFenceRelease s n).jobs = s.jobs := by
  obtain ⟨rfl, rfl⟩ := entryAt_some hf
  have hframe := endFrame_finish s f stOk 0 0 (plainInfo stOk)
  rw [doFenceRelease_eq hlive hfence hf hfirst]
  refine ⟨?_, due_finish hf hst stOk 0 0 (plainInfo stOk), congrArg (·.marrow) hframe, congrArg (·.jobs) hframe⟩
  rw [sqAt_modSq, if_pos rfl]
  rfl

theorem waitTimedOut {n k : Nat} {w : Waiter} {e : Entry} (hlive : portLive s = true)
    (hw : s.mps.waiters.find? (fun v => v.src = .ring n k) = some w) (he : entryAt s n k = some e) (hst : e.st ≠ .done) :
    (doMpTimeout s n k).mps = (waitMissed s w).mps ∧ finalDue e stTimeout 0 0 (plainInfo stTimeout) ∈ (cqAt (doMpTimeout s n k) (sqCq s n)).due ∧
    (doMpTimeout s n k).jobs = s.jobs ∧ (doMpTimeout s n k).sqs = s.sqs := by
  have hend := waitEnd_waitMissed s w
  have he' : entryAt (waitMissed s w) n k = some e := (entryAt_congr hend.entries ..).trans he
  have ht : doMpTimeout s n k = finish (waitMissed s w) e stTimeout := by rw [doMpTimeout_eq hlive hw, he']
  have hframe := endFrame_finish (waitMissed s w) e stTimeout 0 0 (plainInfo stTimeout)
  obtain ⟨rfl, rfl⟩ := entryAt_some he
  rw [ht, ← hend.cqOf]
  exact ⟨congrArg (·.mps) hframe, due_finish he' hst stTimeout 0 0 (plainInfo stTimeout), (congrArg (·.jobs) hframe).trans hend.jobs,
    (congrArg (·.sqs) hframe).trans hend.sqs⟩

/-- Settles O22: the write of a completion goes to its port and its ring moves on; what follows leaves both. A fence ends its
entry, and a timed-out wait leaves the bank before its entry ends. -/
theorem ringEvents : Obligations.RingEvents := by
  unfold Obligations.RingEvents
  intro s hlive
  refine ⟨fun c d hon hfree hdue => ?_, fun c hon htiming htime => ⟨_, rfl, coalSignal hlive hon htiming htime⟩,
    fun n k f hfence hf hst hfirst => ⟨_, rfl, fenceReleased hlive hfence hf hst hfirst⟩, fun n slot w e hw he hst => ⟨_, rfl, ?_⟩⟩
  · obtain ⟨hpart, hfinal⟩ := completionWritten hlive hon hfree hdue
    refine ⟨fun h => ⟨_, rfl, ?_⟩, fun h hres hsome => ⟨_, rfl, ?_⟩⟩
    · obtain ⟨hwrote, hsqs, hentries⟩ := hpart h
      obtain ⟨hd, htail, hphase, hreserved⟩ := hwrote.fields
      exact ⟨⟨hwrote.sent, hd, htail, hphase, hreserved, hwrote.others, hwrote.jobs, hwrote.marrow⟩, hsqs, hentries⟩
    · obtain ⟨hwrote, hentries⟩ := hfinal h hres hsome
      obtain ⟨hd, htail, hphase, hreserved⟩ := hwrote.fields
      exact ⟨⟨hwrote.sent, hd, htail, hphase, hreserved, hwrote.others, hwrote.jobs, hwrote.marrow⟩, hentries⟩
  · have hend := waitEnd_waitMissed s w
    obtain ⟨hmps, hdue, hjobs, hsqs⟩ := waitTimedOut hlive hw he hst
    have hmp (k : Nat) := mpAt_congr hmps k
    refine ⟨fun v hv => ?_, fun h => (congrArg (·.recs) hmps).trans (hend.recs h), fun h => ⟨fun k hk => ?_, ?_, ?_⟩, hdue, hjobs, hsqs⟩
    · have hv' : v ∈ (doMpTimeout s n.toNat slot.toNat).mps.waiters := hv
      rw [hmps, hend.waiters] at hv'
      exact of_decide_eq_true (List.mem_filter.1 hv').2
    · exact (hmp k).trans (hend.others h k hk)
    · exact congrArg (·.value) ((hmp w.id).trans (hend.missed h))
    · exact congrArg (·.misTake) ((hmp w.id).trans (hend.missed h))

end Sys2Proof.Machine
end

section
/-! Proofs of 11_memory.md that rings need: what an answered request leaves (R271, R275, R282, R425). An answer first takes its
request off the port, counts and reports it, then does what the request was for, then lets requests go on that wait. -/

namespace Sys2Proof.Machine

variable {s t u : State} {r : MemReq} {k : RspKind}

/-! ## Requests that go on -/

/-- The state in which requests that waited for the answer of `r` have gone on (R275, R282). -/
def goneOn (s : State) (r : MemReq) : State := pumpMoves (pumpFence (pumpRetry (pumpTags s) r))

theorem alertFrame_pumpTags (s : State) : alertFrame (pumpTags s) = alertFrame s :=
  (foldl_keeps alertFrame (fun _ _ _ => alertFrame_sendReq ..) _).trans (alertFrame_modMem rfl)

theorem alertFrame_pumpFence (s : State) : alertFrame (pumpFence s) = alertFrame s :=
  (foldl_keeps alertFrame (fun _ _ _ => alertFrame_sendReq ..) _).trans (alertFrame_modMem rfl)

theorem alertFrame_pumpRetry (s : State) (r : MemReq) : alertFrame (pumpRetry s r) = alertFrame s := by
  unfold pumpRetry
  split
  · split
    · split
      · exact (alertFrame_sendReq ..).trans (alertFrame_modMem rfl)
      · rfl
    · rfl
  · rfl

/-- Before buffers go on, only requests on ports, waiting or kept have changed. -/
theorem alertFrame_pumped (s : State) (r : MemReq) : alertFrame (pumpFence (pumpRetry (pumpTags s) r)) = alertFrame s :=
  (alertFrame_pumpFence _).trans ((alertFrame_pumpRetry ..).trans (alertFrame_pumpTags s))

theorem goneOn_of_no_moves (h : s.mem.moves = []) (r : MemReq) : goneOn s r = pumpFence (pumpRetry (pumpTags s) r) :=
  pumpMoves_of_no_moves ((congrArg (·.mem.moves) (alertFrame_pumped s r)).trans h)

theorem alertFrame_goneOn (h : s.mem.moves = []) (r : MemReq) : alertFrame (goneOn s r) = alertFrame s := by
  rw [goneOn_of_no_moves h]
  exact alertFrame_pumped s r

theorem jobs_goneOn (s : State) (r : MemReq) : (goneOn s r).jobs = s.jobs :=
  (congrArg (·.jobs) (portFrame_pumpMoves _)).trans (congrArg (·.jobs) (alertFrame_pumped s r))

theorem active_goneOn (s : State) (r : MemReq) : (goneOn s r).flt.active = s.flt.active :=
  (congrArg (·.flt.active) (portFrame_pumpMoves _)).trans (congrArg (·.flt.active) (alertFrame_pumped s r))

theorem modMem_self {f : Mem → Mem} (h : f s.mem = s.mem) : modMem s f = s := by rw [modMem, h]

theorem goneOn_of_quiet (h : portsQuiet s) (r : MemReq) : goneOn s r = s := by
  obtain ⟨hheld, hretry, hmoves⟩ := h
  have hdrop (p : MemReq → Bool) : modMem s (fun m => { m with held := m.held.filter p }) = s := by
    refine modMem_self ?_
    have hnone : s.mem.held.filter p = s.mem.held := by rw [hheld]; rfl
    exact congrArg (fun l => { s.mem with held := l }) hnone
  have htags : pumpTags s = s := by
    simp only [pumpTags, hheld, List.filter_nil, List.foldl_nil]
    exact hdrop _
  have hkept : pumpRetry s r = s := by
    simp only [pumpRetry, hretry, List.find?_nil, ite_self]
  have hfence : pumpFence s = s := by
    simp only [pumpFence, hheld, List.filter_nil, List.foldl_nil]
    exact hdrop _
  rw [goneOn_of_no_moves hmoves, htags, hkept, hfence]

theorem retry_sendReq (s : State) (r : MemReq) : (sendReq s r).mem.retry = s.mem.retry := by
  unfold sendReq
  extract_lets j
  split
  · exact congrArg (·.retry) (bump_mem ..)
  · rfl

/-- Kept writes stay kept while no repetition was answered. -/
theorem retry_goneOn (hmoves : s.mem.moves = []) (hr : r.again = false) : (goneOn s r).mem.retry = s.mem.retry := by
  have hsend {l : List MemReq} (u : State) : (l.foldl sendReq u).mem.retry = u.mem.retry :=
    foldl_keeps (·.mem.retry) (fun _ _ _ => retry_sendReq ..) u
  have htags : (pumpTags s).mem.retry = s.mem.retry := hsend _
  have hkept : pumpRetry (pumpTags s) r = pumpTags s := if_neg (by simp [hr])
  rw [goneOn_of_no_moves hmoves, hkept]
  exact (hsend _).trans htags

/-! ## A request that is answered -/

/-- The state without the requests on the port and tag of `r`. -/
def requestGone (s : State) (r : MemReq) : State :=
  modMem s fun m => { m with reqs := m.reqs.filter fun q => !(q.port = r.port && q.tag = r.tag) }

/-- The memory-error event of an answered request (R271, R272). -/
def errorTold (s : State) (r : MemReq) : State := if r.worst = 2 ∨ (r.write ∧ r.worst = 1) then memRaise s 9 r else s

/-- The poisoned lines of an answered read, counted. -/
def poisonCounted (s : State) (r : MemReq) : State :=
  if r.write ∨ r.pod ≥ 100 ∨ r.worst = 3 then s else bump s (podPage r.pod) 6 (answerPois r).length

theorem answered_eq (h : r.also = []) (s : State) : answered s r false =
    goneOn (answerFor (poisonCounted (errorTold (requestGone s r) r) r) r r.purpose) r := by
  simp only [answered, h, true_and]
  rfl

theorem exec_memResponse (hk : k ≠ .timeout) (x : RspTarget) (d : BitVec 512) (ok : Bool) :
    exec (.memResponse x k d ok) s = .next (doMemResponse s x k d ok) := by
  cases x with
  | slot n => cases k <;> rfl
  | req port tag =>
    cases k with
    | timeout => exact absurd rfl hk
    | okay | poison | fault | error => rfl

theorem doMemResponse_last {port : BitVec 4} {tag : BitVec 10} (hr : reqAt s port.toNat tag.toNat = some r)
    (hlast : r.write = true ∨ r.lines ≤ r.beats + 1) (k : RspKind) (d : BitVec 512) :
    doMemResponse s (.req port tag) k d true = answered s (takeBeat r k d) false := by
  simp only [doMemResponse, hr]
  rw [if_neg (by decide)]
  exact if_pos hlast

theorem worst_takeBeat (h : r.worst = 0) (k : RspKind) (d : BitVec 512) : (takeBeat r k d).worst = rspRank k := by
  simp only [takeBeat, h, Nat.zero_max]

theorem errorTold_of_silent (h0 : r.worst ≠ 2) (h1 : r.worst ≠ 1) (s : State) : errorTold s r = s := if_neg (by simp [h0, h1])

theorem poisonCounted_write (h : r.write = true) (s : State) : poisonCounted s r = s := if_pos (.inl h)

theorem poisonCounted_live (s : State) (r : MemReq) : ∃ live, poisonCounted s r = { s with regs := { s.regs with live := live } } := by
  unfold poisonCounted
  split
  · exact ⟨s.regs.live, rfl⟩
  · exact bump_live ..

/-- The state in which the parts of an answered request are served. -/
def met (s : State) (r : MemReq) : State := poisonCounted (errorTold (requestGone s r) r) r

theorem met_okay (h : r.worst = 0) (s : State) : ∃ live, met s r =
    { requestGone s r with regs := { s.regs with live := live } } := by
  rw [met, errorTold_of_silent (by rw [h]; decide) (by rw [h]; decide)]
  exact poisonCounted_live ..

theorem met_write (h : r.write = true) (s : State) : met s r = errorTold (requestGone s r) r := poisonCounted_write h _

/-! ## Tile operations -/

theorem opAt_modOp {f : TileOp → TileOp} (hf : ∀ o, (f o).id = o.id) (s : State) (i : Nat) :
    opAt (modOp s i f) i = (opAt s i).map f := by
  unfold opAt modOp
  rw [List.find?_map]
  have hid : ((fun o : TileOp => decide (o.id = i)) ∘ fun o => if o.id = i then f o else o) = fun o => decide (o.id = i) := by
    funext o
    simp only [Function.comp_apply]
    split <;> simp_all
  rw [hid]
  cases ho : s.ops.find? fun o => decide (o.id = i) with
  | none => rfl
  | some o =>
    have hi : o.id = i := of_decide_eq_true (List.find?_some (p := fun o : TileOp => decide (o.id = i)) ho)
    simp only [Option.map_some, if_pos hi]

/-- An operation that has read what `r` brings (R271). -/
def TileOp.gotRead (r : MemReq) (o : TileOp) : TileOp :=
  { o with got := answerBytes r o.got, gotPois := (answerPois r).foldl nins o.gotPois }

/-- An operation that waits for one request less. -/
def TileOp.answered (o : TileOp) : TileOp := { o with awaiting := o.awaiting - 1 }

theorem settleXfer_of_clean {n : Nat} (h : ∀ x, xferNum s n = some x → x.faulted = false) : settleXfer s n = s := by
  unfold settleXfer
  split
  · next x hx => exact if_neg (by simp [h x hx])
  · rfl

/-- The delivery of an operation whose last request of a readable tile is answered (R278). -/
def deliverReady (s : State) (x i : Nat) : State := match opAt s i with
  | some o => if o.awaiting = 0 ∧ (o.kind = 0 ∨ o.kind = 9) ∧ opAlive s o ∧ !undelivered s x o.tile then deliver s o else s
  | none => s

theorem answerOp_of_read {i x : Nat} {o : TileOp} (hop : opAt s i = some o) (hw : r.write = false) (h0 : r.worst = 0) :
    answerOp s r x i = settleXfer (deliverReady (modOp (modOp s i (TileOp.gotRead r)) i TileOp.answered) x i) x := by
  simp only [answerOp, hop]
  rw [if_neg (by simp [h0]), if_neg (by simp [hw]), hw]
  rfl

theorem deliverReady_of_waiting {i x : Nat} {o : TileOp} (hop : opAt s i = some o) (h : o.awaiting ≠ 0) : deliverReady s x i = s := by
  simp only [deliverReady, hop]
  exact if_neg fun hready => h hready.1

/-- Read data joins an operation that waits for more (R278). -/
theorem answerOp_read {i x : Nat} {o : TileOp} (hop : opAt s i = some o) (hw : r.write = false) (h0 : r.worst = 0)
    (hmore : 2 ≤ o.awaiting) (hclean : ∀ y, xferNum s x = some y → y.faulted = false) :
    answerOp s r x i = modOp (modOp s i (TileOp.gotRead r)) i TileOp.answered ∧
    opAt (modOp (modOp s i (TileOp.gotRead r)) i TileOp.answered) i = some (o.gotRead r).answered := by
  have hafter : opAt (modOp (modOp s i (TileOp.gotRead r)) i TileOp.answered) i = some (o.gotRead r).answered := by
    rw [opAt_modOp (f := TileOp.answered) fun _ => rfl, opAt_modOp (f := TileOp.gotRead r) fun _ => rfl, hop]
    rfl
  have hwaits : (o.gotRead r).answered.awaiting ≠ 0 := Nat.sub_ne_zero_of_lt hmore
  rw [answerOp_of_read hop hw h0, deliverReady_of_waiting hafter hwaits]
  exact ⟨settleXfer_of_clean (s := modOp (modOp s i (TileOp.gotRead r)) i TileOp.answered) hclean, hafter⟩

/-! ## Answers of quiet ports -/

/-- What an answer does on quiet ports, where its parts leave them quiet. -/
theorem answered_of_quiet (h : r.also = []) (hq : portsQuiet (answerFor (met s r) r r.purpose)) :
    answered s r false = answerFor (met s r) r r.purpose := (answered_eq h s).trans (goneOn_of_quiet hq r)

/-- The part of MEM_RESPONSE that is said of a request whose last beat comes. -/
theorem becomes_last {port : BitVec 4} {tag : BitVec 10} {d : BitVec 512} {P : State → Prop} (hk : k ≠ .timeout)
    (hr : reqAt s port.toNat tag.toNat = some r) (hlast : r.write = true ∨ r.lines ≤ r.beats + 1)
    (hP : P (answered s (takeBeat r k d) false)) : Becomes (.memResponse (.req port tag) k d true) s P := by
  refine ⟨_, exec_memResponse hk .., ?_⟩
  rw [doMemResponse_last hr hlast]
  exact hP

/-- The other requests of the ports. -/
def otherReqs (s : State) (r : MemReq) : List MemReq := s.mem.reqs.filter fun q => !(q.port = r.port && q.tag = r.tag)

theorem purpose_of_transferOf {u : Nat × Nat} (h : transferOf r = some u) : ∃ tile ofs, r.purpose = .transfer u.1 tile u.2 ofs := by
  unfold transferOf at h
  split at h
  · next hp => cases h; exact ⟨_, _, hp⟩
  · cases h

/-- A read line joins the operation it was read for (R278). -/
theorem answered_transferRead {u : Nat × Nat} {o : TileOp} (hq : portsQuiet s) (ha : r.also = []) (h0 : r.worst = 0)
    (hw : r.write = false) (hu : transferOf r = some u) (hop : opAt s u.2 = some o) (hmore : 2 ≤ o.awaiting)
    (hclean : ∀ x, xferNum s u.1 = some x → x.faulted = false) :
    let t := answered s r false
    opAt t u.2 = some (o.gotRead r).answered ∧ t.mem.reqs = otherReqs s r ∧ t.jobs = s.jobs ∧ t.marrow = s.marrow ∧
    t.entries = s.entries := by
  obtain ⟨live, hmet⟩ := met_okay h0 s
  obtain ⟨x, y, hpurpose⟩ := purpose_of_transferOf hu
  obtain ⟨hanswer, hgot⟩ := answerOp_read (s := met s r) (r := r) (i := u.2) (x := u.1) (o := o) (by rw [hmet]; exact hop) hw h0
    hmore (by rw [hmet]; exact hclean)
  have hfor : answerFor (met s r) r r.purpose = modOp (modOp (met s r) u.2 (TileOp.gotRead r)) u.2 TileOp.answered := by
    rw [hpurpose]
    exact hanswer
  have ht : answered s r false = modOp (modOp (met s r) u.2 (TileOp.gotRead r)) u.2 TileOp.answered := by
    rw [answered_of_quiet ha (by rw [hfor, hmet]; exact hq), hfor]
  intro t
  have ht : t = _ := ht
  rw [ht]
  refine ⟨hgot, ?_⟩
  rw [hmet]
  exact ⟨rfl, rfl, rfl, rfl⟩

end Sys2Proof.Machine
end

section
/-! Answers of the memory ports: writes and reads that are performed, kept or not performed (spec/11 R271, R282, R283, Table
11-2). -/

namespace Sys2Proof.Machine

variable {s t u v : State} {r : MemReq} {k : RspKind}

/-! ## Performed -/

/-- A stream with a quarter of a parameter-set slot read (R102). -/
def Stream.withSlot (q : Nat) (got : List Byte) (x : Stream) : Stream := { x with slotGot := sput x.slotGot q got }

theorem answered_param {x : Nat × Nat} (hq : portsQuiet s) (ha : r.also = []) (h0 : r.worst = 0) (hx : paramOf r = some x) :
    let t := answered s r false
    t.streams = smod s.streams x.1 (Stream.withSlot x.2 r.got) ∧ t.mem.reqs = otherReqs s r ∧ t.jobs = s.jobs ∧
    t.marrow = s.marrow ∧ t.entries = s.entries ∧ t.ops = s.ops := by
  obtain ⟨live, hmet⟩ := met_okay h0 s
  have hfor : answerFor (met s r) r r.purpose =
      { met s r with streams := smod (met s r).streams x.1 (Stream.withSlot x.2 r.got) } := by
    unfold paramOf at hx
    split at hx
    · next h =>
      cases hx
      simp only [h, answerFor, answerParam, h0, OfNat.zero_ne_ofNat, if_false, if_true]
      rfl
    · cases hx
  intro t
  have ht : t = _ := (answered_of_quiet ha (by rw [hfor, hmet]; exact hq)).trans hfor
  rw [ht, hmet]
  exact ⟨rfl, rfl, rfl, rfl, rfl, rfl⟩

/-- A job whose save is complete (R58). -/
def Job.committed (x : Job) : Job := { x with phase := 4 }

theorem answered_commit {j : Nat} (hq : portsQuiet s) (ha : r.also = []) (h0 : r.worst = 0) (hw : r.write = true)
    (hp : r.purpose = .commit j true) (hst : (job s j).st = .saving) (hlive : s.blk.st ≠ .halted) :
    answered s r false = modJob (requestGone s r) j Job.committed := by
  have hmet : met s r = requestGone s r := (met_write hw s).trans (errorTold_of_silent (by omega) (by omega) _)
  have hst' : (job (requestGone s r) j).st = .saving := hst
  have hlive' : (requestGone s r).blk.st ≠ .halted := hlive
  have hperf : notPerformed r = false := by simp [notPerformed, h0]
  have hfor : answerFor (met s r) r r.purpose = modJob (requestGone s r) j Job.committed := by
    rw [hmet, hp]
    simp only [answerFor, answerCommit]
    rw [if_neg (by simp [hst', hlive']), if_neg (by simp [h0]), if_neg (by simp [hperf])]
    rfl
  exact (answered_of_quiet ha (by rw [hfor]; exact hq)).trans hfor

theorem answered_plain (hq : portsQuiet s) (ha : r.also = []) (h0 : r.worst = 0) (hplain : plainWrite r = true) :
    answered s r false = requestGone s r := by
  obtain ⟨hw, hkind⟩ := Bool.and_eq_true_iff.1 hplain
  have hmet : met s r = requestGone s r := (met_write hw s).trans (errorTold_of_silent (by omega) (by omega) _)
  have hperf : notPerformed r = false := by simp [notPerformed, h0]
  have hfor : answerFor (met s r) r r.purpose = requestGone s r := by
    rw [hmet]
    split at hkind
    · next h => simp [h, answerFor, answerCompletion, h0, hperf]
    · next h => simp [h, answerFor, h0]
    · next h => simp [h, answerFor, h0, hperf]
    · next h => simp [h, answerFor, h0]
    · next h => simp [h, answerFor]
    · next h => simp [h, answerFor]
    · cases hkind
  exact (answered_of_quiet ha (by rw [hfor]; exact hq)).trans hfor

/-! ## Kept for repetition -/

theorem active_of_alert (h : alertFrame t = alertFrame (withActive s src)) (hlt : src < 32) : t.flt.active.getLsbD src = true := by
  have hactive : t.flt.active = s.flt.active ||| BitVec.ofNat 32 (2 ^ src) := congrArg (·.flt.active) h
  rw [hactive, BitVec.getLsbD_or, BitVec.getLsbD_ofNat, Nat.testBit_two_pow_self]
  simp [hlt]

/-- What the event of a memory source leaves of a state without the request (R271, R282). -/
theorem alertFrame_memRaise (hcold : s.blk.st ≠ .cold) (h2 : src ≠ 2) (h4 : src ≠ 4) (h18 : src ≠ 18) (h21 : src ≠ 21)
    (hno : noReset s src) (r : MemReq) : alertFrame (memRaise (requestGone s r) src r) = alertFrame (withActive s src) := by
  have hraise := alertFrame_raise (s := requestGone s r) (hears_block hcold src) h2 h4 h18 h21 (.inl hno) (memInfo r.addr) r.pod
  exact hraise.trans rfl

theorem alertFrame_keepRetry (s : State) (r : MemReq) : alertFrame (keepRetry s r) = alertFrame s := alertFrame_modMem rfl

theorem mem_keepRetry (h : r.again = false) (s : State) : { r with again := true } ∈ (keepRetry s r).mem.retry := by
  simp only [keepRetry, h, Bool.false_eq_true, if_false, modMem]
  exact List.mem_append_left _ (List.mem_append_right _ (List.mem_singleton_self _))

/-- A write that is repeated and answered `FAULT` is kept (R282). -/
theorem answerFor_repeated (hrep : repeated r = true) (h3 : r.worst = 3) (v : State) :
    answerFor v r r.purpose = keepRetry (memRaise v 11 r) r := by
  have hkind := (Bool.and_eq_true_iff.1 hrep).2
  split at hkind
  · next h => simp [h, answerFor, answerCompletion, h3]
  · next h => simp [h, answerFor, answerDirectory, h3]
  · next h => simp [h, answerFor, h3]
  · next h => simp [h, answerFor, h3]
  · cases hkind

theorem answered_repeated (hq : portsQuiet s) (ha : r.also = []) (h3 : r.worst = 3) (hrep : repeated r = true)
    (hagain : r.again = false) (hcold : s.blk.st ≠ .cold) (hno : noReset s 11) :
    let t := answered s r false
    { r with again := true } ∈ t.mem.retry ∧ t.flt.active.getLsbD 11 = true ∧ t.entries = s.entries ∧ t.ops = s.ops ∧
    t.marrow = s.marrow := by
  have hw : r.write = true := (Bool.and_eq_true_iff.1 hrep).1
  have hmet : met s r = requestGone s r := (met_write hw s).trans (errorTold_of_silent (by omega) (by omega) _)
  have hframe : alertFrame (keepRetry (memRaise (requestGone s r) 11 r) r) = alertFrame (withActive s 11) :=
    (alertFrame_keepRetry ..).trans (alertFrame_memRaise hcold (by decide) (by decide) (by decide) (by decide) hno r)
  have hmoves : (keepRetry (memRaise (requestGone s r) 11 r) r).mem.moves = [] := (congrArg (·.mem.moves) hframe).trans hq.2.2
  intro t
  have ht : t = goneOn (keepRetry (memRaise (requestGone s r) 11 r) r) r := by
    have heq : t = goneOn (answerFor (met s r) r r.purpose) r := answered_eq ha s
    rw [heq, hmet, answerFor_repeated hrep h3]
  have hall : alertFrame t = alertFrame (withActive s 11) := by rw [ht, alertFrame_goneOn hmoves, hframe]
  refine ⟨?_, active_of_alert hall (by decide), congrArg (·.entries) hall, congrArg (·.ops) hall, congrArg (·.marrow) hall⟩
  rw [ht, retry_goneOn hmoves hagain]
  exact mem_keepRetry hagain _

/-! ## Not performed -/

/-- A job that ends reads `FAILED` with its reason, whatever comparisons follow (Table 3-7, R361). -/
theorem job_failJob {j : Nat} (hst : (job s j).st = .bound ∨ (job s j).st = .draining ∨ (job s j).st = .saving)
    (hlive : s.blk.st ≠ .halted) (reason status : Nat) (cause : List Nat) :
    (job (failJob s j reason status cause) j).st = .failed ∧ (job (failJob s j reason status cause) j).reason = reason := by
  have hone : failOne s j reason status cause =
      setJobSt (modJob (endWork s j status cause) j fun b => { b with reason := reason }) j .failed := by
    unfold failOne
    exact if_neg fun h => by
      rcases hst with hst | hst | hst <;> simp [hst, hlive] at h
  have hjob : (job (failOne s j reason status cause) j).st = .failed ∧ (job (failOne s j reason status cause) j).reason = reason := by
    rw [hone, job_setJobSt_self, job_modJob_self]
    exact ⟨rfl, rfl⟩
  rw [failJob, (settleGroups_spares (.inl hjob.1)).job]
  exact hjob

theorem active_failJob (s : State) (j reason status : Nat) (cause : List Nat) :
    (failJob s j reason status cause).flt.active = s.flt.active :=
  ((failOne_jobsEnd s j reason status cause).trans (settle_jobsEnd _ _)).active

/-- A write that is not performed ends its job (R271, Table 11-2). -/
theorem answerFor_endsJob {j : Nat} (hends : endsJob v r = some j) (hperf : r.worst = 1 ∨ r.worst = 2) (hlive : v.blk.st ≠ .halted) :
    ∃ cause, answerFor v r r.purpose = failJob v j 0x4042 stAborted cause := by
  have hnot : notPerformed r = true := by rcases hperf with h | h <;> simp [notPerformed, h]
  have h3 : r.worst ≠ 3 := by omega
  unfold endsJob at hends
  split at hends
  · cases hends
  · next hw =>
    have hw : r.write = true := Bool.not_eq_false _ ▸ hw
    split at hends
    · next i _ h =>
      obtain ⟨o, ho, rfl⟩ := Option.map_eq_some_iff.1 hends
      refine ⟨[o.rank], ?_⟩
      simp only [h, answerFor, answerOp, ho]
      rw [if_neg (by simp [h3]), if_pos (by simp [hw, hnot])]
    · next h =>
      cases hends
      simp only [h, answerFor, answerCompletion, if_neg h3, hnot, if_true]
      exact ⟨_, rfl⟩
    · next h =>
      cases hends
      simp only [h, answerFor, answerDirectory, if_neg h3, hnot, if_true]
      exact ⟨_, rfl⟩
    · next h =>
      cases hends
      simp only [h, answerFor, if_neg h3, hnot, if_true]
      exact ⟨_, rfl⟩
    · next h =>
      split at hends
      · next hst =>
        cases hends
        simp only [h, answerFor, answerCommit]
        rw [if_neg (by simp [hst, hlive]), if_neg h3, if_pos hnot]
        exact ⟨_, rfl⟩
      · cases hends
    · cases hends

theorem endsJob_of_alert (h : alertFrame t = alertFrame (withActive s src)) (r : MemReq) : endsJob t r = endsJob s r := by
  have hjobs (j : Nat) : job t j = job s j := job_congr (congrArg (·.jobs) h) j
  have hops : t.ops = s.ops := congrArg (·.ops) h
  have hrings (n : Nat) : sqJob t n = sqJob s n := by
    rw [sqJob, sqr, rg, rgw_of_words (congrArg (·.regs.words) h) (by rw [sqPage]; omega) (by rw [ringOfs]; omega)]
    rfl
  simp only [endsJob, hjobs, opAt, hops, hrings]

theorem answered_endsJob {j : Nat} (ha : r.also = []) (hperf : r.worst = 1 ∨ r.worst = 2) (hends : endsJob s r = some j)
    (hst : (job s j).st = .bound ∨ (job s j).st = .draining ∨ (job s j).st = .saving) (hcold : s.blk.st ≠ .cold)
    (hlive : s.blk.st ≠ .halted) (hno : noReset s 9) :
    let t := answered s r false
    (job t j).st = .failed ∧ (job t j).reason = 0x4042 ∧ t.flt.active.getLsbD 9 = true := by
  have hw : r.write = true := by
    cases hw : r.write with
    | true => rfl
    | false => simp [endsJob, hw] at hends
  have hmet : met s r = memRaise (requestGone s r) 9 r := (met_write hw s).trans (if_pos (by rw [hw]; tauto))
  have hframe : alertFrame (met s r) = alertFrame (withActive s 9) := by
    rw [hmet]
    exact alertFrame_memRaise hcold (by decide) (by decide) (by decide) (by decide) hno r
  have hblk : (met s r).blk.st = s.blk.st := congrArg (·.blk.st) hframe
  have hjob : job (met s r) j = job s j := job_congr (congrArg (·.jobs) hframe) j
  obtain ⟨cause, hfor⟩ := answerFor_endsJob ((endsJob_of_alert hframe r).trans hends) hperf (by rw [hblk]; exact hlive)
  obtain ⟨hfailed, hreason⟩ := job_failJob (s := met s r) (by rw [hjob]; exact hst) (by rw [hblk]; exact hlive) 0x4042 stAborted cause
  intro t
  have ht : t = goneOn (failJob (met s r) j 0x4042 stAborted cause) r := (answered_eq ha s).trans (congrArg (goneOn · r) hfor)
  rw [ht, job_congr (jobs_goneOn ..) j, active_goneOn, active_failJob]
  exact ⟨hfailed, hreason, active_of_alert hframe (by decide)⟩

end Sys2Proof.Machine
end

section
/-! A transfer that meets `FAULT` and pauses (spec/11 R282, R283, spec/03 R76). -/

namespace Sys2Proof.Machine

variable {s t u v : State} {r : MemReq} {k : RspKind}

theorem xferNum_modXfer {f : Xfer → Xfer} (hf : ∀ x, (f x).num = x.num) (s : State) (n : Nat) :
    xferNum (modXfer s n f) n = (xferNum s n).map f := by
  unfold xferNum modXfer modMem
  rw [List.find?_map]
  have hnum : ((fun x : Xfer => decide (x.num = n)) ∘ fun x => if x.num = n then f x else x) = fun x => decide (x.num = n) := by
    funext x
    simp only [Function.comp_apply]
    split <;> simp_all
  rw [hnum]
  cases hx : s.mem.xfers.find? fun x => decide (x.num = n) with
  | none => rfl
  | some x =>
    have hn : x.num = n := of_decide_eq_true (List.find?_some (p := fun x : Xfer => decide (x.num = n)) hx)
    simp only [Option.map_some, if_pos hn]

theorem xferNum_congr (h : t.mem.xfers = s.mem.xfers) (n : Nat) : xferNum t n = xferNum s n := by rw [xferNum, h]; rfl

theorem xferNum_num {n : Nat} {x : Xfer} (h : xferNum s n = some x) : x.num = n :=
  of_decide_eq_true (List.find?_some (p := fun x : Xfer => decide (x.num = n)) h)

/-- A transfer whose tile at `tile` met a `FAULT` at address `a` (R283). -/
def Xfer.struck (tile a : Nat) (x : Xfer) : Xfer :=
  if x.faulted = false ∨ tile < x.cursor then { x with faulted := true, cursor := tile, page := a / 4096 * 4096 }
  else if tile = x.cursor then { x with page := min x.page (a / 4096 * 4096) } else x

/-- A transfer that is paused. -/
def Xfer.paused (x : Xfer) : Xfer := { x with state := 2 }

theorem Xfer.struck_num (tile a : Nat) (x : Xfer) : (x.struck tile a).num = x.num := by
  unfold Xfer.struck
  split
  · rfl
  · split <;> rfl

theorem Xfer.struck_of_sound {x : Xfer} (h : x.faulted = false) (tile a : Nat) :
    x.struck tile a = { x with faulted := true, cursor := tile, page := a / 4096 * 4096 } := if_pos (.inl h)

theorem faultTile_of_quiet (h : s.mem.held = []) (n tile a : Nat) : faultTile s n tile a = modXfer s n (Xfer.struck tile a) := by
  have hdrop : dropHeld s n tile = s := by
    unfold dropHeld
    refine modMem_self ?_
    rw [h, List.filterMap_nil, ← h]
  rw [faultTile, hdrop]
  rfl

/-- The `FAULT_PENDING` completion of transfer `x` for entry `e` (R76). -/
def pendingDue (x : Xfer) (e : Entry) : Due :=
  { sq := e.sq, slot := e.slot, tag := e.body.tag.toNat, status := stFault, final := false, detail := x.num, count := 0,
    info := x.page / 4096 * 4096, reserved := false, irqNow := false, xfer := some x.num }

/-- A transfer that pauses: its event, its state, its completion (R283). -/
structure Paused (s t : State) (x : Xfer) (e : Entry) : Prop where
  active : t.flt.active.getLsbD 11 = true
  xfer : xferNum t x.num = (xferNum s x.num).map Xfer.paused
  ops : t.ops = s.ops
  entries : t.entries = s.entries
  due : pendingDue x e ∈ (cqAt t (sqCq s e.sq)).due
  moves : t.mem.moves = s.mem.moves

/-- The event of a transfer that pauses (R283 step 5). -/
def pauseTold (s : State) (x : Xfer) : State := bump (raise s 11 127 (bits x.page 43 12) ((physOf s (x.num / 32)).getD 127)) 3 5

theorem alertFrame_pauseTold (hblk : s.blk.st ≠ .cold) (hno : noReset s 11) (x : Xfer) :
    alertFrame (pauseTold s x) = alertFrame (withActive s 11) :=
  (alertFrame_bump ..).trans (alertFrame_raise (hears_block hblk 11) (by decide) (by decide) (by decide) (by decide) (.inl hno) ..)

theorem postFault_eq {x : Xfer} {e : Entry} (hcontext : x.num % 32 ≠ 31)
    (he : entryRank (pauseTold s x) x.job x.rank = some e) :
    postFault s x = addDue (modXfer (pauseTold s x) x.num Xfer.paused) (pendingDue x e) := by
  have he' : entryRank (modXfer (pauseTold s x) x.num Xfer.paused) x.job x.rank = some e := he
  unfold pauseTold Xfer.paused at he'
  unfold postFault
  rw [if_neg hcontext]
  simp only [he']
  rfl

theorem postFault_paused {x : Xfer} {e : Entry} (hcontext : x.num % 32 ≠ 31) (hblk : s.blk.st ≠ .cold) (hno : noReset s 11)
    (he : entryRank s x.job x.rank = some e) : Paused s (postFault s x) x e := by
  have hw := alertFrame_pauseTold hblk hno x
  have hentries : (pauseTold s x).entries = s.entries := congrArg (·.entries) hw
  have hxfers : (pauseTold s x).mem.xfers = s.mem.xfers := congrArg (·.mem.xfers) hw
  have heq := postFault_eq hcontext (s := s) (x := x) (e := e) (by rw [← he, entryRank, hentries]; rfl)
  generalize pauseTold s x = w at hw hentries hxfers heq
  have hcq : sqCq s e.sq = sqCq (modXfer w x.num Xfer.paused) (pendingDue x e).sq :=
    (sqCq_of_words (congrArg (·.regs.words) hw) e.sq).symm
  have hactive : w.flt.active.getLsbD 11 = true := active_of_alert hw (by decide)
  have hxfer : xferNum (modXfer w x.num Xfer.paused) x.num = (xferNum s x.num).map Xfer.paused := by
    rw [xferNum_modXfer (f := Xfer.paused) (fun _ => rfl), xferNum_congr hxfers]
  rw [heq]
  refine ⟨?_, ?_, ?_, ?_, ?_, ?_⟩
  · rw [addDue_eq]
    exact hactive
  · rw [← hxfer, addDue_eq]
    rfl
  · rw [addDue_eq]
    exact congrArg (·.ops) hw
  · rw [addDue_eq]
    exact hentries
  · rw [cqAt_addDue, if_pos hcq]
    exact List.mem_append_right _ (List.mem_singleton_self _)
  · rw [addDue_eq]
    exact congrArg (·.mem.moves) hw

/-- The state in which transfer `n` has been struck by the last answer that it waits for. -/
def struckAt (s : State) (r : MemReq) (n tile : Nat) : State := modXfer (requestGone s r) n (Xfer.struck tile r.addr)

theorem xferNum_struckAt {x : Xfer} (hx : xferNum s x.num = some x) (r : MemReq) (tile : Nat) :
    xferNum (struckAt s r x.num tile) x.num = some (x.struck tile r.addr) := by
  rw [struckAt, xferNum_modXfer fun y => Xfer.struck_num tile r.addr y]
  exact congrArg (Option.map _) hx

/-- The last answer of a transfer pauses it when it is `FAULT` (R283). -/
theorem answerOp_fault {i : Nat} {o : TileOp} {x : Xfer} (hop : opAt s i = some o) (h3 : r.worst = 3) (halive : opAlive s o = true)
    (hx : xferNum s x.num = some x) (hheld : s.mem.held = []) (hlone : (requestGone s r).mem.reqs = []) (hsound : x.faulted = false)
    (hst : x.state = 1) : answerOp (requestGone s r) r x.num i = postFault (struckAt s r x.num o.tile) (x.struck o.tile r.addr) := by
  have hopen : xferOpen (struckAt s r x.num o.tile) x.num = false := by
    have hreqs : (struckAt s r x.num o.tile).mem.reqs = [] := hlone
    have hheld' : (struckAt s r x.num o.tile).mem.held = [] := hheld
    simp only [xferOpen, hreqs, hheld', List.any_nil, Bool.or_self]
  have hop' : opAt (requestGone s r) i = some o := hop
  have halive' : opAlive (requestGone s r) o = true := halive
  have hfault : faultTile (requestGone s r) x.num o.tile r.addr = struckAt s r x.num o.tile :=
    faultTile_of_quiet (s := requestGone s r) hheld ..
  simp only [answerOp, hop']
  rw [if_pos ⟨h3, halive'⟩, hfault, settleXfer, xferNum_struckAt hx]
  exact if_pos ⟨by rw [Xfer.struck_of_sound hsound], by rw [Xfer.struck_of_sound hsound]; exact hst, hopen⟩

theorem answered_transferFault {u : Nat × Nat} {o : TileOp} {x : Xfer} {e : Entry} (hq : portsQuiet s) (ha : r.also = [])
    (h3 : r.worst = 3) (hu : transferOf r = some u) (hop : opAt s u.2 = some o) (halive : opAlive s o = true)
    (hlone : otherReqs s r = []) (hx : xferNum s u.1 = some x) (hsound : x.faulted = false) (hst : x.state = 1)
    (hcontext : u.1 % 32 ≠ 31) (he : entryRank s x.job x.rank = some e) (hblk : s.blk.st ≠ .cold) (hno : noReset s 11) :
    let t := answered s r false
    xferNum t u.1 = some { x with state := 2, faulted := true, cursor := o.tile, page := r.addr / 4096 * 4096 } ∧
    t.flt.active.getLsbD 11 = true ∧ opAt t u.2 = some o ∧ t.entries = s.entries ∧
    pendingDue (x.struck o.tile r.addr) e ∈ (cqAt t (sqCq s e.sq)).due := by
  obtain ⟨n, i⟩ := u
  obtain rfl : x.num = n := xferNum_num hx
  obtain ⟨tile, ofs, hpurpose⟩ := purpose_of_transferOf hu
  have hheld : s.mem.held = [] := hq.1
  have hmet : met s r = requestGone s r := by
    rw [met, errorTold_of_silent (by omega) (by omega)]
    exact if_pos (.inr (.inr h3))
  have hfor : answerFor (met s r) r r.purpose = postFault (struckAt s r x.num o.tile) (x.struck o.tile r.addr) := by
    rw [hmet, hpurpose]
    exact answerOp_fault hop h3 halive hx hheld hlone hsound hst
  have hsame : x.struck o.tile r.addr = { x with faulted := true, cursor := o.tile, page := r.addr / 4096 * 4096 } :=
    Xfer.struck_of_sound hsound ..
  have hpaused := postFault_paused (s := struckAt s r x.num o.tile) (x := x.struck o.tile r.addr) (e := e)
    (by rw [Xfer.struck_num]; exact hcontext) hblk hno (by rw [hsame]; exact he)
  obtain ⟨hactive, hxfer, hops, hentries, hdue, hmoves⟩ := hpaused
  rw [Xfer.struck_num, xferNum_struckAt hx] at hxfer
  generalize postFault (struckAt s r x.num o.tile) (x.struck o.tile r.addr) = v at *
  intro t
  have ht : t = goneOn v r := (answered_eq ha s).trans (congrArg (goneOn · r) hfor)
  have hframe : alertFrame t = alertFrame v := by rw [ht, alertFrame_goneOn (hmoves.trans hq.2.2)]
  have hopt : t.ops = s.ops := (congrArg (·.ops) hframe).trans hops
  refine ⟨?_, ?_, ?_, (congrArg (·.entries) hframe).trans hentries, ?_⟩
  · have hxfers : t.mem.xfers = v.mem.xfers := congrArg (·.mem.xfers) hframe
    rw [xferNum_congr hxfers, hxfer, hsame]
    rfl
  · have hsources : t.flt.active = v.flt.active := congrArg (·.flt.active) hframe
    rw [hsources]
    exact hactive
  · rw [← hop, opAt, opAt, hopt]
  · have hcqs : t.cqs = v.cqs := congrArg (·.cqs) hframe
    rw [cqAt_congr hcqs]
    exact hdue

end Sys2Proof.Machine
end

section
/-! MEM_RESPONSE (spec/18 R425, spec/11 R271, spec/03 R68, R71, R459): beats, last beats, slots and beats that are discarded. -/

namespace Sys2Proof.Machine

variable {s t : State} {r : MemReq} {k : RspKind}

/-! ## Beats -/

/-- A request list whose request of the port and tag of `r` is `r`. -/
def replaceReq (r : MemReq) (l : List MemReq) : List MemReq := l.map fun q => if q.port = r.port ∧ q.tag = r.tag then r else q

theorem doMemResponse_beat {port : BitVec 4} {tag : BitVec 10} (hr : reqAt s port.toNat tag.toNat = some r) (hw : r.write = false)
    (hmore : r.beats + 1 < r.lines) (k : RspKind) (d : BitVec 512) :
    doMemResponse s (.req port tag) k d true = modMem s fun m => { m with reqs := replaceReq (takeBeat r k d) m.reqs } := by
  have hopen : ¬ ((takeBeat r k d).write = true ∨ (takeBeat r k d).beats ≥ (takeBeat r k d).lines) := by
    rintro (h | h)
    · exact absurd (hw.symm.trans h) nofun
    · exact absurd h (Nat.not_le.2 hmore)
  simp only [doMemResponse, hr]
  rw [if_neg (by decide), if_neg hopen]
  rfl

theorem reqAt_replaceReq {port tag : Nat} (hr : reqAt s port tag = some r) {q : MemReq} (hport : q.port = r.port) (htag : q.tag = r.tag) :
    reqAt (modMem s fun m => { m with reqs := replaceReq q m.reqs }) port tag = some q := by
  have hat : r.port = port ∧ r.tag = tag :=
    of_decide_eq_true (List.find?_some (p := fun r : MemReq => decide (r.port = port ∧ r.tag = tag)) hr)
  unfold reqAt replaceReq modMem
  rw [List.find?_map]
  have hsame : ((fun r : MemReq => decide (r.port = port ∧ r.tag = tag)) ∘ fun x => if x.port = q.port ∧ x.tag = q.tag then q else x) =
      fun r => decide (r.port = port ∧ r.tag = tag) := by
    funext x
    simp only [Function.comp_apply]
    split <;> simp_all
  have hr' : s.mem.reqs.find? (fun r => decide (r.port = port ∧ r.tag = tag)) = some r := hr
  rw [hsame, hr', Option.map_some, if_pos ⟨hport.symm, htag.symm⟩]

/-! ## Beats that are discarded -/

/-- A parity error changes the sources only (R425). -/
theorem portParity_keeps (hcold : s.blk.st ≠ .cold) (j : Nat) :
    let t := portParity s j
    t.flt.active.getLsbD 8 = true ∧ t.jobs = s.jobs ∧ t.marrow = s.marrow ∧ t.entries = s.entries ∧ t.ops = s.ops := by
  have hraise := raise_block_keeps (s := draw s) hcold (src := 8) (by decide) (by decide) (by decide) (by decide)
    (portRouter j + 2 ^ 8 * (Config.pathCode s.free).toNat) 127
  have hframe : resetFrame (portParity s j) = resetFrame (draw s) :=
    resetFrame_raise (by decide) (by decide) (by decide) (by decide) ..
  obtain ⟨hactive, -, -, hmarrow, hjobs, -⟩ := hraise
  exact ⟨hactive, hjobs, hmarrow, congrArg (·.entries) hframe, congrArg (·.ops) hframe⟩

theorem doMemResponse_parity {port : BitVec 4} {tag : BitVec 10} (hcold : s.blk.st ≠ .cold) (k : RspKind) (d : BitVec 512) :
    doMemResponse s (.req port tag) k d false = portParity s port.toNat := by
  cases hr : reqAt s port.toNat tag.toNat with
  | none => simp only [doMemResponse, hr, if_neg hcold]
  | some r =>
    simp only [doMemResponse, hr, if_true]

/-! ## Slots -/

/-- The state without the end of its burst. -/
theorem endBurst_eq (s : State) (n : Nat) : endBurst s n = { s with arb := (endBurst s n).arb } := by
  have hround (u : State) : restRound u = { u with arb := (restRound u).arb } := by
    unfold restRound
    split <;> rfl
  unfold endBurst
  split
  · exact hround _
  · exact hround _

/-- A ring whose scan has ended (R71). -/
def Sq.scanned (q : Sq) : Sq := { q with backoff := false, scan := false }

/-- A ring whose scan goes on once more (R71). -/
def Sq.rescanned (q : Sq) : Sq := { q with backoff := false, rescan := false }

/-- A ring whose slot could not be read (R459). -/
def Sq.backedOff (q : Sq) : Sq := { q with scan := false, rescan := true, backoff := true }

/-- What a read of ring `n`'s slot that fetches nothing leaves. -/
structure SlotLeft (s t : State) (n : Nat) (f : Sq → Sq) : Prop where
  ring : sqAt t n = f (sqAt s n)
  others : ∀ m, m ≠ n → sqAt t m = sqAt s m
  entries : t.entries = s.entries
  cqs : t.cqs = s.cqs
  ops : t.ops = s.ops
  marrow : t.marrow = s.marrow

theorem SlotLeft.modSq {n : Nat} {f : Sq → Sq} (h : SlotLeft s t n f) (g : Sq → Sq) : SlotLeft s (modSq t n g) n (g ∘ f) := by
  refine ⟨?_, fun m hm => ?_, h.entries, h.cqs, h.ops, h.marrow⟩
  · rw [sqAt_modSq, if_pos rfl, h.ring]
    rfl
  · rw [sqAt_modSq, if_neg hm, h.others m hm]

theorem SlotLeft.endBurst {n : Nat} {f : Sq → Sq} (h : SlotLeft s t n f) (m : Nat) : SlotLeft s (endBurst t m) n f := by
  rw [endBurst_eq]
  exact ⟨h.ring, h.others, h.entries, h.cqs, h.ops, h.marrow⟩

theorem slotLeft_of_lists {n : Nat} (hsqs : t.sqs = s.sqs) (hcqs : t.cqs = s.cqs) (hentries : t.entries = s.entries)
    (hops : t.ops = s.ops) (hmarrow : t.marrow = s.marrow) : SlotLeft s t n id :=
  ⟨sqAt_congr hsqs n, fun m _ => sqAt_congr hsqs m, hentries, hcqs, hops, hmarrow⟩

/-- The state after a slot that the host owns was read: the scan ends, or goes on once more (R71). -/
def hostSlot (s : State) (n : Nat) : State :=
  if (sqAt s n).rescan then modSq (modSq (slotFetch s n .okay) n fun q => { q with backoff := false }) n fun q => { q with rescan := false }
  else endBurst (modSq (modSq (slotFetch s n .okay) n fun q => { q with backoff := false }) n fun q => { q with scan := false }) n

theorem slotRead_host {n : Nat} {d : BitVec 512} (hwork : working s = true) (hst : (sqAt s n).st = .active)
    (hscan : (sqAt s n).scan = true) (hphase : d.getLsbD 8 ≠ (sqAt s n).phase) : slotRead s n .okay d = hostSlot s n := by
  simp only [slotRead]
  rw [if_neg (by simp [hst, hscan, hwork]), if_neg hphase]
  rfl

theorem slotLeft_okay (s : State) (n : Nat) : SlotLeft s (slotFetch s n .okay) n id := by
  obtain ⟨hframe, hsqs, hcqs⟩ := slotFetch_keeps (.inl rfl) s n
  exact slotLeft_of_lists hsqs hcqs (congrArg (·.entries) hframe) (congrArg (·.ops) hframe) (congrArg (·.marrow) hframe)

theorem hostSlot_ends {n : Nat} (h : (sqAt s n).rescan = false) : SlotLeft s (hostSlot s n) n Sq.scanned := by
  rw [hostSlot, h]
  exact (((slotLeft_okay s n).modSq _).modSq _).endBurst n

theorem hostSlot_goes {n : Nat} (h : (sqAt s n).rescan = true) : SlotLeft s (hostSlot s n) n Sq.rescanned := by
  rw [hostSlot, h]
  exact ((slotLeft_okay s n).modSq _).modSq _

theorem walkFrame_modSq (s : State) (n : Nat) (f : Sq → Sq) : walkFrame (modSq s n f) = walkFrame s := rfl

theorem walkFrame_endBurst (s : State) (n : Nat) : walkFrame (endBurst s n) = walkFrame s := by
  rw [endBurst_eq]
  rfl

theorem walkFrame_hostSlot (s : State) (n : Nat) : walkFrame (hostSlot s n) = walkFrame s := by
  have hread := (slotFetch_keeps (.inl rfl) s n).1
  unfold hostSlot
  split
  · rw [walkFrame_modSq, walkFrame_modSq, hread]
  · rw [walkFrame_endBurst, walkFrame_modSq, walkFrame_modSq, hread]

/-- What the event of a memory source leaves of a state whose reads were counted. -/
theorem slotLeft_raise {src : Nat} (hcold : s.blk.st ≠ .cold) (h2 : src ≠ 2) (h4 : src ≠ 4) (h18 : src ≠ 18) (h21 : src ≠ 21)
    (hlt : src < 32) (hno : noReset s src) (p k m : Nat) (f : Mem → Mem) (info n : Nat) :
    SlotLeft s (raise (modMem (bump s p k m) f) src 127 info) n id ∧
    (raise (modMem (bump s p k m) f) src 127 info).flt.active.getLsbD src = true := by
  obtain ⟨live, hbump⟩ := bump_live s p k m
  rw [hbump]
  have hframe := alertFrame_raise (s := modMem { s with regs := { s.regs with live := live } } f) (hears_block hcold src) h2 h4 h18 h21
    (.inl hno) info 127
  exact ⟨slotLeft_of_lists (congrArg (·.sqs) hframe) (congrArg (·.cqs) hframe) (congrArg (·.entries) hframe)
    (congrArg (·.ops) hframe) (congrArg (·.marrow) hframe), active_of_alert hframe hlt⟩

/-- The events of a slot that is not read `OKAY` (R271, R283). -/
theorem slotFetch_told {n : Nat} (hcold : s.blk.st ≠ .cold)
    (hk : k = .poison ∨ ((k = .error ∧ noReset s 9) ∨ (k = .fault ∧ noReset s 11))) : SlotLeft s (slotFetch s n k) n id ∧
    (k = .error → (slotFetch s n k).flt.active.getLsbD 9 = true) ∧ (k = .fault → (slotFetch s n k).flt.active.getLsbD 11 = true) := by
  rcases hk with rfl | ⟨rfl, hno⟩ | ⟨rfl, hno⟩
  · obtain ⟨hframe, hsqs, hcqs⟩ := slotFetch_keeps (.inr rfl) s n
    exact ⟨slotLeft_of_lists hsqs hcqs (congrArg (·.entries) hframe) (congrArg (·.ops) hframe) (congrArg (·.marrow) hframe), nofun, nofun⟩
  · obtain ⟨hleft, hactive⟩ := slotLeft_raise hcold (by decide) (by decide) (by decide) (by decide) (by decide) hno ..
    exact ⟨hleft, fun _ => hactive, nofun⟩
  · obtain ⟨hleft, hactive⟩ := slotLeft_raise hcold (by decide) (by decide) (by decide) (by decide) (by decide) hno ..
    exact ⟨hleft, nofun, fun _ => hactive⟩

theorem slotRead_told {n : Nat} {d : BitVec 512} (hwork : working s = true) (hst : (sqAt s n).st = .active)
    (hscan : (sqAt s n).scan = true) (hk : k ≠ .okay) :
    slotRead s n k d = endBurst (modSq (slotFetch s n k) n Sq.backedOff) n := by
  simp only [slotRead]
  rw [if_neg (by simp [hst, hscan, hwork])]
  cases k with
  | okay => exact absurd rfl hk
  | poison | fault | error | timeout => rfl

theorem slotRead_unread {n : Nat} {d : BitVec 512} (hwork : working s = true) (hst : (sqAt s n).st = .active)
    (hscan : (sqAt s n).scan = true) (hk : k = .poison ∨ ((k = .error ∧ noReset s 9) ∨ (k = .fault ∧ noReset s 11))) :
    SlotLeft s (slotRead s n k d) n Sq.backedOff ∧ (k = .error → (slotRead s n k d).flt.active.getLsbD 9 = true) ∧
    (k = .fault → (slotRead s n k d).flt.active.getLsbD 11 = true) := by
  have hcold : s.blk.st ≠ .cold := fun h => by simp [working, h] at hwork
  have hne : k ≠ .okay := by
    rcases hk with rfl | ⟨rfl, -⟩ | ⟨rfl, -⟩ <;> decide
  obtain ⟨hleft, herror, hfault⟩ := slotFetch_told (n := n) hcold hk
  rw [slotRead_told hwork hst hscan hne]
  refine ⟨(hleft.modSq _).endBurst n, fun h => ?_, fun h => ?_⟩
  · rw [endBurst_eq]
    exact herror h
  · rw [endBurst_eq]
    exact hfault h

/-- Settles O42: an answered request leaves its port, reports what it met and does what it was for; on quiet ports nothing else
goes on. A slot that is not fetched only changes its ring. -/
theorem memoryAnswers : Obligations.MemoryAnswers := by
  unfold Obligations.MemoryAnswers
  intro s port tag k d hk
  refine ⟨fun r hr hw hmore => ?_, fun r hr hlast halso h0 hq => ?_, fun hcold hr => ?_, fun hcold => ?_, fun n hwork hst hscan => ?_⟩
  · refine ⟨_, exec_memResponse hk .., ?_⟩
    rw [doMemResponse_beat hr hw hmore]
    exact ⟨reqAt_replaceReq hr rfl rfl, rfl, rfl, rfl, rfl, rfl, rfl⟩
  · have hworst := worst_takeBeat h0 k d
    refine ⟨fun u o hu hop hw hokay hmore hclean => becomes_last hk hr hlast ?_,
      fun u o x e hu hop hfault halive hlone hx hsound hst hcontext he hcold hno => becomes_last hk hr hlast ?_,
      fun hplain hokay => ?_, fun hrep hfault hagain hcold hno => becomes_last hk hr hlast ?_,
      fun j hends hbad hst hcold hlive hno => becomes_last hk hr hlast ?_, fun u hu hw hokay => becomes_last hk hr hlast ?_,
      fun j hw hp hokay hst hlive => becomes_last hk hr hlast ?_⟩
    · subst hokay
      exact answered_transferRead hq halso hworst hw hu hop hmore hclean
    · subst hfault
      have hnone : otherReqs s (takeBeat r .fault d) = [] := by
        rw [otherReqs, hlone]
        simp [takeBeat]
      obtain ⟨hxfer, hactive, hopt, hentries, hdue⟩ :=
        answered_transferFault (r := takeBeat r .fault d) hq halso hworst hu hop halive hnone hx hsound hst hcontext he hcold hno
      have hinfo : r.addr / 4096 * 4096 / 4096 * 4096 = r.addr / 4096 * 4096 := by rw [Nat.mul_div_cancel _ (by decide)]
      rw [Xfer.struck_of_sound hsound] at hdue
      obtain ⟨n, i⟩ := u
      obtain rfl : x.num = n := xferNum_num hx
      exact ⟨hxfer, hactive, hopt, hentries, _, hdue, rfl, rfl, rfl, rfl, hinfo, rfl, rfl⟩
    · subst hokay
      rw [exec_memResponse hk, doMemResponse_last hr hlast, answered_plain (r := takeBeat r .okay d) hq halso hworst hplain]
      rfl
    · subst hfault
      exact answered_repeated hq halso hworst hrep hagain hcold hno
    · have hperf : (takeBeat r k d).worst = 1 ∨ (takeBeat r k d).worst = 2 := by
        rw [hworst]
        rcases hbad with rfl | rfl
        · exact .inl rfl
        · exact .inr rfl
      exact answered_endsJob halso hperf hends hst hcold hlive hno
    · subst hokay
      exact answered_param hq halso hworst hu
    · subst hokay
      rw [answered_commit (r := takeBeat r .okay d) hq halso hworst hw hp hst hlive]
      refine ⟨?_, ?_, rfl, fun i hi => job_modJob_ne hi _, rfl, rfl, rfl⟩
      · rw [job_modJob_self]
        rfl
      · rw [job_modJob_self]
        exact hst
  · rw [exec_memResponse hk]
    simp only [doMemResponse, hr, if_pos hcold]
  · refine ⟨_, exec_memResponse hk .., ?_⟩
    rw [doMemResponse_parity hcold]
    exact portParity_keeps hcold _
  · refine ⟨fun hokay hphase => ?_, fun hbad => ⟨_, exec_memResponse hk .., ?_⟩⟩
    · subst hokay
      have hread := slotRead_host (d := d) hwork hst hscan hphase
      have hframe := walkFrame_hostSlot s n.toNat
      refine ⟨fun h => ⟨_, exec_memResponse hk .., ?_⟩, fun h => ⟨_, exec_memResponse hk .., ?_⟩⟩
      · have hleft := hostSlot_ends h
        rw [doMemResponse, if_pos rfl, hread]
        exact ⟨⟨by rw [hleft.ring]; rfl, hleft.entries, hleft.others, hleft.cqs, hleft.ops, hleft.marrow⟩, by rw [hleft.ring]; rfl,
          congrArg (·.jobs) hframe, memKept_of_walkFrame hframe⟩
      · have hleft := hostSlot_goes h
        rw [doMemResponse, if_pos rfl, hread]
        exact ⟨⟨by rw [hleft.ring]; rfl, hleft.entries, hleft.others, hleft.cqs, hleft.ops, hleft.marrow⟩,
          by rw [hleft.ring]; exact hscan, by rw [hleft.ring]; rfl, congrArg (·.jobs) hframe, memKept_of_walkFrame hframe⟩
    · obtain ⟨hleft, herror, hfault⟩ := slotRead_unread (d := d) hwork hst hscan hbad
      rw [doMemResponse, if_pos rfl]
      exact ⟨⟨by rw [hleft.ring]; rfl, hleft.entries, hleft.others, hleft.cqs, hleft.ops, hleft.marrow⟩, by rw [hleft.ring]; rfl,
        by rw [hleft.ring]; rfl, by rw [hleft.ring]; rfl, herror, hfault⟩

end Sys2Proof.Machine
end

section
/-! Batches that close, are written and are announced (spec/08 R207 to R209, log 10). -/

namespace Sys2Proof.Machine

variable {s : State} {n : Nat} {b : Batch} {d : HostRead} {x : Nat × Node}

/-! ## Closing -/

/-- A period boundary of a ring latches registers only (Table 19-9). -/
theorem batchBoundary_eq (s : State) (n : Nat) : ∃ regs, batchBoundary s n = { s with regs := regs } := by
  have hlatch (u : State) (p : Nat) (c : Prop) [Decidable c] :
      ∃ regs, (if c then latchPage u p else u) = { u with regs := regs } := by
    split <;> exact ⟨_, rfl⟩
  obtain ⟨first, hfirst⟩ := hlatch s 3 (rg s 3 0x080 = n)
  obtain ⟨second, hsecond⟩ := hlatch { s with regs := first } 9 (rg { s with regs := first } 9 0x028 = n)
  obtain ⟨third, hthird⟩ := hlatch { s with regs := second } 0x00A (rg { s with regs := second } 0x00A 0x028 = n)
  simp only [batchBoundary, hfirst, hsecond, hthird]
  exact ⟨_, rfl⟩

/-- The open batch of ring `n` as it closes with code `code` (R206, R208). -/
def closingBatch (s : State) (n code : Nat) : Batch :=
  { (sqAt s n).asm.openB with close := code, closeTime := s.time, phase := .asked }

/-- A ring whose open batch has closed as `b`, the next one being empty (R206). -/
def Sq.closedWith (b : Batch) (q : Sq) : Sq :=
  { q with asm := { q.asm with closed := q.asm.closed ++ [b], openB := Batch.fresh ((b.number + 1) % 2 ^ 32) } }

/-- A batch with units moves to the closed ones and asks for a buffer of the class of its `PACK` node (R206, R208). -/
theorem closeBatch_of_units (hx : jobPack s (sqJob s n) = some x) (hu : (sqAt s n).asm.openB.units ≠ []) (code : Nat) :
    ∃ regs, closeBatch s n code = askPool { modSq s n (Sq.closedWith (closingBatch s n code)) with regs := regs }
      (fieldLe (nodeBlock (job s (sqJob s n)).route x.2) 0x0C 1) (.batch n) := by
  obtain ⟨regs, hlatched⟩ := batchBoundary_eq (modSq s n (Sq.closedWith (closingBatch s n code))) n
  refine ⟨regs, ?_⟩
  rw [← hlatched]
  unfold closeBatch
  extract_lets a src closing u cls
  have hcls : cls = fieldLe (nodeBlock (job s (sqJob s n)).route x.2) 0x0C 1 := by
    have hpack : jobPack u (sqJob u n) = some x := hx
    simp only [cls, hpack]
    rfl
  rw [if_neg (by simpa [a] using hu), hcls]
  rfl

/-- The timer of a CONCEAL ring that is at work, no unit of which is part-way through its copy, closes the batch (R207). -/
theorem doFlush_closes (hwork : working s = true) (hx : jobPack s (sqJob s n) = some x) (hconceal : sqConceal s n = true)
    (hflush : fieldLe (nodeBlock (job s (sqJob s n)).route x.2) 0x1C 4 ≠ 0) (hst : (sqAt s n).st = .active)
    (hcopy : copying s n = false) : doFlush s n = closeBatch s n 4 := by
  simp [doFlush, hx, hwork, hconceal, hflush, hst, hcopy]

/-! ## The oldest closed batch -/

theorem head?_modBatch (hb : (sqAt s n).asm.closed.head? = some b) (f : Batch → Batch) :
    (sqAt (modBatch s n b.number f) n).asm.closed.head? = some (f b) := by
  rw [modBatch, sqAt_modSq, if_pos rfl, List.head?_map, hb, Option.map_some, if_pos rfl]

/-! ## The directory record -/

/-- Both commands go to the directory slot: BATCH_EMIT once the buffer is visible, DIR_SLOT_RETRY while the slot is waited for (R209). -/
theorem exec_eq_tryDirectory {n : BitVec 12} {cmd : Instr} (hp : podIssues s (packPod s (sqJob s n.toNat) n.toNat) = true)
    (hb : (sqAt s n.toNat).asm.closed.head? = some b) (hd : d.wf = true)
    (hcmd : (cmd = .batchEmit n d ∧ b.phase = .written) ∨ (cmd = .dirSlotRetry n d ∧ b.phase = .dirWait)) :
    exec cmd s = .next (tryDirectory s n.toNat b d) := by
  rcases hcmd with ⟨rfl, hphase⟩ | ⟨rfl, hphase⟩
  · change execBatchEmit n d s = _
    simp [execBatchEmit, doBatchEmit, headBatch, hp, hb, hd, hphase]
  · change execDirSlotRetry n d s = _
    simp [execDirSlotRetry, doDirRetry, headBatch, hp, hb, hd, hphase]

/-- A slot whose `VALID` reads 0 takes the record (R209). -/
theorem tryDirectory_free (hk : d.kind = .okay) (hvalid : fieldLe d.bytes 0 1 % 2 = 0) (hx : jobPack s (sqJob s n) = some x) (b : Batch) :
    ∃ live mem, tryDirectory s n b d =
      memWrite (modBatch { s with regs := { s.regs with live := live }, mem := mem } n b.number fun y => { y with phase := .dirWriting })
        (dirAddr s n b.number) (dirRecord s n b (batchBytes (job s (sqJob s n)).route x.2)) (rg s 0x00A 0x40C) 1 127 (.directory n) := by
  obtain ⟨live, mem, hread⟩ := hostRead_of_okay hk s (dirAddr s n b.number) 64 (rg s 0x00A 0x40C)
  refine ⟨live, mem, ?_⟩
  have hpack : jobPack { s with regs := { s.regs with live := live }, mem := mem }
      (sqJob { s with regs := { s.regs with live := live }, mem := mem } n) = some x := hx
  simp only [tryDirectory, hread]
  rw [if_neg (by simp [hk]), if_neg (by simp [hvalid]), hpack]
  rfl

/-- The batch of a record that is sent, and what the write of the record leaves alone. -/
theorem tryDirectory_sends (hb : (sqAt s n).asm.closed.head? = some b) (hk : d.kind = .okay) (hvalid : fieldLe d.bytes 0 1 % 2 = 0)
    (hx : jobPack s (sqJob s n) = some x) : let t := tryDirectory s n b d
    (sqAt t n).asm.closed.head? = some { b with phase := .dirWriting } ∧
    writes t (dirAddr s n b.number) (dirRecord s n b (batchBytes (job s (sqJob s n)).route x.2)) (rg s 0x00A 0x40C) 1 127 (.directory n) ∧
    t.jobs = s.jobs ∧ t.entries = s.entries ∧ t.marrow = s.marrow := by
  intro t
  obtain ⟨live, mem, hfree⟩ := tryDirectory_free hk hvalid hx b
  have hframe : portFrame t = portFrame (modBatch { s with regs := { s.regs with live := live }, mem := mem } n b.number
      fun y => { y with phase := .dirWriting }) := (congrArg portFrame hfree).trans (portFrame_memWrite ..)
  refine ⟨?_, ?_, congrArg (·.jobs) hframe, congrArg (·.entries) hframe, congrArg (·.marrow) hframe⟩
  · have hsqs : t.sqs = (modBatch s n b.number fun y => { y with phase := .dirWriting }).sqs := congrArg (·.sqs) hframe
    rw [sqAt_congr hsqs]
    exact head?_modBatch hb _
  · change writes (tryDirectory s n b d) ..
    rw [hfree]
    exact writes_memWrite ..

theorem bitN_rg_pageErr (h : Inv s) (p i : Nat) (hi : i < 32) : bitN (rg (pageErr s p i) p 0x014) i = true := by
  rw [pageErr, rg_wrg_self h, bitN, Nat.testBit_mod_two_pow, Nat.testBit_or, Nat.testBit_two_pow_self]
  simp [hi]

theorem memKept_hostRead (hk : d.kind = .okay) (s : State) (a k x : Nat) : memKept s (hostRead s a k x d) := by
  simp only [memKept, hostRead, hk, modMem, bump_mem]

/-- A slot whose `VALID` reads 1 makes the record wait and is a page error of the directory's page (R209). -/
theorem tryDirectory_taken (hk : d.kind = .okay) (hvalid : fieldLe d.bytes 0 1 % 2 = 1) (b : Batch) :
    tryDirectory s n b d = modBatch (pageErr (hostRead s (dirAddr s n b.number) 64 (rg s 0x00A 0x40C) d) 0x00A 1) n b.number
      fun y => { y with phase := .dirWait } := by
  simp only [tryDirectory]
  rw [if_neg (by simp [hk]), if_pos hvalid]

/-- The batch of a record that waits for its slot, the page error, and what the read leaves alone. -/
theorem tryDirectory_waits (hi : Inv s) (hb : (sqAt s n).asm.closed.head? = some b) (hk : d.kind = .okay)
    (hvalid : fieldLe d.bytes 0 1 % 2 = 1) : let t := tryDirectory s n b d
    (sqAt t n).asm.closed.head? = some { b with phase := .dirWait } ∧ bitN (rg t 0x00A 0x014) 1 = true ∧ memKept s t ∧
    t.jobs = s.jobs ∧ t.entries = s.entries := by
  intro t
  obtain ⟨live, mem, hread⟩ := hostRead_of_okay hk s (dirAddr s n b.number) 64 (rg s 0x00A 0x40C)
  have hmem := memKept_hostRead hk s (dirAddr s n b.number) 64 (rg s 0x00A 0x40C)
  have hinv := (hostRead_ok ⟨hi, rfl⟩ (dirAddr s n b.number) 64 (rg s 0x00A 0x40C) d).inv
  have ht : t = _ := tryDirectory_taken hk hvalid b
  rw [hread] at hmem hinv ht
  rw [ht]
  exact ⟨head?_modBatch hb _, bitN_rg_pageErr hinv _ _ (by decide), hmem, rfl, rfl⟩

/-! ## Reading the tokens -/

/-- A reader in a Marrow in which no line is poisoned and no word in error stays where it began and meets no poison (R263). -/
theorem Rd.keys_clean (hpoison : s.marrow.poison = []) (hecc : s.marrow.ecc = []) (o : Option TileOp) (ks : List Nat) :
    ((Rd.start s).keys o ks).st = s ∧ ((Rd.start s).keys o ks).pois = false := by
  refine List.foldlRecOn (motive := fun r : Rd => r.st = s ∧ r.pois = false) _ _ ⟨rfl, rfl⟩ fun r hr l _ => ?_
  obtain ⟨hst, hpois⟩ := hr
  simp [Rd.line, hst, checkLine_unmarked hecc, hpoison, hpois]

/-! ## The requests of a batch write -/

theorem pieces_ne_nil (a : Nat) {k : Nat} (hk : 0 < k) : pieces a k ≠ [] := by
  have hblocks : (a + k - 1) / 256 + 1 - a / 256 ≠ 0 := by
    have := Nat.div_le_div_right (c := 256) (show a ≤ a + k - 1 by omega)
    omega
  simpa [pieces, hk.ne'] using hblocks

theorem batchImage_length_pos (s : State) (n : Nat) (r : Route) (y : Node) (b : Batch) : 0 < (batchImage s n r y b).length := by
  refine List.length_pos_iff.2 ?_
  unfold batchImage batchHeader
  simp only [List.append_assoc]
  exact List.cons_ne_nil _ _

/-- The tiles `ts` with one more request: in the last tile while it has room, else in a tile of its own (R274). -/
def addToTiles (ts : List (List MemReq)) (r : MemReq) : List (List MemReq) :=
  match ts.getLast? with
  | some l => if (l.map (·.lines)).sum + r.lines ≤ 64 then ts.dropLast ++ [l ++ [r]] else ts ++ [[r]]
  | none => [[r]]

theorem tileUp_concat (rs : List MemReq) (r : MemReq) : tileUp (rs ++ [r]) = addToTiles (tileUp rs) r := by
  rw [tileUp, List.foldl_append]
  rfl

theorem flatten_addToTiles (ts : List (List MemReq)) (r : MemReq) : (addToTiles ts r).flatten = ts.flatten ++ [r] := by
  unfold addToTiles
  split
  · next l hl =>
    have hts : ts.flatten = ts.dropLast.flatten ++ l := by
      conv_lhs => rw [← List.dropLast_append_getLast? l hl]
      simp
    split
    · simp [hts]
    · simp
  · next hl => simp [List.getLast?_eq_none_iff.1 hl]

/-- Requests cut into tiles are the same requests in the same order (R274). -/
theorem flatten_tileUp (rs : List MemReq) : (tileUp rs).flatten = rs := by
  induction rs using List.reverseRecOn with
  | nil => rfl
  | append_singleton rs r ih => rw [tileUp_concat, flatten_addToTiles, ih]

/-! ## A transfer that starts -/

/-- A buffer transfer without its context and whether its tile is on the ports. -/
def BufMove.plan (m : BufMove) : BufMove := { m with num := none, out := false }

/-- The plans of the buffer transfers under way. -/
def movePlans (s : State) : List BufMove := s.mem.moves.map BufMove.plan

theorem movePlans_putTile (s : State) (m : BufMove) (p k : Nat) : movePlans (putTile s m p k) = movePlans s := by
  refine (foldl_keeps movePlans (fun u r _ => congrArg (List.map _) (holdReq_moves u _)) _).trans ?_
  change (s.mem.moves.map fun y => if y.id = m.id then { y with num := some k, out := true } else y).map BufMove.plan = _
  rw [List.map_map]
  refine List.map_congr_left fun y _ => ?_
  simp only [Function.comp]
  split <;> rfl

theorem movePlans_sendMove (s : State) (m : BufMove) : movePlans (sendMove s m) = movePlans s := by
  simp only [sendMove]
  split
  · rfl
  · split
    · split
      · exact movePlans_putTile ..
      · rfl
    · split
      · exact movePlans_putTile ..
      · rfl

/-- Buffer transfers that go on keep their plans. -/
theorem movePlans_pumpMoves (s : State) : movePlans (pumpMoves s) = movePlans s := by
  refine foldl_keeps movePlans (fun u m _ => ?_) s
  split
  · exact movePlans_sendMove ..
  · rfl

/-- On ports without a transfer, a transfer that is started stands with its requests, at its first tile. -/
theorem startMove_stands (hm : s.mem.moves = []) (j m k r : Nat) {tiles : List (List MemReq)} (ht : tiles ≠ []) (ends : MoveEnd)
    (blocks : List BlockRead) : ∃ y, moveAt (startMove s j m k r tiles ends blocks) s.nextOp = some y ∧
      y.ends = ends ∧ y.job = j ∧ y.next = 0 ∧ y.tiles = tiles := by
  have hplans : movePlans (startMove s j m k r tiles ends blocks) =
      [⟨s.nextOp, none, j, m, k, r, tiles, 0, false, ends, blocks, [], []⟩] := by
    unfold startMove
    rw [if_neg ht, movePlans_pumpMoves]
    simp [movePlans, modMem, hm, BufMove.plan]
  obtain ⟨y, hy, hplan⟩ := List.map_eq_singleton_iff.1 hplans
  have hid : y.id = s.nextOp := congrArg (·.id) hplan
  exact ⟨y, by simp [moveAt, hy, hid], congrArg (·.ends) hplan, congrArg (·.job) hplan, congrArg (·.next) hplan,
    congrArg (·.tiles) hplan⟩

theorem startMove_frame (s : State) (j m k r : Nat) (tiles : List (List MemReq)) (ends : MoveEnd) (blocks : List BlockRead) :
    let t := startMove s j m k r tiles ends blocks
    t.sqs = s.sqs ∧ t.jobs = s.jobs ∧ t.entries = s.entries ∧ t.marrow = s.marrow := by
  obtain ⟨i, -, hframe⟩ := startMove_keeps s j m k r tiles ends blocks
  exact ⟨congrArg (·.sqs) hframe, congrArg (·.jobs) hframe, congrArg (·.entries) hframe, congrArg (·.marrow) hframe⟩

/-! ## The write of a batch -/

/-- The requests that write a batch into its buffer (R208, R270). -/
def batchReqs (s : State) (n : Nat) (x : Nat × Node) (b : Batch) : List MemReq :=
  (pieces b.buf (batchImage s n (job s (sqJob s n)).route x.2 b).length).map fun q =>
    writeReq q.1 (((batchImage s n (job s (sqJob s n)).route x.2 b).drop (q.1 - b.buf)).take q.2) (sqXlat s n) 1 127 0 (.buffer 0 0)

theorem batchReqs_ne_nil (s : State) (n : Nat) (x : Nat × Node) (b : Batch) : batchReqs s n x b ≠ [] :=
  mt List.map_eq_nil_iff.1 (pieces_ne_nil _ (batchImage_length_pos ..))

/-- A batch without poisoned tokens goes out as one transfer of the member that packs its ring (R208). -/
theorem writeBatch_eq (hx : jobPack s (sqJob s n) = some x) (hpoison : s.marrow.poison = []) (hecc : s.marrow.ecc = []) (b : Batch) :
    writeBatch s n b = startMove (modBatch s n b.number fun y => { y with phase := .writing }) (sqJob s n)
      (n % max 1 (jobP s (sqJob s n))) x.1 (batchRank b) (tileUp (batchReqs s n x b)) (.batch n) [] := by
  obtain ⟨hst, hpois⟩ := Rd.keys_clean hpoison hecc none (b.units.flatMap (unitKeys s n (job s (sqJob s n)).route x.2 b))
  simp only [writeBatch, hx, hst, hpois, batchReqs, Bool.false_eq_true, if_false]

/-- The batch that is written, the transfer that writes it, and what its start leaves alone. -/
theorem writeBatch_starts (hb : (sqAt s n).asm.closed.head? = some b) (hx : jobPack s (sqJob s n) = some x)
    (hpoison : s.marrow.poison = []) (hecc : s.marrow.ecc = []) (hmoves : s.mem.moves = []) : let t := writeBatch s n b
    (sqAt t n).asm.closed.head? = some { b with phase := .writing } ∧
    (∃ m, moveAt t s.nextOp = some m ∧ m.ends = .batch n ∧ m.job = sqJob s n ∧ m.next = 0 ∧ m.tiles.flatten = batchReqs s n x b) ∧
    t.jobs = s.jobs ∧ t.entries = s.entries ∧ t.marrow = s.marrow := by
  intro t
  have ht : t = _ := writeBatch_eq hx hpoison hecc b
  rw [ht]
  obtain ⟨hsqs, hjobs, hentries, hmarrow⟩ := startMove_frame (modBatch s n b.number fun y => { y with phase := .writing }) (sqJob s n)
    (n % max 1 (jobP s (sqJob s n))) x.1 (batchRank b) (tileUp (batchReqs s n x b)) (.batch n) []
  obtain ⟨m, hm, hends, hjob, hnext, htiles⟩ := startMove_stands (s := modBatch s n b.number fun y => { y with phase := .writing })
    hmoves (sqJob s n) (n % max 1 (jobP s (sqJob s n))) x.1 (batchRank b) (tileUp_ne_nil (batchReqs_ne_nil s n x b)) (.batch n) []
  refine ⟨?_, ⟨m, hm, hends, hjob, hnext, by rw [htiles, flatten_tileUp]⟩, hjobs, hentries, hmarrow⟩
  rw [sqAt_congr hsqs]
  exact head?_modBatch hb _

/-- BATCH_EMIT of a batch that has its buffer, every `PACK` operation of its ring having its verdict (R208, R212). -/
theorem exec_batchEmit_haveBuf {n : BitVec 12} (hp : podIssues s (packPod s (sqJob s n.toNat) n.toNat) = true)
    (hb : (sqAt s n.toNat).asm.closed.head? = some b) (hd : d.wf = true) (hphase : b.phase = .haveBuf)
    (hpacking : packing s n.toNat = false) : exec (.batchEmit n d) s = .next (writeBatch s n.toNat b) := by
  change execBatchEmit n d s = _
  simp [execBatchEmit, doBatchEmit, headBatch, hp, hb, hd, hphase, hpacking]

/-- Settles O46: a flush moves the open batch to the closed ones; a batch with a buffer starts one transfer of its bytes; one whose
buffer is visible writes its record or waits, as the slot's `VALID` says. -/
theorem batchesLeave : Obligations.BatchesLeave := by
  unfold Obligations.BatchesLeave
  intro s n j a
  refine ⟨fun x hwork hx hconceal hflush hst hcopy hu => ?_, fun b d x hp hb hd hx => ?_⟩
  · obtain ⟨regs, hclose⟩ := closeBatch_of_units hx hu 4
    have hring := sqAt_modSq s n.toNat n.toNat (Sq.closedWith (closingBatch s n.toNat 4))
    rw [if_pos rfl] at hring
    refine ⟨_, rfl, ?_⟩
    rw [doFlush_closes hwork hx hconceal hflush hst hcopy, hclose]
    exact ⟨congrArg (·.asm.closed) hring, congrArg (·.asm.openB) hring, rfl, rfl, rfl, rfl⟩
  · intro record sent held
    refine ⟨fun cmd hcmd hk => ⟨fun hvalid => ?_, fun hi hvalid => ?_⟩, fun hphase hpacking hpoison hecc hquiet _ _ => ?_⟩
    · obtain ⟨hhead, hsent⟩ := tryDirectory_sends hb hk hvalid hx
      exact ⟨_, exec_eq_tryDirectory hp hb hd hcmd, ⟨_, hhead, rfl, rfl⟩, hsent⟩
    · obtain ⟨hhead, hheld⟩ := tryDirectory_waits hi hb hk hvalid
      exact ⟨_, exec_eq_tryDirectory hp hb hd hcmd, ⟨_, hhead, rfl⟩, hheld⟩
    · obtain ⟨-, -, hmoves⟩ := hquiet
      obtain ⟨hhead, hstarted⟩ := writeBatch_starts hb hx hpoison hecc hmoves
      exact ⟨_, exec_batchEmit_haveBuf hp hb hd hphase hpacking, ⟨_, hhead, rfl, rfl⟩, hstarted⟩

end Sys2Proof.Machine
end

section
/-! What the ends of jobs leave of the fault collector: all of it (spec/02 R53, spec/03 R84, R85, spec/14 R347, R361). -/

namespace Sys2Proof.Machine

variable {s t : State}

theorem flt_of_streamFrame (h : streamFrame t = streamFrame s) : t.flt = s.flt := congrArg (·.flt) h

/-! ## Rings, streams and halves -/

@[simp] theorem arbSettle_flt (s : State) : (arbSettle s).flt = s.flt := flt_of_streamFrame (streamFrame_arbSettle s)

@[simp] theorem finish_flt (s : State) (e : Entry) (status detail count info : Nat) :
    (finish s e status detail count info).flt = s.flt := by
  unfold finish
  split
  · split
    · rfl
    · rw [addDue_eq]
      rfl
  · rfl

@[simp] theorem endRingEntries_flt (s : State) (n status : Nat) (cause : List Nat) :
    (endRingEntries s n status cause).flt = s.flt := by
  refine foldl_keeps (·.flt) (fun u e _ => ?_) s
  exact finish_flt ..

@[simp] theorem drainRing_flt (s : State) (n status : Nat) (cause : List Nat) : (drainRing s n status cause).flt = s.flt := by
  unfold drainRing
  split
  · rfl
  · rfl
  · extract_lets marked _ waits
    have hentries : (endRingEntries waits n status cause).flt = s.flt := endRingEntries_flt ..
    rw [arbSettle_flt, flt_of_streamFrame (streamFrame_closeSome ..), flt_of_streamFrame (streamFrame_dropBatches ..), hentries]

@[simp] theorem sendFlit_flt (s : State) (k : Nat) (f : Flit) : (sendFlit s k f).flt = s.flt := by
  change (bump (bump s _ _ _) _ _ _).flt = s.flt
  rw [bump_flt, bump_flt]

@[simp] theorem abortHalves_flt (s : State) (j : Nat) : (abortHalves s j).flt = s.flt := by
  refine (foldl_keeps (·.flt) (fun u e _ => ?_) _).trans rfl
  split
  · exact sendFlit_flt ..
  · rfl

/-! ## Jobs and their Pods -/

@[simp] theorem abandonSwap_flt (s : State) : (abandonSwap s).flt = s.flt := by
  unfold abandonSwap
  split
  · exact zeroise_flt ..
  · rfl

@[simp] theorem endCopy_flt (s : State) (j : Nat) : (endCopy s j).flt = s.flt := by
  unfold endCopy
  split
  · exact abandonSwap_flt s
  · rfl

@[simp] theorem endPod_flt (s : State) (p : Nat) : (endPod s p).flt = s.flt := by
  obtain ⟨m, mps, ps, h⟩ := endPod_pods s p
  rw [h]

@[simp] theorem endHeld_flt (s : State) (j : Nat) : (endHeld s j).flt = s.flt :=
  (flt_of_streamFrame (streamFrame_closeSome ..)).trans (abortHalves_flt s j)

@[simp] theorem endWork_flt (s : State) (j status : Nat) (cause : List Nat) : (endWork s j status cause).flt = s.flt := by
  have hstrip (u : State) : (stripJob u j).flt = u.flt := rfl
  have hrings : (drainJobRings s j status cause).flt = s.flt := foldl_keeps (·.flt) (fun _ _ _ => drainRing_flt ..) s
  rw [endWork_eq, foldl_keeps (·.flt) (fun _ _ _ => endPod_flt ..), endJobWork, hstrip, endHeld_flt, endCopy_flt, hrings]

@[simp] theorem setJobSt_flt (s : State) (j : Nat) (x : JobState) : (setJobSt s j x).flt = s.flt := by
  rw [setJobSt, arbSettle_flt, syncBlock_eq]
  rfl

@[simp] theorem failOne_flt (s : State) (j reason status : Nat) (cause : List Nat) : (failOne s j reason status cause).flt = s.flt := by
  simp only [failOne]
  split
  · rfl
  · rw [setJobSt_flt, modJob_flt, endWork_flt]

theorem compareGroup_flt (s : State) (g : Nat) : (compareGroup s g).flt = s.flt :=
  foldl_keeps (·.flt) (fun u j _ => failOne_flt (splitPoison u j g) ..) (modGroup s g _)

theorem settle_flt (n : Nat) (s : State) : (settle n s).flt = s.flt := by
  induction n generalizing s with
  | zero => rfl
  | succ n ih =>
    unfold settle
    split
    · rw [ih, compareGroup_flt]
    · rfl

@[simp] theorem failJob_flt (s : State) (j reason status : Nat) (cause : List Nat) : (failJob s j reason status cause).flt = s.flt :=
  (settle_flt ..).trans (failOne_flt ..)

/-- A Pod that becomes `SUSPECT` may end its job, and no fault event follows from that (R347). -/
@[simp] theorem markSuspect_flt (s : State) (p cause : Nat) : (markSuspect s p cause).flt = s.flt := by
  have hended (u : State) (b : Bool) (j : Nat) : (if b then if saveUnderWay u j then failJob u j 0x0354 stAborted
      else if unbindUnderWay u j then u else failJob u j 0x4041 stAborted else u).flt = u.flt := by
    split_ifs <;> simp
  unfold markSuspect
  extract_lets q u v
  have hv : v.flt = s.flt := by
    unfold v
    split
    · exact abandonSwap_flt u
    · rfl
  split
  case h_5 => rfl
  case h_1 | h_2 | h_3 | h_4 =>
    split
    case h_4 => exact hv
    case h_1 | h_2 | h_3 => exact (arbSettle_flt _).trans ((hended ..).trans hv)

end Sys2Proof.Machine
end

section
/-! What an event leaves of the collector's marks: it marks its own source as active and changes its own count, and no
reaction to it and no Pod that it makes suspect changes a mark (spec/15 R367, R370 to R377). -/

namespace Sys2Proof.Machine

variable {s t : State} {src i : Nat}

/-! ## Operations that leave the collector alone -/

theorem memWrite_flt (s : State) (a : Nat) (d : List Byte) (x c p : Nat) (pu : Purpose) : (memWrite s a d x c p pu).flt = s.flt :=
  flt_of_portFrame (portFrame_memWrite ..)

theorem mbxNotice_flt (s : State) (k : Nat) (ws : List Word) : (mbxNotice s k ws).flt = s.flt :=
  flt_of_portFrame (portFrame_mbxNotice ..)

theorem logFlush_flt (s : State) : (logFlush s).flt = s.flt := by
  refine (foldl_keeps (·.flt) (fun u r _ => logWrite_flt r) _).trans ?_
  exact foldl_keeps (·.flt) (fun u r _ => flt_of_portFrame (portFrame_sendReq r)) _

theorem retarget_flt (s : State) : (retarget s).flt = s.flt := congrArg (·.flt) (capFrame_retarget s)

theorem dumpOnSevere_flt (s : State) : (dumpOnSevere s).flt = s.flt := by
  unfold dumpOnSevere
  split
  · split
    · rfl
    · exact (foldl_keeps (·.flt) (fun _ _ _ => memWrite_flt ..) _).trans (bump_flt ..)
  · rfl

/-- What follows from a severity is for Pods, power and Mileposts (R371, R396). -/
theorem onSevere_flt (s : State) (src i : Nat) : (onSevere s src i).flt = s.flt := by
  unfold onSevere
  extract_lets suspected dropped
  have hsuspected : suspected.flt = s.flt := by
    unfold suspected
    split_ifs <;> simp
  have hdropped : dropped.flt = suspected.flt := by
    unfold dropped
    split
    · exact retarget_flt _
    · rfl
  exact (dumpOnSevere_flt _).trans (hdropped.trans hsuspected)

theorem startBlockReset_flt (s : State) : (startBlockReset s).flt = s.flt := by
  unfold startBlockReset
  split
  · extract_lets u v
    split
    case h_5 => exact (bump_flt ..).trans rfl
    case h_1 | h_2 | h_3 | h_4 => rfl
  · rfl

theorem fltInterrupt_flt (s : State) : (fltInterrupt s).flt = s.flt := by
  unfold fltInterrupt
  extract_lets u
  split
  · exact (memWrite_flt ..).trans (bump_flt ..)
  · exact bump_flt ..

/-! ## The marks -/

/-- The sources that are active, those that hold a wire fault, and the counts of events: `FLT_ACTIVE`, `FLT_WIRE` and R370. -/
def marks (s : State) : Word × Word × List (Nat × Inst) := (s.flt.active, s.flt.wire, s.flt.insts)

theorem marks_of_flt (h : t.flt = s.flt) : marks t = marks s := by simp only [marks, h]

theorem marks_bump (s : State) (p k n : Nat) : marks (bump s p k n) = marks s := marks_of_flt (bump_flt ..)

theorem marks_recordNew (s : State) (r : Wayside) : marks (recordNew s r) = marks s := by
  unfold recordNew logPut
  split
  · split
    · exact marks_bump ..
    · rfl
  · exact marks_bump ..

theorem marks_recordEvent (s : State) (r : Wayside) (x : Inst) (severe wire : Bool) (fired : Nat) :
    marks (recordEvent s r x severe wire fired) = marks s := by
  unfold recordEvent
  extract_lets logged fresh
  have hfresh : marks fresh = marks s := marks_recordNew ..
  split
  · exact hfresh
  · split
    · split
      · split
        · exact marks_bump logged 1 4 1
        · exact marks_bump logged 1 4 1
      · exact hfresh
    · exact hfresh

/-- The reactions latch, signal and reset, and leave the marks (Table 15-2). -/
theorem marks_react (s : State) (mask : Nat) (r : Wayside) : marks (react s mask r) = marks s := by
  unfold react
  extract_lets latched told noted _ asked
  have hlatched : marks latched = marks s := by
    unfold latched
    split <;> rfl
  have htold : marks told = marks latched := by
    unfold told
    split
    · split
      · rfl
      · exact (marks_of_flt (fltInterrupt_flt _)).trans rfl
    · rfl
  have hnoted : marks noted = marks told := by
    unfold noted
    split
    · exact marks_of_flt ((logFlush_flt _).trans (mbxNotice_flt ..))
    · rfl
  have hasked : marks asked = marks noted := by
    unfold asked
    split <;> rfl
  have hall : marks asked = marks s := hasked.trans (hnoted.trans (htold.trans hlatched))
  split
  · exact (marks_of_flt (startBlockReset_flt _)).trans hall
  · exact hall

/-- An event that the collector hears marks its source as active and counts; a wire fault of its pair stays. -/
theorem marks_raiseAs (hh : hears s src i = true) (info : Word) (ctx : EventCtx) (pod : Nat) (wire : Bool) (unit : Nat) :
    ∃ x : Inst, x.wired = (instAt s src i).wired ∧ marks (raiseAs s src i info ctx pod wire unit) =
      (s.flt.active ||| BitVec.ofNat 32 (2 ^ src), s.flt.wire, sput s.flt.insts (instKey src i) x) := by
  unfold raiseAs
  rw [if_neg (by simp [hh])]
  extract_lets cfg old w restart x nowSevere becomes x' mask0 mask uf rd bit counted b1 b2 b3 b4
  have hwired : x.wired = old.wired := by
    unfold x
    split_ifs <;> rfl
  have hb2 : marks b2 = marks b1 := by
    unfold b2
    split
    · exact marks_bump ..
    · rfl
  have hb4 : marks b4 = marks b3 := by
    unfold b4
    split
    · exact marks_of_flt (onSevere_flt ..)
    · rfl
  refine ⟨x', hwired, ?_⟩
  calc marks (react b4 mask { rd with rflags := rd.rflags ||| (8 * mask) }) = marks b4 := marks_react ..
    _ = marks b2 := hb4.trans (marks_recordEvent ..)
    _ = marks counted := hb2.trans (marks_bump ..)

theorem raiseAs_of_deaf (hh : hears s src i = false) (info : Word) (ctx : EventCtx) (pod : Nat) (wire : Bool) (unit : Nat) :
    raiseAs s src i info ctx pod wire unit = s := if_pos hh

theorem getLsbD_or_two_pow (w : Word) (hsrc : src < 32) : (w ||| BitVec.ofNat 32 (2 ^ src)).getLsbD src = true := by
  rw [BitVec.getLsbD_or, BitVec.getLsbD_ofNat, Nat.testBit_two_pow_self]
  simp [hsrc]

/-- An event that is heard leaves its source active. -/
theorem raiseAs_active (hh : hears s src i = true) (hsrc : src < 32) (info : Word) (ctx : EventCtx) (pod : Nat) (wire : Bool)
    (unit : Nat) : (raiseAs s src i info ctx pod wire unit).flt.active.getLsbD src = true := by
  obtain ⟨x, -, h⟩ := marks_raiseAs hh info ctx pod wire unit
  have hactive : (raiseAs s src i info ctx pod wire unit).flt.active = _ := congrArg (·.1) h
  rw [hactive]
  exact getLsbD_or_two_pow _ hsrc

/-- No event, heard or not, raises or clears a wire fault (R367). -/
theorem raiseAs_wire (s : State) (src i : Nat) (info : Word) (ctx : EventCtx) (pod : Nat) (wire : Bool) (unit : Nat) :
    (raiseAs s src i info ctx pod wire unit).flt.wire = s.flt.wire := by
  cases hh : hears s src i with
  | false => rw [raiseAs_of_deaf hh]
  | true =>
    obtain ⟨x, -, h⟩ := marks_raiseAs hh info ctx pod wire unit
    exact congrArg (·.2.1) h

theorem raiseAs_wired (s : State) (src i : Nat) (info : Word) (ctx : EventCtx) (pod : Nat) (wire : Bool) (unit a b : Nat) :
    (instAt (raiseAs s src i info ctx pod wire unit) a b).wired = (instAt s a b).wired := by
  cases hh : hears s src i with
  | false => rw [raiseAs_of_deaf hh]
  | true =>
    obtain ⟨x, hx, h⟩ := marks_raiseAs hh info ctx pod wire unit
    have hinsts : (raiseAs s src i info ctx pod wire unit).flt.insts = _ := congrArg (·.2.2) h
    unfold instAt at hx ⊢
    rw [hinsts]
    by_cases hk : instKey a b = instKey src i
    · rw [hk, sgetD_sput_self, hx]
    · rw [sgetD_sput_ne _ _ _ hk]

/-! ## Events of a pair -/

theorem unitAction_flt (s : State) (src i : Nat) : (unitAction s src i).flt = s.flt := by
  unfold unitAction
  split
  · rfl
  · exact markSuspect_flt ..
  · exact markSuspect_flt ..
  · exact markSuspect_flt ..
  · rfl

variable {k : Nat}

/-- An event on a pair that is heard leaves its source active (R370). -/
theorem doFaultEvent_active (hsrc : src < 32) (hk : pairInst src i = some k) (hq : pairQuiet s src k = false)
    (hw : (instAt s src k).wired = false) (hh : hears s src k = true) (info : Word) (ctx : EventCtx) :
    (doFaultEvent s src i info ctx).flt.active.getLsbD src = true := by
  simp only [doFaultEvent, hk]
  rw [if_neg (by simp [hq, hw, hh]), unitAction_flt]
  exact raiseAs_active hh hsrc ..

/-- The pair of source `src` in Pod or block `k` marked as in the wire-fault condition. -/
def markWired (s : State) (src k : Nat) : State := modFlt s fun c => { c with
  insts := supd c.insts (instKey src k) Inst.empty fun x => { x with wired := true }
  wire := c.wire ||| BitVec.ofNat 32 (2 ^ src) }

theorem instAt_markWired (s : State) (src k : Nat) :
    instAt (markWired s src k) src k = { instAt s src k with wired := true } :=
  sgetD_supd_self s.flt.insts (instKey src k) Inst.empty fun x => { x with wired := true }

theorem markWired_wire (s : State) (hsrc : src < 32) (k : Nat) : (markWired s src k).flt.wire.getLsbD src = true :=
  getLsbD_or_two_pow _ hsrc

theorem instAt_congr (h : t.flt = s.flt) (src i : Nat) : instAt t src i = instAt s src i := by rw [instAt, h, instAt]

/-- The entry to the wire-fault condition marks the pair, and then raises two events (R367). -/
theorem doWireFault_flt (hk : pairInst src i = some k) (hq : pairQuiet s src k = false)
    (hw : (instAt s src k).wired = false) (hh : hears s src k = true) (high : Bool) (ctx : EventCtx) :
    (doWireFault s src i high ctx).flt = (raiseAs (raiseAs (bump (markWired s src k) 1 2) 0 k
      (BitVec.ofNat 32 (src + 256 * b2n high)) ctx 127 false src) src k 0 ctx 127 true src).flt := by
  simp only [doWireFault, hk]
  rw [if_neg (by simp [hq, hw, hh])]
  split
  · rfl
  · rfl

/-- A pair that enters the wire-fault condition holds it, and so does its source (R367). -/
theorem doWireFault_marks (hsrc : src < 32) (hk : pairInst src i = some k) (hq : pairQuiet s src k = false)
    (hw : (instAt s src k).wired = false) (hh : hears s src k = true) (high : Bool) (ctx : EventCtx) :
    (instAt (doWireFault s src i high ctx) src k).wired = true ∧
      (doWireFault s src i high ctx).flt.wire.getLsbD src = true := by
  have hflt := doWireFault_flt hk hq hw hh high ctx
  constructor
  · rw [instAt_congr hflt, raiseAs_wired, raiseAs_wired, instAt_congr (bump_flt ..), instAt_markWired]
  · rw [hflt, raiseAs_wire, raiseAs_wire, bump_flt]
    exact markWired_wire s hsrc k

end Sys2Proof.Machine
end

section
/-! Configuration of the fault sources and the frozen log (spec/15 R378, R382, Table 15-9). -/

namespace Sys2Proof.Machine

variable {s : State} {src w : Nat}

/-! ## Configuration -/

/-- Whether `w` is a legal `FLT_CFG` word: a count of at least one, a window that exists, and no reserved bit (Table 15-9). -/
def cfgLegal (w : Nat) : Prop := bits w 7 0 ≠ 0 ∧ bits w 12 8 ≤ 22 ∧ w &&& 0xE0E0E000 = 0

theorem fltRefusal_cfg (hsrc : src < 24) (w : Nat) : fltRefusal s (0x400 + 4 * src) w =
    if bits w 7 0 = 0 ∨ bits w 12 8 > 22 ∨ w &&& 0xE0E0E000 ≠ 0 then some 0x0101 else none := by
  rw [fltRefusal, if_pos (by omega), if_pos (by omega)]

theorem fltRefusal_of_legal (hsrc : src < 24) (h : cfgLegal w) : fltRefusal s (0x400 + 4 * src) w = none := by
  obtain ⟨hcount, hwindow, hrsv⟩ := h
  rw [fltRefusal_cfg hsrc, if_neg]
  rintro (h0 | h0 | h0)
  · exact hcount h0
  · omega
  · exact h0 hrsv

theorem fltRefusal_of_illegal (hsrc : src < 24) (h : ¬ cfgLegal w) : fltRefusal s (0x400 + 4 * src) w = some 0x0101 := by
  rw [fltRefusal_cfg hsrc, if_pos]
  by_contra hno
  obtain ⟨hcount, hwindow, hrsv⟩ := by simpa only [not_or] using hno
  exact h ⟨hcount, by omega, not_not.1 hrsv⟩

/-- The command writes the register of its source (R382). -/
theorem doFltCfg_eq (ho : portOpen s = true) {src : BitVec 5} (hsrc : src.toNat < 24) (w : Word) :
    doFltCfg s (BitVec.ofNat 10 (0x100 + src.toNat)) w = fltWrite s (0x400 + 4 * src.toNat) w.toNat := by
  have haddr : 4 * (BitVec.ofNat 10 (0x100 + src.toNat)).toNat = 0x400 + 4 * src.toNat := by
    rw [BitVec.toNat_ofNat]
    omega
  simp only [doFltCfg, ho, haddr]
  rw [if_neg (by decide), if_pos (.inr (by omega))]

theorem regFmt_cfg (hsrc : src < 24) : regFmt 1 (0x400 + 4 * src) = some (fmt 0x1F1F1FFF (fltCfgReset src)) := by
  have hpage : regFmt 1 (0x400 + 4 * src) = fmtFlt (0x400 + 4 * src) := by
    simp only [regFmt, show pageKind 1 = some 1 from rfl]
    rw [if_neg (by omega)]
  rw [hpage, fmtFlt, if_neg (by omega), if_neg (by omega), if_pos (by omega),
    show (0x400 + 4 * src - 0x400) / 4 = src by omega]

/-- A word without a reserved bit is its own writable part. -/
theorem and_writable (hlt : w < 2 ^ 32) (hrsv : w &&& 0xE0E0E000 = 0) : w &&& 0x1F1F1FFF = w := by
  calc w &&& 0x1F1F1FFF = (w &&& 0x1F1F1FFF) ||| (w &&& 0xE0E0E000) := by rw [hrsv, Nat.or_zero]
    _ = w &&& (2 ^ 32 - 1) := by rw [← Nat.and_or_distrib_left]; rfl
    _ = w := by rw [Nat.and_two_pow_sub_one_eq_mod, Nat.mod_eq_of_lt hlt]

/-- A legal configuration is what the register reads (R382). -/
theorem rg_storeReg_cfg (hinv : Inv s) (hsrc : src < 24) (hlt : w < 2 ^ 32) (hrsv : w &&& 0xE0E0E000 = 0) :
    rg (storeReg s 1 (0x400 + 4 * src) w) 1 (0x400 + 4 * src) &&& 0x1F1F1FFF = w := by
  rw [rg_storeReg_self hinv.rising_words (regFmt_cfg hsrc) hlt, fmt, Nat.and_or_distrib_right, Nat.and_assoc, Nat.and_assoc,
    show (0xFFFFFFFF - 0x1F1F1FFF) &&& 0x1F1F1FFF = 0 from rfl, Nat.and_self, Nat.and_zero, Nat.or_zero, and_writable hlt hrsv]

theorem fltCfgWrite_stores (hinv : Inv s) (ho : portOpen s = true) {src : BitVec 5} (hsrc : src.toNat < 24) {w : Word}
    (h : cfgLegal w.toNat) (htrap : src.toNat ≠ 21) : Becomes (.fltCfgWrite (BitVec.ofNat 10 (0x100 + src.toNat)) w) s (fun t =>
      rg t 1 (0x400 + 4 * src.toNat) &&& 0x1F1F1FFF = w.toNat ∧ t.flt = s.flt ∧ t.jobs = s.jobs) := by
  have hwrite : fltWrite s (0x400 + 4 * src.toNat) w.toNat = storeReg s 1 (0x400 + 4 * src.toNat) w.toNat := by
    rw [fltWrite, fltRefusal_of_legal hsrc h]
    simp only
    rw [if_neg (by omega)]
  refine ⟨_, rfl, ?_⟩
  obtain ⟨-, -, hrsv⟩ := h
  have hframe := storeReg_frame s 1 (0x400 + 4 * src.toNat) w.toNat
  rw [doFltCfg_eq ho hsrc, hwrite]
  exact ⟨rg_storeReg_cfg hinv hsrc w.isLt hrsv, congrArg (·.flt) hframe, congrArg (·.jobs) hframe⟩

theorem Inv.noteRsv (h : Inv s) (p o w : Nat) : Inv (noteRsv s p o w) := (noteRsv_ok ⟨h, rfl⟩ p o w).inv

theorem noteRsv_flt (s : State) (p o w : Nat) : (noteRsv s p o w).flt = s.flt := by
  unfold noteRsv
  split <;> rfl

theorem fltCfgWrite_refused (hinv : Inv s) (ho : portOpen s = true) {src : BitVec 5} (hsrc : src.toNat < 24) {w : Word}
    (h : ¬ cfgLegal w.toNat) : Becomes (.fltCfgWrite (BitVec.ofNat 10 (0x100 + src.toNat)) w) s (fun t =>
      rgw t 1 (0x400 + 4 * src.toNat) = rgw s 1 (0x400 + 4 * src.toNat) ∧ bitN (rg t 1 0x014) 0 = true ∧
      refused t 1 0x0101 (0x400 + 4 * src.toNat) ∧ t.flt = s.flt) := by
  have hnoted := hinv.noteRsv 1 (0x400 + 4 * src.toNat) w.toNat
  refine ⟨_, rfl, ?_⟩
  rw [doFltCfg_eq ho hsrc, fltWrite, fltRefusal_of_illegal hsrc h]
  simp only [fltRefuse]
  refine ⟨?_, ?_, ?_, ?_⟩
  · rw [refuse, rgw_wrg_ne (by simp only [wa]; omega), pageErr, rgw_wrg_ne (by simp only [wa]; omega), rgw_noteRsv]
  · rw [refuse, rg_wrg_ne (by decide)]
    exact bitN_rg_pageErr hnoted 1 0 (by decide)
  · exact refused_refuse (hnoted.wrg ..).rising_words 1 (by decide) (by omega)
  · rw [refuse, wrg_flt, pageErr, wrg_flt, noteRsv_flt]

/-! ## The frozen log -/

theorem logPut_words (s : State) (r : Wayside) : (logPut s r).regs.words = s.regs.words := by
  simp only [logPut]
  obtain ⟨live, h⟩ := bump_live (modFlt s fun c => { c with
    log := sput c.log (if s.flt.log.isEmpty then 0 else (s.flt.newest + 1) % 32) r
    newest := if s.flt.log.isEmpty then 0 else (s.flt.newest + 1) % 32, written := (c.written + 1) % 65536 }) 1 3 1
  rw [h]
  rfl

theorem logPut_freeze (s : State) (r : Wayside) : (logPut s r).flt.freeze = s.flt.freeze := by
  rw [logPut, bump_flt]
  rfl

theorem logPut_hold (s : State) (r : Wayside) : (logPut s r).flt.hold = s.flt.hold := by
  rw [logPut, bump_flt]
  rfl

theorem logPut_jobs (s : State) (r : Wayside) : (logPut s r).jobs = s.jobs := bump_jobs ..

/-- The end of a freeze: the log takes records again, none is held, and `FREEZE` reads 0 (R378). -/
theorem unfreeze_ends (hinv : Inv s) : (unfreeze s).flt.freeze = false ∧ (unfreeze s).flt.hold = [] ∧
    rg (unfreeze s) 1 0x048 = 0 ∧ (unfreeze s).jobs = s.jobs := by
  simp only [unfreeze]
  generalize hthaw : modFlt s _ = thawed
  have hrising : rising thawed.regs.words = true := by
    rw [← hthaw]
    exact hinv.rising_words
  refine ⟨?_, ?_, ?_, ?_⟩
  · rw [foldl_keeps (·.flt.freeze) (fun u r _ => logPut_freeze u r), ← hthaw]
    rfl
  · rw [foldl_keeps (·.flt.hold) (fun u r _ => logPut_hold u r), ← hthaw]
    rfl
  · rw [rg, rgw, foldl_keeps (·.regs.words) (fun u r _ => logPut_words u r), ← rgw, rgw_wrg_self hrising]
    rfl
  · rw [foldl_keeps (·.jobs) (fun u r _ => logPut_jobs u r), ← hthaw]
    rfl

theorem freeze_begins (hinv : Inv s) (ho : portOpen s = true) :
    Becomes (.freeze true) s (fun t => t.flt = { s.flt with freeze := true } ∧ rg t 1 0x048 = 1) := by
  have hdo : doFreeze s true = modFlt (wrg s 1 0x048 1) fun c => { c with freeze := true } := by simp [doFreeze, ho]
  refine ⟨_, rfl, ?_⟩
  rw [hdo]
  exact ⟨rfl, rg_wrg_self hinv 1 0x048 1⟩

theorem freeze_ends (hinv : Inv s) (ho : portOpen s = true) : Becomes (.freeze false) s (fun t =>
    t.flt.freeze = false ∧ t.flt.hold = [] ∧ rg t 1 0x048 = 0 ∧ t.jobs = s.jobs) := by
  have hdo : doFreeze s false = unfreeze s := by simp [doFreeze, ho]
  refine ⟨_, rfl, ?_⟩
  rw [hdo]
  exact unfreeze_ends hinv

theorem freezeTimeout_ends (hinv : Inv s) (h : s.flt.freeze = true) : Becomes .freezeTimeout s (fun t =>
    t.flt.freeze = false ∧ t.flt.hold = [] ∧ rg t 1 0x048 = 0) := by
  obtain ⟨hfreeze, hhold, hreg, -⟩ := unfreeze_ends hinv
  refine ⟨_, rfl, ?_⟩
  rw [doFreezeTimeout, if_pos h]
  exact ⟨hfreeze, hhold, hreg⟩

end Sys2Proof.Machine
end

section
/-! Factory test mode and fault injection (spec/11 R263, spec/15 R381). -/

namespace Sys2Proof.Machine

variable {s : State}

/-! ## Factory mode -/

/-- Zeroisation of several Pods changes the Marrow and the Milepost records, and nothing else (R34). -/
theorem foldl_zeroise_eq (l : List Nat) (s : State) : ∃ m mps, l.foldl zeroise s = { s with marrow := m, mps := mps } := by
  induction l generalizing s with
  | nil => exact ⟨_, _, rfl⟩
  | cons p l ih =>
    obtain ⟨m, mps, h⟩ := ih (zeroise s p)
    rw [List.foldl_cons, h, zeroise_eq]
    exact ⟨m, mps, rfl⟩

theorem bytes_foldl_zeroise (l : List Nat) (s : State) (a : Nat) :
    sgetD (l.foldl zeroise s).marrow.bytes a 0 = if a / 6291456 ∈ l then 0 else sgetD s.marrow.bytes a 0 := by
  induction l generalizing s with
  | nil => rfl
  | cons p l ih =>
    rw [List.foldl_cons, ih, zeroise_marrow, bytes_zeroiseMarrow]
    by_cases hl : a / 6291456 ∈ l
    · simp [hl]
    · simp [hl]

theorem mem_powered (s : State) (p : Nat) :
    p ∈ allPods.filter (fun p => !(podAt s p).gated) ↔ p < 100 ∧ (podAt s p).gated = false := by
  simp [allPods]

/-- Entry to factory test mode clears the Marrow of every powered Pod and asks for a reset (R381). -/
theorem factory_begins (ho : portOpen s = true) (hst : s.blk.st ≠ .halted) (hship : s.itg.shipped = false) :
    Becomes .factory s (fun t => t.itg = { s.itg with factory := true } ∧ t.pins.rstReq = true ∧ t.pods = s.pods ∧
      ∀ a, sgetD t.marrow.bytes a 0 =
        if a / 6291456 < 100 ∧ (podAt s (a / 6291456)).gated = false then 0 else sgetD s.marrow.bytes a 0) := by
  refine ⟨_, rfl, ?_⟩
  rw [doFactory, if_neg (by simp [ho, hst, hship])]
  obtain ⟨m, mps, h⟩ := foldl_zeroise_eq (allPods.filter fun p => !(podAt s p).gated) s
  refine ⟨?_, rfl, ?_, fun a => ?_⟩
  · simp only [h]
  · simp only [h]
  · exact (bytes_foldl_zeroise _ s a).trans (if_congr (mem_powered s _) rfl rfl)

/-! ## Injection -/

section
variable (ho : portOpen s = true) (hf : s.itg.factory = true) (hship : s.itg.shipped = false)
include ho hf hship

theorem doInject_flip (p : Fin 100) {line : BitVec 17} (hline : line.toNat < 98304) (word : BitVec 3) (mask : BitVec 72) :
    doInject s (.flip p line word mask) =
      { s with marrow := flipWord s.marrow (lkey p.val line.toNat * 8 + word.toNat) mask } := by
  rw [doInject, if_neg (by simp [ho, hf, hship]), lkey, Nat.mod_eq_of_lt hline]

/-- A pair driven to (1,0) is one event of it. -/
theorem doInject_event (src : BitVec 5) (i : BitVec 7) (c : BitVec 8) : ∃ info ctx,
    doInject s (.pair src i true false c) = doFaultEvent (draw s) src.toNat i.toNat info ctx := by
  rw [doInject, if_neg (by simp [ho, hf, hship])]
  exact ⟨_, _, if_pos (by simp)⟩

/-- A pair with both rails alike is a wire fault from two cycles on, and nothing before. -/
theorem doInject_alike (src : BitVec 5) (i : BitVec 7) (high : Bool) (c : BitVec 8) :
    doInject s (.pair src i high high c) =
      if 2 ≤ c.toNat then doWireFault (draw s) src.toNat i.toNat high (noCtx s) else s := by
  rw [doInject, if_neg (by simp [ho, hf, hship])]
  exact if_neg (by simp)

/-- An injected flip changes the stored error bits of its word, and nothing else (R263). -/
theorem tstInj_flips (hinv : Inv s) (p : Fin 100) {line : BitVec 17} (hline : line.toNat < 98304) (word : BitVec 3)
    {mask : BitVec 72} (hwf : (Injection.flip p line word mask).wf = true) :
    Becomes (.tstInj (.flip p line word mask)) s (fun t =>
      let k := lkey p.val line.toNat * 8 + word.toNat
      sgetD t.marrow.ecc k 0 = sgetD s.marrow.ecc k 0 ^^^ mask ∧
      (∀ q, q ≠ k → sgetD t.marrow.ecc q 0 = sgetD s.marrow.ecc q 0) ∧ t.marrow.bytes = s.marrow.bytes ∧
      t.marrow.poison = s.marrow.poison ∧ t.jobs = s.jobs ∧ t.pods = s.pods) := by
  obtain ⟨-, -, -, hecc, -, -⟩ := (Marrow.wf_iff _).1 hinv.marrow
  obtain ⟨hrising, -⟩ := (canon_iff _ _).1 hecc
  refine ⟨_, if_pos hwf, ?_⟩
  rw [doInject_flip ho hf hship p hline]
  exact ⟨sgetD_sset_self _ _ _ _ hrising, fun q hq => sgetD_sset_ne _ _ _ _ hq, rfl, rfl, rfl, rfl⟩

/-- What a driven pair does that the collector hears (R366, R367). -/
theorem tstInj_drives {src : BitVec 5} {i : BitVec 7} {k : Nat} {c : BitVec 8} (hsrc : src.toNat < 24) (hc : 1 ≤ c.toNat)
    (hk : pairInst src.toNat i.toNat = some k) (hq : pairQuiet s src.toNat k = false)
    (hw : (instAt s src.toNat k).wired = false) (hh : hears s src.toNat k = true) :
    Becomes (.tstInj (.pair src i true false c)) s (fun t => t.flt.active.getLsbD src.toNat = true) ∧
      (∀ high, 2 ≤ c.toNat → Becomes (.tstInj (.pair src i high high c)) s (fun t =>
        (instAt t src.toNat k).wired = true ∧ t.flt.wire.getLsbD src.toNat = true)) ∧
      (∀ high, c.toNat = 1 → exec (.tstInj (.pair src i high high c)) s = .next s) := by
  have hwf (high : Bool) : (Injection.pair src i high high c).wf = true := by
    cases high <;> simp [Injection.wf, hsrc, hc]
  refine ⟨⟨_, if_pos (by simp [Injection.wf, hsrc, hc]), ?_⟩, fun high h2 => ⟨_, if_pos (hwf high), ?_⟩, fun high h1 => ?_⟩
  · obtain ⟨info, ctx, h⟩ := doInject_event ho hf hship src i c
    rw [h]
    exact doFaultEvent_active (s := draw s) (by omega) hk hq hw hh info ctx
  · rw [doInject_alike ho hf hship, if_pos h2]
    exact doWireFault_marks (s := draw s) (by omega) hk hq hw hh high _
  · refine (if_pos (hwf high)).trans ?_
    rw [doInject_alike ho hf hship, if_neg (by omega)]

end

end Sys2Proof.Machine
end

section
/-! The probe of Chard (spec/10 R245, R259, Table 10-1). -/

namespace Sys2Proof.Machine

variable {s : State}

/-- The probe's command word, with its `GO` bit, is stored. -/
def probeStored (s : State) (ctrl : Nat) : State := storeReg s 0x00B 0x800 (ctrl ||| 2 ^ 31)

theorem probeStored_frame (s : State) (ctrl : Nat) :
    probeStored s ctrl = { s with regs := (probeStored s ctrl).regs } := storeReg_frame ..

theorem probeStored_inv (h : Inv s) (ctrl : Nat) : Inv (probeStored s ctrl) := (storeReg_ok ⟨h, rfl⟩ ..).inv

section
variable {ctrl o : Nat} (h : wa 0x00B o ≠ wa 0x00B 0x800)
include h

theorem rg_probeStored : rg (probeStored s ctrl) 0x00B o = rg s 0x00B o := congrArg BitVec.toNat (rgw_storeReg_ne h)

theorem rsvSet_probeStored : rsvSet (probeStored s ctrl) 0x00B o = rsvSet s 0x00B o := rsvSet_storeReg_ne h

end

theorem rg64_probeStored {ctrl o : Nat} (hlo : wa 0x00B o ≠ wa 0x00B 0x800) (hhi : wa 0x00B (o + 4) ≠ wa 0x00B 0x800) :
    rg64 (probeStored s ctrl) 0x00B o = rg64 s 0x00B o := by
  rw [rg64, rg_probeStored hlo, rg_probeStored hhi, rg64]

/-- `GO` lies above the fields of the command word. -/
theorem bits_or_go (ctrl : Nat) {hi : Nat} (lo : Nat) (h : hi < 31) : bits (ctrl ||| 2 ^ 31) hi lo = bits ctrl hi lo := by
  refine Nat.eq_of_testBit_eq fun i => ?_
  simp only [bits, Nat.testBit_mod_two_pow, Nat.testBit_shiftRight, Nat.testBit_or]
  by_cases hi' : i < hi + 1 - lo
  · rw [Nat.testBit_two_pow_of_ne (by omega), Bool.or_false]
  · simp [hi']

/-- The probe's refusal: `REFUSED` is set and the page says why (R259). -/
def probeRefused (s : State) (code : Nat) : State :=
  refuse (wrg s 0x00B 0x800 (rg s 0x00B 0x800 ||| 2 ^ 30)) 0x00B code 0x800

/-- The probe's answer: both halves of the hash, and the word that they pick (R245, R246). -/
def probeAnswered (s : State) (h : Word × Word) : State :=
  wrg (wrg (wrg (wrg s 0x00B 0x800 (rg s 0x00B 0x800 &&& 0x3)) 0x00B 0x824 h.2.toNat) 0x00B 0x828 h.1.toNat)
    0x00B 0x82C (chardPick s.rng.table h).toNat

/-- The key words that a probe of class `cls` mixes in (Table 10-1). -/
def probeKey (s : State) (cls : Nat) : List Word :=
  if cls = 1 then keyedKey (rg64 s 0x00B 0x804) (rg64 s 0x00B 0x80C) (rg s 0x00B 0x814) (rg s 0x00B 0x818)
  else slotKey (rg64 s 0x00B 0x804)

/-- What the mode check of a probe turns away (R259): no class, reserved bits, or keyed fields of a slot-class probe. -/
def probeBad (s : State) (ctrl : Nat) : Bool :=
  decide (bits ctrl 1 0 = 0 ∨ bits ctrl 1 0 = 3) || bits ctrl 29 2 ≠ 0 || rsvSet s 0x00B 0x814 || rsvSet s 0x00B 0x818 ||
    (bits ctrl 1 0 = 2 && decide (rg s 0x00B 0x80C ≠ 0 ∨ rg s 0x00B 0x810 ≠ 0 ∨ rg s 0x00B 0x814 ≠ 0 ∨ rg s 0x00B 0x818 ≠ 0))

theorem probeKey_probeStored (s : State) (ctrl cls : Nat) : probeKey (probeStored s ctrl) cls = probeKey s cls := by
  simp only [probeKey]
  rw [rg64_probeStored (by decide) (by decide), rg64_probeStored (by decide) (by decide), rg_probeStored (by decide),
    rg_probeStored (by decide)]

theorem probeBad_probeStored (s : State) (c ctrl : Nat) : probeBad (probeStored s c) ctrl = probeBad s ctrl := by
  simp only [probeBad]
  rw [rsvSet_probeStored (by decide), rsvSet_probeStored (by decide), rg_probeStored (by decide), rg_probeStored (by decide),
    rg_probeStored (by decide), rg_probeStored (by decide)]

theorem probeBad_or_go (s : State) (ctrl : Nat) : probeBad s (ctrl ||| 2 ^ 31) = probeBad s ctrl := by
  simp only [probeBad]
  rw [bits_or_go ctrl 0 (by decide), bits_or_go ctrl 2 (by decide)]

/-- The command checks the table, then the mode, and then answers (R259). -/
theorem exec_rngProbe (ho : portOpen s = true) (ctrl : Word) : exec (.rngProbe ctrl) s = .next (
    if s.rng.tableOk = false then probeRefused (probeStored s ctrl.toNat) 0x0B03
    else if probeBad s ctrl.toNat then probeRefused (probeStored s ctrl.toNat) 0x0B02
    else probeAnswered (probeStored s ctrl.toNat) (chardHash (probeKey s (bits ctrl.toNat 1 0)) (rg64 s 0x00B 0x81C))) := by
  have hgo : bitN (ctrl.toNat ||| 2 ^ 31) 31 = true := by
    rw [bitN, Nat.testBit_or, Nat.testBit_two_pow_self, Bool.or_true]
  have hrng : (probeStored s ctrl.toNat).rng = s.rng := congrArg (·.rng) (probeStored_frame s ctrl.toNat)
  have hexec : exec (.rngProbe ctrl) s = .next (doProbe s (ctrl.toNat ||| 2 ^ 31)) :=
    congrArg Host.Outcome.next (if_pos ho)
  have hprobe : doProbe s (ctrl.toNat ||| 2 ^ 31) = if (probeStored s ctrl.toNat).rng.tableOk = false then
        probeRefused (probeStored s ctrl.toNat) 0x0B03
      else if probeBad (probeStored s ctrl.toNat) (ctrl.toNat ||| 2 ^ 31) then probeRefused (probeStored s ctrl.toNat) 0x0B02
      else probeAnswered (probeStored s ctrl.toNat) (chardHash (probeKey (probeStored s ctrl.toNat)
        (bits (ctrl.toNat ||| 2 ^ 31) 1 0)) (rg64 (probeStored s ctrl.toNat) 0x00B 0x81C)) :=
    if_neg (by rw [hgo]; decide)
  rw [hexec, hprobe, hrng, probeBad_probeStored, probeBad_or_go, probeKey_probeStored, bits_or_go _ 0 (by decide),
    rg64_probeStored (by decide) (by decide)]

theorem refused_probeRefused (h : Inv s) {code : Nat} (hc : code < 2 ^ 16) : refused (probeRefused s code) 0x00B code 0x800 :=
  refused_refuse (h.wrg ..).rising_words _ hc (by decide)

theorem bitN_probeRefused (h : Inv s) (code : Nat) : bitN (rg (probeRefused s code) 0x00B 0x800) 30 = true := by
  rw [probeRefused, refuse, rg_wrg_ne (by decide), rg_wrg_self h, bitN, Nat.testBit_mod_two_pow, Nat.testBit_or,
    Nat.testBit_two_pow_self]
  simp

theorem rg_probeRefused (s : State) (code : Nat) : rg (probeRefused s code) 0x00B 0x824 = rg s 0x00B 0x824 := by
  rw [probeRefused, refuse, rg_wrg_ne (by decide), rg_wrg_ne (by decide)]

theorem probeRefused_rng (s : State) (code : Nat) : (probeRefused s code).rng = s.rng := by
  rw [probeRefused, refuse, wrg_rng, wrg_rng]

theorem probeRefused_jobs (s : State) (code : Nat) : (probeRefused s code).jobs = s.jobs := by
  rw [probeRefused, refuse, wrg_jobs, wrg_jobs]

theorem probeAnswered_answers (hinv : Inv s) (h : Word × Word) : let t := probeAnswered s h
    rgw t 0x00B 0x824 = h.2 ∧ rgw t 0x00B 0x828 = h.1 ∧ rgw t 0x00B 0x82C = chardPick s.rng.table h ∧ t.rng = s.rng ∧
      t.jobs = s.jobs ∧ t.marrow = s.marrow := by
  intro t
  have h1 := hinv.wrg 0x00B 0x800 (rg s 0x00B 0x800 &&& 0x3)
  have h2 := h1.wrg 0x00B 0x824 h.2.toNat
  have h3 := h2.wrg 0x00B 0x828 h.1.toNat
  refine ⟨?_, ?_, ?_, rfl, rfl, rfl⟩
  · simp only [t, probeAnswered]
    rw [rgw_wrg_ne (by decide), rgw_wrg_ne (by decide), rgw_wrg_self h1.rising_words, BitVec.ofNat_toNat, BitVec.setWidth_eq]
  · simp only [t, probeAnswered]
    rw [rgw_wrg_ne (by decide), rgw_wrg_self h2.rising_words, BitVec.ofNat_toNat, BitVec.setWidth_eq]
  · simp only [t, probeAnswered]
    rw [rgw_wrg_self h3.rising_words, BitVec.ofNat_toNat, BitVec.setWidth_eq]

/-- A probe without a checked table, of no class, or with reserved bits is refused (R259). -/
theorem rngProbe_refused (hinv : Inv s) (ho : portOpen s = true) (ctrl : Word)
    (h : s.rng.tableOk = false ∨ bits ctrl.toNat 1 0 % 3 = 0 ∨ bits ctrl.toNat 29 2 ≠ 0) :
    Becomes (.rngProbe ctrl) s (fun t => refused t 0x00B (if s.rng.tableOk then 0x0B02 else 0x0B03) 0x800 ∧
      bitN (rg t 0x00B 0x800) 30 = true ∧ rg t 0x00B 0x824 = rg s 0x00B 0x824 ∧ t.rng = s.rng ∧ t.jobs = s.jobs) := by
  have hframe := probeStored_frame s ctrl.toNat
  have hrefused (code : Nat) (hc : code < 2 ^ 16) : refused (probeRefused (probeStored s ctrl.toNat) code) 0x00B code 0x800 ∧
      bitN (rg (probeRefused (probeStored s ctrl.toNat) code) 0x00B 0x800) 30 = true ∧
      rg (probeRefused (probeStored s ctrl.toNat) code) 0x00B 0x824 = rg s 0x00B 0x824 ∧
      (probeRefused (probeStored s ctrl.toNat) code).rng = s.rng ∧ (probeRefused (probeStored s ctrl.toNat) code).jobs = s.jobs :=
    ⟨refused_probeRefused (probeStored_inv hinv _) hc, bitN_probeRefused (probeStored_inv hinv _) code,
      (rg_probeRefused ..).trans (rg_probeStored (by decide)), (probeRefused_rng ..).trans (congrArg (·.rng) hframe),
      (probeRefused_jobs ..).trans (congrArg (·.jobs) hframe)⟩
  refine ⟨_, exec_rngProbe ho ctrl, ?_⟩
  cases htab : s.rng.tableOk with
  | false => exact hrefused 0x0B03 (by decide)
  | true =>
    have hbad : probeBad s ctrl.toNat = true := by
      rcases h with h | h | h
      · simp [htab] at h
      · have hclass : bits ctrl.toNat 1 0 = 0 ∨ bits ctrl.toNat 1 0 = 3 := by
          have : bits ctrl.toNat 1 0 < 4 := Nat.mod_lt _ (by decide)
          omega
        simp [probeBad, hclass]
      · simp [probeBad, h]
    rw [if_neg (by decide), if_pos hbad]
    exact hrefused 0x0B02 (by decide)

/-- A probe of a class that passes the mode check is answered (R259). -/
theorem rngProbe_answered (hinv : Inv s) (ho : portOpen s = true) (htab : s.rng.tableOk = true) (ctrl : Word)
    (hbad : probeBad s ctrl.toNat = false) : Becomes (.rngProbe ctrl) s (fun t =>
      let h := chardHash (probeKey s (bits ctrl.toNat 1 0)) (rg64 s 0x00B 0x81C)
      rgw t 0x00B 0x824 = h.2 ∧ rgw t 0x00B 0x828 = h.1 ∧ rgw t 0x00B 0x82C = chardPick s.rng.table h ∧ t.rng = s.rng ∧
      t.jobs = s.jobs ∧ t.marrow = s.marrow) := by
  have hframe := probeStored_frame s ctrl.toNat
  have hrng : (probeStored s ctrl.toNat).rng = s.rng := congrArg (·.rng) hframe
  refine ⟨_, exec_rngProbe ho ctrl, ?_⟩
  rw [if_neg (by simp [htab]), if_neg (by simp [hbad])]
  obtain ⟨hlow, hhigh, hpick, hrng', hjobs, hmarrow⟩ := probeAnswered_answers (probeStored_inv hinv ctrl.toNat)
    (chardHash (probeKey s (bits ctrl.toNat 1 0)) (rg64 s 0x00B 0x81C))
  exact ⟨hlow, hhigh, hrng ▸ hpick, hrng'.trans hrng, hjobs.trans (congrArg (·.jobs) hframe),
    hmarrow.trans (congrArg (·.marrow) hframe)⟩

/-- Settles O56: a write of a legal configuration stores it, a freeze ends in one way, a driven pair is an event of the collector,
and the probe answers once its table and its mode are checked. -/
theorem faultPageAndProbe : Obligations.FaultPageAndProbe := by
  unfold Obligations.FaultPageAndProbe
  intro s hinv ho
  refine ⟨fun src w hsrc => ⟨fun hlegal htrap => fltCfgWrite_stores hinv ho hsrc hlegal htrap,
      fun hillegal => fltCfgWrite_refused hinv ho hsrc hillegal⟩,
    freeze_begins hinv ho, freeze_ends hinv ho, freezeTimeout_ends hinv, factory_begins ho, fun hf hship =>
      ⟨fun p line word mask hline hwf => tstInj_flips ho hf hship hinv p hline word hwf,
        fun src i k c hsrc hc hk hq hw hh => tstInj_drives ho hf hship hsrc hc hk hq hw hh⟩,
    fun htab hindexLo hindexHi hk4 hop hrsv4 hrsvOp => ?_, rngProbe_refused hinv ho, fun htab hrsv4 hrsvOp => ?_⟩
  · exact rngProbe_answered hinv ho htab 2 (by simp [probeBad, bits, hindexLo, hindexHi, hk4, hop, hrsv4, hrsvOp])
  · exact rngProbe_answered hinv ho htab 1 (by simp [probeBad, bits, hrsv4, hrsvOp])

end Sys2Proof.Machine
end

section
/-! Buffer-pool answers, waits and timeouts (spec/11 R286, R287, spec/18 R429). -/

namespace Sys2Proof.Machine

variable {s : State} {c : Nat} {u : PoolUser} {rest : List (Nat × PoolUser)}

/-! ## Rejected addresses -/

/-- A page-error bit whose reset value is 0 reads 1 once it is set, whatever the table of words held. -/
theorem bitN_pageErr_of_reset (s : State) {p i : Nat} (hi : i < 32) (hreset : (resetWord p 0x014).getLsbD i = false) :
    bitN (rg (pageErr s p i) p 0x014) i = true := by
  have hbit : (BitVec.ofNat 32 (rg s p 0x014 ||| 2 ^ i)).getLsbD i = true := by
    rw [BitVec.getLsbD_ofNat, Nat.testBit_or, Nat.testBit_two_pow_self]
    simp [hi]
  have hset : BitVec.ofNat 32 (rg s p 0x014 ||| 2 ^ i) ≠ resetWord p 0x014 := fun h => by
    rw [h, hreset] at hbit
    cases hbit
  have hread : rgw (pageErr s p i) p 0x014 = BitVec.ofNat 32 (rg s p 0x014 ||| 2 ^ i) := by
    simp only [rgw, pageErr, wrg, sset, if_neg hset, sgetD_sput_self]
  rw [rg, hread]
  exact hbit

/-- The event of the pool port that starts no block reset (R287, R429). -/
theorem alertFrame_poolEvent (hb : s.blk.st ≠ .cold) (hr : noReset s 12) (c : Nat) :
    alertFrame (raise s 12 127 c) = alertFrame (withActive s 12) :=
  alertFrame_raise (hears_block hb 12) (by decide) (by decide) (by decide) (by decide) (.inl hr) c 127

theorem poolEvent_active (hb : s.blk.st ≠ .cold) (c : Nat) : (raise s 12 127 c).flt.active.getLsbD 12 = true :=
  raiseAs_active (s := draw s) (hears_block hb 12) (by decide) ..

/-- The state of a rejected address before its event: the count of the class, the page error and the Intake counter. -/
def rejectNoted (s : State) (c : Nat) : State :=
  bump (pageErr (modMem s fun m => { m with poolRejected := supd m.poolRejected c 0 fun n => min 65535 (n + 1) }) 3 1) 3 6

/-- A rejected address is marked on the Intake page, is an event of its source, and leaves every request as it was (R287). -/
theorem rejectPool_leaves (hb : s.blk.st ≠ .cold) (hr : noReset s 12) (c : Nat) : let t := rejectPool s c
    t.mem.poolAsk = s.mem.poolAsk ∧ t.mem.poolLate = s.mem.poolLate ∧ t.mem.poolHeld = s.mem.poolHeld ∧
    bitN (rg t 3 0x014) 1 = true ∧ t.flt.active.getLsbD 12 = true ∧ t.sqs = s.sqs := by
  intro t
  obtain ⟨live, hnoted⟩ : ∃ live, rejectNoted s c = _ := bump_live _ 3 6 1
  have hb' : (rejectNoted s c).blk.st ≠ .cold := hnoted ▸ hb
  have hr' : noReset (rejectNoted s c) 12 := by
    rw [hnoted]
    exact ⟨(congrArg (bitN · 18) (rg_wrg_ne (by decide))).trans hr.1, (congrArg (bitN · 26) (rg_wrg_ne (by decide))).trans hr.2⟩
  have hframe : alertFrame t = alertFrame (withActive (rejectNoted s c) 12) := alertFrame_poolEvent hb' hr' c
  have hwords := congrArg (·.regs.words) hframe
  have herr : rg t 3 0x014 = rg (pageErr s 3 1) 3 0x014 := by
    rw [rg, rgw_of_words (s := withActive (rejectNoted s c) 12) hwords (by decide) (by decide), hnoted]
    rfl
  rw [hnoted] at hframe
  refine ⟨congrArg (·.mem.poolAsk) hframe, congrArg (·.mem.poolLate) hframe, congrArg (·.mem.poolHeld) hframe, ?_,
    poolEvent_active hb' c, congrArg (·.sqs) hframe⟩
  rw [herr]
  exact bitN_pageErr_of_reset s (by decide) (by decide)

/-! ## Answers to the oldest request -/

/-- Class `c` with the buffer at `a` among those it has out. -/
def withHeld (s : State) (c a : Nat) : State := modMem s fun m => { m with poolHeld := supd m.poolHeld c [] fun l => l ++ [a] }

theorem mem_poolHeld_withHeld (s : State) (c a : Nat) : a ∈ sgetD (withHeld s c a).mem.poolHeld c [] := by
  simp [withHeld]

theorem grantPool_batch {n a : Nat} {b : Batch} (hb : (sqAt s n).asm.closed.find? (fun b => b.phase = .asked) = some b) :
    grantPool s c a (.batch n) = modBatch (withHeld s c a) n b.number fun x => { x with phase := .haveBuf, buf := a } := by
  have hb' : (sqAt (withHeld s c a) n).asm.closed.find? (fun b => b.phase = .asked) = some b := hb
  rw [withHeld] at hb'
  simp only [grantPool, hb', withHeld]

section
variable (hask : s.mem.poolAsk = (c, u) :: rest) (hlate : s.mem.poolLate = [])
include hask hlate

/-- `EMPTY`: the request waits (R286). -/
theorem poolResponse_empty : Becomes (.poolResponse .empty) s (fun t =>
    t.mem.poolAsk = rest ∧ t.mem.poolWait = s.mem.poolWait ++ [(c, u)] ∧ t.flt = s.flt ∧ t.sqs = s.sqs ∧ t.jobs = s.jobs) := by
  refine ⟨_, rfl, ?_⟩
  simp only [doPoolResponse, hlate, hask]
  obtain ⟨live, hb⟩ := bump_live (modMem (modMem s fun m => { m with poolAsk := rest })
    fun m => { m with poolWait := m.poolWait ++ [(c, u)] }) 3 7 1
  rw [hb]
  exact ⟨rfl, rfl, rfl, rfl, rfl⟩

variable {a : DWord}

theorem doPoolResponse_accepted (h : poolAccepts s c a.toNat = true) :
    doPoolResponse s (.addr a) = grantPool (modMem s fun m => { m with poolAsk := rest }) c a.toNat u := by
  simp only [doPoolResponse, hlate, hask]
  exact if_pos h

/-- An accepted address for a batch goes to the first closed one that asked (R206, R286). -/
theorem poolResponse_batch (h : poolAccepts s c a.toNat = true) {n : Nat} {b : Batch} (hu : u = .batch n)
    (hb : (sqAt s n).asm.closed.find? (fun b => b.phase = .asked) = some b) : Becomes (.poolResponse (.addr a)) s (fun t =>
      (t.mem.poolAsk = rest ∧ a.toNat ∈ sgetD t.mem.poolHeld c [] ∧ t.flt = s.flt ∧ t.jobs = s.jobs) ∧
      ∃ x ∈ (sqAt t n).asm.closed, x.number = b.number ∧ x.phase = .haveBuf ∧ x.buf = a.toNat) := by
  have hgrant : doPoolResponse s (.addr a) = _ := doPoolResponse_accepted hask hlate h
  rw [hu, grantPool_batch (s := modMem s _) hb] at hgrant
  refine ⟨_, congrArg Host.Outcome.next hgrant, ⟨rfl, mem_poolHeld_withHeld .., rfl, rfl⟩,
    { b with phase := .haveBuf, buf := a.toNat }, ?_, rfl, rfl, rfl⟩
  rw [modBatch, sqAt, modSq_sqs, sgetD_supd_self]
  exact List.mem_map.2 ⟨b, List.mem_of_find?_eq_some hb, if_pos rfl⟩

/-- An accepted address for a picture or a motion reference is kept for its asker (R286). -/
theorem poolResponse_picture (h : poolAccepts s c a.toNat = true) {k : Nat} (hu : u = .picture k ∨ u = .motion k) :
    Becomes (.poolResponse (.addr a)) s (fun t =>
      (t.mem.poolAsk = rest ∧ a.toNat ∈ sgetD t.mem.poolHeld c [] ∧ t.flt = s.flt ∧ t.jobs = s.jobs) ∧
      t.mem.poolGot = s.mem.poolGot ++ [(u, a.toNat)] ∧ t.sqs = s.sqs) := by
  have hgrant : doPoolResponse s (.addr a) = modMem (withHeld (modMem s fun m => { m with poolAsk := rest }) c a.toNat) fun m =>
      { m with poolGot := m.poolGot ++ [(u, a.toNat)] } := by
    rw [doPoolResponse_accepted hask hlate h]
    rcases hu with rfl | rfl <;> rfl
  exact ⟨_, congrArg Host.Outcome.next hgrant, ⟨rfl, mem_poolHeld_withHeld (modMem s _) .., rfl, rfl⟩, rfl, rfl⟩

/-- After a rejected address the request is made again (R287). -/
theorem poolResponse_rejected (hb : s.blk.st ≠ .cold) (hr : noReset s 12) (h : poolAccepts s c a.toNat = false) :
    Becomes (.poolResponse (.addr a)) s (fun t =>
      t.mem.poolAsk = rest ++ [(c, u)] ∧ bitN (rg t 3 0x014) 1 = true ∧ t.flt.active.getLsbD 12 = true ∧ t.sqs = s.sqs) := by
  have hreject : doPoolResponse s (.addr a) = askPool (rejectPool (modMem s fun m => { m with poolAsk := rest }) c) c u := by
    simp only [doPoolResponse, hlate, hask]
    exact if_neg (Bool.eq_false_iff.1 h)
  obtain ⟨hrest, -, -, herr, hactive, hsqs⟩ := rejectPool_leaves (s := modMem s fun m => { m with poolAsk := rest }) hb hr c
  exact ⟨_, congrArg Host.Outcome.next hreject, congrArg (· ++ [(c, u)]) hrest, herr, hactive, hsqs⟩

end

/-! ## Late answers, timeouts and retries -/

section
variable {k : Nat} {cs : List Nat} (hlate : s.mem.poolLate = k :: cs)
include hlate

theorem poolResponse_lateEmpty :
    exec (.poolResponse .empty) s = .next { s with mem := { s.mem with poolLate := cs } } := by
  change Host.Outcome.next (doPoolResponse s .empty) = _
  simp only [doPoolResponse, hlate]
  rfl

/-- The address of a late answer is rejected, and no request takes it (R429). -/
theorem poolResponse_lateAddr (hb : s.blk.st ≠ .cold) (hr : noReset s 12) (a : DWord) :
    Becomes (.poolResponse (.addr a)) s (fun t => t.mem.poolLate = cs ∧ t.mem.poolAsk = s.mem.poolAsk ∧
      t.mem.poolHeld = s.mem.poolHeld ∧ bitN (rg t 3 0x014) 1 = true ∧ t.flt.active.getLsbD 12 = true ∧ t.sqs = s.sqs) := by
  have hreject : doPoolResponse s (.addr a) = rejectPool (modMem s fun m => { m with poolLate := cs }) k := by
    simp only [doPoolResponse, hlate]
  obtain ⟨hask, hrest, hheld, herr, hactive, hsqs⟩ :=
    rejectPool_leaves (s := modMem s fun m => { m with poolLate := cs }) hb hr k
  exact ⟨_, congrArg Host.Outcome.next hreject, hrest, hask, hheld, herr, hactive, hsqs⟩

end

/-- A request without an answer waits, and its answer stays owed (R429). -/
theorem poolTimeout_waits (hask : s.mem.poolAsk = (c, u) :: rest) (hb : s.blk.st ≠ .cold) (hr : noReset s 12) :
    Becomes .poolTimeout s (fun t =>
      t.mem.poolAsk = rest ∧ t.mem.poolWait = s.mem.poolWait ++ [(c, u)] ∧ t.mem.poolLate = s.mem.poolLate ++ [c] ∧
      t.flt.active.getLsbD 12 = true ∧ t.sqs = s.sqs) := by
  let v := modMem s fun m => { m with poolAsk := rest, poolWait := m.poolWait ++ [(c, u)], poolLate := m.poolLate ++ [c] }
  have htimeout : doPoolTimeout s = raise (bump v 3 7) 12 127 c := by
    simp only [doPoolTimeout, hask]
    rfl
  obtain ⟨live, hv⟩ := bump_live v 3 7 1
  rw [hv] at htimeout
  have hframe := alertFrame_poolEvent (s := { v with regs := { v.regs with live := live } }) hb hr c
  have hactive := poolEvent_active (s := { v with regs := { v.regs with live := live } }) hb c
  exact ⟨_, congrArg Host.Outcome.next htimeout, congrArg (·.mem.poolAsk) hframe, congrArg (·.mem.poolWait) hframe,
    congrArg (·.mem.poolLate) hframe, hactive, congrArg (·.sqs) hframe⟩

/-- Requests that are made in turn stand behind those that were there. -/
theorem foldl_askPool (w : List (Nat × PoolUser)) (s : State) :
    w.foldl (fun s e => askPool s e.1 e.2) s = modMem s fun m => { m with poolAsk := m.poolAsk ++ w } := by
  induction w generalizing s with
  | nil => simp [modMem]
  | cons e w ih =>
    rw [List.foldl_cons, ih]
    simp [askPool, modMem]

theorem poolRetryTimer_asks (s : State) (k : BitVec 6) : Becomes (.poolRetryTimer k) s (fun t =>
    t.mem.poolAsk = s.mem.poolAsk ++ s.mem.poolWait.filter (fun e => e.1 = k.toNat) ∧
    t.mem.poolWait = s.mem.poolWait.filter (fun e => e.1 ≠ k.toNat) ∧ t.mem.poolHeld = s.mem.poolHeld ∧ t.sqs = s.sqs ∧
    t.jobs = s.jobs ∧ t.regs = s.regs) :=
  ⟨_, congrArg Host.Outcome.next (foldl_askPool ..), rfl, rfl, rfl, rfl, rfl, rfl⟩

/-- Settles O45: an answer is for the oldest request unless a late one is owed, and a rejected or missing one is an event of the
pool port (R286, R287, R429). -/
theorem poolAnswers : Obligations.PoolAnswers := by
  unfold Obligations.PoolAnswers
  intro s c u rest hask hb hr
  exact ⟨fun hlate => ⟨poolResponse_empty hask hlate, fun a h =>
      ⟨fun n b hu hbatch => poolResponse_batch hask hlate h hu hbatch, fun k hu => poolResponse_picture hask hlate h hu⟩,
      fun a h => poolResponse_rejected hask hlate hb hr h⟩,
    fun k cs hlate => ⟨poolResponse_lateEmpty hlate, poolResponse_lateAddr hlate hb hr⟩,
    poolTimeout_waits hask hb hr, poolRetryTimer_asks s⟩

end Sys2Proof.Machine
end

section
/-! Late replicas and multicast deadlines (spec/11 R281, spec/14 R361). -/

namespace Sys2Proof.Machine

variable {s : State}

theorem Inv.canon_live (h : Inv s) : canon s.regs.live 0 = true := ((RegFile.wf_iff _).1 h.regs).2.2.1

/-- A counter counts modulo 2^64 (R451). -/
theorem sgetD_live_bump (h : Inv s) (p k : Nat) {n : Nat} (hn : n ≠ 0) :
    sgetD (bump s p k n).regs.live (wa p (0x200 + 8 * k)) 0 = (sgetD s.regs.live (wa p (0x200 + 8 * k)) 0 + n) % 2 ^ 64 := by
  rw [bump, if_neg hn]
  exact sgetD_sset_self _ _ _ _ ((canon_iff _ _).1 h.canon_live).1

theorem groupAt_modGroup_self (s : State) (g : Nat) (f : Group → Group) : groupAt (modGroup s g f) g = f (groupAt s g) :=
  sgetD_supd_self ..

theorem groupAt_modGroup_ne {g h : Nat} (hne : h ≠ g) (f : Group → Group) : groupAt (modGroup s g f) h = groupAt s h :=
  sgetD_supd_ne _ _ _ _ hne

/-- A comparison that has waited for `LATE_MS` is marked, once, and is an event of its source (R361). -/
theorem replicaLateTimer_marks {g : BitVec 5} (hw : working s = true) (hms : rgf s 0 (0x700 + 8 * g.toNat) 15 8 ≠ 0)
    (hpending : (groupAt s g.toNat).pending ≠ []) (hlate : (groupAt s g.toNat).late = false) :
    Becomes (.replicaLateTimer g) s (fun t =>
      groupAt t g.toNat = { groupAt s g.toNat with late := true } ∧ t.flt.active.getLsbD 17 = true ∧
      (∀ h, h ≠ g.toNat → groupAt t h = groupAt s h) ∧ t.jobs = s.jobs ∧ t.marrow = s.marrow) := by
  let v := modGroup s g.toNat fun x => { x with late := true }
  have hmeaning : doReplicaLate s g.toNat = raise v 17 127 g.toNat := if_pos ⟨hms, hpending, hlate, hw⟩
  have hwarm : v.blk.st ≠ .cold := fun hcold => by
    have hst : s.blk.st = .cold := hcold
    simp [working, hst] at hw
  have hframe : resetFrame (raise v 17 127 g.toNat) = resetFrame v :=
    resetFrame_raise (by decide) (by decide) (by decide) (by decide) ..
  have hgroups (h : Nat) : groupAt (raise v 17 127 g.toNat) h = groupAt v h :=
    congrArg (sgetD · h Group.empty) (congrArg (·.itg.groups) hframe)
  exact ⟨_, congrArg Host.Outcome.next hmeaning, (hgroups _).trans (groupAt_modGroup_self ..),
    raiseAs_active (s := draw v) (hears_block hwarm 17) (by decide) ..,
    fun h hne => (hgroups h).trans (groupAt_modGroup_ne hne _), congrArg (·.jobs) hframe, congrArg (·.marrow) hframe⟩

/-- After its deadline a multicast waits for no receiver, and counts those it drops (R281). -/
theorem multicastDeadline_drops (hinv : Inv s) {p : Fin 100} {i : Nat} {o : TileOp} (hop : opAt s i = some o)
    (hpod : o.pod = p.val) (hkind : o.kind = 9) (hcode : o.opcode = 4) (hwaits : o.awaiting ≠ 0) :
    Becomes (.multicastDeadline p i) s (fun t =>
      opAt t i = some { o with awaiting := 0 } ∧
      sgetD t.regs.live (wa 3 0x220) 0 = (if o.dropped = [] then sgetD s.regs.live (wa 3 0x220) 0
        else (sgetD s.regs.live (wa 3 0x220) 0 + o.dropped.length) % 2 ^ 64) ∧
      t.marrow = s.marrow ∧ t.jobs = s.jobs ∧ t.mem = s.mem ∧ t.pods = s.pods) := by
  let v := modOp s i fun o => { o with awaiting := 0 }
  have hmeaning : doDeadline s p.val i = bump v 3 4 o.dropped.length := by
    simp only [doDeadline, hop]
    exact if_pos ⟨hpod, hkind, hcode, hwaits⟩
  have hopv : opAt v i = some { o with awaiting := 0 } :=
    (opAt_modOp (f := fun o => { o with awaiting := 0 }) (fun _ => rfl) s i).trans (hop ▸ rfl)
  have hinvv : Inv v := ⟨hinv.regs, hinv.marrow, hinv.pwr, hinv.pods⟩
  refine ⟨_, congrArg Host.Outcome.next hmeaning, ?_⟩
  by_cases hnone : o.dropped = []
  · rw [if_pos hnone, List.length_eq_zero_iff.2 hnone]
    exact ⟨hopv, rfl, rfl, rfl, rfl, rfl⟩
  · have hcount := sgetD_live_bump hinvv 3 4 (mt List.length_eq_zero_iff.1 hnone)
    obtain ⟨live, hb⟩ := bump_live v 3 4 o.dropped.length
    rw [if_neg hnone]
    rw [hb] at hcount ⊢
    exact ⟨hopv, hcount, rfl, rfl, rfl, rfl⟩

/-- Settles O41: a late comparison is one mark and one event, and a deadline ends the wait of its operation (R281, R361). -/
theorem lateTimers : Obligations.LateTimers := by
  unfold Obligations.LateTimers
  exact fun s hinv => ⟨fun g => replicaLateTimer_marks, fun p i o => multicastDeadline_drops hinv⟩

end Sys2Proof.Machine
end

section
/-! Patrol scrubbing (spec/11 R263, R266). No invariant bounds the scrubber's pointer, and a pointer past the end of its slice names
a line of the next Pod. -/

namespace Sys2Proof.Machine

/-- Pod 0 is bound to job 0, and its scrubber stands at the first line of Pod 1, which is being saved for the same job; that line
holds a byte and one bit in error, and one corrected word makes a Pod severe (R370). -/
def strayScrub : State := { runningBlock with
  pods := { Pod.reset with st := .bound, bindValid := true, gated := false, scrub := 98304 } ::
    { Pod.reset with st := .saving, bindValid := true, gated := false } :: List.replicate 98 Pod.reset
  jobs := [(0, { Job.empty with st := .bound, members := [0, 1] })]
  marrow := { runningBlock.marrow with bytes := [(6291456, 1)], ecc := [(786432, 1)] }
  regs := { runningBlock.regs with words := [(wa 1 0x408, 1)] } }

theorem strayScrub_inv : Inv strayScrub := ⟨by decide, by decide, rfl, rfl⟩

/-- The corrected word makes Pod 0 suspect, which ends its job and zeroises Pod 1, the byte of the line with it (R34, R347). -/
theorem strayScrub_loses : (leaves (.scrubLine 0) strayScrub).map (·.marrow.byte 6291456) = some 0 := by decide +kernel

/-- Refutes O40: a scrubber that stands past its slice checks a line of another Pod, and a correction that makes its own Pod suspect
may end a job of both: the bytes of the line are then zeroised, while the statement keeps them. -/
theorem not_scrubCorrects : ¬ Obligations.ScrubCorrects := by
  unfold Obligations.ScrubCorrects
  intro h
  obtain ⟨t, ht, -, -, hbytes, -⟩ := h strayScrub 0 strayScrub_inv (by decide) (by decide) (by decide)
  have hkept : t.marrow.byte 6291456 = 1 := hbytes 6291456 (by decide)
  have hlost := strayScrub_loses
  rw [leaves_next ht, Option.map_some, hkept] at hlost
  exact absurd hlost (by decide)

end Sys2Proof.Machine
end

section
/-! Verdicts on `FURLONG` operations (spec/14 R360, R361). No invariant ties a member's mark that its part of a digest is done to its
operations in flight. -/

namespace Sys2Proof.Machine

/-- The first `FURLONG` operation of job 0 on member 0. -/
def furlongDone : TileOp :=
  { candOp runningBlock ⟨0, 0, 0, 0, furlongRank, 0, 0, true, [], []⟩ true with kind := 8, opcode := 1 }

/-- Job 0 digests on two members: the operation of member 0 waits for its verdict, and member 1 is marked as done with its part while
an operation of it is in flight. -/
def earlyMark : State := { runningBlock with
  jobs := [(0, { Job.empty with
    st := .bound, members := [0, 1], nodes := [(1024, { NodeSt.empty with done := true })]
    route := { emptyRoute with nodes := [⟨8, 1, 0, 0, 0, 0, 0, 0, 0, 0, 0xFFFF, 0, 1, 0, 0⟩], nodeCount := 1, params := [255] } })]
  ops := [furlongDone, { furlongDone with id := 1, pod := 1, member := 1 }] }

theorem earlyMark_inv : Inv earlyMark := ⟨rfl, rfl, rfl, rfl⟩

theorem earlyMark_meets : opAt earlyMark 0 = some furlongDone ∧ opHeld earlyMark furlongDone = false ∧
    opAlive earlyMark furlongDone = true ∧ postsNext earlyMark furlongDone = false := by decide +kernel

/-- Each member reads as done, so the digest is posted. -/
theorem earlyMark_posts : (leaves (.verdict 0 0 .pass) earlyMark).map (·.itg.lastDig) = some [(0, 0)] := by decide +kernel

/-- Refutes O39: with an operation of another member in flight the digest is not to be posted next, but a passed verdict posts it when
that member is already marked as done. -/
theorem not_verdicts : ¬ Obligations.Verdicts := by
  unfold Obligations.Verdicts
  intro h
  obtain ⟨hop, hheld, halive, hnext⟩ := earlyMark_meets
  obtain ⟨-, hdigests, -⟩ := h earlyMark 0 0 furlongDone earlyMark_inv hop rfl hheld
  obtain ⟨hkept, -⟩ := hdigests (by decide) rfl ⟨rfl, rfl⟩ halive rfl
  obtain ⟨t, ht, -, -, hlast, -⟩ := hkept hnext
  have hposted := earlyMark_posts
  rw [leaves_next ht, Option.map_some, hlast] at hposted
  exact absurd hposted (by decide)

end Sys2Proof.Machine
end

section
/-! Events only add to the active sources: what reads and writes of Marrow, transfers and answers of the memory ports leave of
`FLT_ACTIVE` (spec/15 R370, spec/11 R263, R271, R283). -/

namespace Sys2Proof.Machine

variable {s t u : State} {r : MemReq}

/-- Every source that is active in `s` is active in `t`. -/
structure Alerted (s t : State) : Prop where
  stays : ∀ k, s.flt.active.getLsbD k = true → t.flt.active.getLsbD k = true

theorem Alerted.of_flt (h : t.flt = s.flt) : Alerted s t := ⟨fun k hk => by rwa [h]⟩

theorem Alerted.refl (s : State) : Alerted s s := .of_flt rfl

theorem Alerted.trans (h : Alerted s t) (h' : Alerted t u) : Alerted s u := ⟨fun k hk => h'.stays k (h.stays k hk)⟩

theorem Alerted.foldl {α : Type} {f : State → α → State} (hf : ∀ s a, Alerted s (f s a)) (l : List α) (s : State) :
    Alerted s (l.foldl f s) :=
  List.foldlRecOn l f (.refl s) fun t ht a _ => ht.trans (hf t a)

/-! ## Events -/

theorem alerted_raiseAs (s : State) (src i : Nat) (info : Word) (ctx : EventCtx) (pod : Nat) (wire : Bool) (unit : Nat) :
    Alerted s (raiseAs s src i info ctx pod wire unit) := by
  cases hh : hears s src i with
  | false => exact .of_flt (congrArg (·.flt) (raiseAs_of_deaf hh info ctx pod wire unit))
  | true =>
    obtain ⟨x, -, h⟩ := marks_raiseAs hh info ctx pod wire unit
    have hactive : (raiseAs s src i info ctx pod wire unit).flt.active = _ := congrArg (·.1) h
    exact ⟨fun k hk => by rw [hactive, BitVec.getLsbD_or, hk, Bool.true_or]⟩

theorem alerted_raise (s : State) (src i info pod : Nat) : Alerted s (raise s src i info pod) :=
  Alerted.trans (t := draw s) (.of_flt rfl) (alerted_raiseAs ..)

theorem alerted_raiseFor (s : State) (src p info : Nat) (o : Option TileOp) : Alerted s (raiseFor s src p info o) := by
  cases o with
  | none => exact alerted_raise ..
  | some o => exact Alerted.trans (t := draw s) (.of_flt rfl) (alerted_raiseAs ..)

/-! ## Marrow -/

theorem alerted_checkWord (o : Option TileOp) (p n : Nat) (s : State) (w : Nat) : Alerted s (checkWord o p n s w) := by
  unfold checkWord
  split
  · extract_lets u
    exact Alerted.trans (t := bump u (podPage p) 4) (.of_flt (bump_flt ..)) (alerted_raiseFor ..)
  · exact .refl s

theorem alerted_checkLine (s : State) (p n : Nat) (o : Option TileOp) : Alerted s (checkLine s p n o) := by
  have hwords : Alerted s ((List.range 8).foldl (checkWord o p n) s) := .foldl (alerted_checkWord o p n) _ s
  unfold checkLine
  extract_lets u v
  have hu : Alerted s u := hwords
  clear_value u
  split
  · exact hu
  · have hv : v.flt = u.flt := by
      unfold v
      split
      · rfl
      · exact bump_flt ..
    exact hu.trans (.trans (.of_flt hv) (alerted_raiseFor ..))

theorem Rd.line_st (r : Rd) (o : Option TileOp) (p n : Nat) : (r.line o p n).st = checkLine r.st p n o := by
  simp only [Rd.line]

theorem alerted_readBytes (r : Rd) (o : Option TileOp) (p a n : Nat) : Alerted r.st (r.bytes o p a n).1.st := by
  have hlines : Alerted r.st ((linesOf a n).foldl (fun x l => x.line o p l) r).st :=
    List.foldlRecOn (motive := fun x : Rd => Alerted r.st x.st) (linesOf a n) (fun x l => x.line o p l) (.refl r.st)
      fun x hx l _ => by
        rw [Rd.line_st]
        exact hx.trans (alerted_checkLine x.st p l o)
  exact hlines

theorem alerted_writeAll (s : State) (ws : List WByte) (pois : List Nat) (o : Option TileOp) : Alerted s (writeAll s ws pois o) := by
  refine .foldl (fun u l => ?_) _ s
  rw [writeLine_eq]
  extract_lets v
  have hv : Alerted u v := by
    unfold v
    split
    · exact .refl u
    · exact alerted_checkLine ..
  exact hv.trans (.of_flt rfl)

/-! ## Transfers -/

theorem alerted_postFault (s : State) (x : Xfer) : Alerted s (postFault s x) := by
  unfold postFault
  extract_lets told paused
  have htold : Alerted s told := (alerted_raise ..).trans (.of_flt (bump_flt ..))
  refine htold.trans (.of_flt ?_)
  split
  · rfl
  · split
    · rw [addDue_eq]
      rfl
    · rfl

theorem alerted_settleXfer (s : State) (n : Nat) : Alerted s (settleXfer s n) := by
  unfold settleXfer
  split
  · split
    · exact alerted_postFault ..
    · exact .refl s
  · exact .refl s

theorem holdReq_flt (s : State) (r : MemReq) : (holdReq s r).flt = s.flt := flt_of_portFrame (portFrame_holdReq s r)

theorem sendReq_flt (s : State) (r : MemReq) : (sendReq s r).flt = s.flt := flt_of_portFrame (portFrame_sendReq r)

/-- The data of an operation goes into Marrow (R278). -/
theorem alerted_deliver (s : State) (o : TileOp) : Alerted s (deliver s o) := by
  unfold deliver
  split
  · exact .refl s
  · extract_lets c w v ls
    split
    · have hforgot : (forgetSent (setProv v ls true) ls).flt = (setProv v ls true).flt :=
        congrArg (·.flt) (slotStep_forgetSent (setProv v ls true) ls).frame
      exact (alerted_writeAll s w.1 w.2 (some o)).trans (.of_flt hforgot)
    · exact .refl s

theorem alerted_saveBytes (s : State) (j m t : Nat) : Alerted s (saveBytes s j m t).1 := by
  unfold saveBytes
  extract_lets p k
  split
  · exact .refl s
  · split
    · exact .refl s
    · exact alerted_readBytes (Rd.start s) ..

theorem alerted_sendSave (s : State) (j m t : Nat) : Alerted s (sendSave s j m t) :=
  (alerted_saveBytes s j m t).trans (.of_flt (foldl_keeps (·.flt) (fun _ _ _ => sendReq_flt ..) _))

theorem alerted_granDone (s : State) (j m t : Nat) (save : Bool) : Alerted s (granDone s j m t save) := by
  unfold granDone
  extract_lets b n next last
  generalize granOpen s _ = waits
  split
  · exact .refl s
  · split
    · exact .refl s
    · split
      · split
        · exact Alerted.trans (t := next) (.of_flt rfl) (alerted_sendSave ..)
        · exact .of_flt (foldl_keeps (·.flt) (fun _ _ _ => sendReq_flt ..) next)
      · split
        · exact .of_flt (memWrite_flt ..)
        · exact .of_flt rfl

theorem alerted_setAccPois (h : Alerted s t) (b : Prop) [Decidable b] (p n : Nat) :
    Alerted s (if b then setAccPois t p n true else t) := by
  split
  · exact h.trans (.of_flt rfl)
  · exact h

theorem setAcc_flt (s : State) (p t i : Nat) (w : Word) : (setAcc s p t i w).flt = s.flt := rfl

/-- Accumulator elements that a restore places raise nothing. -/
theorem restoreAcc_flt (s : State) (p k ofs : Nat) (bs : List Byte) : ((List.range 64).foldl (fun s i =>
    setAcc s p (k / 4) (k % 4 * 1024 + ofs / 4 + i) (BitVec.ofNat 32 (fieldLe bs (4 * i) 4))) s).flt = s.flt :=
  foldl_keeps (·.flt) (fun _ _ _ => setAcc_flt ..) s

theorem alerted_placeRestore (s : State) (j m t ofs : Nat) (bs : List Byte) (pois : Nat) :
    Alerted s (placeRestore s j m t ofs bs pois) := by
  unfold placeRestore
  extract_lets p k filled a
  split
  · have hfilled : Alerted s filled := .of_flt (restoreAcc_flt s p k ofs bs)
    clear_value filled
    exact alerted_setAccPois hfilled (pois ≠ 0) p (k / 4)
  · split
    · split
      · refine .of_flt (foldl_keeps (·.flt) (fun u i _ => ?_) s)
        split <;> rfl
      · exact .refl s
    · split
      · exact .refl s
      · exact alerted_writeAll ..

/-! ## Ends of entries and of buffer transfers -/

theorem endStreams_flt (s : State) (j : Nat) : (endStreams s j).flt = s.flt :=
  foldl_keeps (·.flt) (fun _ _ _ => finish_flt ..) s

theorem entryEnds_flt (s : State) (e : Entry) : (entryEnds s e).flt = s.flt := by
  unfold entryEnds
  extract_lets packed bad ended
  split
  · exact endStreams_flt ..
  · split
    · exact (endStreams_flt ..).trans (finish_flt ..)
    · rfl

theorem arrivals_flt (s : State) (j : Nat) : (arrivals s j).flt = s.flt := congrArg (·.flt) (workFrame_arrivals s j)

theorem picturesEnd_flt (s : State) (j r : Nat) : (picturesEnd s j r).flt = s.flt := by
  unfold picturesEnd
  split
  · rfl
  · refine foldl_keeps (·.flt) (fun u d _ => ?_) s
    unfold pictureDone
    extract_lets counted pic cached
    have hcounted : counted.flt = u.flt := by
      refine (bump_flt ..).trans ?_
      split
      · exact bump_flt ..
      · rfl
    refine Eq.trans ?_ hcounted
    change cached.flt = counted.flt
    unfold cached
    split
    · split <;> rfl
    · rfl

theorem fetched_flt (s : State) (b : BufMove) (i : Nat) : (fetched s b i).flt = s.flt := by
  unfold fetched
  split
  · rfl
  · extract_lets bad noted marked
    have hnoted : noted.flt = s.flt := by
      unfold noted
      split <;> rfl
    split
    · exact hnoted
    · split
      · exact (failJob_flt ..).trans ((bump_flt ..).trans hnoted)
      · exact hnoted

theorem batchWritten_flt (s : State) (n : Nat) : (batchWritten s n).flt = s.flt := by
  unfold batchWritten
  split
  · split <;> rfl
  · rfl

theorem moveEnd_flt (s : State) (b : BufMove) : (moveEnd s b).flt = s.flt := by
  unfold moveEnd
  extract_lets freed pictured
  split
  · exact fetched_flt ..
  · exact batchWritten_flt ..
  · have hpictured : pictured.flt = s.flt := picturesEnd_flt ..
    split
    · exact (arrivals_flt ..).trans ((entryEnds_flt ..).trans hpictured)
    · exact hpictured

/-! ## Answers -/

theorem alerted_answerOp (h : r.worst = 2) (s : State) (x i : Nat) : Alerted s (answerOp s r x i) := by
  unfold answerOp
  split
  · exact .refl s
  · next o _ =>
    rw [if_neg (by simp [h])]
    split
    · exact .of_flt (failJob_flt ..)
    · extract_lets joined counted delivered
      have hjoined : joined.flt = s.flt := by
        unfold joined
        split <;> rfl
      have hdelivered : Alerted counted delivered := by
        unfold delivered
        split
        · split
          · exact alerted_deliver ..
          · exact .refl _
        · exact .refl _
      exact Alerted.trans (t := counted) (.of_flt hjoined) (hdelivered.trans (alerted_settleXfer ..))

theorem alerted_answerNibble (h : r.worst = 2) (s : State) (i : Nat) : Alerted s (answerNibble s r i) := by
  unfold answerNibble
  split
  · exact .refl s
  · extract_lets x
    rw [if_neg (by simp [h])]
    split
    · exact alerted_settleXfer ..
    · exact .of_flt (holdReq_flt ..)

theorem alerted_answerGran (h : r.worst = 2) (s : State) (j m t : Nat) (save : Bool) : Alerted s (answerGran s r j m t save) := by
  unfold answerGran
  extract_lets b n base placed
  generalize (if save then JobState.saving else .restoring) = x
  split
  · exact .refl s
  · rw [if_neg (by simp [h])]
    split
    · exact .of_flt (failJob_flt ..)
    · have hplaced : Alerted s placed := by
        unfold placed
        split
        · exact .refl s
        · exact alerted_placeRestore ..
      exact hplaced.trans ((alerted_granDone ..).trans (alerted_settleXfer ..))

theorem alerted_answerDump (h : r.worst = 2) (s : State) (k : Nat) : Alerted s (answerDump s r k) := by
  unfold answerDump
  split
  · exact .refl s
  · rw [if_neg (by simp [h])]
    split
    · exact .refl s
    · split
      · exact .of_flt (foldl_keeps (·.flt) (fun _ _ _ => memWrite_flt ..) _)
      · exact .of_flt rfl

theorem alerted_answerBuffer (h : r.worst = 2) (s : State) (i t : Nat) : Alerted s (answerBuffer s r i t) := by
  unfold answerBuffer
  split
  · exact .refl s
  · extract_lets n joined mine
    split
    · exact alerted_settleXfer ..
    · rw [if_neg (by simp [h])]
      split
      · exact .of_flt (failJob_flt ..)
      · have hjoined : joined.flt = s.flt := by
          unfold joined
          split <;> rfl
        refine Alerted.trans (t := joined) (.of_flt hjoined) ?_
        split
        · exact .refl _
        · split
          · exact alerted_settleXfer ..
          · split
            · exact .refl _
            · split
              · exact .of_flt rfl
              · exact .of_flt (moveEnd_flt ..)

/-- What a request answered `ERROR` does clears no active source (Table 11-2). -/
theorem alerted_answerFor (h : r.worst = 2) (s : State) (pu : Purpose) : Alerted s (answerFor s r pu) := by
  have h3 : r.worst ≠ 3 := by omega
  have hnot : notPerformed r = true := by simp [notPerformed, h]
  cases pu with
  | transfer x k i ofs => exact alerted_answerOp h s x i
  | nibble i => exact alerted_answerNibble h s i
  | saveGran j m t => exact alerted_answerGran h s j m t true
  | restoreGran j m t => exact alerted_answerGran h s j m t false
  | commit j f =>
    simp only [answerFor, answerCommit, if_neg h3, if_pos hnot]
    split
    · exact .refl s
    · exact .of_flt (failJob_flt ..)
  | completion c sq slot x => exact .of_flt (by simp [answerFor, answerCompletion, h3, hnot])
  | message w => exact .of_flt (by simp [answerFor, h3])
  | buffer i t => exact alerted_answerBuffer h s i t
  | directory n => exact .of_flt (by simp [answerFor, answerDirectory, h3, hnot])
  | context k j e => exact .of_flt (by simp [answerFor, h3, hnot])
  | param k x q => exact .of_flt (by simp [answerFor, answerParam, h3])
  | log => exact .of_flt (by simp only [answerFor, h]; rfl)
  | telemetry => exact .refl s
  | dump u =>
    simp only [answerFor, h3, false_and, if_false]
    exact alerted_answerDump h s u
  | aperture k y x l =>
    simp only [answerFor, answerAperture, if_neg h3, if_pos hnot]
    split
    · exact .refl s
    · exact .of_flt (failJob_flt ..)
  | firmware => exact .refl s

end Sys2Proof.Machine
end

section
/-! Memory timeouts and merge holds that end (spec/11 R271, R272, R275, Table 11-2). -/

namespace Sys2Proof.Machine

variable {s t u : State} {r : MemReq}

/-! ## A request without an answer -/

/-- A request that counts as answered `ERROR`, with values for the bytes that never came (R272). -/
def timedOut (s : State) (r : MemReq) : MemReq :=
  let fill := (List.range (r.lines - r.beats)).flatMap fun i => leBytes 64 (Config.unstated 2 [s.free, i])
  { r with worst := 2, got := if r.write then [] else r.got ++ fill }

/-- The state in which a timed-out request is served: its source is told, and it is off its port. -/
def timeoutMet (s : State) (r : MemReq) : State :=
  poisonCounted (requestGone (memRaise (draw s) 10 r) (timedOut s r)) (timedOut s r)

theorem exec_memTimeout {port : BitVec 4} {tag : BitVec 10} (hr : reqAt s port.toNat tag.toNat = some r) (ha : r.also = []) :
    exec (.memTimeout port tag) s =
      .next (goneOn (answerFor (timeoutMet s r) (timedOut s r) (timedOut s r).purpose) (timedOut s r)) := by
  have hmeaning : doMemTimeout s port.toNat tag.toNat = answered (memRaise (draw s) 10 r) (timedOut s r) true := by
    simp only [doMemTimeout, hr]
    rfl
  have halso : (timedOut s r).also = [] := ha
  refine congrArg Host.Outcome.next (hmeaning.trans ?_)
  simp only [answered, halso, Bool.true_eq_false, false_and, if_false]
  rfl

theorem becomes_timeout {port : BitVec 4} {tag : BitVec 10} {P : State → Prop} (hr : reqAt s port.toNat tag.toNat = some r)
    (ha : r.also = []) (hP : P (goneOn (answerFor (timeoutMet s r) (timedOut s r) (timedOut s r).purpose) (timedOut s r))) :
    Becomes (.memTimeout port tag) s P := ⟨_, exec_memTimeout hr ha, hP⟩

theorem active_timeoutMet (hb : s.blk.st ≠ .cold) (r : MemReq) : (timeoutMet s r).flt.active.getLsbD 10 = true := by
  obtain ⟨live, hlive⟩ := poisonCounted_live (requestGone (memRaise (draw s) 10 r) (timedOut s r)) (timedOut s r)
  rw [timeoutMet, hlive]
  exact raiseAs_active (s := draw (draw s)) (hears_block hb 10) (by decide) ..

theorem alertFrame_timeoutMet (hb : s.blk.st ≠ .cold) (hno : noReset s 10) (r : MemReq) :
    alertFrame (timeoutMet s r) = alertFrame (withActive s 10) := by
  obtain ⟨live, hlive⟩ := poisonCounted_live (requestGone (memRaise (draw s) 10 r) (timedOut s r)) (timedOut s r)
  have hraise : alertFrame (memRaise (draw s) 10 r) = alertFrame (withActive (draw s) 10) :=
    alertFrame_raise (s := draw s) (hears_block hb 10) (by decide) (by decide) (by decide) (by decide) (.inl hno) ..
  rw [timeoutMet, hlive]
  exact Eq.trans (b := alertFrame (memRaise (draw s) 10 r)) rfl (hraise.trans rfl)

/-- The source of a timeout becomes active, whatever the request was for (R272). -/
theorem memTimeout_active {port : BitVec 4} {tag : BitVec 10} (hb : s.blk.st ≠ .cold)
    (hr : reqAt s port.toNat tag.toNat = some r) (ha : r.also = []) :
    Becomes (.memTimeout port tag) s (fun t => t.flt.active.getLsbD 10 = true) := by
  refine becomes_timeout hr ha ?_
  rw [active_goneOn]
  exact (alerted_answerFor (r := timedOut s r) rfl _ _).stays 10 (active_timeoutMet hb r)

/-- A write without an answer ends its job (R271, Table 11-2). -/
theorem memTimeout_endsJob {port : BitVec 4} {tag : BitVec 10} {j : Nat} (hb : s.blk.st ≠ .cold)
    (hr : reqAt s port.toNat tag.toNat = some r) (ha : r.also = []) (hends : endsJob s r = some j)
    (hst : (job s j).st = .bound ∨ (job s j).st = .draining ∨ (job s j).st = .saving) (hlive : s.blk.st ≠ .halted)
    (hno : noReset s 10) : Becomes (.memTimeout port tag) s (fun t =>
      t.flt.active.getLsbD 10 = true ∧ (job t j).st = .failed ∧ (job t j).reason = 0x4042) := by
  have hframe := alertFrame_timeoutMet hb hno r
  have hblk : (timeoutMet s r).blk.st ≠ .halted := by
    have hsame : (timeoutMet s r).blk.st = s.blk.st := congrArg (·.blk.st) hframe
    rwa [hsame]
  have hjob : job (timeoutMet s r) j = job s j := job_congr (congrArg (·.jobs) hframe) j
  have hends' : endsJob (timeoutMet s r) (timedOut s r) = some j := (endsJob_of_alert hframe (timedOut s r)).trans hends
  obtain ⟨cause, hfor⟩ := answerFor_endsJob hends' (.inr rfl) hblk
  obtain ⟨hfailed, hreason⟩ := job_failJob (s := timeoutMet s r) (by rw [hjob]; exact hst) hblk 0x4042 stAborted cause
  refine becomes_timeout hr ha ?_
  rw [hfor, active_goneOn, active_failJob, job_congr (jobs_goneOn ..) j]
  exact ⟨active_timeoutMet hb r, hfailed, hreason⟩

theorem mem_foldl_ninsList (l a : List Nat) (x : Nat) : x ∈ l.foldl nins a ↔ x ∈ a ∨ x ∈ l := mem_foldl_nset l a x

/-- Every line of a read that was answered `ERROR` is poisoned (R271). -/
theorem mem_answerPois_of_error (h : r.worst = 2) {l : Nat} (hl : l < r.lines) : r.addr / 64 + l ∈ answerPois r :=
  List.mem_filterMap.2 ⟨l, List.mem_range.2 hl, if_pos (by simp [h])⟩

/-- An error answer joins its operation as a readable one does, its lines poisoned (R271, R278). -/
theorem answerOp_error {i x : Nat} {o : TileOp} (hop : opAt s i = some o) (hw : r.write = false) (h2 : r.worst = 2)
    (hmore : 2 ≤ o.awaiting) (hclean : ∀ y, xferNum s x = some y → y.faulted = false) :
    answerOp s r x i = modOp (modOp s i (TileOp.gotRead r)) i TileOp.answered := by
  have hafter : opAt (modOp (modOp s i (TileOp.gotRead r)) i TileOp.answered) i = some (o.gotRead r).answered := by
    rw [opAt_modOp (f := TileOp.answered) fun _ => rfl, opAt_modOp (f := TileOp.gotRead r) fun _ => rfl, hop]
    rfl
  have hwaits : (o.gotRead r).answered.awaiting ≠ 0 := Nat.sub_ne_zero_of_lt hmore
  have heq : answerOp s r x i = settleXfer (deliverReady (modOp (modOp s i (TileOp.gotRead r)) i TileOp.answered) x i) x := by
    simp only [answerOp, hop]
    rw [if_neg (by simp [h2]), if_neg (by simp [hw]), hw]
    rfl
  rw [heq, deliverReady_of_waiting hafter hwaits]
  exact settleXfer_of_clean (s := modOp (modOp s i (TileOp.gotRead r)) i TileOp.answered) hclean

/-- Every line of a read without an answer reaches its operation poisoned (R271, R272). -/
theorem memTimeout_poisons {port : BitVec 4} {tag : BitVec 10} {k : Nat × Nat} {o : TileOp} (hb : s.blk.st ≠ .cold)
    (hr : reqAt s port.toNat tag.toNat = some r) (ha : r.also = []) (hk : transferOf r = some k) (hop : opAt s k.2 = some o)
    (hw : r.write = false) (hmore : 2 ≤ o.awaiting) (hq : portsQuiet s)
    (hclean : ∀ x, xferNum s k.1 = some x → x.faulted = false) (hno : noReset s 10) :
    Becomes (.memTimeout port tag) s (fun t =>
      t.flt.active.getLsbD 10 = true ∧ (∀ j, (job t j).st = (job s j).st) ∧ t.marrow = s.marrow ∧
      ∃ x, opAt t k.2 = some x ∧ x.awaiting = o.awaiting - 1 ∧ ∀ l < r.lines, r.addr / 64 + l ∈ x.gotPois) := by
  obtain ⟨tile, ofs, hpurpose⟩ := purpose_of_transferOf hk
  have hframe := alertFrame_timeoutMet hb hno r
  have hops : (timeoutMet s r).ops = s.ops := congrArg (·.ops) hframe
  have hxfers : (timeoutMet s r).mem.xfers = s.mem.xfers := congrArg (·.mem.xfers) hframe
  have hop' : opAt (timeoutMet s r) k.2 = some o := by rw [opAt, hops]; exact hop
  have hanswer := answerOp_error (r := timedOut s r) (x := k.1) hop' hw rfl hmore (by rw [xferNum, hxfers]; exact hclean)
  have hfor : answerFor (timeoutMet s r) (timedOut s r) (timedOut s r).purpose =
      modOp (modOp (timeoutMet s r) k.2 (TileOp.gotRead (timedOut s r))) k.2 TileOp.answered := by
    have hp : (timedOut s r).purpose = .transfer k.1 tile k.2 ofs := hpurpose
    rw [hp]
    exact hanswer
  have hmoves : (modOp (modOp (timeoutMet s r) k.2 (TileOp.gotRead (timedOut s r))) k.2 TileOp.answered).mem.moves = [] :=
    (congrArg (·.mem.moves) hframe).trans hq.2.2
  refine becomes_timeout hr ha ?_
  rw [hfor]
  have hgone := alertFrame_goneOn hmoves (timedOut s r)
  have hjobs : (goneOn _ (timedOut s r)).jobs = s.jobs := (congrArg (·.jobs) hgone).trans (congrArg (·.jobs) hframe)
  have hmarrow : (goneOn _ (timedOut s r)).marrow = s.marrow := (congrArg (·.marrow) hgone).trans (congrArg (·.marrow) hframe)
  have hafter : (goneOn _ (timedOut s r)).ops = _ := congrArg (·.ops) hgone
  refine ⟨?_, fun j => by rw [job_congr hjobs j], hmarrow, (o.gotRead (timedOut s r)).answered, ?_, rfl, fun l hl => ?_⟩
  · rw [active_goneOn]
    exact active_timeoutMet hb r
  · rw [opAt, hafter]
    change opAt (modOp _ k.2 _) k.2 = _
    rw [opAt_modOp (f := TileOp.answered) fun _ => rfl, opAt_modOp (f := TileOp.gotRead (timedOut s r)) fun _ => rfl, hop']
    rfl
  · exact (mem_foldl_ninsList ..).2 (.inr (mem_answerPois_of_error (r := timedOut s r) rfl hl))

/-! ## Merge holds -/

/-- A request that is sent goes to its port or waits for a tag, and no request leaves (R424). -/
theorem sendReq_mem (s : State) (r : MemReq) : ∃ q : MemReq, q.tag ≠ tagMerge ∧ q.purpose = r.purpose ∧ q.also = r.also ∧
    q.addr = r.addr ∧ q.write = r.write ∧ q.data = r.data ∧ q.mask = r.mask ∧
    (((sendReq s r).mem.reqs = s.mem.reqs ++ [q] ∧ (sendReq s r).mem.held = s.mem.held) ∨
      ((sendReq s r).mem.reqs = s.mem.reqs ∧ (sendReq s r).mem.held = s.mem.held ++ [q])) := by
  unfold sendReq
  extract_lets j
  cases htag : freeTag s j with
  | some k =>
    have hk : k < 1024 := by
      unfold freeTag at htag
      exact List.mem_range.1 (List.mem_of_find?_eq_some htag)
    have hmem : (countLines s r).mem = s.mem := bump_mem ..
    refine ⟨{ r with port := j, tag := k, beats := 0, worst := 0, got := [], gotPois := 0 }, ?_, rfl, rfl, rfl, rfl, rfl, rfl,
      .inl ⟨?_, ?_⟩⟩
    · exact (hk.trans (by decide : 1024 < tagMerge)).ne
    · simp only [modMem, hmem]
    · simp only [modMem, hmem]
  | none =>
    exact ⟨{ r with port := j, tag := tagWait }, (by decide : tagWait ≠ tagMerge), rfl, rfl, rfl, rfl, rfl, rfl, .inr ⟨rfl, rfl⟩⟩

/-- The ports and holds after requests were sent: none leaves, and none that is held for merging joins (R275). -/
structure Sent (s t : State) : Prop where
  reqs : ∀ q ∈ s.mem.reqs, q ∈ t.mem.reqs
  held : ∀ q ∈ s.mem.held, q ∈ t.mem.held
  merging : ∀ q ∈ t.mem.held, q.tag = tagMerge → q ∈ s.mem.held
  frame : portFrame t = portFrame s

theorem Sent.refl (s : State) : Sent s s := ⟨fun _ h => h, fun _ h => h, fun _ h _ => h, rfl⟩

theorem Sent.trans (h : Sent s t) (h' : Sent t u) : Sent s u where
  reqs q hq := h'.reqs q (h.reqs q hq)
  held q hq := h'.held q (h.held q hq)
  merging q hq htag := h.merging q (h'.merging q hq htag) htag
  frame := h'.frame.trans h.frame

theorem sent_sendReq (s : State) (r : MemReq) : Sent s (sendReq s r) := by
  obtain ⟨q, htag, -, -, -, -, -, -, ⟨hreqs, hheld⟩ | ⟨hreqs, hheld⟩⟩ := sendReq_mem s r
  · exact ⟨fun x hx => by rw [hreqs]; exact List.mem_append_left _ hx, fun x hx => by rwa [hheld],
      fun x hx _ => by rwa [hheld] at hx, portFrame_sendReq r⟩
  · refine ⟨fun x hx => by rwa [hreqs], fun x hx => by rw [hheld]; exact List.mem_append_left _ hx, fun x hx hmerge => ?_,
      portFrame_sendReq r⟩
    rw [hheld, List.mem_append, List.mem_singleton] at hx
    exact hx.resolve_right fun h => htag (h ▸ hmerge)

theorem sent_foldl_sendReq (l : List MemReq) (s : State) : Sent s (l.foldl sendReq s) :=
  List.foldlRecOn l sendReq (.refl s) fun _ ht r _ => ht.trans (sent_sendReq _ r)

/-- The hold of `r` and its copies is over. -/
def withoutHold (s : State) (r : MemReq) : State :=
  modMem s fun m => { m with held := m.held.filter fun q => !(q.tag = tagMerge && decide (q = r)) }

/-- A merge hold that ends goes out as it was merged; other requests stay (R275). -/
theorem mergeHoldExpire_sends {p : Fin 100} (hr : s.mem.held.find? (fun q => q.tag = tagMerge ∧ q.pod = p.val) = some r) :
    Becomes (.mergeHoldExpire p) s (fun t =>
      r ∉ t.mem.held ∧ (∀ q ∈ s.mem.held, q ≠ r → q ∈ t.mem.held) ∧ (∀ q ∈ s.mem.reqs, q ∈ t.mem.reqs) ∧
      (∃ q ∈ t.mem.reqs ++ t.mem.held, q.tag ≠ tagMerge ∧ q.purpose = r.purpose ∧ q.also = r.also ∧ q.addr = r.addr ∧
        q.write = r.write ∧ q.data = r.data ∧ q.mask = r.mask) ∧
      t.jobs = s.jobs ∧ t.marrow = s.marrow ∧ t.ops = s.ops ∧ t.entries = s.entries) := by
  have htag : r.tag = tagMerge := by
    have hfound := List.find?_some hr
    simp only [decide_eq_true_eq] at hfound
    exact hfound.1
  obtain ⟨l, hl⟩ : ∃ l, s.mem.held.filter (fun q => q.tag = tagMerge && decide (q = r)) = r :: l := by
    have hmem : r ∈ s.mem.held.filter (fun q => q.tag = tagMerge && decide (q = r)) :=
      List.mem_filter.2 ⟨List.mem_of_find?_eq_some hr, by simp [htag]⟩
    cases hc : s.mem.held.filter (fun q => q.tag = tagMerge && decide (q = r)) with
    | nil => rw [hc] at hmem; cases hmem
    | cons q l =>
      have hq : q ∈ s.mem.held.filter (fun q => q.tag = tagMerge && decide (q = r)) := by rw [hc]; exact List.mem_cons_self
      have hqr : q = r := by simpa using (Bool.and_eq_true_iff.1 (List.mem_filter.1 hq).2).2
      exact ⟨l, by rw [hqr]⟩
  have hmeaning : expireHolds s p.val = l.foldl sendReq (sendReq (withoutHold s r) r) := by
    simp only [expireHolds, hr]
    unfold endHolds
    extract_lets go
    have hgo : s.mem.held.filter go = r :: l := hl
    rw [hgo, List.foldl_cons]
    rfl
  obtain ⟨q, hqtag, hpurpose, halso, haddr, hwrite, hdata, hmask, hplace⟩ := sendReq_mem (withoutHold s r) r
  have hfirst := sent_sendReq (withoutHold s r) r
  have hrest := sent_foldl_sendReq l (sendReq (withoutHold s r) r)
  have hall := hfirst.trans hrest
  refine ⟨_, congrArg Host.Outcome.next hmeaning, fun h => ?_, fun x hx hne => ?_, fun x hx => hall.reqs x hx,
    ⟨q, ?_, hqtag, hpurpose, halso, haddr, hwrite, hdata, hmask⟩, congrArg (·.jobs) hall.frame, congrArg (·.marrow) hall.frame,
    congrArg (·.ops) hall.frame, congrArg (·.entries) hall.frame⟩
  · have hkept := (List.mem_filter.1 (hall.merging r h htag)).2
    simp [htag] at hkept
  · exact hall.held x (List.mem_filter.2 ⟨hx, by simp [hne]⟩)
  · rcases hplace with ⟨hreqs, -⟩ | ⟨-, hheld⟩
    · exact List.mem_append_left _ (hrest.reqs q (by rw [hreqs]; simp))
    · exact List.mem_append_right _ (hrest.held q (by rw [hheld]; simp))

theorem mergeHoldExpire_none {p : Fin 100} (h : ∀ q ∈ s.mem.held, ¬ (q.tag = tagMerge ∧ q.pod = p.val)) :
    exec (.mergeHoldExpire p) s = .next s := by
  have hnone : s.mem.held.find? (fun q => q.tag = tagMerge ∧ q.pod = p.val) = none :=
    List.find?_eq_none.2 fun q hq => by simpa using h q hq
  refine congrArg Host.Outcome.next ?_
  simp only [expireHolds, hnone]

/-- Settles O43: a timeout is an event and an `ERROR` answer, and an expired hold is one request sent (R271, R272, R275). -/
theorem memoryTimers : Obligations.MemoryTimers := by
  unfold Obligations.MemoryTimers
  intro s
  exact ⟨fun port tag r hb hr ha => ⟨memTimeout_active hb hr ha,
      fun j hends hst hlive hno => memTimeout_endsJob hb hr ha hends hst hlive hno,
      fun k o hk hop hw hmore hq hclean hno => memTimeout_poisons hb hr ha hk hop hw hmore hq hclean hno⟩,
    fun p => ⟨fun r => mergeHoldExpire_sends, mergeHoldExpire_none⟩⟩

end Sys2Proof.Machine
end

section
/-! Contexts of transfers (spec/11 R282). No invariant keeps two transfers from one number. -/

namespace Sys2Proof.Machine

/-- The operation of the `EMIT` node of job 0 that entry 0 is to pass, run by Pod 0. -/
def emitCand : Cand := ⟨0, 0, 0, 0, 0, 0, 0, false, [], []⟩

/-- Transfer 0, of the entry of rank `r` of job 0, in state `st`: 1 is issuing, 2 is paused. -/
def xferZero (st r : Nat) : Xfer := ⟨0, st, 0, r, 0, 0, 0, 0, false, none⟩

/-- Job 0, a single `EMIT`, is bound on Pod 0 and its entry of rank 0 is to pass the node. The entry's transfer has the number of a
paused one of rank 1. -/
def twinXfers : State := { runningBlock with
  pods := State.reset.pods.set 0 { Pod.reset with logical := 0, st := .bound, bindValid := true }
  jobs := [(0, { Job.empty with
    st := .bound, members := [0], nodes := [(0, { NodeSt.empty with works := [⟨0, 0, 0, 1, [], []⟩] })]
    route := { emptyRoute with nodes := [⟨10, 1, 0, 0, 0, 0, 0, 0, 0, 0, 0xFFFF, 0, 0, 0, 0⟩], nodeCount := 1, maxTasks := 1 } })]
  entries := [{ stopPoint with st := .running }]
  mem := { runningBlock.mem with xfers := [xferZero 2 1, xferZero 1 0] } }

theorem twinXfers_ready : candidates twinXfers 0 10 = [emitCand] := by decide +kernel

theorem twinXfers_context : contextFor twinXfers 0 0 0 0 0 = some (twinXfers, 0) := by rfl

/-- The operation is issued, and number 0 names the paused transfer still. -/
theorem twinXfers_emits : (leaves (.emitTileOp 0) twinXfers).map (fun t => (t.nextOp, (xferNum t 0).map (·.state))) = some (1, some 2) := by
  decide +kernel

/-- Refutes O35: a transfer that issues may have the number of a paused one, and then an `EMIT` operation in its context leaves a
number that names the paused transfer. -/
theorem not_memoryTileOps : ¬ Obligations.MemoryTileOps := by
  unfold Obligations.MemoryTileOps
  intro h
  obtain ⟨-, hemit, -⟩ := h twinXfers 0 (by decide) rfl
  obtain ⟨t, ht, -, -, -, -, -, -, -, ⟨y, hy, hstate⟩, -⟩ := hemit emitCand [] twinXfers_ready _ twinXfers_context
  have hleft := twinXfers_emits
  rw [leaves_next ht, Option.map_some, hy, Option.map_some, hstate] at hleft
  exact absurd hleft (by simp)

end Sys2Proof.Machine
end

section
/-! What operations that compute read, count and issue in a Marrow that nothing marks (spec/11 R263 to R265, spec/14 R345). -/

namespace Sys2Proof.Machine

variable {s t u v : State} {r : Rd} {c : Cand} {total : Nat} {ws : List WByte}

/-! ## Reads -/

theorem Rd.line_calm (h : Unmarked r.st) (o : Option TileOp) (p n : Nat) : r.line o p n = r := by
  simp only [Rd.line, checkLine_unmarked h.ecc, h.poison, h.prov, List.contains_nil, Bool.or_false]
  rfl

theorem Rd.keys_calm (h : Unmarked r.st) (o : Option TileOp) (ks : List Nat) : r.keys o ks = r :=
  List.foldl_fixed' (f := fun (r : Rd) l => r.line o (l / 98304) (l % 98304)) (fun _ => Rd.line_calm h ..) _

/-- Elements are read without a mark, and the reader stays as it was. -/
theorem Rd.elems_calm (h : Unmarked r.st) (o : Option TileOp) (c : Cand) (d : Desc) (is : List (List Nat)) :
    r.elems o c d is = r := Rd.keys_calm h ..

theorem Rd.foldl_elems_calm (h : Unmarked r.st) (o : Option TileOp) (c : Cand) (ds : List Desc) (is : Desc → List (List Nat)) :
    ds.foldl (fun r d => r.elems o c d (is d)) r = r :=
  List.foldl_fixed' (f := fun (r : Rd) d => r.elems o c d (is d)) (fun _ => Rd.elems_calm h ..) _

/-! ## Counters -/

/-- The state with other registers. -/
def withRegs (s : State) (g : RegFile) : State := { s with regs := g }

/-- `t` is `s` but for its counters and errors. -/
def Counts (s t : State) : Prop := t = withRegs s t.regs

namespace Counts

theorem refl (s : State) : Counts s s := rfl

theorem trans (h : Counts s t) (h' : Counts t u) : Counts s u := by
  unfold Counts at h h' ⊢
  rw [h', h]
  rfl

theorem bump (s : State) (p k n : Nat) : Counts s (bump s p k n) := by
  unfold Machine.bump
  split <;> exact rfl

theorem pageErr (s : State) (p i : Nat) : Counts s (pageErr s p i) := rfl

theorem ite {b : Prop} [Decidable b] (ht : Counts s t) (hu : Counts s u) : Counts s (if b then t else u) := by
  split
  · exact ht
  · exact hu

theorem slot (h : Counts s t) : SlotStep s t := by
  rw [h]
  exact .of_jobs rfl rfl

theorem unmarked (h : Counts s t) (hs : Unmarked s) : Unmarked t := by
  rw [h]
  exact ⟨hs.poison, hs.prov, hs.ecc, hs.bytes⟩

end Counts

/-! ## Issues -/

/-- What a station gives an operation beyond its work leaves whose it is, its number and its lines. -/
structure KeepsTile (f : TileOp → TileOp) : Prop extends KeepsWork f where
  tile : ∀ o, (f o).tile = o.tile
  lines : ∀ o, (f o).lines = o.lines

theorem keepsTile_id : KeepsTile id := ⟨keepsWork_id, fun _ => rfl, fun _ => rfl⟩

theorem KeepsTile.ite {f g : TileOp → TileOp} {b : Prop} [Decidable b] (hf : KeepsTile f) (hg : KeepsTile g) :
    KeepsTile fun o => if b then f o else g o := by
  by_cases h : b
  · simpa only [h, if_true] using hf
  · simpa only [h, if_false] using hg

theorem computed_of_slot (hs : SlotStep s u) (h : TaskStep u t) (hi : issued s t c c.tile total ws) : computed s t c total ws :=
  ⟨hi, h.mem.trans hs.mem, h.entries.trans hs.task.entries⟩

/-- An operation that writes has been issued on `u`, to which `s` has come by counting and taking slots. -/
theorem issueWrites_computed (h : Quiet s) (hu : SlotStep s u) (c : Cand) (total : Nat) (ws : List WByte) {f : TileOp → TileOp}
    (hf : KeepsTile f) : computed s (issueWrites u c total ws [] f) c total ws := by
  have hw := issueWrites_writesOut h hu.agree c total ws hf.toKeepsWork
  refine computed_of_slot hu hw.step ?_
  rw [hf.tile] at hw
  exact hw.issued

theorem issueWrites_acc (h : Quiet u) (c : Cand) (total : Nat) (ws : List WByte) (f : TileOp → TileOp) :
    (issueWrites u c total ws [] f).marrow.acc = u.marrow.acc := by
  obtain ⟨bs, hw, -⟩ := writeAll_unmarked h.unmarked ws (some (candOp u c false))
  rw [(issueWrites_issues h.roll c total ws [] hw f).marrow]

/-- What a station's operation is to leave: it computes the bytes `ws` and keeps every accumulator. -/
def computedOnly (s t : State) (c : Cand) (total : Nat) (ws : List WByte) : Prop :=
  computed s t c total ws ∧ t.marrow.acc = s.marrow.acc

theorem issueWrites_computedOnly (h : Quiet s) (hu : Counts s u) (c : Cand) (total : Nat) (ws : List WByte) :
    computedOnly s (issueWrites u c total ws []) c total ws :=
  ⟨issueWrites_computed h hu.slot c total ws keepsTile_id,
    (issueWrites_acc (hu.slot.agree.quiet h) ..).trans (congrArg Marrow.acc hu.slot.marrow)⟩

/-- A reader that met neither a provisional line nor poison. -/
structure Rd.Clean (r : Rd) : Prop where
  hit : r.hit = false
  pois : r.pois = false

/-- A clean reader whose state is `s` but for its counters. -/
structure Rd.Counted (s : State) (r : Rd) : Prop extends r.Clean where
  counts : Counts s r.st

theorem Counts.start (h : Counts s u) : Rd.Counted s (Rd.start u) := ⟨⟨rfl, rfl⟩, h⟩

theorem Rd.Counted.elems (hr : Rd.Counted s r) (h : Unmarked s) (o : Option TileOp) (c : Cand) (d : Desc) (is : List (List Nat)) :
    Rd.Counted s (r.elems o c d is) := by
  rw [Rd.elems_calm (hr.counts.unmarked h)]
  exact hr

theorem Rd.Counted.trans (hr : Rd.Counted s r) (h : Counts r.st u) : Rd.Counted s { r with st := u } :=
  ⟨⟨hr.hit, hr.pois⟩, hr.counts.trans h⟩

/-- An operation that moves elements issues them after a clean read. -/
theorem finishMove_counted (h : Quiet s) (hr : Rd.Counted s r) (c : Cand) (total : Nat) (ms : List Moved) (all : Bool) :
    ∃ t, finishMove r c total ms all = some t ∧ computedOnly s t c total (ms.flatMap (·.1)) := by
  refine ⟨_, ?_, issueWrites_computedOnly h hr.counts c total _⟩
  unfold finishMove
  simp only [hr.hit, hr.pois, Bool.false_eq_true, if_false]

theorem finishOp_clean (hr : r.Clean) (c : Cand) (total : Nat) (ws : List WByte) :
    finishOp r c total ws = some (issueWrites r.st c total ws []) := by
  unfold finishOp
  simp only [hr.hit, hr.pois, Bool.false_eq_true, if_false]

end Sys2Proof.Machine
end

section
/-! The operations of LAYOUT and the `MOVE` of TRANSFER in an unmarked Marrow (spec/07 R180 to R192, spec/11 R277). -/

namespace Sys2Proof.Machine

variable {s t u : State} {c : Cand} {b : List Cand} {p : Fin 100}

/-! ## Counting changes no element -/

theorem Counts.countPath (s : State) (p : Path) : Counts s (countPath s p) := .bump ..

theorem Counts.moveElem (h : Counts s u) : Machine.moveElem u = Machine.moveElem s := by
  rw [h]
  rfl

theorem Counts.indexAt (h : Counts s u) : Machine.indexAt u = Machine.indexAt s := by
  rw [h]
  rfl

theorem Counts.scatterCtx (h : Counts s u) : Machine.scatterCtx u = Machine.scatterCtx s := by
  rw [h]
  rfl

theorem Counts.scatterMove (h : Counts s u) (k : ScatterCtx) : k.move u = k.move s := by
  rw [h]
  rfl

/-! ## COPY -/

theorem copyOp_computes (h : Quiet s) :
    let q := c.block s
    let src := nodeDesc (c.route s) (c.node s) 0
    let dst := nodeDesc (c.route s) (c.node s) 1
    let path := pathOf 1 q src dst
    transposeDims q src dst = none →
    ∃ t, copyOp s c = some t ∧ computedOnly s t c (layoutTiles path dst dst.runDim)
      (((layoutTile path dst dst.runDim c.tile).flatMap fun i => moveElem s c src dst (copySource q src dst i) i).flatMap (·.1)) := by
  intro q src dst path hd
  unfold copyOp
  extract_lets is source live r
  rw [hd]
  have hr : Rd.Counted s r := (Counts.countPath s path).start.elems h.unmarked ..
  rw [← hr.counts.moveElem]
  exact finishMove_counted h hr ..

theorem transposeOp_computes (h : Quiet s) (src dst : Desc) (x y : Nat) :
    let is := transposeTile dst x y c.tile
    ∃ t, transposeOp s c src dst x y = some t ∧ computedOnly s t c (tilePairs (dst.sz x / 64)).length
      (((transposeScratch s c dst is.length, false) ::
        is.flatMap fun i => moveElem s c src dst (toInts (swapDims x y i)) i).flatMap (·.1)) := by
  unfold transposeOp
  extract_lets is r
  have hr : Rd.Counted s r := (Counts.countPath s _).start.elems h.unmarked ..
  rw [← hr.counts.moveElem]
  exact finishMove_counted h hr ..

theorem copyOp_transposes {x : Nat × Nat}
    (hd : transposeDims (c.block s) (nodeDesc (c.route s) (c.node s) 0) (nodeDesc (c.route s) (c.node s) 1) = some x) :
    copyOp s c = transposeOp s c (nodeDesc (c.route s) (c.node s) 0) (nodeDesc (c.route s) (c.node s) 1) x.1 x.2 := by
  unfold copyOp
  extract_lets
  rw [hd]

/-! ## GATHER and SCATTER -/

theorem gatherOp_computes (h : Quiet s) :
    let q := c.block s
    let src := nodeDesc (c.route s) (c.node s) 0
    let idx := nodeDesc (c.route s) (c.node s) 1
    let dst := nodeDesc (c.route s) (c.node s) 2
    let path := pathOf 2 q src dst
    let axis := fieldLe q 0 1
    ∃ t, gatherOp s c = some t ∧ computedOnly s t c (layoutTiles path dst dst.runDim)
      (((layoutTile path dst dst.runDim c.tile).flatMap fun i =>
        moveElem s c src dst ((toInts i).set axis (indexAt s c idx (i.getD axis 0))) i).flatMap (·.1)) := by
  intro q src idx dst path axis
  unfold gatherOp
  extract_lets is o r₀ source live lost r₁ r
  have hr₀ : Rd.Counted s r₀ := (Counts.countPath s path).start.elems h.unmarked ..
  have hr : Rd.Counted s r := (hr₀.elems h.unmarked ..).trans (.bump ..)
  rw [← hr.counts.moveElem, ← hr₀.counts.indexAt]
  exact finishMove_counted h hr ..

theorem scatterOp_computes (h : Quiet s) :
    let q := c.block s
    let k := scatterCtx s c
    let path := pathOf 3 q k.upd k.dst
    ∃ t, scatterOp s c = some t ∧ computedOnly s t c (layoutTiles path k.upd k.dst.runDim)
      ((((k.final path c.tile).map (k.move s c (fieldLe q 1 1))).flatMap (·.1)).flatMap (·.1)) := by
  intro q k path
  unfold scatterOp
  extract_lets o r₀ k' fin mode r₁ r₂ out heads s₁ s₂
  have hr₀ : Rd.Counted s r₀ := (Counts.countPath s path).start.elems h.unmarked ..
  have hk : k' = k := congrFun hr₀.counts.scatterCtx c
  have hr₁ : Rd.Counted s r₁ := hr₀.elems h.unmarked ..
  have hr₂ : Rd.Counted s r₂ := by
    unfold r₂
    split
    · exact hr₁
    · exact hr₁.elems h.unmarked ..
  have hs₂ : Counts r₂.st s₂ := ((Counts.bump ..).trans (.bump ..)).trans (.ite (.pageErr ..) (.refl _))
  have hout : out = (k.final path c.tile).map (k.move s c mode) := by
    rw [← hr₂.counts.scatterMove, ← hk]
  rw [← hout, ← hk]
  exact finishMove_counted h (hr₂.trans hs₂) ..

/-! ## A station's first operation -/

section

variable (he : (c.entry s).isSome = true) (hon : c.fresh = true → enabled s 0x00A = true)
include he hon

theorem layout_open : (∃ e, c.entry s = some e) ∧ ¬(c.fresh = true ∧ enabled s 0x00A = false) :=
  ⟨Option.isSome_iff_exists.1 he, fun ⟨hf, hd⟩ => by simp [hon hf] at hd⟩

theorem layoutOp_copy (hn : (c.node s).opcode = 1) : layoutOp s c = copyOp s c := by
  obtain ⟨⟨e, he⟩, hoff⟩ := layout_open he hon
  unfold layoutOp
  simp [hn, he, hoff]

theorem layoutOp_gather (hn : (c.node s).opcode = 2) : layoutOp s c = gatherOp s c := by
  obtain ⟨⟨e, he⟩, hoff⟩ := layout_open he hon
  unfold layoutOp
  simp [hn, he, hoff]

theorem layoutOp_scatter (hn : (c.node s).opcode = 3) : layoutOp s c = scatterOp s c := by
  obtain ⟨⟨e, he⟩, hoff⟩ := layout_open he hon
  unfold layoutOp
  simp [hn, he, hoff]

end

/-- A `MOVE` issues its segments (R277). -/
theorem transferOp_move (h : Quiet s) (he : (c.entry s).isSome = true) (hop : (c.node s).opcode = 3) :
    let src := nodeDesc (c.route s) (c.node s) 0
    let dst := nodeDesc (c.route s) (c.node s) 1
    ∃ t, transferOp s c = some t ∧ computedOnly s t c (xferTiles dst)
      ((moveBytes s c c src dst (xferElems dst c.tile)).2.flatMap (·.1)) := by
  intro src dst
  obtain ⟨e, he⟩ := Option.isSome_iff_exists.1 he
  unfold transferOp
  simp only [he, hop]
  exact finishMove_counted h ((Counts.refl s).start.elems h.unmarked ..) ..

end Sys2Proof.Machine
end

section
/-! Numbers converted into a destination, accumulators written, and what an operation on them issues (spec/09 R218 to R220, R228). -/

namespace Sys2Proof.Machine

variable {s t u v : State} {r : Rd} {c : Cand} {total : Nat} {ws : List WByte}

/-! ## Accumulators -/

/-- The state with other accumulators and poison of accumulator tiles. -/
def withAcc (s : State) (a : List (Nat × Word)) (b : List Nat) : State := { s with marrow := { s.marrow with acc := a, accPoison := b } }

/-- `t` is `s` but for its counters and its accumulators. -/
def Sums (s t : State) : Prop := Counts (withAcc s t.marrow.acc t.marrow.accPoison) t

theorem Counts.sums (h : Counts s t) : Sums s t := by
  unfold Sums
  rw [h]
  rfl

theorem Sums.counts (h : Sums s t) (h' : Counts t u) : Sums s u := by
  unfold Sums at h ⊢
  rw [h', h]
  rfl

theorem Sums.withAcc (h : Sums s t) (a : List (Nat × Word)) (b : List Nat) : Sums s (Machine.withAcc t a b) := by
  unfold Sums at h ⊢
  rw [h]
  rfl

theorem Quiet.withAcc (h : Quiet s) (a : List (Nat × Word)) (b : List Nat) : Quiet (Machine.withAcc s a b) :=
  ⟨⟨h.unmarked.poison, h.unmarked.prov, h.unmarked.ecc, h.unmarked.bytes⟩, h.roll, h.free⟩

/-- What is issued on other accumulators is issued on the same Marrow bytes. -/
theorem computed_of_withAcc {a : List (Nat × Word)} {b : List Nat} (h : computed (withAcc s a b) t c total ws) :
    computed s t c total ws := h

theorem sget?_append {α : Type} (a b : List (Nat × α)) (k : Nat) : sget? (a ++ b) k = (sget? a k).or (sget? b k) := by
  induction a with
  | nil => rfl
  | cons e a ih =>
    obtain ⟨j, w⟩ := e
    simp only [List.cons_append, sget?]
    split
    · rfl
    · exact ih

theorem sgetD_tileList (lo n i : Nat) (ws : List Word) :
    sgetD (tileList lo (ws.zipIdx n)) (lo + n + i) 0 = ws.getD i 0 := by
  induction ws generalizing n i with
  | nil => rfl
  | cons w ws ih =>
    have hlater : sgetD (tileList lo (ws.zipIdx (n + 1))) (lo + n) 0 = 0 := by
      unfold sgetD
      rw [sget?_none_of_lt _ _ fun e he => ?_]
      · rfl
      · obtain ⟨-, x, hx, rfl⟩ := mem_tileList he
        have := List.le_snd_of_mem_zipIdx hx
        simp only
        omega
    have hcons : tileList lo ((w :: ws).zipIdx n) =
        if w = 0 then tileList lo (ws.zipIdx (n + 1)) else (lo + n, w) :: tileList lo (ws.zipIdx (n + 1)) := by
      simp only [tileList, List.zipIdx_cons, List.filterMap_cons]
      split <;> split <;> simp_all
    rw [hcons]
    cases i with
    | zero =>
      split
      · next hw => rw [hw]; exact hlater
      · simp [sgetD, sget?]
    | succ i =>
      have hi := ih (n + 1) i
      rw [show lo + (n + 1) + i = lo + n + (i + 1) by omega] at hi
      split
      · exact hi
      · rw [sgetD, sget?, if_neg (by omega)]
        exact hi

/-- A tile that is written whole holds its elements (R228). -/
theorem accAt_setTile (s : State) (p t : Nat) {vs : List Word} (hl : vs.length = 4096) {i : Nat} (hi : i < 4096) :
    accAt (setTile s p t vs) p t i = vs.getD i 0 := by
  have hk : akey p t i = akey p t 0 + i := by simp [akey]
  have htake : vs.take 4096 = vs := by rw [← hl, List.take_length]
  have hbelow : sget? (s.marrow.acc.filter fun e => decide (e.1 < akey p t 0)) (akey p t 0 + i) = none := by
    rw [sget?_filter_key _ (fun k => decide (k < akey p t 0))]
    simp
  have habove : sget? (s.marrow.acc.filter fun e => decide (akey p t 0 + 4096 ≤ e.1)) (akey p t 0 + i) = none := by
    rw [sget?_filter_key _ (fun k => decide (akey p t 0 + 4096 ≤ k))]
    simp
    omega
  unfold accAt
  rw [hk]
  change sgetD (_ ++ tileList (akey p t 0) ((vs.take 4096).zipIdx) ++ _) _ 0 = _
  rw [htake, sgetD, sget?_append, sget?_append, hbelow, habove, Option.none_or, Option.or_none]
  have hnew := sgetD_tileList (akey p t 0) 0 i vs
  rw [Nat.add_zero] at hnew
  exact hnew

theorem accAt_setAcc {s : State} (h : rising s.marrow.acc = true) (p t i : Nat) (w : Word) : accAt (setAcc s p t i w) p t i = w :=
  sgetD_sset_self _ _ _ _ h

theorem accAt_of_acc (h : t.marrow.acc = s.marrow.acc) (p n i : Nat) : accAt t p n i = accAt s p n i := congrArg (sgetD · (akey p n i) 0) h

/-- What a tile that was written whole and counted holds (R228). -/
theorem accAt_written {p n : Nat} {vs : List Word} {b : Bool} (h : Counts s u) (hv : Counts (setAccPois (setTile u p n vs) p n b) v)
    (hl : vs.length = 4096) : Sums s v ∧ ∀ i < 4096, accAt v p n i = vs.getD i 0 := by
  have hset : Sums s (setAccPois (setTile u p n vs) p n b) := h.sums.withAcc _ _
  refine ⟨hset.counts hv, fun i hi => ?_⟩
  rw [← accAt_setTile u p n hl hi, hv]
  rfl

/-! ## Conversions -/

theorem counts_countConvert (s : State) (p : Nat) (draw nan : Bool) : Counts s (countConvert s p draw nan) := by
  have h₁ : Counts s (if draw then bump s 0x00B 0 else s) := .ite (.bump ..) (.refl s)
  exact h₁.trans (.ite ((Counts.pageErr ..).trans (.bump ..)) (.refl _))

/-- A step that counts and writes what does not depend on counters and accumulators. -/
def WritesAlike {α : Type} (f : State × List WByte → α → State × List WByte) : Prop :=
  ∀ s u ws x, Sums s u → Counts u (f (u, ws) x).1 ∧ (f (u, ws) x).2 = (f (s, ws) x).2

/-- Steps taken from two states that differ in counters and accumulators write alike. -/
theorem WritesAlike.foldl_both {α : Type} {f : State × List WByte → α → State × List WByte} (hf : WritesAlike f) (hu : Sums s u)
    (hv : Sums s v) (xs : List α) (ws : List WByte) :
    Counts u (xs.foldl f (u, ws)).1 ∧ (xs.foldl f (u, ws)).2 = (xs.foldl f (v, ws)).2 := by
  induction xs generalizing u v ws with
  | nil => exact ⟨.refl u, rfl⟩
  | cons x xs ih =>
    obtain ⟨hcu, hwu⟩ := hf s u ws x hu
    obtain ⟨hcv, hwv⟩ := hf s v ws x hv
    simp only [List.foldl_cons]
    rw [← hwv] at hwu
    generalize f (u, ws) x = y at *
    generalize f (v, ws) x = z at *
    obtain ⟨y, wy⟩ := y
    obtain ⟨z, wz⟩ := z
    obtain rfl : wy = wz := hwu
    obtain ⟨hcounts, hwrites⟩ := ih (hu.counts hcu) (hv.counts hcv) wy
    exact ⟨hcu.trans hcounts, hwrites⟩

theorem WritesAlike.foldl {α : Type} {f : State × List WByte → α → State × List WByte} (hf : WritesAlike f) (h : Sums s u)
    (xs : List α) (ws : List WByte) : Counts u (xs.foldl f (u, ws)).1 ∧ (xs.foldl f (u, ws)).2 = (xs.foldl f (s, ws)).2 :=
  hf.foldl_both h (Counts.refl s).sums xs ws

theorem writesAlike_putValue (c : Cand) (b : EntryBody) (d : Desc) (sr : Bool) : WritesAlike (putValue c b d sr) := by
  refine fun s u ws x h => ⟨counts_countConvert .., ?_⟩
  rw [h]
  rfl

/-- Conversions count, and write what they would write in `s`. -/
theorem putValues_sums (h : Sums s u) (c : Cand) (b : EntryBody) (d : Desc) (sr : Bool) (xs : List (List Nat × Fv)) :
    Counts u (putValues u c b d sr xs).1 ∧ (putValues u c b d sr xs).2 = (putValues s c b d sr xs).2 :=
  (writesAlike_putValue c b d sr).foldl h xs []

/-! ## Issues -/

/-- An operation that writes no byte. -/
theorem issue_computed (h : Quiet s) (hu : SlotStep s u) (c : Cand) (total : Nat) {f : TileOp → TileOp}
    (hf : KeepsTile f) : computed s (issue u c total f) c total [] := by
  have hi := issue_issues (hu.agree.quiet h).roll c total f
  have hop := opAt_append (hu.agree.quiet h).free hi.ops (hf.id _)
  generalize issue u c total f = t at hi hop
  rw [hu.nextOp] at hop
  have hm : t.marrow = s.marrow := hi.marrow.trans hu.marrow
  refine computed_of_slot hu hi.step ⟨?_, ?_, ?_, workMoved_of_works (congrArg (·.works) hi.node), ?_, ?_, ?_, ?_, ?_, ?_⟩
  · rw [hi.nextOp, hu.nextOp]
    exact Nat.lt_succ_self _
  · intro o ho
    rw [hi.ops, hu.ops]
    exact List.mem_append_left _ ho
  · exact ⟨_, hop, hf.pod _, hf.job _, hf.member _, hf.node _, hf.rank _, hf.tile _, hf.lines _, hf.last _⟩
  · rw [hm, h.unmarked.prov]
    exact fun _ => Iff.rfl
  · rw [hm]
    exact h.unmarked.poison
  · exact fun _ hw => absurd hw List.not_mem_nil
  · rw [hm]
    exact fun _ _ => rfl
  · exact hi.step.pods.trans hu.pods
  · exact hi.step.gates.trans hu.gates

theorem issue_acc (h : Quiet u) (c : Cand) (total : Nat) (f : TileOp → TileOp) : (issue u c total f).marrow.acc = u.marrow.acc := by
  rw [(issue_issues h.roll c total f).marrow]

section

variable (h : Quiet s) (hu : Sums s u) (hv : SlotStep u v)
include hu hv

theorem Sums.step : SlotStep (Machine.withAcc s u.marrow.acc u.marrow.accPoison) v := hu.slot.trans hv

include h

theorem Sums.quiet : Quiet v := (hu.step hv).agree.quiet (h.withAcc ..)

/-- An operation that writes has been issued on `v`, which differs from `s` in counters, accumulators and slots taken. -/
theorem issueWrites_sums (c : Cand) (total : Nat) (ws : List WByte) {f : TileOp → TileOp} (hf : KeepsTile f) :
    computed s (issueWrites v c total ws [] f) c total ws ∧ (issueWrites v c total ws [] f).marrow.acc = u.marrow.acc :=
  ⟨computed_of_withAcc (issueWrites_computed (h.withAcc ..) (hu.step hv) c total ws hf),
    (issueWrites_acc (hu.quiet h hv) ..).trans (congrArg Marrow.acc hv.marrow)⟩

/-- An operation that writes no byte has been issued there. -/
theorem issue_sums (c : Cand) (total : Nat) {f : TileOp → TileOp} (hf : KeepsTile f) :
    computed s (issue v c total f) c total [] ∧ (issue v c total f).marrow.acc = u.marrow.acc :=
  ⟨computed_of_withAcc (issue_computed (h.withAcc ..) (hu.step hv) c total hf),
    (issue_acc (hu.quiet h hv) ..).trans (congrArg Marrow.acc hv.marrow)⟩

end

end Sys2Proof.Machine
end

section
/-! The operations of MATRIX in an unmarked Marrow (spec/09 R224 to R228). -/

namespace Sys2Proof.Machine

variable {s t u : State} {c : Cand} {e : Entry}

theorem Counts.matSides (h : Counts s u) : Machine.matSides u = Machine.matSides s := by
  rw [h]
  rfl

theorem Counts.tileValues (h : Counts s u) : Machine.tileValues u = Machine.tileValues s := by
  rw [h]
  rfl

theorem Counts.accPois (h : Counts s u) : Machine.accPois u = Machine.accPois s := by
  rw [h]
  rfl

theorem Rd.Counted.matReads {r : Rd} (hr : Rd.Counted s r) (h : Unmarked s) (c : Cand) (q : MatPos) (k₀ k₁ : Nat) :
    Rd.Counted s (matReads s c q k₀ k₁ r) := by
  unfold Machine.matReads
  extract_lets _ _ _ _ _ _ _ _ _ r₁ r₂
  have hr₂ : Rd.Counted s r₂ := (hr.elems h ..).elems h ..
  split
  · exact hr₂.elems h ..
  · exact hr₂

theorem length_tileValues (s : State) (c : Cand) (q : MatPos) (tile : Nat) (sides : List (List (List Fv)) × List (List (List Fv))) :
    (tileValues s c q tile sides).length = 4096 := by
  simp [tileValues]

/-- The slot that the group of an operation at `q` fills under `ACC_OUT` 1 (R228). -/
def groupSlot (s : State) (c : Cand) (q : MatPos) : Nat :=
  let x := c.node s
  if accOut (c.route s) x = false then 0
  else if q.first = 0 then (edgeAt s c.j c.h x.outFirst).prodNext else takenSlot s c.j c.h x.outFirst

theorem slotStep_takeGroup (s : State) (c : Cand) (e slot : Nat) : SlotStep s (takeGroup s c e slot) := by
  unfold takeGroup
  exact (slotStep_takeEmpty s ..).trans (slotStep_modEdge ..)

theorem keepsTile_checked (n : Nat) (l : Option Nat) : KeepsTile fun o => { o with excluded := n, failing := l } :=
  ⟨⟨fun _ => rfl, fun _ => rfl, fun _ => rfl, fun _ => rfl, fun _ => rfl, fun _ => rfl, fun _ => rfl⟩, fun _ => rfl, fun _ => rfl⟩

theorem keepsTile_handed (n : Nat) (l : Option Nat) (outs : List (Nat × Nat)) (fills : List (Nat × Nat × Fill)) :
    KeepsTile fun o => { o with excluded := n, failing := l, outs := outs, fills := fills } :=
  ⟨⟨fun _ => rfl, fun _ => rfl, fun _ => rfl, fun _ => rfl, fun _ => rfl, fun _ => rfl, fun _ => rfl⟩, fun _ => rfl, fun _ => rfl⟩

/-- A MATRIX operation leaves its accumulators, and at the last step of a tile without `ACC_OUT` their numbers (R224 to R228). -/
theorem matrixOp_computes (h : Quiet s) (hpois : s.marrow.accPoison = []) (he : c.entry s = some e) :
    let r := c.route s
    let x := c.node s
    let n := matSteps r x
    let q := matPos r x n c.tile
    let slot := groupSlot s c q
    let base := accBase r c.n + setBase r x slot
    memberPod s c.j (groupMember x c.h q.num (jobP s c.j)) = some c.p → (q.first = 0 → groupOpens s c q slot base = true) →
    let kop := max 1 (fieldLe (c.block s) 2 2)
    let vs := tileValues s c q (base + q.tile) (matSides s c q (q.step * kop) (min (matChunks r x) (q.step * kop + kop)))
    ∃ t, matrixOp s c = some t ∧ computed s t c (matTotal r x n) (if accOut r x = false ∧ q.step + 1 = n then
        (putValues s c e.body (nodeDesc r x 2) (fieldLe (c.block s) 4 1 = 1) ((tileIndices (nodeDesc r x 2) q).map fun i =>
          (i.1, accValue (intClass r x) (vs.getD i.2 (0, 0)).1))).2 else []) ∧
      ∀ i < 4096, accAt t c.p (base + q.tile) i = (vs.getD i (0, 0)).1 := by
  intro r x n q slot base hmember hopen kop vs
  unfold matrixOp
  rw [he]
  extract_lets b out edge slot' base' kop' k₀ k₁ tile rd sides vs' chk clamps pois s₁ s₂ done d total size k hand
  have hslot : slot' = slot := by simp [slot', slot, groupSlot, out, edge, r, x]
  have htile : tile = base + q.tile := by
    unfold tile base'
    rw [hslot]
  have hrd : Rd.Counted s rd := (Counts.refl s).start.matReads h.unmarked ..
  have hvs : vs' = vs := by
    unfold vs' sides
    rw [hrd.counts.tileValues, hrd.counts.matSides, htile]
  have hpois : pois = false := by
    have hacc : accPois rd.st c.p tile = false := by
      rw [hrd.counts.accPois, accPois, hpois]
      rfl
    simp [pois, hrd.pois, hacc]
  have hs₁ : Counts _ s₁ := (Counts.bump ..).trans (.bump ..)
  have hs₂ : Counts _ s₂ := hs₁.trans (.ite (.pageErr ..) (.refl _))
  have hl : (vs'.map (·.1)).length = 4096 := by rw [List.length_map]; exact length_tileValues ..
  obtain ⟨hsums, hacc⟩ := accAt_written hrd.counts hs₂ hl
  rw [htile, hvs] at hacc
  dsimp -zeta only
  rw [if_neg (show ¬memberPod s c.j (groupMember x c.h q.num (job s c.j).members.length) ≠ some c.p from not_not.2 hmember),
    if_neg (by simpa [hslot, base'] using hopen), if_neg (by simp [hrd.hit])]
  extract_lets y s₃
  have hy : Counts s₂ y.1 ∧ y.2 = if accOut r x = false ∧ q.step + 1 = n then
      (putValues s c e.body (nodeDesc r x 2) (fieldLe (c.block s) 4 1 = 1) ((tileIndices (nodeDesc r x 2) q).map fun i =>
        (i.1, accValue (intClass r x) (vs.getD i.2 (0, 0)).1))).2 else [] := by
    unfold y
    rw [hvs, hpois]
    split
    · next hw =>
      rw [if_pos (by simpa [out, done] using hw)]
      exact putValues_sums hsums ..
    · next hw =>
      rw [if_neg (by simpa [out, done] using hw)]
      dsimp only
      exact ⟨.refl s₂, rfl⟩
  rw [if_neg (by simp [hpois])]
  obtain ⟨hcounts, hwrites⟩ := hy
  have hsum : Sums s y.1 := hsums.counts hcounts
  have hsame : y.1.marrow.acc = s₂.marrow.acc := congrArg Marrow.acc hcounts.slot.marrow
  have hs₃ : SlotStep y.1 s₃ := by
    unfold s₃
    split
    · exact slotStep_takeGroup ..
    · exact .refl _
  have hleft {t : State} {ws : List WByte} (ht : computed s t c total ws ∧ t.marrow.acc = y.1.marrow.acc) :
      computed s t c total ws ∧ ∀ i < 4096, accAt t c.p (base + q.tile) i = (vs.getD i (0, 0)).1 := by
    refine ⟨ht.1, fun i hi => (accAt_of_acc (ht.2.trans hsame) ..).trans ((hacc i hi).trans ?_)⟩
    exact List.getD_map vs (0, 0) fun v : Word × Nat => v.1
  by_cases hout : out = true
  · rw [if_pos hout, if_neg (by simp [out, hout])]
    exact ⟨_, rfl, hleft (issue_sums h hsum hs₃ c total (.ite (keepsTile_handed ..) (keepsTile_checked ..)))⟩
  · rw [if_neg hout, ← hwrites]
    exact ⟨_, rfl, hleft (issueWrites_sums h hsum hs₃ c total y.2 (keepsTile_checked ..))⟩

end Sys2Proof.Machine
end

section
/-! The operations of VECTOR and SAMPLE in an unmarked Marrow (spec/09 R231 to R237, spec/10 R255 to R257). -/

namespace Sys2Proof.Machine

variable {s t u : State} {r : Rd} {c : Cand} {e : Entry} {pl : VecPlan} {total : Nat} {ws : List WByte}

/-! ## Counting changes no lane -/

theorem Counts.laneAt (h : Counts s u) : Machine.laneAt u = Machine.laneAt s := by
  rw [h]
  rfl

theorem Counts.laneOf (h : Counts s u) : Machine.laneOf u = Machine.laneOf s := by
  rw [h]
  rfl

theorem Counts.lineValues (h : Counts s u) : Machine.lineValues u = Machine.lineValues s := by
  rw [h]
  rfl

theorem Counts.linePart (h : Counts s u) : Machine.linePart u = Machine.linePart s := by
  rw [h]
  rfl

theorem Counts.partsOf (h : Counts s u) : Machine.partsOf u = Machine.partsOf s := by
  rw [h]
  rfl

theorem Counts.rowChoice (h : Counts s u) : Machine.rowChoice u = Machine.rowChoice s := by
  rw [h]
  rfl

theorem Rd.Counted.foldlElems (hr : Rd.Counted s r) (h : Unmarked s) (o : Option TileOp) (c : Cand) (ds : List Desc)
    (is : Desc → List (List Nat)) : Rd.Counted s (ds.foldl (fun r d => r.elems o c d (is d)) r) := by
  rw [Rd.foldl_elems_calm (hr.counts.unmarked h)]
  exact hr

theorem Rd.Counted.laneReads (hr : Rd.Counted s r) (h : Unmarked s) (o : Option TileOp) (c : Cand) (pl : VecPlan) (op : Nat)
    (is : List (List Nat)) : Rd.Counted s (laneReads o c pl op is r) := hr.foldlElems h ..

/-! ## MAP, AFFINE, SUMTREE and QUANTISE -/

/-- An operation that converts numbers after a clean read issues them. -/
theorem finishOp_values (h : Quiet s) (hr : Rd.Counted s r) (hu : Counts r.st u) (c : Cand) (b : EntryBody) (d : Desc) (sr : Bool)
    (xs : List (List Nat × Fv)) (total : Nat) :
    ∃ t, finishOp { r with st := (putValues u c b d sr xs).1 } c total (putValues u c b d sr xs).2 = some t ∧
      computedOnly s t c total (putValues s c b d sr xs).2 := by
  have hsu := hr.counts.trans hu
  obtain ⟨hcounts, hwrites⟩ := putValues_sums hsu.sums c b d sr xs
  rw [← hwrites]
  generalize putValues u c b d sr xs = y at hcounts ⊢
  have hclean : Rd.Clean { r with st := y.1 } := ⟨hr.hit, hr.pois⟩
  have hfin := finishOp_clean hclean c total y.2
  have hiss := issueWrites_computedOnly h (hsu.trans hcounts) c total y.2
  exact ⟨_, hfin, hiss⟩

theorem mapOp_computes (h : Quiet s) (c : Cand) (e : Entry) (pl : VecPlan) :
    let is := (List.range (min 64 (pl.out.segments pl.out.runDim - 64 * c.tile))).flatMap fun i =>
      pl.out.segIndices pl.out.runDim (64 * c.tile + i)
    ∃ t, mapOp s c e pl = some t ∧ computedOnly s t c (ceilDiv (pl.out.segments pl.out.runDim) 64)
      (putValues s c e.body pl.out pl.sr (is.map fun i => (i, laneOf s c pl (c.node s).opcode (fieldLe (c.block s) 0 1) i
        (laneAt s c (pl.ins.getD 0 pl.out) i)))).2 := by
  unfold mapOp
  extract_lets is op f d is' o r y
  have hr : Rd.Counted s r := ((Counts.refl s).start.elems h.unmarked ..).laneReads h.unmarked ..
  rw [← hr.counts.laneOf, ← hr.counts.laneAt]
  exact finishOp_values h hr (.bump ..) ..

theorem sumTreeOp_computes (h : Quiet s) (c : Cand) (e : Entry) (pl : VecPlan) :
    let is := (List.range (min 64 (pl.out.segments pl.out.runDim - 64 * c.tile))).flatMap fun i =>
      pl.out.segIndices pl.out.runDim (64 * c.tile + i)
    ∃ t, sumTreeOp s c e pl = some t ∧ computedOnly s t c (ceilDiv (pl.out.segments pl.out.runDim) 64)
      (putValues s c e.body pl.out pl.sr (is.map fun i => (i, (partsOf s c (pl.ins.getD 0 pl.out) pl.out.rank i).1))).2 := by
  unfold sumTreeOp
  extract_lets is d k is' r vs clamps s₁ s₂ y
  have hr : Rd.Counted s r := (Counts.refl s).start.elems h.unmarked ..
  have hs₂ : Counts r.st s₂ := ((Counts.bump ..).trans (.bump ..)).trans (.ite (.pageErr ..) (.refl _))
  have hvs : (vs.map fun v => (v.1, v.2.1)) = is.map fun i => (i, (partsOf s c d k i).1) := by
    rw [← hr.counts.partsOf, List.map_map]
    rfl
  rw [← hvs]
  exact finishOp_values h hr hs₂ ..

theorem writesAlike_quantBlock (c : Cand) (b : EntryBody) (pl : VecPlan) : WritesAlike (quantBlock c b pl) := by
  intro s u ws g h
  have hscale (d : Desc) (i : List Nat) (v : Nat) : putScale u c d i v = putScale s c d i v := by
    rw [h]
    rfl
  unfold quantBlock
  simp only [hscale]
  refine WritesAlike.foldl (fun s u ws x h => ⟨?_, ?_⟩) h g _
  · dsimp only
    exact counts_countConvert ..
  · rw [h]
    rfl

theorem quantOp_computes (h : Quiet s) (c : Cand) (e : Entry) (pl : VecPlan) :
    let d := pl.ins.getD 0 pl.out
    let k := lineSpan d pl.axis c.tile
    let blocks := (List.range (k.hi - k.lo)).flatMap fun i =>
      cutEvery 32 2 ((lineSegments d pl.axis (k.lo + i) (k.lo + i + 1)).map fun i => (i, laneAt s c d i))
    ∃ t, quantOp s c e pl = some t ∧ computedOnly s t c (ceilDiv k.segs 64) (blocks.foldl (quantBlock c e.body pl) (s, [])).2 := by
  intro d k
  unfold quantOp
  extract_lets blocks per segs lo hi r blocks' y
  have hr : Rd.Counted s r := (Counts.refl s).start.elems h.unmarked ..
  have hblocks : blocks' = blocks := by
    unfold blocks'
    rw [hr.counts.laneAt]
    rfl
  have hb : Counts r.st (bump r.st (podPage c.p) 1) := .bump ..
  obtain ⟨hcounts, hwrites⟩ := (writesAlike_quantBlock c e.body pl).foldl (hr.counts.trans hb).sums blocks' []
  have hclean : Rd.Clean { r with st := y.1 } := ⟨hr.hit, hr.pois⟩
  have hfin := finishOp_clean hclean c (ceilDiv segs 64) y.2
  have hiss := issueWrites_computedOnly h ((hr.counts.trans hb).trans hcounts) c (ceilDiv segs 64) y.2
  rw [← hblocks, ← hwrites]
  exact ⟨_, hfin, hiss⟩

/-! ## AFFINE and MAP of accumulators -/

/-- What the operation just issued is given beyond its work keeps what was computed. -/
theorem computed_modOp (h : opAt s s.nextOp = none) {f : TileOp → TileOp} (hf : KeepsTile f) (ht : computed s t c total ws) :
    computed s (modOp t s.nextOp f) c total ws := by
  obtain ⟨⟨hnext, hops, ⟨o, ho, hpod, hjob, hmember, hnode, hrank, htile, hlines, hlast⟩, hrest⟩, hmem, hentries⟩ := ht
  refine ⟨⟨hnext, fun x hx => ?_, ⟨f o, ?_, ?_⟩, hrest⟩, hmem, hentries⟩
  · have hne : x.id ≠ s.nextOp := fun hid => List.find?_eq_none.1 h x hx (decide_eq_true hid)
    exact List.mem_map.2 ⟨x, hops x hx, if_neg hne⟩
  · rw [opAt_modOp hf.id, ho, Option.map_some]
  · rw [hf.pod, hf.job, hf.member, hf.node, hf.rank, hf.tile, hf.lines, hf.last]
    exact ⟨hpod, hjob, hmember, hnode, hrank, htile, hlines, hlast⟩

theorem keepsTile_consumes (l : List (Nat × Nat)) : KeepsTile fun o => { o with ins := o.ins ++ l } :=
  ⟨⟨fun _ => rfl, fun _ => rfl, fun _ => rfl, fun _ => rfl, fun _ => rfl, fun _ => rfl, fun _ => rfl⟩, fun _ => rfl, fun _ => rfl⟩

theorem accOp_computes (h : Quiet s) (hpois : s.marrow.accPoison = []) (c : Cand) (e : Entry) (pl : VecPlan) :
    let m := (edgeOf s c.j (c.node s).inFirst).producer
    let y := nodeOf s c.j m
    let q := matPos (c.route s) y 1 c.tile
    ∀ k, fullSlot s c.j c.h (c.node s).inFirst c.rank q.num = some k →
    memberPod s c.j (groupMember y c.h q.num (jobP s c.j)) = some c.p →
    let tile := accBase (c.route s) m + setBase (c.route s) y k + q.tile
    ∃ t, accOp s c e pl = some t ∧ computed s t c (matTotal (c.route s) y 1)
      (putValues s c e.body pl.out pl.sr ((tileIndices (nodeDesc (c.route s) y 2) q).map fun i => (i.1,
        laneOf s c pl (c.node s).opcode (fieldLe (c.block s) 0 1) i.1
          ((accValue (intClass (c.route s) y) (accAt s c.p tile i.2)).round fp32)))).2 := by
  intro m y q k hk hmember tile
  unfold accOp
  extract_lets rt x edge m' y' q' is r₀ id'
  rw [hk]
  dsimp -zeta only
  rw [if_neg (show ¬memberPod s c.j (groupMember y c.h q.num (job s c.j).members.length) ≠ some c.p from not_not.2 hmember)]
  extract_lets tile r v t
  have hr₀ : Rd.Counted s r₀ := (Counts.refl s).start.laneReads h.unmarked ..
  have hacc : accPois s c.p tile = false := by
    rw [accPois, hpois]
    rfl
  have hpois : r.pois = false := by simp [r, hr₀.pois, hacc]
  have hb : Counts s (bump r.st (podPage c.p) 1) := hr₀.counts.trans (.bump ..)
  rw [if_neg (by simp [r, hr₀.hit]), if_neg (by simp [hpois]), ← hr₀.counts.laneOf]
  obtain ⟨hcounts, hwrites⟩ := putValues_sums hb.sums c e.body pl.out pl.sr (is.map fun i => (i.1,
    laneOf r.st c pl x.opcode (fieldLe (c.block s) 0 1) i.1 ((accValue (intClass rt y') (accAt s c.p tile i.2)).round fp32)))
  have ht : computed s t c (matTotal rt y' 1) v.2 := issueWrites_computed h (hb.trans hcounts).slot c (matTotal rt y' 1) v.2 keepsTile_id
  rw [← hwrites]
  refine ⟨_, rfl, ?_⟩
  split
  · exact computed_modOp h.free (keepsTile_consumes _) ht
  · exact ht

/-! ## REDUCE, SOFTMAX and NORM -/

theorem lineOp_computes (h : Quiet s) (hpois : s.marrow.accPoison = []) (hrise : rising s.marrow.acc = true) (c : Cand) (e : Entry)
    (pl : VecPlan) :
    let d := pl.ins.getD 0 pl.out
    let k := lineSpan d pl.axis c.tile
    lineKeeps s c k = true → ∃ t, lineOp s c e pl = some t ∧
      computed s t c (ceilDiv k.segs 64) (putValues s c e.body pl.out pl.sr (lineValues s c pl k)).2 ∧
      (k.goesOn = true → accAt t c.p (accBase (c.route s) c.n) 0 = BitVec.ofNat 32 (f32Bits (linePart s c pl k (k.hi / k.per)))) ∧
      (k.goesOn = false → t.marrow.acc = s.marrow.acc) := by
  intro d k hkeeps
  unfold lineOp
  extract_lets op o base is r₀ r₁ r y u
  have hr₁ : Rd.Counted s r₁ := by
    have hr₀ : Rd.Counted s r₀ := (Counts.refl s).start.elems h.unmarked ..
    unfold r₁
    split
    · exact hr₀
    · exact hr₀.foldlElems h.unmarked ..
  have hacc : accPois s c.p base = false := by
    rw [accPois, hpois]
    rfl
  have hb : Counts s (bump r.st (podPage c.p) 1) := hr₁.counts.trans (.bump ..)
  obtain ⟨hcounts, hwrites⟩ := putValues_sums hb.sums c e.body pl.out pl.sr (lineValues r.st c pl k)
  have hy : Counts s y.1 := hb.trans hcounts
  have hu : Sums s u := by
    unfold u
    split
    · exact hy.sums.withAcc _ _
    · exact hy.sums
  have hclean : Rd.Clean { r with st := u } := ⟨hr₁.hit, by simp [r, hr₁.pois, hacc]⟩
  have hfin := finishOp_clean hclean c (ceilDiv k.segs 64) y.2
  obtain ⟨hcomputed, hkept⟩ := issueWrites_sums h hu (.refl u) c (ceilDiv k.segs 64) y.2 keepsTile_id
  rw [if_neg (by simp [hkeeps]), ← hr₁.counts.lineValues, ← hr₁.counts.linePart, ← hwrites]
  refine ⟨_, hfin, hcomputed, fun hon => ?_, fun hoff => ?_⟩
  · have hset : u = setAcc (setAccPois y.1 c.p base false) c.p base 0
        (BitVec.ofNat 32 (f32Bits (linePart r.st c pl k (k.hi / k.per)))) := if_pos hon
    have hrise' : rising (setAccPois y.1 c.p base false).marrow.acc = true := by
      have hsame : y.1.marrow.acc = s.marrow.acc := congrArg Marrow.acc hy.slot.marrow
      exact (congrArg rising hsame).trans hrise
    rw [accAt, hkept, hset]
    exact accAt_setAcc hrise' ..
  · rw [hkept]
    unfold u
    rw [if_neg (by simp [hoff])]
    exact congrArg Marrow.acc hy.slot.marrow

/-! ## The operation of each opcode -/

section

variable (he : c.entry s = some e)
include he

theorem vectorOp_map (hn : (c.node s).opcode = 1 ∨ (c.node s).opcode = 2) (ha : accIn (c.route s) (c.node s) = false) :
    vectorOp s c = mapOp s c e (vecPlan (c.route s) (c.node s)) := by
  unfold vectorOp
  rcases hn with hn | hn <;> simp [he, hn, ha]

theorem vectorOp_acc (hn : (c.node s).opcode = 1 ∨ (c.node s).opcode = 2) (ha : accIn (c.route s) (c.node s) = true) :
    vectorOp s c = accOp s c e (vecPlan (c.route s) (c.node s)) := by
  unfold vectorOp
  rcases hn with hn | hn <;> simp [he, hn, ha]

theorem vectorOp_line (hn : (c.node s).opcode = 3 ∨ (c.node s).opcode = 4 ∨ (c.node s).opcode = 5) :
    vectorOp s c = lineOp s c e (vecPlan (c.route s) (c.node s)) := by
  unfold vectorOp
  rcases hn with hn | hn | hn <;> simp [he, hn]

theorem vectorOp_quant (hn : (c.node s).opcode = 6) : vectorOp s c = quantOp s c e (vecPlan (c.route s) (c.node s)) := by
  unfold vectorOp
  simp [he, hn]

theorem vectorOp_sumTree (hn : (c.node s).opcode = 7) : vectorOp s c = sumTreeOp s c e (vecPlan (c.route s) (c.node s)) := by
  unfold vectorOp
  simp [he, hn]

end

/-! ## SAMPLE -/

theorem sampleOp_computes (h : Quiet s) (he : c.entry s = some e) : ∃ t, sampleOp s c = some t ∧
    computedOnly s t c (sampleRows (nodeDesc (c.route s) (c.node s) 0)) (sampleWrites s c e (rowChoice s c e)) := by
  unfold sampleOp
  rw [he]
  dsimp -zeta only
  extract_lets d rows r ch s₁ s₂ record
  have hr : Rd.Counted s r := (Counts.refl s).start.elems h.unmarked ..
  have hs₁ : Counts r.st s₁ := (Counts.bump ..).trans (.bump ..)
  have hs₂ : Counts s s₂ := (hr.counts.trans hs₁).trans (.ite (.pageErr ..) (.refl _))
  have hst : (if r.pois then poisonLines s₂ record else s₂) = s₂ := if_neg (by simp [hr.pois])
  clear_value s₂
  have hclean : Rd.Clean { r with st := s₂ } := ⟨hr.hit, hr.pois⟩
  have hfin := finishOp_clean hclean c rows (sampleWrites s c e ch)
  have hiss := issueWrites_computedOnly h hs₂ c rows (sampleWrites s c e ch)
  rw [← hr.counts.rowChoice, hst]
  exact ⟨_, hfin, hiss⟩

end Sys2Proof.Machine
end

section
/-! What writes of unpoisoned data do where lines may be poisoned (spec/11 R264, R265), and what every tile operation writes. -/

namespace Sys2Proof.Machine

variable {s t u : State} {c : Cand} {total : Nat} {ws : List WByte} {p : Fin 100}

/-- The state with other bytes and poisoned lines in its Marrow. -/
def withLines (s : State) (bs : List (Nat × Byte)) (ps : List Nat) : State :=
  { s with marrow := { s.marrow with bytes := bs, poison := ps } }

theorem storeLine_sound (h : s.marrow.ecc = []) (l : Nat) (v : Nat → Byte) (b : Bool) :
    storeLine s l v b = withLines s (setBytes s.marrow (l * 64) v 64).bytes (nset s.marrow.poison l b) := by
  have hf := setBytes_frame s.marrow (l * 64) v 64
  simp only [storeLine, modMarrow]
  generalize setBytes s.marrow (l * 64) v 64 = m at hf ⊢
  rw [hf]
  simp [withLines, h]

/-- A write of unpoisoned bytes stores them (R264). -/
theorem writeLine_sound (h : s.marrow.ecc = []) (p n : Nat) (ws : List WByte) (o : Option TileOp) : ∃ ps,
    writeLine s p n ws false o = withLines s (setBytes s.marrow (lkey p n * 64) (lineAfter s.marrow ws (lkey p n)) 64).bytes ps := by
  simp only [writeLine_eq, checkLine_unmarked h, ite_self]
  exact ⟨_, storeLine_sound h _ _ _⟩

/-- A state as `s` but for Marrow bytes and poison, each byte of a line of `P` with the writes `ws` merged in. -/
structure Merged (s t : State) (ws : List WByte) (P : Nat → Prop) : Prop where
  state : t = withLines s t.marrow.bytes t.marrow.poison
  canon : canon t.marrow.bytes 0 = true
  inside : ∀ k, P (k / 64) → t.marrow.byte k = mergedByte ws k (s.marrow.byte k)
  outside : ∀ k, ¬P (k / 64) → t.marrow.byte k = s.marrow.byte k

theorem writeLineOf_merged (h : s.marrow.ecc = []) (hc : canon s.marrow.bytes 0 = true) (ws : List WByte) (o : Option TileOp) (l : Nat) :
    Merged s (writeLineOf ws o s l) ws (· = l) := by
  have hl : lkey (l / 98304) (l % 98304) = l := by unfold lkey; omega
  obtain ⟨ps, hw⟩ := writeLine_sound h (l / 98304) (l % 98304) (ws.filter fun w => w.key / 64 = l) o
  have hb (k : Nat) : (writeLineOf ws o s l).marrow.byte k =
      if l * 64 ≤ k ∧ k < l * 64 + 64 then mergedByte ws k (s.marrow.byte k) else s.marrow.byte k := by
    rw [writeLineOf, hw, hl]
    refine (byte_setBytes hc _ _ _ _).trans ?_
    split
    · next hk =>
      rw [lineAfter_eq h _ _ _ (by omega), Nat.add_sub_cancel' hk.1, mergedByte_filter, if_pos (by omega)]
    · rfl
  refine ⟨?_, ?_, fun k hk => ?_, fun k hk => ?_⟩
  · rw [writeLineOf, hw]
    rfl
  · rw [writeLineOf, hw]
    exact setBytes_canon hc _ _ _
  · rw [hb, if_pos (by omega)]
  · rw [hb, if_neg (by omega)]

theorem Merged.line {P : Nat → Prop} (w : Merged s t ws P) (h : s.marrow.ecc = []) (o : Option TileOp) {l : Nat} (hl : ¬P l) :
    Merged s (writeLineOf ws o t l) ws (fun x => P x ∨ x = l) := by
  have he : t.marrow.ecc = [] := by
    rw [w.state]
    exact h
  have w' := writeLineOf_merged he w.canon ws o l
  refine ⟨?_, w'.canon, fun k hk => ?_, fun k hk => ?_⟩
  · rw [w'.state, w.state]
    rfl
  · by_cases hkl : k / 64 = l
    · rw [w'.inside k hkl, w.outside k (hkl ▸ hl)]
    · rw [w'.outside k hkl, w.inside k (hk.resolve_right hkl)]
  · rw [w'.outside k (fun e => hk (.inr e)), w.outside k (fun e => hk (.inl e))]

theorem foldl_merged (h : s.marrow.ecc = []) (ws : List WByte) (o : Option TileOp) (ls : List Nat) (hls : nrising ls = true)
    {P : Nat → Prop} (hP : ∀ l ∈ ls, ¬P l) (w : Merged s t ws P) :
    Merged s (ls.foldl (writeLineOf ws o) t) ws (fun x => P x ∨ x ∈ ls) := by
  induction ls generalizing t P with
  | nil => simpa using w
  | cons l ls ih =>
    obtain ⟨hlt, hls⟩ := nrising_cons.1 hls
    have := ih hls (P := fun x => P x ∨ x = l)
      (fun x hx hxl => hxl.elim (hP x (List.mem_cons_of_mem l hx)) fun e => absurd (hlt x hx) (by omega))
      (w.line h o (hP l List.mem_cons_self))
    simpa only [List.mem_cons, or_assoc, List.foldl_cons] using this

theorem writeAll_merged (h : s.marrow.ecc = []) (hc : canon s.marrow.bytes 0 = true) (ws : List WByte) (o : Option TileOp) :
    Merged s (writeAll s ws [] o) ws (· ∈ wLines ws) := by
  have w₀ : Merged s s ws (fun _ => False) := ⟨rfl, hc, fun _ => False.elim, fun _ _ => rfl⟩
  have w := foldl_merged h ws o (wLines ws) (nrising_wLines ws) (fun _ _ => id) w₀
  simp only [false_or] at w
  exact w

/-- An operation that writes unpoisoned data, on a Marrow in which lines may be poisoned or provisional (R265). -/
theorem issueWrites_provisional (hwf : s.marrow.wf = true) (h : s.marrow.ecc = []) (hroll : s.itg.rollPhase ≠ 3) (c : Cand) (total : Nat)
    (ws : List WByte) :
    let t := issueWrites s c total ws []
    (∀ k ∈ wLines ws, k ∈ t.marrow.prov) ∧ (∀ k ∈ s.marrow.prov, k ∈ t.marrow.prov) ∧
    (∀ w ∈ ws, w.mask = 0xFF → (∀ v ∈ ws, v.key = w.key → v = w) → t.marrow.byte w.key = w.val) ∧
    (∀ k, k / 64 ∉ wLines ws → t.marrow.byte k = s.marrow.byte k) ∧ t.marrow.acc = s.marrow.acc ∧
    t.nextOp = s.nextOp + 1 ∧ ∃ o, t.ops = s.ops ++ [o] ∧ o.id = s.nextOp ∧ o.pod = c.p ∧ o.rank = c.rank ∧
      o.lines = wLines ws := by
  obtain ⟨hc, -⟩ := (Marrow.wf_iff _).1 hwf
  have w := writeAll_merged h hc ws (some (candOp s c false))
  rw [issueWrites_eq]
  generalize writeAll s ws [] (some (candOp s c false)) = u at w
  have hu : u.ops = s.ops ∧ u.nextOp = s.nextOp ∧ u.marrow.prov = s.marrow.prov ∧ u.marrow.acc = s.marrow.acc ∧ u.itg = s.itg := by
    rw [w.state]
    exact ⟨rfl, rfl, rfl, rfl, rfl⟩
  obtain ⟨hops, hnext, hprov, hacc, hitg⟩ := hu
  have hi := issue_issues (hitg ▸ hroll) c total (writingOp ws id)
  generalize issue u c total (writingOp ws id) = v at hi
  have hf := slotStep_forgetSent (setProv v (wLines ws) true) (wLines ws)
  generalize forgetSent (setProv v (wLines ws) true) (wLines ws) = t at hf
  have hm : t.marrow = { u.marrow with prov := (wLines ws).foldl (fun a l => nset a l true) s.marrow.prov } := by
    rw [hf.marrow, ← hprov, ← hi.marrow]
    rfl
  have hid : t.ops = s.ops ++ [writingOp ws id (candOp u c (decide (c.tile + 1 ≥ total)))] := by
    rw [← hops]
    exact hf.ops.trans hi.ops
  refine ⟨fun k hk => ?_, fun k hk => ?_, fun x hx hmask hu => ?_, fun k hk => ?_, ?_, ?_, _, hid, hnext, rfl, rfl, rfl⟩
  · rw [hm]
    exact (mem_foldl_nset ..).2 (.inr hk)
  · rw [hm]
    exact (mem_foldl_nset ..).2 (.inl hk)
  · rw [hm]
    exact (w.inside x.key (mem_wLines.2 ⟨x, hx, rfl⟩)).trans (mergedByte_of_mem hx hmask hu _)
  · rw [hm]
    exact w.outside k hk
  · rw [hm]
    exact hacc
  · rw [hf.nextOp, ← hnext]
    exact hi.nextOp

/-- The first candidate of a station that writes becomes its operation. -/
theorem becomes_station {cmd : Instr} {l b : List Cand} {f : State → Cand → Option State} {P : State → Prop}
    (hcmd : (cmd, l, f) ∈ ([(.layoutTileOp p, candidates s p 4, layoutOp), (.matrixTileOp p, candidates s p 5, matrixOp),
      (.vectorTileOp p, candidates s p 6, vectorOp), (.sampleTileOp p, candidates s p 7, sampleOp)] :
      List (Instr × List Cand × (State → Cand → Option State))) ∨
      (refetch s p = none ∧ cmd = .transferTileOp p ∧ l = candidates s p 9 ∧ f = transferOp))
    (hl : l = c :: b) (hf : f s c = some t) (hP : P t) : Becomes cmd s P := by
  have hfirst : firstIssues s cmd l f := stations_firstIssue s p cmd l f (hcmd.imp (fun hm => by
    simp only [List.mem_cons, List.not_mem_nil, or_false] at hm ⊢
    tauto) id)
  exact ⟨t, hfirst.2 [] c b t hl (fun _ hx => absurd hx List.not_mem_nil) hf, hP⟩

end Sys2Proof.Machine
end

section
/-! Settles O36 (spec/11 R265). -/

namespace Sys2Proof.Machine

/-- Settles O36: every station's operation reads without counting an error, and leaves its bytes by one rule, `issueWrites`. -/
theorem resultsProvisional : Obligations.ResultsProvisional := by
  unfold Obligations.ResultsProvisional
  refine ⟨fun s p cmd l f c b r total ws hcmd hl hf hwf hecc hroll =>
    becomes_station hcmd hl hf (issueWrites_provisional hwf hecc hroll c total ws), fun s p hi hcalm => ?_⟩
  have h : Quiet s := quiet_of_calm hi hcalm
  obtain ⟨-, -, -, haccPoison, -, -⟩ := hcalm
  obtain ⟨-, -, -, -, hacc, -⟩ := (Marrow.wf_iff _).1 hi.marrow
  have hrise : rising s.marrow.acc = true := ((canon_iff _ _).1 hacc).1
  refine ⟨fun c b hc he hon => ?_, fun c b hc e he => ?_, fun c b hc e he => ?_, fun c b hc e he => ?_, fun hre c b hc he hop => ?_⟩
  · intro q d axis writes
    refine ⟨fun hop hd => ?_, fun hop x hd => ?_, fun hop => ?_, fun hop => ?_⟩
    · obtain ⟨t, ht, hP⟩ := copyOp_computes h hd
      exact becomes_of_first hc rfl ((layoutOp_copy he hon hop).trans ht) hP
    · obtain ⟨t, ht, hP⟩ := transposeOp_computes h (d 0) (d 1) x.1 x.2
      exact becomes_of_first hc rfl ((layoutOp_copy he hon hop).trans ((copyOp_transposes hd).trans ht)) hP
    · obtain ⟨t, ht, hP⟩ := gatherOp_computes h (c := c)
      exact becomes_of_first hc rfl ((layoutOp_gather he hon hop).trans ht) hP
    · obtain ⟨t, ht, hP⟩ := scatterOp_computes h (c := c)
      exact becomes_of_first hc rfl ((layoutOp_scatter he hon hop).trans ht) hP
  · intro r x n q slot base hmember hopen
    obtain ⟨t, ht, hP⟩ := matrixOp_computes h haccPoison he hmember hopen
    exact becomes_of_first hc rfl ht hP
  · intro pl op f d segs all puts
    refine ⟨fun hop ha => ?_, fun hop ha k hk hmember => ?_, fun hop hkeeps => ?_, fun hop => ?_, fun hop => ?_⟩
    · obtain ⟨t, ht, hP⟩ := mapOp_computes h c e pl
      exact becomes_of_first hc rfl ((vectorOp_map he hop ha).trans ht) hP
    · obtain ⟨t, ht, hP⟩ := accOp_computes h haccPoison c e pl k hk hmember
      exact becomes_of_first hc rfl ((vectorOp_acc he hop ha).trans ht) hP
    · obtain ⟨t, ht, hP⟩ := lineOp_computes h haccPoison hrise c e pl hkeeps
      exact becomes_of_first hc rfl ((vectorOp_line he hop).trans ht) hP
    · obtain ⟨t, ht, hP, -⟩ := quantOp_computes h c e pl
      exact becomes_of_first hc rfl ((vectorOp_quant he hop).trans ht) hP
    · obtain ⟨t, ht, hP, -⟩ := sumTreeOp_computes h c e pl
      exact becomes_of_first hc rfl ((vectorOp_sumTree he hop).trans ht) hP
  · obtain ⟨t, ht, hP, -⟩ := sampleOp_computes h he
    exact becomes_of_first hc rfl ht hP
  · obtain ⟨t, ht, hP, -⟩ := transferOp_move h he hop
    exact becomes_of_first hc (doTransfer_eq hre) ht hP

end Sys2Proof.Machine
end
